-- ==== Sys2Proof/Word.lean ====
section
/-!
DEFINITION. The word types of the module and their plainest arithmetic. All multi-byte fields are little-endian (R4).
-/
namespace Sys2Proof

/-- One byte of memory. -/
abbrev Byte := BitVec 8
/-- A register of the module: every register occupies 8 bytes (R496). -/
abbrev Word := BitVec 64
/-- A byte string: a payload, an entry, a record, a descriptor. -/
abbrev Bytes := List Byte

/-- The byte with value `n` mod 256. -/
def byte (n : Nat) : Byte := BitVec.ofNat 8 n
/-- The 64-bit word with value `n` mod 2^64. -/
def word (n : Nat) : Word := BitVec.ofNat 64 n

end Sys2Proof
end

