-- ==== Sys2Proof/Machine/Store.lean ====
section
/-!
DEFINITION. Sparse stores in one canonical form: a list of (key, value) pairs, keys strictly rising, no entry equal
to what an unlisted key holds. Registers, memories and the per-unit states are kept this way, so that equal stores
are equal data.
-/
namespace Sys2Proof.Machine

/-- A sparse store: keys strictly rising. -/
abbrev SMap (α : Type) := List (Nat × α)

/-- The entry listed under `k`. -/
def smapFind {α : Type} : SMap α → Nat → Option α
  | [], _ => none
  | (j, v) :: m, k => if j = k then some v else smapFind m k

/-- `m` without an entry under `k`. -/
def smapDel {α : Type} : SMap α → Nat → SMap α
  | [], _ => []
  | (j, v) :: m, k => if j = k then smapDel m k else (j, v) :: smapDel m k

/-- `m` with the entry `v` under `k`, in key order. -/
def smapIns {α : Type} : SMap α → Nat → α → SMap α
  | [], k, v => [(k, v)]
  | (j, w) :: m, k, v =>
    if k < j then (k, v) :: (j, w) :: m
    else if k = j then (k, v) :: m
    else (j, w) :: smapIns m k v

/-- `m` with `v` under `k`, where an unlisted key holds `dflt k` (`none`: no known value): writing that value removes
the entry. -/
def smapPut {α : Type} [DecidableEq α] (dflt : Nat → Option α) (m : SMap α) (k : Nat) (v : α) : SMap α :=
  if dflt k = some v then smapDel m k else smapIns m k v

/-- The canonical form, for keys above `lo`. -/
def smapWfAbove {α : Type} [DecidableEq α] (dflt : Nat → Option α) : Nat → SMap α → Bool
  | _, [] => true
  | lo, (k, v) :: m => decide (lo ≤ k) && decide (dflt k ≠ some v) && smapWfAbove dflt (k + 1) m

/-- The canonical form of a store. -/
def smapWf {α : Type} [DecidableEq α] (dflt : Nat → Option α) (m : SMap α) : Bool := smapWfAbove dflt 0 m

/-- `m` without the entries whose key lies from `lo` to `lo + n - 1`. -/
def smapDrop {α : Type} (m : SMap α) (lo n : Nat) : SMap α := m.filter (fun e => ¬ (lo ≤ e.1 ∧ e.1 < lo + n))

end Sys2Proof.Machine
end

