-- ==== Sys2Proof/Machine/Record.lean ====
section
/-!
DEFINITION. What a domain's protected state is made of (R392), and travels in frames between modules: layer counters, samples of the
intake's reserve, stash handles, tails, and the records and bases built of them.
-/
namespace Sys2Proof.Machine

/-- One layer counter (R219): three FP64 sums, and the flags TOUCHED, NONFINITE and LOST as bits 0 to 2. -/
structure Layer where
  foot : Nat := 0
  weight : Nat := 0
  update : Nat := 0
  flags : Nat := 0
deriving DecidableEq, Repr

/-- A bank of layer counters with its loss accumulator (R219) and whether the loss was touched. -/
structure Bank where
  layers : SMap Layer := []
  loss : Nat := 0
  touched : Bool := false
deriving DecidableEq, Repr

/-- Where a sample stands; an orphan is at a worker, its domain having been restored meanwhile (R336). -/
inductive SampleState where
  | waiting | engine | worker | orphan | ready | dropped
deriving DecidableEq, Repr

/-- A sample (Table INT-3): its record, batch, place in the batch or the reserve, where it stands, its slot, the token of its worker
item, the tick in which it became ready, why it was dropped, whether it was deferred, and the step whose table lists it. -/
structure Sample where
  record : Bytes := []
  dom : Nat := 0
  step : Nat := 0
  outType : Nat := 0
  mask : Nat := 0
  reserve : Bool := false
  pos : Nat := 0
  state : SampleState := .waiting
  slot : Nat := 0
  token : Nat := 0
  readyTick : Nat := 0
  reason : Nat := 0
  deferred : Bool := false
  listed : Option Nat := none
deriving DecidableEq, Repr

/-- Where a move takes the parts of a handle (R297): address, stored length in 16-byte units, and whether coded, of part P and
part D. -/
structure HandleMove where
  pAddr : Nat := 0
  pStored : Nat := 0
  pCoded : Bool := false
  dAddr : Nat := 0
  dStored : Nat := 0
  dCoded : Bool := false
deriving DecidableEq, Repr

/-- A handle entry (Table STH-2), with what its stash unit keeps beside it: the parts fetched so far as bits, the domain slot at
whose start its move to HBM was issued, the slot in which PREFETCH_LATE last named it, HIGH of the REGISTER that made it (R323), and the move
in progress. -/
structure Handle where
  state : Nat := 0
  dom : Nat := 0
  committed : Bool := false
  releasing : Bool := false
  cls : Nat := 0
  fmt : Nat := 0
  dualFmt : Nat := 0
  dual : Bool := false
  pCoded : Bool := false
  dCoded : Bool := false
  demoted : Bool := false
  die : Nat := 0
  regSlot : Nat := 0
  consumer : Nat := 0
  pAddr : Nat := 0
  pRaw : Nat := 0
  pStored : Nat := 0
  dAddr : Nat := 0
  dRaw : Nat := 0
  dStored : Nat := 0
  fetched : Nat := 0
  movedAt : Nat := 0
  lateAt : Option Nat := none
  high : Bool := false
  move : Option HandleMove := none
deriving DecidableEq, Repr

/-- What a contribution to a collective is held against (R358, R365): the group's size, COUNT, RED_OP and the CRC of the list. -/
structure Kin where
  n     : Nat
  count : Nat
  op    : Nat
  crc   : Nat
deriving DecidableEq, Repr

/-- A tail held by the owner of a block (R365): the contribution of a member that came after its decision, the tick in which it came,
the link die that holds it, whether it lies in the holding area, and whether it has been discarded, of which nothing but the mark is left. -/
structure Tail where
  dom : Nat := 0
  coll : Nat := 0
  step : Nat := 0
  member : Nat := 0
  die : Nat := 0
  kin : Kin
  tick : Nat := 0
  nonfinite : Bool := false
  parts : SMap Bytes := []
  inHbm : Bool := false
  gone : Bool := false
deriving DecidableEq, Repr

/-- The domain record (R392): the step, the last spool sequence, the LAST bank, the registers CTL_DOM_NONFINITE, CTL_SPIKE_MEAN,
CTL_SPIKE_VAR and CTL_SPIKE_STATUS, the intake's reserve queue, and the tails held as owner. -/
structure DomRecord where
  step : Nat := 0
  spoolSeq : Nat := 0
  last : Bank := {}
  flags : Word := 0#64
  mean : Word := 0#64
  var : Word := 0#64
  spikes : Word := 0#64
  reserve : List Sample := []
  tails : List Tail := []
deriving DecidableEq, Repr

/-- The front part (R392): live stash handles, sequences and their page-table entries, and every byte of their data as (physical address,
bytes). -/
structure Front where
  handles : SMap Handle := []
  seqs : List Nat := []
  ptes : List Nat := []
  pieces : List (Nat × Bytes) := []
deriving DecidableEq, Repr

/-- What a restore loads (R407): the state after a step, its banks by physical address. -/
structure Basis where
  banks : List (Nat × Bytes) := []
  record : DomRecord := {}
  front : Front := {}
deriving DecidableEq, Repr

end Sys2Proof.Machine
end

