-- ==== Sys2Proof/Syntax.lean ====
section
/-!
DEFINITION. The commands of the module: one constructor per row of spec/opcode_table.json, in the table's order, with the
row's operands. A command is what reaches the module from outside (a pin, a port, a host access, a frame, a sensor) or
what one of its own timers, engines or units does next; physical outcomes (a training result, a sensor reading, the time a
stage took) are operands. Units are named by index: tile `t`, domain `d`, compute die `k`, link die `n`, queue `q`,
operation-queue index `i`.
-/
namespace Sys2Proof

open Sys2Proof.Machine

/-- What the coordinator of a collective decides (R361, R364, R366): the status, the present members, the tails added and dropped, NONFINITE, and
the aligned time of the deciding boundary. -/
structure Verdict where
  status    : Nat
  present   : List Nat
  added     : List Nat
  dropped   : List Nat
  nonfinite : Bool
  time      : Nat
deriving DecidableEq, Repr

/-- What a Zwine frame carries (Table LIN-3), in the fields that the chapters name; the spec gives no byte layout of most of them. A
payload stands as the bytes it decodes to. A payload above PAYLOAD_MAX travels in several frames: the last of them is the body itself, those
before it are fragments (R350). -/
inductive Body where
  | hello (moduleId : Word) (major lo hi : Nat) (master : Nat)
  | sack (flow cum : Nat) (bitmap : Word) (marks rtt : Nat)
  | collData (dom coll step member block chunk : Nat) (result nonfinite coded : Bool) (kin : Kin) (bytes : Bytes)
  | notice (dom coll step member crc : Nat) (nonfinite : Bool)
  | verdict (dom coll step : Nat) (v : Verdict)
  | message (bytes : Bytes)
  | messageEnd (status : Nat) (bytes : Bytes)
  | mirrorBlock (dom step region block : Nat) (whole : Bool) (bytes : Bytes)
  | mirrorCommit (dom step image : Nat) (record : DomRecord)
  | mirrorPlan (plan : List (Nat × List (Nat × Nat)))
  | snapOpen (dom step slot size : Nat)
  | snapBank (dom step addr : Nat) (bytes : Bytes)
  | snapFront (dom step : Nat) (record : DomRecord) (front : Front)
  | snapCopy (dom step region addr : Nat)
  | snapClose (dom step image : Nat)
  | snapDrop (dom step : Nat)
  | snapWhole (dom step : Nat) (descriptor : Bytes)
  | snapShort (dom step needed room : Nat)
  | basisAsk (dom step addr image : Nat)
  | snapReq (step : Nat)
  | spool (record : Bytes)
  | time (answer : Bool) (sent received returned : Word)
  | fragment (type index count dom flags : Nat) (tag bytes : Bytes)
  | fstepRequest (step : Nat) (time : Word)
  | fstepApply (step : Nat) (time : Word)
deriving DecidableEq, Repr

/-- A frame as a line port receives it (Tables LIN-2 and LIN-3): the port, the source address, the header fields that govern it,
whether its CRC matched, whether it carried a congestion mark, and what it carries. -/
structure Frame where
  port     : Fin 12
  srcIp    : Nat
  kind     : Nat
  srcRank  : Nat
  dstRank  : Nat
  flow     : Nat
  seq      : Nat
  crcOk    : Bool
  marked   : Bool
  body     : Body
deriving DecidableEq, Repr

/-- How an access reads or writes (HOST_CORE_ACCESS, PCIE_INBOUND_REQUEST). -/
inductive Dir where
  | load | store
deriving DecidableEq, Repr

/-- The tests that one ARRAY self-test reports for a die (R41, R203): a bad-column mask of one array of one tile. -/
structure BadColumns where
  tile  : Fin 384
  array : Fin 3
  mask  : Word
deriving DecidableEq, Repr

/-- What a memory reports of one 64-byte access or one 64-bit word: clean, one or two bits corrected, or uncorrectable. -/
inductive Ecc where
  | clean | corrected | uncorrectable
deriving DecidableEq, Repr

/-- A word that an access finds in error (R320, R321, R356, R420): its physical address (its place in the store where it has none), what
DEC-TED makes of it, and its check syndrome. -/
structure Found where
  addr     : BitVec 48
  ecc      : Ecc
  syndrome : BitVec 15
deriving DecidableEq, Repr

/-- A read that finds no error. -/
def Found.clean : Found := ⟨0#48, .clean, 0#15⟩

/-- An arbiter (Table MEM-3): its class, its die (compute die k as k, link die n as 4 + n), and its place within the die. -/
structure ArbId where
  cls   : Fin 4
  die   : Fin 8
  index : Fin 65536
deriving DecidableEq, Repr

/-- What made a request at an arbiter (R323): an operation of a tile that is in its queue, by its index; the operation that posted a
collective, by its domain, number and step, or that registered a handle, for what goes on after it has completed; a command, by its handle; a
Zwine control frame; or nothing that has a class of its own, such as a tile core, a host push or a scrub. -/
inductive AskSource where
  | operation (t : Fin 384) (i : Fin 64)
  | collective (d : Fin 64) (id step : Nat)
  | capture (h : Nat)
  | command (h : Word)
  | control
  | other
deriving DecidableEq, Repr

/-- A request at an arbiter: the requester, by its unit id (R416), and what made it. -/
structure Ask where
  unit   : Nat
  source : AskSource
deriving DecidableEq, Repr

/-- A frame that arrives across the isolation die (R448): its type code, whether its check passed, and its content. -/
structure FieldFrame where
  kind  : BitVec 8
  ok    : Bool
  value : BitVec 32
deriving DecidableEq, Repr

inductive Instr where
  -- registers, pins, start and modes (chapters 00, 02, 23)
  | registerWrite (addr : BitVec 48) (size : Nat) (value : Word)
  | pwrgoodRise (bootSrc : BitVec 2) (mgmtAddr : BitVec 3) (pufOk : Bool)
  | pwrgoodFall
  | rstNAssert (ns : Nat)
  | rstNDeassert (bootSrc : BitVec 2) (mgmtAddr : BitVec 3) (pufOk : Bool)
  | tetheredEntry
  | hostWatchdogExpiry (pufOk : Bool)
  | ascend (full : Bool)
  | deviceReset (holdHbm : Bool) (full : Bool)
  | hostReset (full : Bool)
  | startClear (full : Bool)
  | powerDown (full : Bool)
  | retryDelayExpiry
  | ascentPowerStage (reason : BitVec 12) (ms : Nat)
  | ascentHbmStack (warmOk : Bool) (reason : BitVec 12) (retries : BitVec 8) (ms : Nat)
  | ascentArrayStage (unusable : List (Fin 384)) (bad : List BadColumns) (reason : BitVec 12) (ms : Nat)
  | ascentMeshStage (reason : BitVec 12) (ms : Nat)
  | ascentUcieStage (failed : List (Fin 4 × BitVec 12)) (ms : Nat)
  | ascentLineStage (sramOk : Bool) (ports : BitVec 12) (failedLanes : List (Fin 12 × BitVec 8)) (ms : Nat)
  | ascentEntryStage (ms : Nat)
  | stageTimeout (retries : BitVec 8)
  | railPgRise (r : Fin 15)
  | railPgTimeout (r : Fin 15)
  | railPgFall (r : Fin 15)
  | hostPortRetrain (k : Fin 4) (replays : Nat) (retrain : Bool)
  | hostLinkLoss (k : Fin 4)
  | hostAccessTimeout (addr : BitVec 48)
  -- tick and time (chapter 04)
  | tickBoundary (control : Option (Fin 64)) (sram : List (Fin 4 × Found)) (found : List Found)
  | timeMeasurementEnd
  | timeMeasureRetry
  | timeRoundTripPeriod
  -- the structure image (chapter 03); `h` is the handle of an accepted command
  | structStage (h : Word)
  | stageCopyEnd
  | structValidate (h : Word)
  | validationEnd
  | structCommit (h : Word)
  | commitQuiescence
  | commitWaitExpiry
  | commitPreparationEnd (ok : Bool)
  | structDiscard (h : Word)
  | structUpdate (h : Word)
  -- windows and host accesses (chapter 05)
  | pushWindowWrite (n : Fin 64) (off : BitVec 24) (data : Bytes)
  | pushCfgWrite (n : Fin 64) (value : Word)
  | pushSeal (n : Fin 64)
  | pushSealApplied (n : Fin 64)
  | hostCoreAccess (dir : Dir) (addr : BitVec 48) (size : Nat) (value : Word) (found : List Found)
  | pcieInboundRequest (dir : Dir) (target : Option (BitVec 48)) (size : Nat) (data : Bytes) (found : List Found)
  -- queues (chapter 06)
  | doorbell (q : Fin 256) (tail : BitVec 32)
  | ringEntryFetch (q : Fin 256)
  | staleSlotReread (q : Fin 256)
  | windowSubmit (q : Fin 256) (off : BitVec 6) (data : Bytes)
  | queueEnable (q : Fin 256)
  | queueDrain (q : Fin 256)
  | queueResume (q : Fin 256)
  | cqHeadWrite (q : Fin 256) (value : Word)
  | protoNegotiate (value : Word)
  | coalesceTimerExpiry (q : Fin 256)
  -- host commands (chapters 06, 18, 21, 22)
  | launch (h : Word) (found : List Found)
  | stop (h : Word)
  | signal (h : Word)
  | signalRetry (h : Word)
  | moveCopy (h : Word)
  | moveFill (h : Word)
  | moveTransferDone (h : Word) (found : List Found)
  | stepBegin (h : Word)
  | stepUpdate (h : Word)
  | stepResume (h : Word)
  | stepSnapshot (h : Word)
  | stepRestore (h : Word) (whole : Bool)
  | restoreBasisLoaded (d : Fin 64) (outcome : BitVec 16) (basis : Basis)
  | identityGet (h : Word)
  | attestGet (h : Word) (found : List Found)
  | watchRead (h : Word)
  | watchClear (h : Word)
  | queryInfo (h : Word)
  | timeMeasure (h : Word)
  | handleState (h : Word)
  -- the tile core (chapter 07)
  | coreInstruction (t : Fin 384) (ecc : Found)
  | ebreak (t : Fin 384)
  | opIssue (t : Fin 384) (rd rs1 rs2 : Fin 32)
  | opTry (t : Fin 384) (rd rs1 rs2 : Fin 32)
  | opWait (t : Fin 384) (rs1 : Fin 32)
  | opTest (t : Fin 384) (rd rs1 : Fin 32)
  | opStatus (t : Fin 384) (rd rs1 : Fin 32)
  | msgRecv (t : Fin 384) (rd rs1 rs2 : Fin 32)
  | msgPoll (t : Fin 384) (rd rs1 rs2 : Fin 32)
  | barArrive (t : Fin 384) (rs1 : Fin 32)
  | barWait (t : Fin 384) (rs1 : Fin 32)
  | slotEnd (t : Fin 384) (rs1 : Fin 32)
  | progEnd (t : Fin 384)
  | sumRead (t : Fin 384) (rd rs1 : Fin 32)
  | operationStart (t : Fin 384) (engine : BitVec 4) (ecc : Found)
  | operationComplete (t : Fin 384) (i : Fin 64)
  -- the operations of the tile engines (chapters 07 to 13, 17)
  | dmaCopy (t : Fin 384) (i : Fin 64) (found : List Found)
  | send (t : Fin 384) (i : Fin 64)
  | collPost (t : Fin 384) (i : Fin 64) (found : List Found)
  | mmaS (t : Fin 384) (i : Fin 64)
  | mmaT (t : Fin 384) (i : Fin 64)
  | mmaW (t : Fin 384) (i : Fin 64)
  | mmaD (t : Fin 384) (i : Fin 64)
  | turn (t : Fin 384) (i : Fin 64)
  | vecCopy (t : Fin 384) (i : Fin 64)
  | vecAdd (t : Fin 384) (i : Fin 64)
  | vecSub (t : Fin 384) (i : Fin 64)
  | vecMul (t : Fin 384) (i : Fin 64)
  | vecFma (t : Fin 384) (i : Fin 64)
  | vecMul3 (t : Fin 384) (i : Fin 64)
  | vecDiv (t : Fin 384) (i : Fin 64)
  | vecMax (t : Fin 384) (i : Fin 64)
  | vecMin (t : Fin 384) (i : Fin 64)
  | vecAbs (t : Fin 384) (i : Fin 64)
  | vecCmp (t : Fin 384) (i : Fin 64)
  | vecSelect (t : Fin 384) (i : Fin 64)
  | vecSqrt (t : Fin 384) (i : Fin 64)
  | vecRsqrt (t : Fin 384) (i : Fin 64)
  | vecRecip (t : Fin 384) (i : Fin 64)
  | vecExp (t : Fin 384) (i : Fin 64)
  | vecLog (t : Fin 384) (i : Fin 64)
  | vecTanh (t : Fin 384) (i : Fin 64)
  | vecSigmoid (t : Fin 384) (i : Fin 64)
  | vecSilu (t : Fin 384) (i : Fin 64)
  | vecGelu (t : Fin 384) (i : Fin 64)
  | vecSin (t : Fin 384) (i : Fin 64)
  | vecCos (t : Fin 384) (i : Fin 64)
  | quant (t : Fin 384) (i : Fin 64)
  | prepass (t : Fin 384) (i : Fin 64)
  | dequant (t : Fin 384) (i : Fin 64)
  | mask (t : Fin 384) (i : Fin 64)
  | amaxMerge (t : Fin 384) (i : Fin 64)
  | updPass1 (t : Fin 384) (i : Fin 64)
  | updPass2 (t : Fin 384) (i : Fin 64) (found : List Found)
  -- the page engine (chapter 12)
  | gather (t : Fin 384) (i : Fin 64) (found : List Found)
  | append (t : Fin 384) (i : Fin 64) (found : List Found)
  | seqOpen (t : Fin 384) (i : Fin 64) (found : List Found)
  | fork (t : Fin 384) (i : Fin 64) (found : List Found)
  | seqClose (t : Fin 384) (i : Fin 64) (found : List Found)
  | kvpList (t : Fin 384) (i : Fin 64) (found : List Found)
  | spillMoveEnd (id : Nat) (found : List Found)
  | returnMoveEnd (id : Nat) (found : List Found)
  | kvpEnable (init : Bool) (found : List Found)
  | kvpDisable
  | kvpDrainEnd
  -- the stash (chapter 13)
  | stashRegister (t : Fin 384) (i : Fin 64) (found : List Found)
  | stashCaptureEnd (id : Nat)
  | stashFetch (t : Fin 384) (i : Fin 64) (found : List Found)
  | stashRelease (t : Fin 384) (i : Fin 64)
  | stashMoveEnd (id : Nat) (found : List Found)
  -- messages and barriers (chapter 07)
  | messageFlitArrival (k : Nat)
  | messageAck (k : Nat)
  | messageRefusal (k : Nat)
  | messageResendTimer (t : Fin 384) (flow : Nat)
  | barrierRelease (d : Fin 64) (b : Fin 8)
  | barrierGroupRelease (d : Fin 64) (b : Fin 8) (g : Fin 8)
  -- errors and recovery (chapter 19)
  | heartbeatSend (t : Fin 384)
  | heartbeatTimeout (t : Fin 384)
  | tileRecoveryEnd (d : Fin 64)
  | d2dPortRetrain (p : Fin 8) (replays : Nat) (retrain : Bool)
  | d2dPortLoss (p : Fin 4)
  | linkDiePortLoss (n : Fin 4) (ecc : Found)
  | errRingHeadWrite (value : Word)
  -- memory and arbitration (chapter 14)
  | hbmScrubRead (x : Fin 16) (ecc : Ecc) (syndrome : BitVec 15)
  | arbiterDecision (a : ArbId) (asks : List Ask)
  | arbiterWindowReset (a : ArbId)
  | arbiterBackoffExpiry (a : ArbId) (r : Nat)
  | arbiterWatchdogExpiry (a : ArbId)
  -- sample intake (chapter 15)
  | intakeEnable (workers : Bool)
  | intakeDisable (workers : Bool)
  | intakeRingTailWrite (value : Word)
  | batchRecordFetch
  | sampleDispatch
  | sampleDecodeEnd (e : Fin 16)
  | workerDone (value : Word)
  | intakeSeal (d : Fin 64)
  -- line ports, Zwine and collectives (chapter 16)
  | portLinkUp (n : Fin 4) (p : Fin 12)
  | portLinkDown (n : Fin 4) (p : Fin 12) (failed : BitVec 8) (ecc : Found)
  | portDownTimeout (n : Fin 4) (p : Fin 12)
  | hello (n : Fin 4) (f : Frame) (ecc : Found)
  | sack (n : Fin 4) (f : Frame) (ecc resent : Found)
  | collData (n : Fin 4) (f : Frame) (ecc : Found)
  | collCtrl (n : Fin 4) (f : Frame) (ecc : Found)
  | remoteMsg (n : Fin 4) (f : Frame) (ecc : Found)
  | mirrorFrame (n : Fin 4) (f : Frame) (ecc : Found)
  | snapshotFrame (n : Fin 4) (f : Frame) (ecc : Found)
  | spoolFrame (n : Fin 4) (f : Frame) (ecc : Found)
  | timeFrame (n : Fin 4) (f : Frame) (ns : Nat) (ecc : Found)
  | fstepFrame (n : Fin 4) (f : Frame) (ecc : Found)
  | retransmitTimer (n : Fin 4) (k seq : Nat) (ecc : Found)
  | sackTimer (n : Fin 4) (k : Nat)
  | peerTimeout (n : Fin 4) (rank : Nat)
  | collGraceExpiry (d : Fin 64) (c : Nat)
  | collHardTimeout (d : Fin 64) (c : Nat)
  | collComplete (d : Fin 64) (c : Nat)
  -- survival (chapter 18)
  | mirrorCommit (d : Fin 64)
  | snapshotIntervalExpiry
  | snapReq (n : Fin 4) (f : Frame) (ecc : Found)
  | snapshotFrontCopyEnd (d : Fin 64) (found : List Found)
  | snapshotWhole (d : Fin 64)
  | partnerOfferAnswer (i : Fin 4) (status : BitVec 16) (feed loop : BitVec 32) (room : Nat)
  | riskSecond
  -- power, cooling and the facility port (chapter 20)
  | powerSample (rails : List (BitVec 16 × BitVec 16)) (vddc : BitVec 16 × BitVec 16)
  | capControllerPeriod
  | thermalSample (compute link hbm : List (Fin 256)) (host : Fin 256) (outlet : BitVec 16)
  | thermalStepPeriod
  | droop (k : Fin 4) (depth : BitVec 16)
  | emergencyHoldEnd
  | voltageSettled
  | setCap (cap : BitVec 16) (window : BitVec 8) (full : Bool)
  | clearShed (full : Bool)
  | modbusReadHoldingRegisters (unit : BitVec 8) (pins : BitVec 3) (other : Option (BitVec 8)) (addr count : BitVec 16)
  | modbusReadInputRegisters (unit : BitVec 8) (pins : BitVec 3) (addr count : BitVec 16)
  | modbusWriteSingleRegister (unit : BitVec 8) (pins : BitVec 3) (addr value : BitVec 16)
  | modbusWriteMultipleRegisters (unit : BitVec 8) (pins : BitVec 3) (addr : BitVec 16) (values : List (BitVec 16))
  | inletTemp (f : FieldFrame)
  | flow (f : FieldFrame)
  | pressure (f : FieldFrame)
  | leak (f : FieldFrame)
  | feedId (f : FieldFrame)
  | feedState (f : FieldFrame)
  | loopId (f : FieldFrame)
  | shed (f : FieldFrame)
  | facilityHeartbeat (f : FieldFrame)
  | fieldStatus (f : FieldFrame) (errors : BitVec 16) (major minor : BitVec 8)
  | facilityStaleTimeout
  | facilityOutboundPeriod
  | fieldRepeatPeriod
  | fieldValueTimeout
  -- security and management (chapter 21)
  | debugNonce (full : Bool)
  | debugGrant (grant : Bytes) (full : Bool)
  | debugRevoke (full : Bool)
  | debugGrantExpiry
  | debugNonceExpiry
  | enrolOwner (key signature : Bytes) (full : Bool)
  | readLog (first : BitVec 16) (count : BitVec 8) (full : Bool)
  | mctpControl (addr : Option (BitVec 7)) (eid : Option (BitVec 8))
  | pldmSensorRead (i : Fin 10)
  | pldmSensorRefresh
  | pldmStartReportRead (off len : Nat)
  | firmwareUpdateTransfer (component : BitVec 16) (first : Bool) (data : Bytes) (floor : Option (Nat × Bytes))
  | verifyComplete (component : BitVec 16)
  | applyComplete (component : BitVec 16)
  | getVersion
  | getCapabilities
  | negotiateAlgorithms
  | getDigests
  | getCertificate (off len : Nat)
  | challenge (nonce : Bytes)
  | getMeasurements (index : Nat) (nonce : Option Bytes)
  -- debug (chapter 22)
  | jtagBypass (tdi : List Bool)
  | jtagIdcode (tdi : List Bool)
  | jtagSamplePreload (tdi pins : List Bool)
  | jtagExtest (tdi pins : List Bool)
  | jtagClamp (tdi : List Bool)
  | instrumentAccess (tdi capture : List Bool)
  | haltResume (value : Word)
  | traceEnable (value : Word)
  | debugCounterUpdate
  | watchReadingEnd (point : Fin 256) (found : List Found)
  | partnerOfferReceived (rank : Nat) (feed loop : BitVec 32) (plan : List (Nat × List (Nat × Nat))) (strict : Bool)
deriving DecidableEq, Repr

end Sys2Proof
end

