-- ==== Sys2Proof/Decode.lean ====
section
/-!
DEFINITION. The commands that words spell: none, since the command table gives no row any bits.
-/
namespace Sys2Proof

/-- The command that a word of `nbits` bits spells by the table's bits: the table gives no row bits, so no word spells a command. -/
def decodeTableWord (_nbits _w : Nat) : Option Instr := none

end Sys2Proof
end

