-- ==== Sys2Proof/Machine/Codes.lean ====
section
/-!
DEFINITION. The status codes (`ST_`), event codes (`EV_`) and start reason codes (`RS_`) of the spec's code tables
(Tables CMD-11, ERR-5, ERR-11, STR-7, MOD-9 and those of the later chapters).
-/
namespace Sys2Proof.Machine

def ST_OK : Nat := 0x0000
def ST_OK_PARTIAL : Nat := 0x0001
def ST_REJECTED_FULL : Nat := 0x0010
def ST_REJECTED_PORT : Nat := 0x0011
def ST_REJECTED_VERSION : Nat := 0x0012
def ST_REJECTED_RESERVED : Nat := 0x0013
def ST_REJECTED_MODE : Nat := 0x0014
def ST_ADDRESS_UNMAPPED : Nat := 0x0015
def ST_PUSH_BUSY : Nat := 0x0016
def ST_REJECTED_OPERATION : Nat := 0x0017
def ST_DOMAIN_INVALID : Nat := 0x0018
def ST_CANCELLED : Nat := 0x0019
def ST_OP_DESCRIPTOR : Nat := 0x001A
def ST_PROGRAM_TRAP : Nat := 0x001B
def ST_UNDELIVERABLE : Nat := 0x001C
def ST_PEER_UNREACHABLE : Nat := 0x001D
def ST_ABORTED_RESET : Nat := 0x0060
def ST_UNIT_FAULT : Nat := 0x0070
def ST_POISONED : Nat := 0x0071
def ST_ECC_CORRECTED : Nat := 0x0072
def ST_ECC_UNCORRECTABLE : Nat := 0x0073
def ST_LINK_REPLAY : Nat := 0x0074
def ST_LINK_LOST : Nat := 0x0075
def ST_HEARTBEAT_LOST : Nat := 0x0076
def ST_GRANT_REVOKED : Nat := 0x0077
def ST_NO_SPARE : Nat := 0x0078
def ST_CONTROL_FAULT : Nat := 0x0079
def ST_QUEUE_NOT_ENABLED : Nat := 0x0102
def ST_WRONG_PATH : Nat := 0x0103
def ST_QUEUE_CONFIG : Nat := 0x0104
def ST_HANDLE_FOREIGN : Nat := 0x0105
def ST_NOT_STOPPED : Nat := 0x0106
def ST_OUTPUT_SHORT : Nat := 0x0107
def ST_QUEUE_STALE : Nat := 0x0120
def ST_BAD_HEADER : Nat := 0x0201
def ST_DIGEST_MISMATCH : Nat := 0x0202
def ST_VARIANT_MISMATCH : Nat := 0x0203
def ST_SECTION_LAYOUT : Nat := 0x0204
def ST_SECTION_MISSING : Nat := 0x0205
def ST_RESERVED_SET : Nat := 0x0206
def ST_FIELD_RANGE : Nat := 0x0207
def ST_STRUCT_EMPTY : Nat := 0x0210
def ST_STRUCT_BUSY : Nat := 0x0211
def ST_REJECTED_STATIC : Nat := 0x0213
def ST_COMMIT_BUSY : Nat := 0x0214
def ST_COMMIT_PENDING : Nat := 0x0215
def ST_REFERENCE_INVALID : Nat := 0x0230
def ST_PLACEMENT_ABSENT : Nat := 0x0231
def ST_TIED_WEIGHT : Nat := 0x0232
def ST_MEMORY_LAYOUT : Nat := 0x0233
def ST_DOMAIN_OVERLAP : Nat := 0x0234
def ST_SPARE_SHORT : Nat := 0x0235
def ST_FORMAT_INVALID : Nat := 0x0236
def ST_POWER_ABOVE_CAP : Nat := 0x0238
def ST_OVERRUN_STOP : Nat := 0x0290
def ST_CODEC_ALIGN : Nat := 0x0306
def ST_CODEC_CORRUPT : Nat := 0x0307
def ST_SCALE_AXIS : Nat := 0x0330
def ST_SHAPE_UNSUPPORTED : Nat := 0x0331
def ST_ESCAPE_STATIONARY : Nat := 0x0332
def ST_FORMAT_PAIR : Nat := 0x0333
def ST_WIDTH_EXCEEDED : Nat := 0x0334
def ST_PATH_UNSUPPORTED : Nat := 0x0335
def ST_BAND_EXCEEDED : Nat := 0x0336
def ST_PAGE_NOT_MAPPED : Nat := 0x0401
def ST_REGION_OVERLAP : Nat := 0x0402
def ST_POOL_EMPTY : Nat := 0x0403
def ST_SEQ_INVALID : Nat := 0x0404
def ST_POSITION_INVALID : Nat := 0x0405
def ST_KVP_DISABLED : Nat := 0x0406
def ST_SEQ_BUSY : Nat := 0x0407
def ST_PAGE_SHARED : Nat := 0x0408
def ST_KVP_CONFIG : Nat := 0x040A
def ST_STASH_CONFIG : Nat := 0x0420
def ST_STASH_FULL : Nat := 0x0421
def ST_HANDLE_BUSY : Nat := 0x0422
def ST_STASH_DROPPED : Nat := 0x0423
def ST_STASH_UNKNOWN : Nat := 0x0424
def ST_DUAL_MISMATCH : Nat := 0x0425
def ST_CLASS_DOMAIN : Nat := 0x0426
def ST_COLL_TIMEOUT : Nat := 0x0501
def ST_GROUP_MISMATCH : Nat := 0x0502
def ST_COLL_DUPLICATE : Nat := 0x0503
def ST_NONFINITE_SKIP : Nat := 0x0540
def ST_STEP_PARAM_MISSING : Nat := 0x0541
def ST_STEP_PARAM_INVALID : Nat := 0x0542
def ST_UPDATE_DUPLICATE : Nat := 0x0543
def ST_SNAPSHOT_ABANDONED : Nat := 0x0601
def ST_PARTNER_NONE : Nat := 0x0602
def ST_PARTNER_BUSY : Nat := 0x0603
def ST_RESTORE_REFUSED : Nat := 0x0604
def ST_RESTORE_NO_STEP : Nat := 0x0605
def ST_RESERVE_SHORT : Nat := 0x0606
def ST_PARTNER_LOST : Nat := 0x0607
def ST_PARTNER_SAME_FEED : Nat := 0x0680
def ST_RESTORE_MISMATCH : Nat := 0x0681
def ST_CAP_RANGE : Nat := 0x0701
def ST_THERMAL_CRITICAL : Nat := 0x0713
def ST_BATCH_MISSING : Nat := 0x0801
def ST_BATCH_LATE : Nat := 0x0802
def ST_BATCH_DUPLICATE : Nat := 0x0803
def ST_BATCH_INVALID : Nat := 0x0804
def ST_RESERVE_EMPTY : Nat := 0x0805
def ST_SAMPLE_CRC : Nat := 0x0810
def ST_SAMPLE_DECODE : Nat := 0x0811
def ST_SAMPLE_UNSUPPORTED : Nat := 0x0812
def ST_SAMPLE_TOO_LARGE : Nat := 0x0813
def ST_SAMPLE_SHAPE : Nat := 0x0814
def ST_INTAKE_CONFIG : Nat := 0x0820
def ST_SIGNATURE_INVALID : Nat := 0x0901
def ST_ROLLBACK : Nat := 0x0902
def ST_IDENTITY_MISMATCH : Nat := 0x0903
def ST_NONCE_STALE : Nat := 0x0904
def ST_UPDATE_BUSY : Nat := 0x0905
def ST_IMAGE_INVALID : Nat := 0x0906
def ST_PUF_FAILURE : Nat := 0x0907
def RS_RAIL_TIMEOUT : Nat := 0x1001
def RS_CLOCK_LOCK : Nat := 0x1002
def RS_PORT_TRAIN : Nat := 0x1003
def RS_AGENT_SILENT : Nat := 0x1004
def RS_HBM_TRAIN : Nat := 0x2001
def RS_HBM_MBIST : Nat := 0x2002
def RS_HBM_TEMP : Nat := 0x2003
def RS_NO_STACK : Nat := 0x2004
def RS_TILE_HOLES : Nat := 0x3001
def RS_HUB_BIST : Nat := 0x3002
def RS_MESH_LINK : Nat := 0x4001
def RS_ROUTER : Nat := 0x4002
def RS_D2D_TRAIN : Nat := 0x5001
def RS_D2D_REPAIR : Nat := 0x5002
def RS_ISOLATED : Nat := 0x5003
def RS_SRAM_BIST : Nat := 0x6001
def RS_NO_PORT_UP : Nat := 0x6002
def RS_ZWINE_VERSION : Nat := 0x6003
def RS_NO_LINE : Nat := 0x7001
def RS_NO_PATH : Nat := 0x7002
def RS_BELOW_MINIMUM : Nat := 0x7003
def RS_HOLES_FORBIDDEN : Nat := 0x7004
def EV_REJECTED_VERSION : Nat := 0x8012
def EV_MODE_CHANGE : Nat := 0x8020
def EV_START_FAILED : Nat := 0x8021
def EV_INCARNATION_END : Nat := 0x8022
def EV_TIME_ALIGNED : Nat := 0x8030
def EV_TIME_ALIGN_POOR : Nat := 0x8031
def EV_HOTSPOT : Nat := 0x8040
def EV_ARB_REVOKED : Nat := 0x8041
def EV_TILE_MIGRATED : Nat := 0x807A
def EV_DOMAIN_CONTAINED : Nat := 0x807B
def EV_ERROR_ESCALATED : Nat := 0x807C
def EV_RING_LOST : Nat := 0x807D
def EV_QUEUE_STALE : Nat := 0x8120
def EV_OVERRUN_STOP : Nat := 0x8290
def EV_OVERRUN : Nat := 0x8291
def EV_SPIKE : Nat := 0x8340
def EV_SPIKE_RESTART : Nat := 0x8341
def EV_NONFINITE_STEP : Nat := 0x8342
def EV_TAP_LOST : Nat := 0x8343
def EV_LOSS_NONFINITE : Nat := 0x8344
def EV_POOL_EMPTY : Nat := 0x8403
def EV_POOL_LOW : Nat := 0x8410
def EV_SPILL_FULL : Nat := 0x8411
def EV_STASH_FULL : Nat := 0x8421
def EV_STASH_PRESSURE : Nat := 0x8428
def EV_PREFETCH_LATE : Nat := 0x8429
def EV_TAIL_OVERFLOW : Nat := 0x8506
def EV_PEER_LOST : Nat := 0x8507
def EV_PORT_DOWN : Nat := 0x8508
def EV_COLL_PARTIAL : Nat := 0x8510
def EV_SNAPSHOT_ABANDONED : Nat := 0x8601
def EV_PARTNER_NONE : Nat := 0x8602
def EV_RESERVE_SHORT : Nat := 0x8606
def EV_SNAPSHOT_WHOLE : Nat := 0x8610
def EV_RIPCORD : Nat := 0x8611
def EV_SPOOL_FULL : Nat := 0x8612
def EV_METHOD_CHOSEN : Nat := 0x8613
def EV_MIRROR_BEHIND : Nat := 0x8614
def EV_RECOVERY_LONG : Nat := 0x8615
def EV_UNPROTECTED : Nat := 0x8616
def EV_PARTNER_SAME_FEED : Nat := 0x8680
def EV_FSTEP_CHANGE : Nat := 0x8710
def EV_THERMAL_THROTTLE : Nat := 0x8711
def EV_THERMAL_TRIP : Nat := 0x8712
def EV_THERMAL_CRITICAL : Nat := 0x8713
def EV_DROOP : Nat := 0x8714
def EV_CAP_UNREACHABLE : Nat := 0x8715
def EV_ENVELOPE_SCALED : Nat := 0x8716
def EV_LEAK : Nat := 0x8717
def EV_SHED : Nat := 0x8718
def EV_FEED_ON_BATTERY : Nat := 0x8719
def EV_COOLANT_RANGE : Nat := 0x871A
def EV_FACILITY_STALE : Nat := 0x871B
def EV_FSTEP_BELOW_FLOOR : Nat := 0x871C
def EV_BATCH_MISSING : Nat := 0x8801
def EV_BATCH_LATE : Nat := 0x8802
def EV_BATCH_DUPLICATE : Nat := 0x8803
def EV_BATCH_INVALID : Nat := 0x8804
def EV_RESERVE_EMPTY : Nat := 0x8805
def EV_SAMPLE_CRC : Nat := 0x8810
def EV_SAMPLE_DECODE : Nat := 0x8811
def EV_SAMPLE_UNSUPPORTED : Nat := 0x8812
def EV_SAMPLE_TOO_LARGE : Nat := 0x8813
def EV_SAMPLE_SHAPE : Nat := 0x8814
def EV_FOUNDATION_UPDATED : Nat := 0x8910
def EV_DEBUG_GRANTED : Nat := 0x8911
def EV_DEBUG_ENDED : Nat := 0x8912

end Sys2Proof.Machine
end

