-- ==== Sys2Proof/Machine/Bytes.lean ====
section
/-!
DEFINITION. Byte strings and bit fields: little-endian numbers (R4), fields of an entry by byte offset, and bit ranges.
-/
namespace Sys2Proof.Machine

/-- Bits [lo + width - 1 : lo] of `v` (bit ranges include both ends, R4). -/
def bitsOf (v lo width : Nat) : Nat := v / 2 ^ lo % 2 ^ width

/-- Bit `i` of `v`. -/
def bitOf (v i : Nat) : Bool := bitsOf v i 1 == 1

/-- `v` with bits [lo + width - 1 : lo] replaced by `x` mod 2^width. -/
def setBits (v lo width x : Nat) : Nat :=
  v % 2 ^ lo + x % 2 ^ width * 2 ^ lo + v / 2 ^ (lo + width) * 2 ^ (lo + width)

/-- The `n` bytes of `v`, least significant first (R4). -/
def leBytes : Nat → Nat → Bytes
  | 0, _ => []
  | n + 1, v => byte v :: leBytes n (v / 256)

/-- The number that a byte string holds, least significant byte first (R4). -/
def leNat : Bytes → Nat
  | [] => 0
  | b :: bs => b.toNat + 256 * leNat bs

/-- `n` bytes of `bs` from byte `off`; bytes past the end read as zero. -/
def takeAt (bs : Bytes) (off n : Nat) : Bytes :=
  let t := (bs.drop off).take n
  t ++ List.replicate (n - t.length) 0#8

/-- The `n`-byte little-endian field at byte `off`. -/
def fieldAt (bs : Bytes) (off n : Nat) : Nat := leNat (takeAt bs off n)

/-- `bs` with the bytes from `off` on replaced by `v`; the length stays. -/
def putAt (bs : Bytes) (off : Nat) (v : Bytes) : Bytes :=
  (bs.take off ++ v ++ bs.drop (off + v.length)).take bs.length

/-- `n` zero bytes. -/
def zeros (n : Nat) : Bytes := List.replicate n 0#8

/-- `bs` cut or padded with zeros to `n` bytes. -/
def padTo (n : Nat) (bs : Bytes) : Bytes := takeAt bs 0 n

/-- Whether every byte is zero (reserved fields, R3). -/
def allZero (bs : Bytes) : Bool := bs.all (fun b => b == 0#8)

/-- The two's-complement value of the low `width` bits of `v`. -/
def signedOf (width v : Nat) : Int :=
  if bitOf v (width - 1) then (v % 2 ^ width : Nat) - (2 ^ width : Nat) else (v % 2 ^ width : Nat)

/-- An integer as `width` two's-complement bits. -/
def unsignedOf (width : Nat) (v : Int) : Nat := (v % (2 ^ width : Nat)).toNat

/-- `v`, or `top` when it is larger (saturating counters). -/
def satTo (top v : Nat) : Nat := if v ≤ top then v else top

/-- XOR of a byte string (CHECK of Table CMD-2). -/
def xorBytes : Bytes → Byte
  | [] => 0#8
  | b :: bs => b ^^^ xorBytes bs

/-- The ascending list lo, lo + 1, …, lo + n - 1. -/
def fromTo (lo n : Nat) : List Nat := (List.range n).map (lo + ·)

/-- The set bit positions of a bitmap field, ascending: bit t%8 of byte t/8 is number t (Table STR-5). -/
def bitmapOf (bs : Bytes) : List Nat :=
  (List.range (8 * bs.length)).filter (fun t => (bs.getD (t / 8) 0#8).getLsbD (t % 8))

/-- The positions of the set bits of `v` below `n`, ascending. -/
def bitsSet (v n : Nat) : List Nat := (List.range n).filter (bitOf v)

/-- `v` with bit `i` set. -/
def withBit (v i : Nat) : Nat := setBits v i 1 1
/-- `v` with bit `i` clear. -/
def withoutBit (v i : Nat) : Nat := setBits v i 1 0

end Sys2Proof.Machine
end

