-- ==== Sys2Proof/Config.lean ====
section
/-!
DEFINITION. What the spec leaves open, as constants without a body: no proof can see a value of them, so a statement that
holds, holds for every value. Each is named in a row of notes/assumptions.
-/
namespace Sys2Proof.Machine

/-- The five assemblies of Table SCO-3; no other exists (R9). -/
inductive Variant where
  | s08l2 | s12l2 | s12l3 | s16l3 | s16l4
deriving DecidableEq, Repr

/-- What a part number names (R9): its variant and its speed bin. -/
structure Part where
  variant : Variant := .s16l4
  bin22 : Bool := false
deriving DecidableEq, Repr

/-- The HBM4 stacks of a part (Table SCO-3). -/
def Part.hbmStacks (p : Part) : Nat :=
  match p.variant with
  | .s08l2 => 8
  | .s12l2 => 12
  | .s12l3 => 12
  | .s16l3 => 16
  | .s16l4 => 16

/-- The link dies of a part (Table SCO-3). -/
def Part.links (p : Part) : Nat :=
  match p.variant with
  | .s08l2 => 2
  | .s12l2 => 2
  | .s12l3 => 3
  | .s16l3 => 3
  | .s16l4 => 4

/-- A DIMM in a channel (R92, Table HST-1): its type, its capacity, and whether it carries ECC. -/
structure Dimm where
  mrdimm : Bool := true
  gib : Nat := 256
  ecc : Bool := true
deriving DecidableEq, Repr

/-- A CXL 2.0 Type 3 device (R93): link 4p + k of the PCIe ports, and its capacity. -/
structure CxlDevice where
  link : Nat := 0
  gib : Nat := 0
deriving DecidableEq, Repr

/-- What the integrator's board carries: the DIMM of each of the twelve channels (none: empty), and the CXL memory devices in
ascending port and bifurcation order. -/
structure Board where
  dimms : List (Option Dimm) := List.replicate 12 (some {})
  cxl : List CxlDevice := []
deriving DecidableEq, Repr

/-- The DIMMs fitted. -/
def Board.fitted (b : Board) : List Dimm := b.dimms.filterMap id

/-- The filled channels as a mask (`HST_DDR_CONFIG`.CHANNELS). -/
def Board.channels (b : Board) : Nat :=
  ((List.range 12).filter (fun c => (b.dimms.getD c none).isSome)).foldl (fun m c => m + 2 ^ c) 0

/-- The population rules of R92 with Table HST-1: identical DIMMs with ECC of at most 256 GiB, in all twelve channels or in the six
even-numbered ones. -/
def Board.populationOk (b : Board) : Bool :=
  (b.channels == 0xFFF || b.channels == 0x555) &&
    b.fitted.all (fun d => d.ecc && decide (1 ≤ d.gib ∧ d.gib ≤ 256) && decide (b.fitted.head? = some d))

/-- The capacity of host DDR (GiB): at most the 3 TiB of its range (Tables HST-1, HST-3). -/
def Board.ddrGib (b : Board) : Nat := min 3072 ((b.fitted.map (·.gib)).sum)

/-- Whether the DIMMs are MRDIMMs, and their rate in MT/s (Table HST-1). -/
def Board.mrdimm (b : Board) : Bool := (b.fitted.headD {}).mrdimm
def Board.ddrRate (b : Board) : Nat := if b.mrdimm then 8800 else 6400

/-- The links of a port under a bifurcation code (Table HST-2). -/
def portLinks (bifurcation p : Nat) : Nat := bifurcation / 4 ^ p % 4 + 1

/-- The CXL memory devices on links that the bifurcation makes, in ascending port and bifurcation order (R93). -/
def Board.devices (b : Board) (bifurcation : Nat) : List CxlDevice :=
  (List.range 16).filterMap (fun l => if l % 4 < portLinks bifurcation (l / 4) then b.cxl.find? (fun d => d.link == l) else none)

/-- The devices mapped from `gib` GiB on: one after another, up to the first that would pass 4 TiB (R93). -/
def mappedDevices (gib : Nat) : List CxlDevice → List CxlDevice
  | [] => []
  | d :: ds => if gib + d.gib ≤ 4096 then d :: mappedDevices (gib + d.gib) ds else []

/-- One line port as the foundation image sets it (R345, Table LIN-1). -/
structure PortCfg where
  speed : Nat := 0
  pmd : Nat := 0
  firstLane : Nat := 0
  mac : Nat := 0
deriving DecidableEq, Repr

/-- One entry of the foundation image's peer list (R86, R355). -/
structure Peer where
  moduleId : Nat := 0
  ip : Nat := 0
deriving DecidableEq, Repr

/-- What the vendor image holds beside its firmware (R457): the tether structure's tick (R76), and where it reserves host DDR,
as distances of the areas' bases below the top of host DDR (R92). -/
structure VendorSettings where
  tickUs : Nat := 50
  tickOverrun : Nat := 0
  stageBelow : Nat := 0x1000_0000
  errAreaBelow : Nat := 0x2020_0000
  errAreaMib : Nat := 258
  errRingBelow : Nat := 0x2040_0000
  errRingLog2 : Nat := 14
deriving DecidableEq, Repr, Inhabited

/-- What the platform block holds (R457): the start policy (Table MOD-4), the peer list and this module's rank in it (R86), the line
ports (none listed: the shipped configuration, R345), the Zwine settings (R350), the PCIe bifurcation (R94), and THROTTLE_C, LEAK_ACTION
and FAC_TIMEOUT (R434, R446, R450). -/
structure PlatformSettings where
  startLimit : Nat := 3
  autoAscent : Bool := true
  retryDelay : Nat := 5
  holesAllowed : Bool := false
  minComputeDies : Nat := 4
  minLinkDies : Nat := 4
  minStacks : Nat := 16
  maxTileHoles : Nat := 4
  peers : List Peer := []
  ownRank : Nat := 0
  ports : List PortCfg := []
  udpPort : Nat := 7811
  dscp : Nat := 0
  ipv4 : Bool := false
  peerTimeoutMs : Nat := 50
  payloadMax : Nat := 0
  bifurcation : Nat := 0
  throttleC : Nat := 95
  leakAction : Nat := 1
  facTimeout : Nat := 10
deriving DecidableEq, Repr, Inhabited

/-- The picture that a sample's encoded data holds: its components' (width, height), the luma or first one first, and the bits of an
element; `half`: FP16 elements (OpenEXR). -/
structure Shape where
  comps : List (Nat × Nat)
  depth : Nat
  half  : Bool
deriving DecidableEq, Repr, Inhabited

/-- What the encoded data of a sample decodes to (R331, R332, Table INT-7): a bitstream error, a profile or tool outside Table INT-1, or
the picture and its elements in layout order. -/
inductive Decoded where
  | broken
  | unsupported
  | frames (shape : Shape) (elems : List Nat)
deriving DecidableEq, Repr, Inhabited

/-- The settings of the foundation image in force: those of its vendor image and of its platform block (R457). -/
structure Foundation extends VendorSettings, PlatformSettings
deriving DecidableEq, Repr, Inhabited

end Sys2Proof.Machine

namespace Sys2Proof.Config

/-- The byte at address `a` of memory whose contents the spec calls unpredictable or does not state; `salt` tells the
occasions apart (R48, R52, R106, R109, R136). -/
opaque freeByte (salt a : Nat) : BitVec 8

/-- The set point that the module gives a link die's or the host die's core rail at a step (R431, R452): the spec gives its range only. -/
opaque coreVolts (rail step : Nat) : Nat

/-- The current of a tile's arrays over the last 4 µs at a local time, in per cent of the tile's share of die peak (R442). -/
opaque arrayDraw (tile ns : Nat) : Nat

/-- A value the spec calls unpredictable or does not state, fresh for each `salt` (R1, R496). -/
opaque freeWord (salt : Nat) : BitVec 64

/-- A choice that the spec leaves to the module: which of several free frames is taken, for example (R269). -/
opaque choice (salt : Nat) : Nat

/-- The choice, among the results that the error bound of R236 admits, of function `op` (Table VEC-3) on the FP32 pattern `x`; `narrow`
tells BF16 computation. -/
opaque vecPick (op : Nat) (narrow : Bool) (x : BitVec 32) : Nat

/-- The result of a vector operation on a lane whose operands the spec gives no result for: an integer with a float, a NaN
converted to INT32, sin or cos above 65,536 (R232, R236). -/
opaque vecFree (op : Nat) (a b c : BitVec 64) : BitVec 32

/-- Element `i` of a sample after the COLOUR stream, on the brightness, contrast and saturation factors and the sample's elements, all
FP32 patterns: the spec gives the factors and not how they are applied (Table INT-4). -/
opaque colour (fb fc fs : Nat) (elems : List Nat) (i : Nat) : Nat

/-- What `frames` frames of source bytes of a format (Table INT-1) decode to, from frame `first` on: the standards of the formats and the
arithmetic of the intake library fix it, and it is the same on every path (R332). -/
opaque decode (format first frames : Nat) (source : List (BitVec 8)) : Machine.Decoded

/-- The MAC address of port `p` of link die `n` in the shipped foundation image. -/
opaque mac (n p : Nat) : Nat

/-- Whether an Ed25519 signature verifies: public key, message, signature (R458, R462, R467). The algorithm is a published
standard that the spec names and does not restate. -/
opaque ed25519Verify (key message signature : List (BitVec 8)) : Bool

/-- The Ed25519 signature of a message under the alias key of a boot, derived from the identity key and the DIGESTs of the vendor image and
the platform block that run (R463, R466). -/
opaque aliasSign (vendor platform message : List (BitVec 8)) : List (BitVec 8)

/-- The public key of the boot ROM that verifies vendor images (R458). -/
opaque vendorKey : List (BitVec 8)

/-- The identity public key that the SRAM PUF yields (R463). -/
opaque identityKey : List (BitVec 8)

/-- The certificate chain of R463: vendor root and device certificate, stored at manufacture; and the alias certificate of a boot with
these DIGESTs. -/
opaque deviceChain : List (BitVec 8)
opaque aliasCertificate (vendor platform : List (BitVec 8)) : List (BitVec 8)

/-- The boot ROM version, measurement 1 of R466. -/
opaque bootRomVersion : List (BitVec 8)

/-- The nonce that DEBUG_NONCE returns for the `n`-th request (R467). -/
opaque nonce (n : Nat) : List (BitVec 8)

/-- The shipped vendor image and platform block in flash (R457). -/
opaque shippedVendor : List (BitVec 8)
opaque shippedPlatform : List (BitVec 8)

/-- The settings that the body of a vendor image holds, and those that the body of a platform block holds, where it is not the
shipped one: the spec gives the settings and not the layout of the bodies (R457). -/
opaque vendorSettings (body : List (BitVec 8)) : Machine.VendorSettings
opaque platformSettings (body : List (BitVec 8)) : Machine.PlatformSettings

end Sys2Proof.Config
end

