-- ==== Sys2Proof/Machine/RegMap.lean ====
section
/-!
DEFINITION. The register map of the module: every register of the spec's register tables at its block offset
(R5, R99, Table HST-4), with every field's bits, access code (R6, Table SCO-2) and reset value.
Addresses are offsets from 0xF000_0000_0000. Array registers take their indices as arguments.
-/
namespace Sys2Proof.Machine

/-- The access codes of Table SCO-2 (R6). -/
inductive Access where
  | ro | wo | rw1c | rws | rwt | rwi
deriving DecidableEq, Repr

/-- One field of one register: its block offset, its lowest bit and its width. -/
structure Fld where
  reg : Nat
  lo : Nat
  width : Nat
deriving DecidableEq, Repr

/-- One row of a field table: lowest bit, width and access code. -/
structure FieldRow where
  lo : Nat
  width : Nat
  acc : Access
deriving DecidableEq, Repr

/-- One row of a register table: first offset, array dimensions (count, stride; outermost first), reset value and
fields. Bits under no field are reserved (R3). -/
structure RegRow where
  base : Nat
  dims : List (Nat × Nat)
  reset : Nat
  fields : List FieldRow
deriving DecidableEq, Repr

/-! Registers of spec/02_modes_and_start.md. -/

/-- `CTL_MODE`: Mode and Ascent progress (R54). -/
def CTL_MODE : Nat := 0x0
def CTL_MODE_MODE : Fld := ⟨CTL_MODE, 0, 4⟩
def CTL_MODE_PREV_MODE : Fld := ⟨CTL_MODE, 4, 4⟩
def CTL_MODE_STAGE : Fld := ⟨CTL_MODE, 8, 4⟩
def CTL_MODE_UNIT_KIND : Fld := ⟨CTL_MODE, 12, 2⟩
def CTL_MODE_UNIT_INDEX : Fld := ⟨CTL_MODE, 14, 2⟩
def CTL_MODE_HOLES : Fld := ⟨CTL_MODE, 16, 1⟩

/-- `CTL_START_COUNT`: Failed starts and limit (R54). -/
def CTL_START_COUNT : Nat := 0x8
def CTL_START_COUNT_FAILED : Fld := ⟨CTL_START_COUNT, 0, 3⟩
def CTL_START_COUNT_LIMIT : Fld := ⟨CTL_START_COUNT, 3, 3⟩
def CTL_START_COUNT_EXHAUSTED : Fld := ⟨CTL_START_COUNT, 6, 1⟩

/-- `CTL_INCARNATION`: Device incarnation (R54). -/
def CTL_INCARNATION : Nat := 0x10
def CTL_INCARNATION_INCARNATION : Fld := ⟨CTL_INCARNATION, 0, 16⟩

/-- `CTL_HBM_PRESERVED`: Stacks holding preserved, unverified contents (R54). -/
def CTL_HBM_PRESERVED : Nat := 0x18
def CTL_HBM_PRESERVED_PRESERVED : Fld := ⟨CTL_HBM_PRESERVED, 0, 16⟩

/-- `CTL_RESET_CAUSE`: Causes of resets since last cleared (R54). -/
def CTL_RESET_CAUSE : Nat := 0x20
def CTL_RESET_CAUSE_POWER_ON : Fld := ⟨CTL_RESET_CAUSE, 0, 1⟩
def CTL_RESET_CAUSE_RST_N : Fld := ⟨CTL_RESET_CAUSE, 1, 1⟩
def CTL_RESET_CAUSE_DEVICE_REQ : Fld := ⟨CTL_RESET_CAUSE, 2, 1⟩
def CTL_RESET_CAUSE_HOST_LINK : Fld := ⟨CTL_RESET_CAUSE, 3, 1⟩
def CTL_RESET_CAUSE_HOST_RESET : Fld := ⟨CTL_RESET_CAUSE, 4, 1⟩
def CTL_RESET_CAUSE_START_FAIL : Fld := ⟨CTL_RESET_CAUSE, 5, 1⟩
def CTL_RESET_CAUSE_HALT_EXIT : Fld := ⟨CTL_RESET_CAUSE, 6, 1⟩
def CTL_RESET_CAUSE_WATCHDOG : Fld := ⟨CTL_RESET_CAUSE, 7, 1⟩

/-- `CTL_START_REPORT`: Last start report (Tables MOD-7, MOD-8) (R54). -/
def CTL_START_REPORT (w : Nat) : Nat := 0x100 + w * 0x8
def CTL_START_REPORT_VALUE (w : Nat) : Fld := ⟨CTL_START_REPORT w, 0, 64⟩

/-! Registers of spec/03_structure_image.md. -/

/-- `CTL_STRUCT_STATUS`: Staging state and last STRUCT status (R73). -/
def CTL_STRUCT_STATUS : Nat := 0x40
def CTL_STRUCT_STATUS_STAGE_STATE : Fld := ⟨CTL_STRUCT_STATUS, 0, 3⟩
def CTL_STRUCT_STATUS_IN_FORCE : Fld := ⟨CTL_STRUCT_STATUS, 3, 1⟩
def CTL_STRUCT_STATUS_LAST_STATUS : Fld := ⟨CTL_STRUCT_STATUS, 16, 16⟩

/-- `CTL_STRUCT_VERSION`: Chosen and supported minors (R73). -/
def CTL_STRUCT_VERSION : Nat := 0x48
def CTL_STRUCT_VERSION_CHOSEN_MINOR : Fld := ⟨CTL_STRUCT_VERSION, 0, 8⟩
def CTL_STRUCT_VERSION_MAJOR : Fld := ⟨CTL_STRUCT_VERSION, 8, 8⟩
def CTL_STRUCT_VERSION_MAX_MINOR : Fld := ⟨CTL_STRUCT_VERSION, 16, 8⟩

/-- `CTL_STRUCT_ID`: IMAGE_ID of the job image in force; zero when none (R73). -/
def CTL_STRUCT_ID : Nat := 0x50
def CTL_STRUCT_ID_IMAGE_ID : Fld := ⟨CTL_STRUCT_ID, 0, 64⟩

/-- `CTL_STRUCT_COMMIT_TICK`: Tick at which the image in force took effect (R73). -/
def CTL_STRUCT_COMMIT_TICK : Nat := 0x58
def CTL_STRUCT_COMMIT_TICK_TICK : Fld := ⟨CTL_STRUCT_COMMIT_TICK, 0, 64⟩

/-- `CTL_STRUCT_STAGE_BASE`: Staging area base in host DDR (R73). -/
def CTL_STRUCT_STAGE_BASE : Nat := 0x60
def CTL_STRUCT_STAGE_BASE_BASE : Fld := ⟨CTL_STRUCT_STAGE_BASE, 0, 48⟩

/-! Registers of spec/04_tick_and_slots.md. -/

/-- `CTL_TICK_COUNT`: 64-bit tick count (R90). -/
def CTL_TICK_COUNT : Nat := 0x80
def CTL_TICK_COUNT_VALUE : Fld := ⟨CTL_TICK_COUNT, 0, 64⟩

/-- `CTL_TICK_CONFIG`: Period and overrun policy in force (R90). -/
def CTL_TICK_CONFIG : Nat := 0x88
def CTL_TICK_CONFIG_PERIOD : Fld := ⟨CTL_TICK_CONFIG, 0, 16⟩
def CTL_TICK_CONFIG_OVERRUN : Fld := ⟨CTL_TICK_CONFIG, 16, 1⟩

/-- `CTL_TIME`: Aligned time (ns) (R90). -/
def CTL_TIME : Nat := 0x90
def CTL_TIME_VALUE : Fld := ⟨CTL_TIME, 0, 64⟩

/-- `CTL_TIME_LOCAL`: Local time (ns) (R90). -/
def CTL_TIME_LOCAL : Nat := 0x98
def CTL_TIME_LOCAL_VALUE : Fld := ⟨CTL_TIME_LOCAL, 0, 64⟩

/-- `CTL_TIME_OFFSET`: Signed offset, aligned minus local (ns) (R90). -/
def CTL_TIME_OFFSET : Nat := 0xA0
def CTL_TIME_OFFSET_VALUE : Fld := ⟨CTL_TIME_OFFSET, 0, 64⟩

/-- `CTL_TIME_STATUS`: Alignment state (R90). -/
def CTL_TIME_STATUS : Nat := 0xA8
def CTL_TIME_STATUS_ALIGNED : Fld := ⟨CTL_TIME_STATUS, 0, 1⟩
def CTL_TIME_STATUS_MEASURING : Fld := ⟨CTL_TIME_STATUS, 1, 1⟩
def CTL_TIME_STATUS_MASTER : Fld := ⟨CTL_TIME_STATUS, 2, 1⟩
def CTL_TIME_STATUS_POOR : Fld := ⟨CTL_TIME_STATUS, 3, 1⟩
def CTL_TIME_STATUS_SPREAD : Fld := ⟨CTL_TIME_STATUS, 16, 16⟩

/-- `CTL_DOM_SLOT`: Slot number of domain d (d 0–63) (R90). -/
def CTL_DOM_SLOT (d : Nat) : Nat := 0x400 + d * 0x10
def CTL_DOM_SLOT_SLOT (d : Nat) : Fld := ⟨CTL_DOM_SLOT d, 0, 64⟩

/-- `CTL_DOM_STATE`: Slot state of domain d (R90). -/
def CTL_DOM_STATE (d : Nat) : Nat := 0x408 + d * 0x10
def CTL_DOM_STATE_STATE (d : Nat) : Fld := ⟨CTL_DOM_STATE d, 0, 2⟩
def CTL_DOM_STATE_CONSEC (d : Nat) : Fld := ⟨CTL_DOM_STATE d, 2, 2⟩
def CTL_DOM_STATE_OVERRUNS (d : Nat) : Fld := ⟨CTL_DOM_STATE d, 16, 16⟩

/-! Registers of spec/05_host_complex.md. -/

/-- `HST_DDR_CONFIG`: DDR5 population (R110). -/
def HST_DDR_CONFIG : Nat := 0xA80000
def HST_DDR_CONFIG_CHANNELS : Fld := ⟨HST_DDR_CONFIG, 0, 12⟩
def HST_DDR_CONFIG_MRDIMM : Fld := ⟨HST_DDR_CONFIG, 12, 1⟩
def HST_DDR_CONFIG_RATE : Fld := ⟨HST_DDR_CONFIG, 16, 16⟩
def HST_DDR_CONFIG_SIZE : Fld := ⟨HST_DDR_CONFIG, 32, 16⟩

/-- `HST_CXL_MAP`: Mapped CXL memory (R110). -/
def HST_CXL_MAP : Nat := 0xA80008
def HST_CXL_MAP_SIZE : Fld := ⟨HST_CXL_MAP, 0, 16⟩
def HST_CXL_MAP_DEVICES : Fld := ⟨HST_CXL_MAP, 16, 8⟩
def HST_CXL_MAP_UNMAPPED : Fld := ⟨HST_CXL_MAP, 24, 8⟩

/-- `HST_PCIE_CONFIG`: Bifurcation and CXL ports (R110). -/
def HST_PCIE_CONFIG : Nat := 0xA80010
def HST_PCIE_CONFIG_BIFURCATION : Fld := ⟨HST_PCIE_CONFIG, 0, 8⟩
def HST_PCIE_CONFIG_CXL_LINKS : Fld := ⟨HST_PCIE_CONFIG, 8, 16⟩

/-- `HST_LINK_STATUS`: Host-die port events (R110). -/
def HST_LINK_STATUS : Nat := 0xA80018
def HST_LINK_STATUS_UP : Fld := ⟨HST_LINK_STATUS, 0, 4⟩
def HST_LINK_STATUS_LOST : Fld := ⟨HST_LINK_STATUS, 4, 4⟩
def HST_LINK_STATUS_RETRAINS : Fld := ⟨HST_LINK_STATUS, 16, 16⟩

/-- `HST_FAULT_ADDR`: Last faulting address (R110). -/
def HST_FAULT_ADDR : Nat := 0xA80020
def HST_FAULT_ADDR_ADDR : Fld := ⟨HST_FAULT_ADDR, 0, 48⟩
def HST_FAULT_ADDR_SOURCE : Fld := ⟨HST_FAULT_ADDR, 62, 2⟩

/-- `HST_PUSH_CFG`: Push window n (0–63) (R110). -/
def HST_PUSH_CFG (n : Nat) : Nat := 0xA80100 + n * 0x10
def HST_PUSH_CFG_TYPE (n : Nat) : Fld := ⟨HST_PUSH_CFG n, 0, 2⟩
def HST_PUSH_CFG_NOTIFY (n : Nat) : Fld := ⟨HST_PUSH_CFG n, 2, 1⟩
def HST_PUSH_CFG_CHANNEL (n : Nat) : Fld := ⟨HST_PUSH_CFG n, 4, 4⟩
def HST_PUSH_CFG_TARGET (n : Nat) : Fld := ⟨HST_PUSH_CFG n, 16, 16⟩

/-- `HST_PUSH_STATUS`: Push window n state (R110). -/
def HST_PUSH_STATUS (n : Nat) : Nat := 0xA80108 + n * 0x10
def HST_PUSH_STATUS_COUNT (n : Nat) : Fld := ⟨HST_PUSH_STATUS n, 0, 32⟩
def HST_PUSH_STATUS_SEALED (n : Nat) : Fld := ⟨HST_PUSH_STATUS n, 32, 1⟩
def HST_PUSH_STATUS_DROPPED (n : Nat) : Fld := ⟨HST_PUSH_STATUS n, 48, 16⟩

/-- `HST_PUSH_SEAL`: Any write seals window n (R110). -/
def HST_PUSH_SEAL (n : Nat) : Nat := 0xA80800 + n * 0x8
def HST_PUSH_SEAL_SEAL (n : Nat) : Fld := ⟨HST_PUSH_SEAL n, 0, 64⟩

/-! Registers of spec/06_commands_and_handles.md. -/

/-- `HST_PROTO`: Protocol negotiation; no minor chosen at reset (R132). -/
def HST_PROTO : Nat := 0xA00000
def HST_PROTO_MAJOR : Fld := ⟨HST_PROTO, 0, 8⟩
def HST_PROTO_MIN_MINOR : Fld := ⟨HST_PROTO, 8, 8⟩
def HST_PROTO_MAX_MINOR : Fld := ⟨HST_PROTO, 16, 8⟩
def HST_PROTO_CHOSEN_MINOR : Fld := ⟨HST_PROTO, 24, 8⟩
def HST_PROTO_STATUS : Fld := ⟨HST_PROTO, 32, 16⟩

/-- `HST_OUTSTANDING`: Module outstanding handles (R132). -/
def HST_OUTSTANDING : Nat := 0xA00008
def HST_OUTSTANDING_COUNT : Fld := ⟨HST_OUTSTANDING, 0, 17⟩

/-- `HST_Q_SQ_BASE`: Submission ring base (R132). -/
def HST_Q_SQ_BASE (q : Nat) : Nat := 0xA10000 + q * 0x80
def HST_Q_SQ_BASE_BASE (q : Nat) : Fld := ⟨HST_Q_SQ_BASE q, 12, 36⟩

/-- `HST_Q_CQ_BASE`: Completion ring base (R132). -/
def HST_Q_CQ_BASE (q : Nat) : Nat := 0xA10008 + q * 0x80
def HST_Q_CQ_BASE_BASE (q : Nat) : Fld := ⟨HST_Q_CQ_BASE q, 12, 36⟩

/-- `HST_Q_CONFIG`: Sizes, mode, START_SEQ (R132). -/
def HST_Q_CONFIG (q : Nat) : Nat := 0xA10010 + q * 0x80
def HST_Q_CONFIG_SQ_LOG2 (q : Nat) : Fld := ⟨HST_Q_CONFIG q, 0, 4⟩
def HST_Q_CONFIG_CQ_LOG2 (q : Nat) : Fld := ⟨HST_Q_CONFIG q, 4, 5⟩
def HST_Q_CONFIG_MODE (q : Nat) : Fld := ⟨HST_Q_CONFIG q, 9, 1⟩
def HST_Q_CONFIG_START_SEQ (q : Nat) : Fld := ⟨HST_Q_CONFIG q, 32, 32⟩

/-- `HST_Q_CTRL`: Enable, resume (R132). -/
def HST_Q_CTRL (q : Nat) : Nat := 0xA10018 + q * 0x80
def HST_Q_CTRL_ENABLE (q : Nat) : Fld := ⟨HST_Q_CTRL q, 0, 1⟩
def HST_Q_CTRL_RESUME (q : Nat) : Fld := ⟨HST_Q_CTRL q, 1, 1⟩

/-- `HST_Q_SQ_HEAD`: Device fetch position (R132). -/
def HST_Q_SQ_HEAD (q : Nat) : Nat := 0xA10020 + q * 0x80
def HST_Q_SQ_HEAD_HEAD (q : Nat) : Fld := ⟨HST_Q_SQ_HEAD q, 0, 12⟩
def HST_Q_SQ_HEAD_PASS (q : Nat) : Fld := ⟨HST_Q_SQ_HEAD q, 16, 16⟩

/-- `HST_Q_CQ_HEAD`: Host consume position (R132). -/
def HST_Q_CQ_HEAD (q : Nat) : Nat := 0xA10028 + q * 0x80
def HST_Q_CQ_HEAD_HEAD (q : Nat) : Fld := ⟨HST_Q_CQ_HEAD q, 0, 16⟩

/-- `HST_Q_STATUS`: Queue state (R132). -/
def HST_Q_STATUS (q : Nat) : Nat := 0xA10030 + q * 0x80
def HST_Q_STATUS_STATE (q : Nat) : Fld := ⟨HST_Q_STATUS q, 0, 2⟩
def HST_Q_STATUS_OUTSTANDING (q : Nat) : Fld := ⟨HST_Q_STATUS q, 4, 17⟩
def HST_Q_STATUS_LAST_REJECT (q : Nat) : Fld := ⟨HST_Q_STATUS q, 32, 16⟩
def HST_Q_STATUS_STALE_SLOT (q : Nat) : Fld := ⟨HST_Q_STATUS q, 48, 12⟩
def HST_Q_STATUS_BAD_DOORBELL (q : Nat) : Fld := ⟨HST_Q_STATUS q, 60, 4⟩

/-- `HST_Q_IRQ`: Interrupt and coalescing (R132). -/
def HST_Q_IRQ (q : Nat) : Nat := 0xA10038 + q * 0x80
def HST_Q_IRQ_IDENTITY (q : Nat) : Fld := ⟨HST_Q_IRQ q, 0, 12⟩
def HST_Q_IRQ_HART (q : Nat) : Fld := ⟨HST_Q_IRQ q, 12, 7⟩
def HST_Q_IRQ_ENABLE (q : Nat) : Fld := ⟨HST_Q_IRQ q, 19, 1⟩
def HST_Q_IRQ_COALESCE_COUNT (q : Nat) : Fld := ⟨HST_Q_IRQ q, 24, 8⟩
def HST_Q_IRQ_COALESCE_US (q : Nat) : Fld := ⟨HST_Q_IRQ q, 32, 16⟩

/-- `HST_Q_CNT_BASE`: Counter block area (0 = none) (R132). -/
def HST_Q_CNT_BASE (q : Nat) : Nat := 0xA10040 + q * 0x80
def HST_Q_CNT_BASE_BASE (q : Nat) : Fld := ⟨HST_Q_CNT_BASE q, 12, 36⟩

/-! Registers of spec/07_tile_grid.md. -/

/-- `TIL_ID`: Identity and usability (R161). -/
def TIL_ID (t : Nat) : Nat := 0x10000000 + t * 0x10000
def TIL_ID_TILE (t : Nat) : Fld := ⟨TIL_ID t, 0, 9⟩
def TIL_ID_DIE (t : Nat) : Fld := ⟨TIL_ID t, 9, 2⟩
def TIL_ID_LOCAL_X (t : Nat) : Fld := ⟨TIL_ID t, 11, 4⟩
def TIL_ID_LOCAL_Y (t : Nat) : Fld := ⟨TIL_ID t, 15, 3⟩
def TIL_ID_USABLE (t : Nat) : Fld := ⟨TIL_ID t, 18, 1⟩

/-- `TIL_STATE`: Tile state and logical id (R161). -/
def TIL_STATE (t : Nat) : Nat := 0x10000008 + t * 0x10000
def TIL_STATE_STATE (t : Nat) : Fld := ⟨TIL_STATE t, 0, 3⟩
def TIL_STATE_LOGICAL (t : Nat) : Fld := ⟨TIL_STATE t, 16, 9⟩

/-- `TIL_CORE_PC`: Core PC; faulting PC after a trap (R161). -/
def TIL_CORE_PC (t : Nat) : Nat := 0x10000010 + t * 0x10000
def TIL_CORE_PC_PC (t : Nat) : Fld := ⟨TIL_CORE_PC t, 0, 32⟩
def TIL_CORE_PC_MCAUSE (t : Nat) : Fld := ⟨TIL_CORE_PC t, 32, 7⟩

/-- `TIL_PROGRAM`: Mirror of the tile's PROGRAMS entry (R161). -/
def TIL_PROGRAM (t : Nat) : Nat := 0x10000018 + t * 0x10000
def TIL_PROGRAM_PROGRAM_ID (t : Nat) : Fld := ⟨TIL_PROGRAM t, 0, 16⟩
def TIL_PROGRAM_DOMAIN (t : Nat) : Fld := ⟨TIL_PROGRAM t, 16, 6⟩
def TIL_PROGRAM_CARRIED_KIB (t : Nat) : Fld := ⟨TIL_PROGRAM t, 32, 9⟩

/-- `TIL_OPQ_STATUS`: Operation queue state (R161). -/
def TIL_OPQ_STATUS (t : Nat) : Nat := 0x10000020 + t * 0x10000
def TIL_OPQ_STATUS_OCCUPIED (t : Nat) : Fld := ⟨TIL_OPQ_STATUS t, 0, 7⟩
def TIL_OPQ_STATUS_FULL_STALLS (t : Nat) : Fld := ⟨TIL_OPQ_STATUS t, 16, 16⟩
def TIL_OPQ_STATUS_BUSY (t : Nat) : Fld := ⟨TIL_OPQ_STATUS t, 32, 16⟩

/-- `TIL_OPQ_FAULT`: Last descriptor fault (R161). -/
def TIL_OPQ_FAULT (t : Nat) : Nat := 0x10000028 + t * 0x10000
def TIL_OPQ_FAULT_TICKET (t : Nat) : Fld := ⟨TIL_OPQ_FAULT t, 0, 16⟩
def TIL_OPQ_FAULT_STATUS (t : Nat) : Fld := ⟨TIL_OPQ_FAULT t, 16, 16⟩
def TIL_OPQ_FAULT_VALID (t : Nat) : Fld := ⟨TIL_OPQ_FAULT t, 32, 1⟩

/-- `TIL_SLOT`: Domain slot number (R161). -/
def TIL_SLOT (t : Nat) : Nat := 0x10000030 + t * 0x10000
def TIL_SLOT_SLOT (t : Nat) : Fld := ⟨TIL_SLOT t, 0, 64⟩

/-- `TIL_EPOCH`: Domain placement epoch (R161). -/
def TIL_EPOCH (t : Nat) : Nat := 0x10000038 + t * 0x10000
def TIL_EPOCH_EPOCH (t : Nat) : Fld := ⟨TIL_EPOCH t, 0, 32⟩

/-- `TIL_BANK_STALLS`: Bank wait counter (R161). -/
def TIL_BANK_STALLS (t : Nat) : Nat := 0x10000040 + t * 0x10000
def TIL_BANK_STALLS_STALLS (t : Nat) : Fld := ⟨TIL_BANK_STALLS t, 0, 32⟩

/-- `TIL_RESUME_PC`: Start PC of the next slot (R161). -/
def TIL_RESUME_PC (t : Nat) : Nat := 0x10000048 + t * 0x10000
def TIL_RESUME_PC_PC (t : Nat) : Fld := ⟨TIL_RESUME_PC t, 0, 32⟩

/-- `TIL_MSG_CHAN`: Mailbox channel c (0–15) (R161). -/
def TIL_MSG_CHAN (t : Nat) (c : Nat) : Nat := 0x10004000 + t * 0x10000 + c * 0x8
def TIL_MSG_CHAN_COUNT (t : Nat) (c : Nat) : Fld := ⟨TIL_MSG_CHAN t c, 0, 5⟩
def TIL_MSG_CHAN_PERSIST (t : Nat) (c : Nat) : Fld := ⟨TIL_MSG_CHAN t c, 5, 1⟩
def TIL_MSG_CHAN_REMOTE_OK (t : Nat) (c : Nat) : Fld := ⟨TIL_MSG_CHAN t c, 6, 1⟩
def TIL_MSG_CHAN_DISCARDED (t : Nat) (c : Nat) : Fld := ⟨TIL_MSG_CHAN t c, 16, 16⟩

/-- `TIL_MSG_STATUS`: Message counters (R161). -/
def TIL_MSG_STATUS (t : Nat) : Nat := 0x10004080 + t * 0x10000
def TIL_MSG_STATUS_REFUSED (t : Nat) : Fld := ⟨TIL_MSG_STATUS t, 0, 16⟩
def TIL_MSG_STATUS_STALE_EPOCH (t : Nat) : Fld := ⟨TIL_MSG_STATUS t, 16, 16⟩
def TIL_MSG_STATUS_UNDELIVERABLE (t : Nat) : Fld := ⟨TIL_MSG_STATUS t, 32, 16⟩
def TIL_MSG_STATUS_RETRIES (t : Nat) : Fld := ⟨TIL_MSG_STATUS t, 48, 16⟩

/-- `TIL_MSG_FLOWS`: Active flows (R161). -/
def TIL_MSG_FLOWS (t : Nat) : Nat := 0x10004088 + t * 0x10000
def TIL_MSG_FLOWS_ACTIVE (t : Nat) : Fld := ⟨TIL_MSG_FLOWS t, 0, 7⟩

/-! Registers of spec/08_number_formats.md. -/

/-- `TIL_NUM_FAULTS`: Non-finite and overflow counts of set c (0–15) (R189). -/
def TIL_NUM_FAULTS (t : Nat) (c : Nat) : Nat := 0x10000800 + t * 0x10000 + c * 0x20
def TIL_NUM_FAULTS_NONFINITE (t : Nat) (c : Nat) : Fld := ⟨TIL_NUM_FAULTS t c, 0, 32⟩
def TIL_NUM_FAULTS_OVERFLOW (t : Nat) (c : Nat) : Fld := ⟨TIL_NUM_FAULTS t c, 32, 32⟩

/-- `TIL_NUM_RANGE`: Underflow and vanish counts of set c (R189). -/
def TIL_NUM_RANGE (t : Nat) (c : Nat) : Nat := 0x10000808 + t * 0x10000 + c * 0x20
def TIL_NUM_RANGE_UNDERFLOW (t : Nat) (c : Nat) : Fld := ⟨TIL_NUM_RANGE t c, 0, 32⟩
def TIL_NUM_RANGE_VANISH (t : Nat) (c : Nat) : Fld := ⟨TIL_NUM_RANGE t c, 32, 32⟩

/-- `TIL_NUM_QUANT`: Escape and zero-unit counts of set c (R189). -/
def TIL_NUM_QUANT (t : Nat) (c : Nat) : Nat := 0x10000810 + t * 0x10000 + c * 0x20
def TIL_NUM_QUANT_ESCAPED (t : Nat) (c : Nat) : Fld := ⟨TIL_NUM_QUANT t c, 0, 32⟩
def TIL_NUM_QUANT_ZERO_UNITS (t : Nat) (c : Nat) : Fld := ⟨TIL_NUM_QUANT t c, 32, 16⟩

/-! Registers of spec/09_matrix_arrays.md. -/

/-- `ARR_SHAPE`: Usable widths and clamp in force (R208). -/
def ARR_SHAPE (t : Nat) : Nat := 0x10001000 + t * 0x10000
def ARR_SHAPE_F_WIDTH (t : Nat) : Fld := ⟨ARR_SHAPE t, 0, 7⟩
def ARR_SHAPE_B0_WIDTH (t : Nat) : Fld := ⟨ARR_SHAPE t, 8, 7⟩
def ARR_SHAPE_B1_WIDTH (t : Nat) : Fld := ⟨ARR_SHAPE t, 16, 7⟩
def ARR_SHAPE_CLAMP (t : Nat) : Fld := ⟨ARR_SHAPE t, 24, 7⟩

/-- `ARR_BYPASS_F`: Bad-column map of the F-array (R208). -/
def ARR_BYPASS_F (t : Nat) : Nat := 0x10001008 + t * 0x10000
def ARR_BYPASS_F_BAD (t : Nat) : Fld := ⟨ARR_BYPASS_F t, 0, 64⟩

/-- `ARR_BYPASS_B0`: Bad-column map of B0 (R208). -/
def ARR_BYPASS_B0 (t : Nat) : Nat := 0x10001010 + t * 0x10000
def ARR_BYPASS_B0_BAD (t : Nat) : Fld := ⟨ARR_BYPASS_B0 t, 0, 64⟩

/-- `ARR_BYPASS_B1`: Bad-column map of B1 (R208). -/
def ARR_BYPASS_B1 (t : Nat) : Nat := 0x10001018 + t * 0x10000
def ARR_BYPASS_B1_BAD (t : Nat) : Fld := ⟨ARR_BYPASS_B1 t, 0, 64⟩

/-- `ARR_STATUS`: Running operations and held operands (R208). -/
def ARR_STATUS (t : Nat) : Nat := 0x10001020 + t * 0x10000
def ARR_STATUS_BUSY (t : Nat) : Fld := ⟨ARR_STATUS t, 0, 3⟩
def ARR_STATUS_HELD (t : Nat) : Fld := ⟨ARR_STATUS t, 3, 3⟩
def ARR_STATUS_TURN_PLACES (t : Nat) : Fld := ⟨ARR_STATUS t, 6, 2⟩
def ARR_STATUS_F_TICKET (t : Nat) : Fld := ⟨ARR_STATUS t, 16, 16⟩
def ARR_STATUS_B0_TICKET (t : Nat) : Fld := ⟨ARR_STATUS t, 32, 16⟩
def ARR_STATUS_B1_TICKET (t : Nat) : Fld := ⟨ARR_STATUS t, 48, 16⟩

/-- `ARR_CNT_ROWS`: Streaming clk of array a (0 F, 1 B0, 2 B1) (R208). -/
def ARR_CNT_ROWS (t : Nat) (a : Nat) : Nat := 0x10001040 + t * 0x10000 + a * 0x20
def ARR_CNT_ROWS_ROW_CLK (t : Nat) (a : Nat) : Fld := ⟨ARR_CNT_ROWS t a, 0, 48⟩

/-- `ARR_CNT_LOAD`: Load clk of array a (R208). -/
def ARR_CNT_LOAD (t : Nat) (a : Nat) : Nat := 0x10001048 + t * 0x10000 + a * 0x20
def ARR_CNT_LOAD_LOAD_CLK (t : Nat) (a : Nat) : Fld := ⟨ARR_CNT_LOAD t a, 0, 48⟩

/-- `ARR_CNT_ESC`: Escape passes and skipped loads of array a (R208). -/
def ARR_CNT_ESC (t : Nat) (a : Nat) : Nat := 0x10001050 + t * 0x10000 + a * 0x20
def ARR_CNT_ESC_PASSES (t : Nat) (a : Nat) : Fld := ⟨ARR_CNT_ESC t a, 0, 32⟩
def ARR_CNT_ESC_KEEP_HITS (t : Nat) (a : Nat) : Fld := ⟨ARR_CNT_ESC t a, 32, 32⟩

/-- `ARR_CNT_WAIT`: Wait clk of array a (R208). -/
def ARR_CNT_WAIT (t : Nat) (a : Nat) : Nat := 0x10001058 + t * 0x10000 + a * 0x20
def ARR_CNT_WAIT_WAIT_CLK (t : Nat) (a : Nat) : Fld := ⟨ARR_CNT_WAIT t a, 0, 48⟩

/-! Registers of spec/10_backward_and_training_support.md. -/

/-- `CTL_LAYER_SEL`: Domain shown by the layer registers (R230). -/
def CTL_LAYER_SEL : Nat := 0x800
def CTL_LAYER_SEL_DOMAIN : Fld := ⟨CTL_LAYER_SEL, 0, 6⟩

/-- `CTL_LAYER_STEP`: Step number held in LAST; 0 when none (R230). -/
def CTL_LAYER_STEP : Nat := 0x808
def CTL_LAYER_STEP_STEP : Fld := ⟨CTL_LAYER_STEP, 0, 64⟩

/-- `CTL_LAYER_LOSS`: LAST loss accumulator (FP64) (R230). -/
def CTL_LAYER_LOSS : Nat := 0x810
def CTL_LAYER_LOSS_LOSS : Fld := ⟨CTL_LAYER_LOSS, 0, 64⟩

/-- `CTL_DOM_NONFINITE`: Non-finite flags of domain d (0–63) (R230). -/
def CTL_DOM_NONFINITE (d : Nat) : Nat := 0xC00 + d * 0x8
def CTL_DOM_NONFINITE_STEP_NF (d : Nat) : Fld := ⟨CTL_DOM_NONFINITE d, 0, 1⟩
def CTL_DOM_NONFINITE_LAST_NF (d : Nat) : Fld := ⟨CTL_DOM_NONFINITE d, 1, 1⟩
def CTL_DOM_NONFINITE_NF_STEPS (d : Nat) : Fld := ⟨CTL_DOM_NONFINITE d, 16, 16⟩

/-- `CTL_SPIKE_MEAN`: Detector mean of domain d (FP64) (R230). -/
def CTL_SPIKE_MEAN (d : Nat) : Nat := 0x1000 + d * 0x20
def CTL_SPIKE_MEAN_MEAN (d : Nat) : Fld := ⟨CTL_SPIKE_MEAN d, 0, 64⟩

/-- `CTL_SPIKE_VAR`: Detector variance of domain d (FP64) (R230). -/
def CTL_SPIKE_VAR (d : Nat) : Nat := 0x1008 + d * 0x20
def CTL_SPIKE_VAR_VAR (d : Nat) : Fld := ⟨CTL_SPIKE_VAR d, 0, 64⟩

/-- `CTL_SPIKE_STATUS`: Detector counts of domain d (R230). -/
def CTL_SPIKE_STATUS (d : Nat) : Nat := 0x1010 + d * 0x20
def CTL_SPIKE_STATUS_COUNT (d : Nat) : Fld := ⟨CTL_SPIKE_STATUS d, 0, 16⟩
def CTL_SPIKE_STATUS_CONSEC (d : Nat) : Fld := ⟨CTL_SPIKE_STATUS d, 16, 4⟩
def CTL_SPIKE_STATUS_SPIKES (d : Nat) : Fld := ⟨CTL_SPIKE_STATUS d, 32, 16⟩

/-- `CTL_LAYER_FOOT`: FOOT sum of layer counter l (0–4,095) (R230). -/
def CTL_LAYER_FOOT (l : Nat) : Nat := 0x20000 + l * 0x20
def CTL_LAYER_FOOT_SUM (l : Nat) : Fld := ⟨CTL_LAYER_FOOT l, 0, 64⟩

/-- `CTL_LAYER_WEIGHT`: WEIGHT sum of layer counter l (R230). -/
def CTL_LAYER_WEIGHT (l : Nat) : Nat := 0x20008 + l * 0x20
def CTL_LAYER_WEIGHT_SUM (l : Nat) : Fld := ⟨CTL_LAYER_WEIGHT l, 0, 64⟩

/-- `CTL_LAYER_UPDATE`: UPDATE sum of layer counter l (R230). -/
def CTL_LAYER_UPDATE (l : Nat) : Nat := 0x20010 + l * 0x20
def CTL_LAYER_UPDATE_SUM (l : Nat) : Fld := ⟨CTL_LAYER_UPDATE l, 0, 64⟩

/-- `CTL_LAYER_FLAGS`: Flags of layer counter l (R230). -/
def CTL_LAYER_FLAGS (l : Nat) : Nat := 0x20018 + l * 0x20
def CTL_LAYER_FLAGS_TOUCHED (l : Nat) : Fld := ⟨CTL_LAYER_FLAGS l, 0, 1⟩
def CTL_LAYER_FLAGS_NONFINITE (l : Nat) : Fld := ⟨CTL_LAYER_FLAGS l, 1, 1⟩
def CTL_LAYER_FLAGS_LOST (l : Nat) : Fld := ⟨CTL_LAYER_FLAGS l, 2, 1⟩

/-- `TIL_TAP_STATUS`: Tap table state (R231). -/
def TIL_TAP_STATUS (t : Nat) : Nat := 0x10000A00 + t * 0x10000
def TIL_TAP_STATUS_ENTRIES (t : Nat) : Fld := ⟨TIL_TAP_STATUS t, 0, 7⟩
def TIL_TAP_STATUS_LOST (t : Nat) : Fld := ⟨TIL_TAP_STATUS t, 16, 16⟩

/-! Registers of spec/11_vector_engine_and_convolution.md. -/

/-- `VEC_STATUS`: Running operation (R252). -/
def VEC_STATUS (t : Nat) : Nat := 0x10002000 + t * 0x10000
def VEC_STATUS_TICKET (t : Nat) : Fld := ⟨VEC_STATUS t, 0, 16⟩
def VEC_STATUS_OP (t : Nat) : Fld := ⟨VEC_STATUS t, 16, 8⟩
def VEC_STATUS_GENERATORS (t : Nat) : Fld := ⟨VEC_STATUS t, 24, 4⟩

/-- `VEC_CNT_BEATS`: Beats executed (R252). -/
def VEC_CNT_BEATS (t : Nat) : Nat := 0x10002008 + t * 0x10000
def VEC_CNT_BEATS_COUNT (t : Nat) : Fld := ⟨VEC_CNT_BEATS t, 0, 48⟩

/-- `VEC_CNT_WAIT`: clk lost to bank arbitration (R252). -/
def VEC_CNT_WAIT (t : Nat) : Nat := 0x10002010 + t * 0x10000
def VEC_CNT_WAIT_COUNT (t : Nat) : Fld := ⟨VEC_CNT_WAIT t, 0, 48⟩

/-- `VEC_CNT_GEN`: clk lost to the generator limit (R244) (R252). -/
def VEC_CNT_GEN (t : Nat) : Nat := 0x10002018 + t * 0x10000
def VEC_CNT_GEN_COUNT (t : Nat) : Fld := ⟨VEC_CNT_GEN t, 0, 48⟩

/-- `VEC_SUM`: Summary register s (0–15) (R252). -/
def VEC_SUM (t : Nat) (s : Nat) : Nat := 0x10002100 + t * 0x10000 + s * 0x8
def VEC_SUM_VALUE (t : Nat) (s : Nat) : Fld := ⟨VEC_SUM t s, 0, 64⟩

/-! Registers of spec/12_attention_and_kv_cache.md. -/

/-- `KVP_CTRL`: Enable and initialise (R286). -/
def KVP_CTRL : Nat := 0x700000
def KVP_CTRL_ENABLE : Fld := ⟨KVP_CTRL, 0, 1⟩
def KVP_CTRL_INIT : Fld := ⟨KVP_CTRL, 1, 1⟩

/-- `KVP_STATUS`: State, last error, open sequences (R286). -/
def KVP_STATUS : Nat := 0x700008
def KVP_STATUS_STATE : Fld := ⟨KVP_STATUS, 0, 2⟩
def KVP_STATUS_LAST_ERROR : Fld := ⟨KVP_STATUS, 16, 16⟩
def KVP_STATUS_OPEN_SEQS : Fld := ⟨KVP_STATUS, 32, 17⟩

/-- `KVP_TABLE_BASE`: Page-table address in HBM (R286). -/
def KVP_TABLE_BASE : Nat := 0x700010
def KVP_TABLE_BASE_ADDR : Fld := ⟨KVP_TABLE_BASE, 0, 48⟩

/-- `KVP_SPILL_DDR`: Host DDR spill area (R286). -/
def KVP_SPILL_DDR : Nat := 0x700018
def KVP_SPILL_DDR_BASE : Fld := ⟨KVP_SPILL_DDR, 21, 27⟩
def KVP_SPILL_DDR_SIZE : Fld := ⟨KVP_SPILL_DDR, 48, 16⟩

/-- `KVP_SPILL_CXL`: CXL spill area (R286). -/
def KVP_SPILL_CXL : Nat := 0x700020
def KVP_SPILL_CXL_BASE : Fld := ⟨KVP_SPILL_CXL, 21, 27⟩
def KVP_SPILL_CXL_SIZE : Fld := ⟨KVP_SPILL_CXL, 48, 16⟩

/-- `KVP_RECLAIM`: Reclamation and prefetch (R286). -/
def KVP_RECLAIM : Nat := 0x700028
def KVP_RECLAIM_LOW_PCT : Fld := ⟨KVP_RECLAIM, 0, 8⟩
def KVP_RECLAIM_HIGH_PCT : Fld := ⟨KVP_RECLAIM, 8, 8⟩
def KVP_RECLAIM_PREFETCH_RUNS : Fld := ⟨KVP_RECLAIM, 16, 8⟩
def KVP_RECLAIM_SPILL_RUNS : Fld := ⟨KVP_RECLAIM, 24, 8⟩
def KVP_RECLAIM_ACCESS_GRAIN : Fld := ⟨KVP_RECLAIM, 32, 16⟩

/-- `KVP_SPILL_USED`: Spill space in use (R286). -/
def KVP_SPILL_USED : Nat := 0x700030
def KVP_SPILL_USED_DDR : Fld := ⟨KVP_SPILL_USED, 0, 32⟩
def KVP_SPILL_USED_CXL : Fld := ⟨KVP_SPILL_USED, 32, 32⟩

/-- `KVP_POOL_GEOM`: Geometry of pool p (0–7) (R286). -/
def KVP_POOL_GEOM (p : Nat) : Nat := 0x700100 + p * 0x20
def KVP_POOL_GEOM_HEAD_DIM (p : Nat) : Fld := ⟨KVP_POOL_GEOM p, 0, 2⟩
def KVP_POOL_GEOM_K_TYPE (p : Nat) : Fld := ⟨KVP_POOL_GEOM p, 4, 4⟩
def KVP_POOL_GEOM_V_TYPE (p : Nat) : Fld := ⟨KVP_POOL_GEOM p, 8, 4⟩

/-- `KVP_POOL_FREE`: Free and total pages of pool p (R286). -/
def KVP_POOL_FREE (p : Nat) : Nat := 0x700108 + p * 0x20
def KVP_POOL_FREE_FREE (p : Nat) : Fld := ⟨KVP_POOL_FREE p, 0, 32⟩
def KVP_POOL_FREE_TOTAL (p : Nat) : Fld := ⟨KVP_POOL_FREE p, 32, 32⟩

/-- `KVP_POOL_STATS`: Pages spilled and returned (R286). -/
def KVP_POOL_STATS (p : Nat) : Nat := 0x700110 + p * 0x20
def KVP_POOL_STATS_SPILLED (p : Nat) : Fld := ⟨KVP_POOL_STATS p, 0, 32⟩
def KVP_POOL_STATS_RETURNED (p : Nat) : Fld := ⟨KVP_POOL_STATS p, 32, 32⟩

/-- `KVP_POOL_STATE`: Reclamation state of pool p (R286). -/
def KVP_POOL_STATE (p : Nat) : Nat := 0x700118 + p * 0x20
def KVP_POOL_STATE_ACTIVE (p : Nat) : Fld := ⟨KVP_POOL_STATE p, 0, 1⟩
def KVP_POOL_STATE_EMPTY_SEEN (p : Nat) : Fld := ⟨KVP_POOL_STATE p, 1, 1⟩
def KVP_POOL_STATE_STEALS (p : Nat) : Fld := ⟨KVP_POOL_STATE p, 16, 16⟩
def KVP_POOL_STATE_AGE_CUT (p : Nat) : Fld := ⟨KVP_POOL_STATE p, 32, 24⟩

/-- `KVW_STATUS`: Running operation (R287). -/
def KVW_STATUS (t : Nat) : Nat := 0x10003000 + t * 0x10000
def KVW_STATUS_TICKET (t : Nat) : Fld := ⟨KVW_STATUS t, 0, 16⟩
def KVW_STATUS_OP (t : Nat) : Fld := ⟨KVW_STATUS t, 16, 8⟩

/-- `KVW_CNT_FETCH`: Stretches and pages read (R287). -/
def KVW_CNT_FETCH (t : Nat) : Nat := 0x10003008 + t * 0x10000
def KVW_CNT_FETCH_STRETCHES (t : Nat) : Fld := ⟨KVW_CNT_FETCH t, 0, 32⟩
def KVW_CNT_FETCH_PAGES (t : Nat) : Fld := ⟨KVW_CNT_FETCH t, 32, 32⟩

/-- `KVW_CNT_CACHE`: Walker-cache lookups (R287). -/
def KVW_CNT_CACHE (t : Nat) : Nat := 0x10003010 + t * 0x10000
def KVW_CNT_CACHE_HITS (t : Nat) : Fld := ⟨KVW_CNT_CACHE t, 0, 32⟩
def KVW_CNT_CACHE_MISSES (t : Nat) : Fld := ⟨KVW_CNT_CACHE t, 32, 32⟩

/-- `KVW_CNT_TIER`: Host-tier reads and transit waits (R287). -/
def KVW_CNT_TIER (t : Nat) : Nat := 0x10003018 + t * 0x10000
def KVW_CNT_TIER_HOST_PAGES (t : Nat) : Fld := ⟨KVW_CNT_TIER t, 0, 32⟩
def KVW_CNT_TIER_TRANSIT_CLK (t : Nat) : Fld := ⟨KVW_CNT_TIER t, 32, 32⟩

/-! Registers of spec/13_stash_and_compression.md. -/

/-- `STH_CONFIG`: Headroom (R308). -/
def STH_CONFIG : Nat := 0x600000
def STH_CONFIG_HEADROOM_PCT : Fld := ⟨STH_CONFIG, 0, 8⟩

/-- `STH_STATUS`: Table state and live handles (R308). -/
def STH_STATUS : Nat := 0x600008
def STH_STATUS_TABLE_VALID : Fld := ⟨STH_STATUS, 0, 1⟩
def STH_STATUS_LIVE : Fld := ⟨STH_STATUS, 32, 18⟩

/-- `STH_TABLE_BASE`: Handle-table address (R308). -/
def STH_TABLE_BASE : Nat := 0x600010
def STH_TABLE_BASE_ADDR : Fld := ⟨STH_TABLE_BASE, 0, 48⟩

/-- `STH_HOST_DDR`: Host DDR area (R308). -/
def STH_HOST_DDR : Nat := 0x600018
def STH_HOST_DDR_BASE : Fld := ⟨STH_HOST_DDR, 21, 27⟩
def STH_HOST_DDR_SIZE : Fld := ⟨STH_HOST_DDR, 48, 16⟩

/-- `STH_HOST_CXL`: CXL area (R308). -/
def STH_HOST_CXL : Nat := 0x600020
def STH_HOST_CXL_BASE : Fld := ⟨STH_HOST_CXL, 21, 27⟩
def STH_HOST_CXL_SIZE : Fld := ⟨STH_HOST_CXL, 48, 16⟩

/-- `STH_HOST_USED`: Host space in use (R308). -/
def STH_HOST_USED : Nat := 0x600028
def STH_HOST_USED_DDR : Fld := ⟨STH_HOST_USED, 0, 32⟩
def STH_HOST_USED_CXL : Fld := ⟨STH_HOST_USED, 32, 32⟩

/-- `STH_DIE_HBM`: HBM stash use on die k (0–3) (R308). -/
def STH_DIE_HBM (k : Nat) : Nat := 0x600100 + k * 0x20
def STH_DIE_HBM_USED (k : Nat) : Fld := ⟨STH_DIE_HBM k, 0, 32⟩
def STH_DIE_HBM_BUDGET (k : Nat) : Fld := ⟨STH_DIE_HBM k, 32, 32⟩

/-- `STH_DIE_MOVES`: Demotions and returns (R308). -/
def STH_DIE_MOVES (k : Nat) : Nat := 0x600108 + k * 0x20
def STH_DIE_MOVES_DEMOTED (k : Nat) : Fld := ⟨STH_DIE_MOVES k, 0, 32⟩
def STH_DIE_MOVES_RETURNED (k : Nat) : Fld := ⟨STH_DIE_MOVES k, 32, 32⟩

/-- `STH_DIE_EVENTS`: Late fetches and refusals (R308). -/
def STH_DIE_EVENTS (k : Nat) : Nat := 0x600110 + k * 0x20
def STH_DIE_EVENTS_PREFETCH_LATE (k : Nat) : Fld := ⟨STH_DIE_EVENTS k, 0, 32⟩
def STH_DIE_EVENTS_FULL (k : Nat) : Fld := ⟨STH_DIE_EVENTS k, 32, 16⟩
def STH_DIE_EVENTS_PRESSURE (k : Nat) : Fld := ⟨STH_DIE_EVENTS k, 48, 16⟩

/-- `CDC_DIE_BYTES`: Raw and stored MiB through die k's codecs (R308). -/
def CDC_DIE_BYTES (k : Nat) : Nat := 0x800000 + k * 0x20
def CDC_DIE_BYTES_RAW (k : Nat) : Fld := ⟨CDC_DIE_BYTES k, 0, 32⟩
def CDC_DIE_BYTES_STORED (k : Nat) : Fld := ⟨CDC_DIE_BYTES k, 32, 32⟩

/-- `CDC_DIE_SUBS`: Substreams by outcome, die k (R308). -/
def CDC_DIE_SUBS (k : Nat) : Nat := 0x800008 + k * 0x20
def CDC_DIE_SUBS_ZERO (k : Nat) : Fld := ⟨CDC_DIE_SUBS k, 0, 16⟩
def CDC_DIE_SUBS_RAW (k : Nat) : Fld := ⟨CDC_DIE_SUBS k, 16, 16⟩
def CDC_DIE_SUBS_CODED (k : Nat) : Fld := ⟨CDC_DIE_SUBS k, 32, 16⟩
def CDC_DIE_SUBS_CORRUPT (k : Nat) : Fld := ⟨CDC_DIE_SUBS k, 48, 16⟩

/-- `CDC_LINK_BYTES`: Raw and stored MiB through link die n (0–3) (R308). -/
def CDC_LINK_BYTES (n : Nat) : Nat := 0x800100 + n * 0x20
def CDC_LINK_BYTES_RAW (n : Nat) : Fld := ⟨CDC_LINK_BYTES n, 0, 32⟩
def CDC_LINK_BYTES_STORED (n : Nat) : Fld := ⟨CDC_LINK_BYTES n, 32, 32⟩

/-! Registers of spec/14_memory_and_arbitration.md. -/

/-- `HBM_STATUS`: State, location, temperature (R329). -/
def HBM_STATUS (s : Nat) : Nat := 0x2000000 + s * 0x10000
def HBM_STATUS_STATE (s : Nat) : Fld := ⟨HBM_STATUS s, 0, 2⟩
def HBM_STATUS_SITE (s : Nat) : Fld := ⟨HBM_STATUS s, 2, 2⟩
def HBM_STATUS_DIE (s : Nat) : Fld := ⟨HBM_STATUS s, 4, 2⟩
def HBM_STATUS_TEMP (s : Nat) : Fld := ⟨HBM_STATUS s, 8, 8⟩
def HBM_STATUS_PCS (s : Nat) : Fld := ⟨HBM_STATUS s, 16, 7⟩

/-- `HBM_ECC`: Error counts (R329). -/
def HBM_ECC (s : Nat) : Nat := 0x2000008 + s * 0x10000
def HBM_ECC_CORRECTED (s : Nat) : Fld := ⟨HBM_ECC s, 0, 32⟩
def HBM_ECC_POISONED (s : Nat) : Fld := ⟨HBM_ECC s, 32, 16⟩
def HBM_ECC_SCRUB_FIXED (s : Nat) : Fld := ⟨HBM_ECC s, 48, 16⟩

/-- `HBM_SCRUB`: Scrub control (R329). -/
def HBM_SCRUB (s : Nat) : Nat := 0x2000010 + s * 0x10000
def HBM_SCRUB_ENABLE (s : Nat) : Fld := ⟨HBM_SCRUB s, 0, 1⟩
def HBM_SCRUB_PERIOD_H (s : Nat) : Fld := ⟨HBM_SCRUB s, 8, 8⟩
def HBM_SCRUB_PASSES (s : Nat) : Fld := ⟨HBM_SCRUB s, 16, 16⟩

/-- `HBM_HOTSPOT`: Hotspot state of this stack's channels (R329). -/
def HBM_HOTSPOT (s : Nat) : Nat := 0x2000018 + s * 0x10000
def HBM_HOTSPOT_PC (s : Nat) : Fld := ⟨HBM_HOTSPOT s, 0, 6⟩
def HBM_HOTSPOT_ACTIVE (s : Nat) : Fld := ⟨HBM_HOTSPOT s, 6, 1⟩
def HBM_HOTSPOT_IMBALANCE (s : Nat) : Fld := ⟨HBM_HOTSPOT s, 16, 16⟩
def HBM_HOTSPOT_EVENTS (s : Nat) : Fld := ⟨HBM_HOTSPOT s, 32, 16⟩

/-- `HBM_PC_COUNT`: Access counts of pseudo-channel p (0–63) (R329). -/
def HBM_PC_COUNT (s : Nat) (p : Nat) : Nat := 0x2000100 + s * 0x10000 + p * 0x8
def HBM_PC_COUNT_ACCESSES (s : Nat) (p : Nat) : Fld := ⟨HBM_PC_COUNT s p, 0, 40⟩
def HBM_PC_COUNT_LAST_TICK (s : Nat) (p : Nat) : Fld := ⟨HBM_PC_COUNT s p, 40, 24⟩

/-- `CTL_ARB_WATCHDOG`: Revocations per class (R327) (R330). -/
def CTL_ARB_WATCHDOG : Nat := 0x30
def CTL_ARB_WATCHDOG_BANK : Fld := ⟨CTL_ARB_WATCHDOG, 0, 16⟩
def CTL_ARB_WATCHDOG_HBM_QUEUE : Fld := ⟨CTL_ARB_WATCHDOG, 16, 16⟩
def CTL_ARB_WATCHDOG_MESH : Fld := ⟨CTL_ARB_WATCHDOG, 32, 16⟩
def CTL_ARB_WATCHDOG_LINK : Fld := ⟨CTL_ARB_WATCHDOG, 48, 16⟩

/-- `CTL_ARB_MODE`: Decision way per die (R326) (R330). -/
def CTL_ARB_MODE : Nat := 0x38
def CTL_ARB_MODE_COMPUTE : Fld := ⟨CTL_ARB_MODE, 0, 4⟩
def CTL_ARB_MODE_LINK : Fld := ⟨CTL_ARB_MODE, 4, 4⟩

/-! Registers of spec/15_sample_intake.md. -/

/-- `INT_CTRL`: Enable and host routing (R343). -/
def INT_CTRL : Nat := 0x400000
def INT_CTRL_ENABLE : Fld := ⟨INT_CTRL, 0, 1⟩
def INT_CTRL_WORKERS : Fld := ⟨INT_CTRL, 1, 1⟩

/-- `INT_STATUS`: State, error, pending batches (R343). -/
def INT_STATUS : Nat := 0x400008
def INT_STATUS_STATE : Fld := ⟨INT_STATUS, 0, 1⟩
def INT_STATUS_LAST_ERROR : Fld := ⟨INT_STATUS, 16, 16⟩
def INT_STATUS_PENDING : Fld := ⟨INT_STATUS, 32, 16⟩
def INT_STATUS_STALE_DONE : Fld := ⟨INT_STATUS, 48, 16⟩

/-- `INT_CONFIG`: Ring sizes and slot size (R343). -/
def INT_CONFIG : Nat := 0x400010
def INT_CONFIG_RING_LOG2 : Fld := ⟨INT_CONFIG, 0, 4⟩
def INT_CONFIG_WORKER_LOG2 : Fld := ⟨INT_CONFIG, 4, 4⟩
def INT_CONFIG_SLOT_MIB : Fld := ⟨INT_CONFIG, 8, 16⟩

/-- `INT_RING_BASE`: Intake ring base, bits [47:12] (R343). -/
def INT_RING_BASE : Nat := 0x400018
def INT_RING_BASE_BASE : Fld := ⟨INT_RING_BASE, 12, 36⟩

/-- `INT_WORKER_BASE`: Worker ring base, bits [47:12] (R343). -/
def INT_WORKER_BASE : Nat := 0x400020
def INT_WORKER_BASE_BASE : Fld := ⟨INT_WORKER_BASE, 12, 36⟩

/-- `INT_POOL`: Ready pool (R343). -/
def INT_POOL : Nat := 0x400028
def INT_POOL_BASE : Fld := ⟨INT_POOL, 21, 27⟩
def INT_POOL_SIZE : Fld := ⟨INT_POOL, 48, 16⟩

/-- `INT_RING_PTR`: Intake ring pointers (R343). -/
def INT_RING_PTR : Nat := 0x400030
def INT_RING_PTR_TAIL : Fld := ⟨INT_RING_PTR, 0, 12⟩
def INT_RING_PTR_HEAD : Fld := ⟨INT_RING_PTR, 16, 12⟩

/-- `INT_WORKER_PTR`: Worker ring pointers (R343). -/
def INT_WORKER_PTR : Nat := 0x400038
def INT_WORKER_PTR_TAIL : Fld := ⟨INT_WORKER_PTR, 0, 12⟩
def INT_WORKER_PTR_HEAD : Fld := ⟨INT_WORKER_PTR, 16, 12⟩

/-- `INT_WORKER_DONE`: Worker completion (R343). -/
def INT_WORKER_DONE : Nat := 0x400040
def INT_WORKER_DONE_TOKEN : Fld := ⟨INT_WORKER_DONE, 0, 32⟩
def INT_WORKER_DONE_STATUS : Fld := ⟨INT_WORKER_DONE, 32, 16⟩

/-- `INT_COUNTS`: Seal outcomes (R343). -/
def INT_COUNTS : Nat := 0x400048
def INT_COUNTS_DEFERRED : Fld := ⟨INT_COUNTS, 0, 16⟩
def INT_COUNTS_REPLACED : Fld := ⟨INT_COUNTS, 16, 16⟩
def INT_COUNTS_DROPPED : Fld := ⟨INT_COUNTS, 32, 16⟩
def INT_COUNTS_SHORT : Fld := ⟨INT_COUNTS, 48, 16⟩

/-- `INT_ENGINE`: Decode engine e (0–15) (R343). -/
def INT_ENGINE (e : Nat) : Nat := 0x400100 + e * 0x8
def INT_ENGINE_QUEUED (e : Nat) : Fld := ⟨INT_ENGINE e, 0, 8⟩
def INT_ENGINE_BUSY (e : Nat) : Fld := ⟨INT_ENGINE e, 8, 1⟩
def INT_ENGINE_SAMPLES (e : Nat) : Fld := ⟨INT_ENGINE e, 32, 32⟩

/-! Registers of spec/16_line_and_collectives.md. -/

/-- `LNK_STATUS`: Ports up, admission, live peers (R371). -/
def LNK_STATUS (n : Nat) : Nat := 0x1000000 + n * 0x100000
def LNK_STATUS_PORTS_UP (n : Nat) : Fld := ⟨LNK_STATUS n, 0, 12⟩
def LNK_STATUS_ADMITTED (n : Nat) : Fld := ⟨LNK_STATUS n, 16, 1⟩
def LNK_STATUS_PEERS_LIVE (n : Nat) : Fld := ⟨LNK_STATUS n, 32, 16⟩

/-- `LNK_ZWINE_CFG`: Zwine settings (R371). -/
def LNK_ZWINE_CFG (n : Nat) : Nat := 0x1000008 + n * 0x100000
def LNK_ZWINE_CFG_UDP_PORT (n : Nat) : Fld := ⟨LNK_ZWINE_CFG n, 0, 16⟩
def LNK_ZWINE_CFG_DSCP (n : Nat) : Fld := ⟨LNK_ZWINE_CFG n, 16, 6⟩
def LNK_ZWINE_CFG_IPV4 (n : Nat) : Fld := ⟨LNK_ZWINE_CFG n, 22, 1⟩
def LNK_ZWINE_CFG_MAX_MINOR (n : Nat) : Fld := ⟨LNK_ZWINE_CFG n, 24, 8⟩
def LNK_ZWINE_CFG_PEER_TIMEOUT (n : Nat) : Fld := ⟨LNK_ZWINE_CFG n, 32, 16⟩
def LNK_ZWINE_CFG_PAYLOAD_MAX (n : Nat) : Fld := ⟨LNK_ZWINE_CFG n, 48, 2⟩

/-- `LNK_HOLD_HBM`: Holding area for operands and tails (R371). -/
def LNK_HOLD_HBM (n : Nat) : Nat := 0x1000010 + n * 0x100000
def LNK_HOLD_HBM_BASE (n : Nat) : Fld := ⟨LNK_HOLD_HBM n, 21, 27⟩
def LNK_HOLD_HBM_SIZE (n : Nat) : Fld := ⟨LNK_HOLD_HBM n, 48, 16⟩

/-- `LNK_HOLD_USED`: Holding space in use (R371). -/
def LNK_HOLD_USED (n : Nat) : Nat := 0x1000018 + n * 0x100000
def LNK_HOLD_USED_SRAM (n : Nat) : Fld := ⟨LNK_HOLD_USED n, 0, 32⟩
def LNK_HOLD_USED_HBM (n : Nat) : Fld := ⟨LNK_HOLD_USED n, 32, 32⟩

/-- `LNK_FLOW_COUNTS`: Transport counters (R371). -/
def LNK_FLOW_COUNTS (n : Nat) : Nat := 0x1000020 + n * 0x100000
def LNK_FLOW_COUNTS_RETRANSMITS (n : Nat) : Fld := ⟨LNK_FLOW_COUNTS n, 0, 32⟩
def LNK_FLOW_COUNTS_FOREIGN (n : Nat) : Fld := ⟨LNK_FLOW_COUNTS n, 32, 16⟩
def LNK_FLOW_COUNTS_CE_MARKS (n : Nat) : Fld := ⟨LNK_FLOW_COUNTS n, 48, 16⟩

/-- `LNK_COLL_COUNTS`: Collective outcomes (R371). -/
def LNK_COLL_COUNTS (n : Nat) : Nat := 0x1000028 + n * 0x100000
def LNK_COLL_COUNTS_COMPLETE (n : Nat) : Fld := ⟨LNK_COLL_COUNTS n, 0, 16⟩
def LNK_COLL_COUNTS_PARTIAL (n : Nat) : Fld := ⟨LNK_COLL_COUNTS n, 16, 16⟩
def LNK_COLL_COUNTS_FAILED (n : Nat) : Fld := ⟨LNK_COLL_COUNTS n, 32, 16⟩
def LNK_COLL_COUNTS_NONFINITE (n : Nat) : Fld := ⟨LNK_COLL_COUNTS n, 48, 16⟩

/-- `LNK_TAIL_COUNTS`: Tails (R371). -/
def LNK_TAIL_COUNTS (n : Nat) : Nat := 0x1000030 + n * 0x100000
def LNK_TAIL_COUNTS_HELD (n : Nat) : Fld := ⟨LNK_TAIL_COUNTS n, 0, 16⟩
def LNK_TAIL_COUNTS_ADDED (n : Nat) : Fld := ⟨LNK_TAIL_COUNTS n, 16, 16⟩
def LNK_TAIL_COUNTS_DISCARDED (n : Nat) : Fld := ⟨LNK_TAIL_COUNTS n, 32, 16⟩
def LNK_TAIL_COUNTS_OVERFLOW (n : Nat) : Fld := ⟨LNK_TAIL_COUNTS n, 48, 16⟩

/-- `LNK_SRAM_ECC`: Buffer SRAM errors (R371). -/
def LNK_SRAM_ECC (n : Nat) : Nat := 0x1000038 + n * 0x100000
def LNK_SRAM_ECC_CORRECTED (n : Nat) : Fld := ⟨LNK_SRAM_ECC n, 0, 32⟩
def LNK_SRAM_ECC_UNCORRECTABLE (n : Nat) : Fld := ⟨LNK_SRAM_ECC n, 32, 16⟩

/-- `LNK_PEER_SEL`: Peer shown in LNK_PEER_INFO (R371). -/
def LNK_PEER_SEL (n : Nat) : Nat := 0x1000040 + n * 0x100000
def LNK_PEER_SEL_RANK (n : Nat) : Fld := ⟨LNK_PEER_SEL n, 0, 16⟩

/-- `LNK_PEER_INFO`: State of the selected peer (R371). -/
def LNK_PEER_INFO (n : Nat) : Nat := 0x1000048 + n * 0x100000
def LNK_PEER_INFO_STATE (n : Nat) : Fld := ⟨LNK_PEER_INFO n, 0, 4⟩
def LNK_PEER_INFO_MINOR (n : Nat) : Fld := ⟨LNK_PEER_INFO n, 8, 8⟩
def LNK_PEER_INFO_RTT (n : Nat) : Fld := ⟨LNK_PEER_INFO n, 16, 16⟩
def LNK_PEER_INFO_RETX (n : Nat) : Fld := ⟨LNK_PEER_INFO n, 32, 32⟩

/-- `LNK_PORT_CFG`: Port p (0–11) (R371). -/
def LNK_PORT_CFG (n : Nat) (p : Nat) : Nat := 0x1000100 + n * 0x100000 + p * 0x10
def LNK_PORT_CFG_SPEED (n : Nat) (p : Nat) : Fld := ⟨LNK_PORT_CFG n p, 0, 2⟩
def LNK_PORT_CFG_PMD (n : Nat) (p : Nat) : Fld := ⟨LNK_PORT_CFG n p, 2, 2⟩
def LNK_PORT_CFG_FIRST_LANE (n : Nat) (p : Nat) : Fld := ⟨LNK_PORT_CFG n p, 8, 8⟩
def LNK_PORT_CFG_MAC (n : Nat) (p : Nat) : Fld := ⟨LNK_PORT_CFG n p, 16, 48⟩

/-- `LNK_PORT_STATUS`: Port p state and counters (R371). -/
def LNK_PORT_STATUS (n : Nat) (p : Nat) : Nat := 0x1000108 + n * 0x100000 + p * 0x10
def LNK_PORT_STATUS_UP (n : Nat) (p : Nat) : Fld := ⟨LNK_PORT_STATUS n p, 0, 1⟩
def LNK_PORT_STATUS_FAILED_LANES (n : Nat) (p : Nat) : Fld := ⟨LNK_PORT_STATUS n p, 8, 8⟩
def LNK_PORT_STATUS_RETRAINS (n : Nat) (p : Nat) : Fld := ⟨LNK_PORT_STATUS n p, 16, 16⟩
def LNK_PORT_STATUS_FEC_UNCORR (n : Nat) (p : Nat) : Fld := ⟨LNK_PORT_STATUS n p, 32, 16⟩
def LNK_PORT_STATUS_CRC_ERR (n : Nat) (p : Nat) : Fld := ⟨LNK_PORT_STATUS n p, 48, 16⟩

/-! Registers of spec/17_optimizer.md. -/

/-- `CTL_UPD_STATUS`: Latch and outcome of domain d (0–63) (R390). -/
def CTL_UPD_STATUS (d : Nat) : Nat := 0x1800 + d * 0x10
def CTL_UPD_STATUS_OUTCOME (d : Nat) : Fld := ⟨CTL_UPD_STATUS d, 0, 16⟩
def CTL_UPD_STATUS_LATCHED (d : Nat) : Fld := ⟨CTL_UPD_STATUS d, 16, 1⟩
def CTL_UPD_STATUS_DECIDED (d : Nat) : Fld := ⟨CTL_UPD_STATUS d, 17, 1⟩
def CTL_UPD_STATUS_STEP (d : Nat) : Fld := ⟨CTL_UPD_STATUS d, 32, 32⟩

/-- `CTL_UPD_COUNTS`: Update counts of domain d (R390). -/
def CTL_UPD_COUNTS (d : Nat) : Nat := 0x1808 + d * 0x10
def CTL_UPD_COUNTS_CARRIED_STEPS (d : Nat) : Fld := ⟨CTL_UPD_COUNTS d, 0, 16⟩
def CTL_UPD_COUNTS_FLOORED (d : Nat) : Fld := ⟨CTL_UPD_COUNTS d, 16, 16⟩
def CTL_UPD_COUNTS_ZERO_ROWS (d : Nat) : Fld := ⟨CTL_UPD_COUNTS d, 32, 32⟩

/-! Registers of spec/18_survival.md. -/

/-- `CTL_SRV_RISK`: Risk estimate and ripcord state (R412). -/
def CTL_SRV_RISK : Nat := 0x2000
def CTL_SRV_RISK_RISK : Fld := ⟨CTL_SRV_RISK, 0, 10⟩
def CTL_SRV_RISK_ARMED : Fld := ⟨CTL_SRV_RISK, 10, 1⟩

/-- `CTL_SRV_CONFIG`: Ripcord, half-life (R412). -/
def CTL_SRV_CONFIG : Nat := 0x2008
def CTL_SRV_CONFIG_RIPCORD : Fld := ⟨CTL_SRV_CONFIG, 0, 10⟩
def CTL_SRV_CONFIG_HALF_LIFE : Fld := ⟨CTL_SRV_CONFIG, 16, 16⟩

/-- `CTL_SRV_WEIGHTS`: Weights of BATTERY, COOLANT, NONFINITE, SPIKE (R412). -/
def CTL_SRV_WEIGHTS : Nat := 0x2010
def CTL_SRV_WEIGHTS_BATTERY : Fld := ⟨CTL_SRV_WEIGHTS, 0, 16⟩
def CTL_SRV_WEIGHTS_COOLANT : Fld := ⟨CTL_SRV_WEIGHTS, 16, 16⟩
def CTL_SRV_WEIGHTS_NONFINITE : Fld := ⟨CTL_SRV_WEIGHTS, 32, 16⟩
def CTL_SRV_WEIGHTS_SPIKE : Fld := ⟨CTL_SRV_WEIGHTS, 48, 16⟩

/-- `CTL_SRV_WEIGHTS2`: Weights of ECC, RETRAIN, OVERRUN, DROOP (R412). -/
def CTL_SRV_WEIGHTS2 : Nat := 0x2018
def CTL_SRV_WEIGHTS2_DROOP : Fld := ⟨CTL_SRV_WEIGHTS2, 0, 16⟩
def CTL_SRV_WEIGHTS2_OVERRUN : Fld := ⟨CTL_SRV_WEIGHTS2, 16, 16⟩
def CTL_SRV_WEIGHTS2_RETRAIN : Fld := ⟨CTL_SRV_WEIGHTS2, 32, 16⟩
def CTL_SRV_WEIGHTS2_ECC : Fld := ⟨CTL_SRV_WEIGHTS2, 48, 16⟩

/-- `CTL_SRV_SPOOL`: Host spool ring (R412). -/
def CTL_SRV_SPOOL : Nat := 0x2020
def CTL_SRV_SPOOL_BASE : Fld := ⟨CTL_SRV_SPOOL, 12, 36⟩
def CTL_SRV_SPOOL_SIZE : Fld := ⟨CTL_SRV_SPOOL, 48, 15⟩
def CTL_SRV_SPOOL_GAP : Fld := ⟨CTL_SRV_SPOOL, 63, 1⟩

/-- `CTL_SRV_SPOOL_PTR`: Ring head and tail (R412). -/
def CTL_SRV_SPOOL_PTR : Nat := 0x2028
def CTL_SRV_SPOOL_PTR_HEAD : Fld := ⟨CTL_SRV_SPOOL_PTR, 0, 32⟩
def CTL_SRV_SPOOL_PTR_TAIL : Fld := ⟨CTL_SRV_SPOOL_PTR, 32, 32⟩

/-- `CTL_SRV_PARTNER`: Chosen partner (R412). -/
def CTL_SRV_PARTNER : Nat := 0x2030
def CTL_SRV_PARTNER_INDEX : Fld := ⟨CTL_SRV_PARTNER, 0, 2⟩
def CTL_SRV_PARTNER_NONE : Fld := ⟨CTL_SRV_PARTNER, 2, 1⟩
def CTL_SRV_PARTNER_SAME_FEED : Fld := ⟨CTL_SRV_PARTNER, 3, 1⟩
def CTL_SRV_PARTNER_UNKNOWN_FEED : Fld := ⟨CTL_SRV_PARTNER, 4, 1⟩
def CTL_SRV_PARTNER_REFUSED : Fld := ⟨CTL_SRV_PARTNER, 5, 3⟩

/-- `CTL_SRV_DOM_SNAP`: Latest whole snapshot step of domain d (R412). -/
def CTL_SRV_DOM_SNAP (d : Nat) : Nat := 0x2100 + d * 0x20
def CTL_SRV_DOM_SNAP_STEP (d : Nat) : Fld := ⟨CTL_SRV_DOM_SNAP d, 0, 64⟩

/-- `CTL_SRV_DOM_MIRROR`: Latest mirrored step of domain d (R412). -/
def CTL_SRV_DOM_MIRROR (d : Nat) : Nat := 0x2108 + d * 0x20
def CTL_SRV_DOM_MIRROR_STEP (d : Nat) : Fld := ⟨CTL_SRV_DOM_MIRROR d, 0, 64⟩

/-- `CTL_SRV_DOM_COUNTS`: Snapshot counts of domain d (R412). -/
def CTL_SRV_DOM_COUNTS (d : Nat) : Nat := 0x2110 + d * 0x20
def CTL_SRV_DOM_COUNTS_WHOLE (d : Nat) : Fld := ⟨CTL_SRV_DOM_COUNTS d, 0, 16⟩
def CTL_SRV_DOM_COUNTS_ABANDONED (d : Nat) : Fld := ⟨CTL_SRV_DOM_COUNTS d, 16, 16⟩
def CTL_SRV_DOM_COUNTS_HOLD_TICKS (d : Nat) : Fld := ⟨CTL_SRV_DOM_COUNTS d, 32, 16⟩

/-! Registers of spec/19_errors_and_recovery.md. -/

/-- `CTL_ERR_RING`: Host event ring (R430). -/
def CTL_ERR_RING : Nat := 0x3000
def CTL_ERR_RING_BASE : Fld := ⟨CTL_ERR_RING, 12, 36⟩
def CTL_ERR_RING_LOG2 : Fld := ⟨CTL_ERR_RING, 48, 4⟩

/-- `CTL_ERR_RING_PTR`: Ring pointers (R430). -/
def CTL_ERR_RING_PTR : Nat := 0x3008
def CTL_ERR_RING_PTR_HEAD : Fld := ⟨CTL_ERR_RING_PTR, 0, 16⟩
def CTL_ERR_RING_PTR_TAIL : Fld := ⟨CTL_ERR_RING_PTR, 16, 16⟩

/-- `CTL_ERR_AREA`: Error-log mirror area (R430). -/
def CTL_ERR_AREA : Nat := 0x3010
def CTL_ERR_AREA_BASE : Fld := ⟨CTL_ERR_AREA, 21, 27⟩
def CTL_ERR_AREA_SIZE : Fld := ⟨CTL_ERR_AREA, 48, 16⟩

/-- `CTL_ERR_STATUS`: Log state (R430). -/
def CTL_ERR_STATUS : Nat := 0x3018
def CTL_ERR_STATUS_LOG_NEXT : Fld := ⟨CTL_ERR_STATUS, 0, 10⟩
def CTL_ERR_STATUS_LOG_WRAPPED : Fld := ⟨CTL_ERR_STATUS, 10, 1⟩
def CTL_ERR_STATUS_FATAL_VALID : Fld := ⟨CTL_ERR_STATUS, 11, 1⟩
def CTL_ERR_STATUS_RING_LOST : Fld := ⟨CTL_ERR_STATUS, 16, 16⟩

/-- `CTL_ERR_COUNTS`: Records per class (R430). -/
def CTL_ERR_COUNTS : Nat := 0x3020
def CTL_ERR_COUNTS_CORRECTED : Fld := ⟨CTL_ERR_COUNTS, 0, 16⟩
def CTL_ERR_COUNTS_DEFERRED : Fld := ⟨CTL_ERR_COUNTS, 16, 16⟩
def CTL_ERR_COUNTS_CONTAINED : Fld := ⟨CTL_ERR_COUNTS, 32, 16⟩
def CTL_ERR_COUNTS_ESCALATED : Fld := ⟨CTL_ERR_COUNTS, 48, 16⟩

/-- `CTL_ERR_RECOVERY`: Recovery state (R430). -/
def CTL_ERR_RECOVERY : Nat := 0x3028
def CTL_ERR_RECOVERY_ACTIVE : Fld := ⟨CTL_ERR_RECOVERY, 0, 1⟩
def CTL_ERR_RECOVERY_QUEUED : Fld := ⟨CTL_ERR_RECOVERY, 1, 1⟩
def CTL_ERR_RECOVERY_DOMAIN : Fld := ⟨CTL_ERR_RECOVERY, 8, 6⟩
def CTL_ERR_RECOVERY_MIGRATIONS : Fld := ⟨CTL_ERR_RECOVERY, 16, 16⟩
def CTL_ERR_RECOVERY_LAST_SLIP : Fld := ⟨CTL_ERR_RECOVERY, 32, 16⟩

/-- `CTL_ERR_STALE`: Stale-epoch writes discarded (R430). -/
def CTL_ERR_STALE : Nat := 0x3030
def CTL_ERR_STALE_WRITES : Fld := ⟨CTL_ERR_STALE, 0, 32⟩

/-- `CTL_ERR_FATAL`: First FATAL record since cold reset (R430). -/
def CTL_ERR_FATAL (w : Nat) : Nat := 0x3040 + w * 0x8
def CTL_ERR_FATAL_VALUE (w : Nat) : Fld := ⟨CTL_ERR_FATAL w, 0, 64⟩

/-- `CTL_ERR_LOG`: Internal log entry i (0–1,023) (R430). -/
def CTL_ERR_LOG (i : Nat) (w : Nat) : Nat := 0x10000 + i * 0x40 + w * 0x8
def CTL_ERR_LOG_VALUE (i : Nat) (w : Nat) : Fld := ⟨CTL_ERR_LOG i w, 0, 64⟩

/-! Registers of spec/20_power_thermal_facility.md. -/

/-- `PWR_STATUS`: Steps and limits in force (R453). -/
def PWR_STATUS : Nat := 0x100000
def PWR_STATUS_FSTEP : Fld := ⟨PWR_STATUS, 0, 4⟩
def PWR_STATUS_AGREED : Fld := ⟨PWR_STATUS, 4, 4⟩
def PWR_STATUS_REQUEST : Fld := ⟨PWR_STATUS, 8, 4⟩
def PWR_STATUS_REASON : Fld := ⟨PWR_STATUS, 12, 4⟩
def PWR_STATUS_EMERGENCY : Fld := ⟨PWR_STATUS, 16, 1⟩
def PWR_STATUS_OVER_CAP : Fld := ⟨PWR_STATUS, 17, 1⟩

/-- `PWR_CAP`: Cap (Management Port) (R453). -/
def PWR_CAP : Nat := 0x100008
def PWR_CAP_CAP_W : Fld := ⟨PWR_CAP, 0, 16⟩
def PWR_CAP_WINDOW_S : Fld := ⟨PWR_CAP, 16, 5⟩

/-- `PWR_FSTEP_RANGE`: Host ceiling and planned floor (R453). -/
def PWR_FSTEP_RANGE : Nat := 0x100010
def PWR_FSTEP_RANGE_CEILING : Fld := ⟨PWR_FSTEP_RANGE, 0, 4⟩
def PWR_FSTEP_RANGE_FLOOR : Fld := ⟨PWR_FSTEP_RANGE, 8, 4⟩

/-- `PWR_POWER`: Measured power (R453). -/
def PWR_POWER : Nat := 0x100018
def PWR_POWER_P_1S : Fld := ⟨PWR_POWER, 0, 16⟩
def PWR_POWER_P_WINDOW : Fld := ⟨PWR_POWER, 16, 16⟩
def PWR_POWER_P_PEAK : Fld := ⟨PWR_POWER, 32, 16⟩

/-- `PWR_THERMAL`: Hottest readings (R453). -/
def PWR_THERMAL : Nat := 0x100020
def PWR_THERMAL_TJ_COMPUTE : Fld := ⟨PWR_THERMAL, 0, 8⟩
def PWR_THERMAL_TJ_HOST : Fld := ⟨PWR_THERMAL, 8, 8⟩
def PWR_THERMAL_TJ_LINK : Fld := ⟨PWR_THERMAL, 16, 8⟩
def PWR_THERMAL_T_HBM : Fld := ⟨PWR_THERMAL, 24, 8⟩
def PWR_THERMAL_OUTLET : Fld := ⟨PWR_THERMAL, 32, 16⟩

/-- `PWR_THERMAL_CFG`: Thermal and facility settings (R453). -/
def PWR_THERMAL_CFG : Nat := 0x100028
def PWR_THERMAL_CFG_THROTTLE_C : Fld := ⟨PWR_THERMAL_CFG, 0, 8⟩
def PWR_THERMAL_CFG_LEAK_ACTION : Fld := ⟨PWR_THERMAL_CFG, 8, 2⟩
def PWR_THERMAL_CFG_FAC_TIMEOUT : Fld := ⟨PWR_THERMAL_CFG, 10, 6⟩

/-- `PWR_BALLAST`: Ballast level (R453). -/
def PWR_BALLAST : Nat := 0x100030
def PWR_BALLAST_PCT : Fld := ⟨PWR_BALLAST, 0, 7⟩

/-- `PWR_COUNTS`: Change and emergency counts (R453). -/
def PWR_COUNTS : Nat := 0x100038
def PWR_COUNTS_CHANGES : Fld := ⟨PWR_COUNTS, 0, 16⟩
def PWR_COUNTS_EMERGENCIES : Fld := ⟨PWR_COUNTS, 16, 16⟩
def PWR_COUNTS_DROOPS : Fld := ⟨PWR_COUNTS, 32, 16⟩
def PWR_COUNTS_MISSED : Fld := ⟨PWR_COUNTS, 48, 16⟩

/-- `PWR_DOM_POWER`: Domain d estimate (0–63) (R453). -/
def PWR_DOM_POWER (d : Nat) : Nat := 0x100100 + d * 0x10
def PWR_DOM_POWER_ESTIMATE (d : Nat) : Fld := ⟨PWR_DOM_POWER d, 0, 16⟩
def PWR_DOM_POWER_ENVELOPE (d : Nat) : Fld := ⟨PWR_DOM_POWER d, 16, 16⟩

/-- `PWR_DOM_GATE`: Domain d start delays (R453). -/
def PWR_DOM_GATE (d : Nat) : Nat := 0x100108 + d * 0x10
def PWR_DOM_GATE_DELAY_CLK (d : Nat) : Fld := ⟨PWR_DOM_GATE d, 0, 48⟩

/-- `PWR_RAIL`: Rail r (0–13) (R453). -/
def PWR_RAIL (r : Nat) : Nat := 0x100800 + r * 0x8
def PWR_RAIL_MV (r : Nat) : Fld := ⟨PWR_RAIL r, 0, 16⟩
def PWR_RAIL_AMPS (r : Nat) : Fld := ⟨PWR_RAIL r, 16, 16⟩

/-- `FAC_STATUS`: Isolation link state (R453). -/
def FAC_STATUS : Nat := 0x900000
def FAC_STATUS_LINK_UP : Fld := ⟨FAC_STATUS, 0, 1⟩
def FAC_STATUS_STALE : Fld := ⟨FAC_STATUS, 1, 1⟩
def FAC_STATUS_MINOR : Fld := ⟨FAC_STATUS, 8, 8⟩
def FAC_STATUS_FIELD_SUPPLY : Fld := ⟨FAC_STATUS, 16, 16⟩

/-- `FAC_COOLANT`: Coolant values (R453). -/
def FAC_COOLANT : Nat := 0x900008
def FAC_COOLANT_INLET : Fld := ⟨FAC_COOLANT, 0, 16⟩
def FAC_COOLANT_FLOW : Fld := ⟨FAC_COOLANT, 16, 16⟩
def FAC_COOLANT_PRESSURE : Fld := ⟨FAC_COOLANT, 32, 16⟩
def FAC_COOLANT_LEAK : Fld := ⟨FAC_COOLANT, 48, 2⟩

/-- `FAC_FEED`: Feed and loop ids (R453). -/
def FAC_FEED : Nat := 0x900010
def FAC_FEED_FEED_ID : Fld := ⟨FAC_FEED, 0, 32⟩
def FAC_FEED_LOOP_ID : Fld := ⟨FAC_FEED, 32, 32⟩

/-- `FAC_STATE`: Feed state, shed (R453). -/
def FAC_STATE : Nat := 0x900018
def FAC_STATE_FEED_STATE : Fld := ⟨FAC_STATE, 0, 2⟩
def FAC_STATE_SHED_W : Fld := ⟨FAC_STATE, 16, 16⟩

/-- `FAC_COUNTS`: Frame counts (R453). -/
def FAC_COUNTS : Nat := 0x900020
def FAC_COUNTS_FRAMES : Fld := ⟨FAC_COUNTS, 0, 32⟩
def FAC_COUNTS_CHECK_ERR : Fld := ⟨FAC_COUNTS, 32, 16⟩
def FAC_COUNTS_REFUSED : Fld := ⟨FAC_COUNTS, 48, 16⟩

/-! Registers of spec/21_security_and_management.md. -/

/-- `SEC_STATUS`: Boot slots, straps, owner, grant (R469). -/
def SEC_STATUS : Nat := 0x200000
def SEC_STATUS_VENDOR_SLOT : Fld := ⟨SEC_STATUS, 0, 1⟩
def SEC_STATUS_PLATFORM_SLOT : Fld := ⟨SEC_STATUS, 1, 1⟩
def SEC_STATUS_OWNER : Fld := ⟨SEC_STATUS, 2, 1⟩
def SEC_STATUS_UPDATE_PENDING : Fld := ⟨SEC_STATUS, 3, 1⟩
def SEC_STATUS_BOOT_SRC : Fld := ⟨SEC_STATUS, 4, 2⟩
def SEC_STATUS_MGMT_ADDR : Fld := ⟨SEC_STATUS, 6, 3⟩
def SEC_STATUS_DEBUG : Fld := ⟨SEC_STATUS, 9, 1⟩

/-- `SEC_VENDOR`: Vendor version and floor (R469). -/
def SEC_VENDOR : Nat := 0x200008
def SEC_VENDOR_VERSION : Fld := ⟨SEC_VENDOR, 0, 32⟩
def SEC_VENDOR_FLOOR : Fld := ⟨SEC_VENDOR, 32, 32⟩

/-- `SEC_PLATFORM`: Platform version and floor (R469). -/
def SEC_PLATFORM : Nat := 0x200010
def SEC_PLATFORM_VERSION : Fld := ⟨SEC_PLATFORM, 0, 32⟩
def SEC_PLATFORM_FLOOR : Fld := ⟨SEC_PLATFORM, 32, 32⟩

/-- `SEC_MODULE_ID`: Module id (R469). -/
def SEC_MODULE_ID : Nat := 0x200018
def SEC_MODULE_ID_ID : Fld := ⟨SEC_MODULE_ID, 0, 64⟩

/-- `SEC_DEBUG`: Grant in force (R469). -/
def SEC_DEBUG : Nat := 0x200020
def SEC_DEBUG_SCOPE : Fld := ⟨SEC_DEBUG, 0, 4⟩
def SEC_DEBUG_REMAINING_S : Fld := ⟨SEC_DEBUG, 32, 32⟩

/-- `MGT_STATUS`: Endpoint addresses (R469). -/
def MGT_STATUS : Nat := 0x300000
def MGT_STATUS_I3C_ADDR : Fld := ⟨MGT_STATUS, 0, 7⟩
def MGT_STATUS_EID : Fld := ⟨MGT_STATUS, 8, 8⟩

/-- `MGT_COUNTS`: Request counts (R469). -/
def MGT_COUNTS : Nat := 0x300008
def MGT_COUNTS_REQUESTS : Fld := ⟨MGT_COUNTS, 0, 16⟩
def MGT_COUNTS_REJECTED : Fld := ⟨MGT_COUNTS, 16, 16⟩
def MGT_COUNTS_SPDM : Fld := ⟨MGT_COUNTS, 32, 16⟩
def MGT_COUNTS_UPDATES : Fld := ⟨MGT_COUNTS, 48, 16⟩

/-- `MGT_LAST`: Last request and status (R469). -/
def MGT_LAST : Nat := 0x300010
def MGT_LAST_REQUEST : Fld := ⟨MGT_LAST, 0, 16⟩
def MGT_LAST_STATUS : Fld := ⟨MGT_LAST, 16, 16⟩

/-! Registers of spec/22_debug_and_profiling.md. -/

/-- `DBG_STATUS`: Scope, halts, denials (R480). -/
def DBG_STATUS : Nat := 0x500000
def DBG_STATUS_SCOPE : Fld := ⟨DBG_STATUS, 0, 4⟩
def DBG_STATUS_PEEK_BUSY : Fld := ⟨DBG_STATUS, 4, 1⟩
def DBG_STATUS_DENIED : Fld := ⟨DBG_STATUS, 16, 16⟩

/-- `DBG_TRACE_CTRL`: Trace control (R480). -/
def DBG_TRACE_CTRL : Nat := 0x500008
def DBG_TRACE_CTRL_ENABLE : Fld := ⟨DBG_TRACE_CTRL, 0, 1⟩
def DBG_TRACE_CTRL_WRAP : Fld := ⟨DBG_TRACE_CTRL, 1, 1⟩
def DBG_TRACE_CTRL_KINDS : Fld := ⟨DBG_TRACE_CTRL, 8, 8⟩
def DBG_TRACE_CTRL_FIRST_TILE : Fld := ⟨DBG_TRACE_CTRL, 16, 9⟩
def DBG_TRACE_CTRL_TILE_COUNT : Fld := ⟨DBG_TRACE_CTRL, 25, 6⟩

/-- `DBG_TRACE_BASE`: Trace buffer (R480). -/
def DBG_TRACE_BASE : Nat := 0x500010
def DBG_TRACE_BASE_BASE : Fld := ⟨DBG_TRACE_BASE, 12, 36⟩
def DBG_TRACE_BASE_SIZE : Fld := ⟨DBG_TRACE_BASE, 48, 16⟩

/-- `DBG_TRACE_PTR`: Trace position and losses (R480). -/
def DBG_TRACE_PTR : Nat := 0x500018
def DBG_TRACE_PTR_NEXT : Fld := ⟨DBG_TRACE_PTR, 0, 32⟩
def DBG_TRACE_PTR_STOPPED : Fld := ⟨DBG_TRACE_PTR, 32, 1⟩
def DBG_TRACE_PTR_LOST : Fld := ⟨DBG_TRACE_PTR, 48, 16⟩

/-- `DBG_HALT`: Halt control (R480). -/
def DBG_HALT : Nat := 0x500020
def DBG_HALT_RESUME : Fld := ⟨DBG_HALT, 0, 9⟩
def DBG_HALT_HALTED : Fld := ⟨DBG_HALT, 16, 16⟩

/-- `DBG_PEEK_SEL`: Peek target (R480). -/
def DBG_PEEK_SEL : Nat := 0x500028
def DBG_PEEK_SEL_TILE : Fld := ⟨DBG_PEEK_SEL, 0, 9⟩
def DBG_PEEK_SEL_SPACE : Fld := ⟨DBG_PEEK_SEL, 9, 3⟩
def DBG_PEEK_SEL_OFFSET : Fld := ⟨DBG_PEEK_SEL, 16, 32⟩

/-- `DBG_PEEK`: Peek window, 256 bytes (R480). -/
def DBG_PEEK (w : Nat) : Nat := 0x500100 + w * 0x8
def DBG_PEEK_VALUE (w : Nat) : Fld := ⟨DBG_PEEK w, 0, 64⟩

/-- `DBG_GCNT`: Counter i of domain d (R480). -/
def DBG_GCNT (d : Nat) (i : Nat) : Nat := 0x501000 + d * 0x80 + i * 0x8
def DBG_GCNT_VALUE (d : Nat) (i : Nat) : Fld := ⟨DBG_GCNT d i, 0, 64⟩

/-- `DBG_PCNT`: Package counter i (R480). -/
def DBG_PCNT (i : Nat) : Nat := 0x503000 + i * 0x8
def DBG_PCNT_VALUE (i : Nat) : Fld := ⟨DBG_PCNT i, 0, 64⟩

def regRowsCtl0 : List RegRow := [
  ⟨0x0, [], 0x1, [⟨0, 4, .ro⟩, ⟨4, 4, .ro⟩, ⟨8, 4, .ro⟩, ⟨12, 2, .ro⟩, ⟨14, 2, .ro⟩, ⟨16, 1, .ro⟩]⟩,
  ⟨0x8, [], 0x18, [⟨0, 3, .ro⟩, ⟨3, 3, .ro⟩, ⟨6, 1, .ro⟩]⟩,
  ⟨0x10, [], 0x1, [⟨0, 16, .ro⟩]⟩,
  ⟨0x18, [], 0x0, [⟨0, 16, .rw1c⟩]⟩,
  ⟨0x20, [], 0x1, [⟨0, 1, .rw1c⟩, ⟨1, 1, .rw1c⟩, ⟨2, 1, .rw1c⟩, ⟨3, 1, .rw1c⟩, ⟨4, 1, .rw1c⟩, ⟨5, 1, .rw1c⟩, ⟨6, 1, .rw1c⟩, ⟨7, 1, .rw1c⟩]⟩,
  ⟨0x100, [(32, 0x8)], 0x0, [⟨0, 64, .ro⟩]⟩,
  ⟨0x40, [], 0x0, [⟨0, 3, .ro⟩, ⟨3, 1, .ro⟩, ⟨16, 16, .ro⟩]⟩,
  ⟨0x48, [], 0x20000, [⟨0, 8, .ro⟩, ⟨8, 8, .ro⟩, ⟨16, 8, .ro⟩]⟩,
  ⟨0x50, [], 0x0, [⟨0, 64, .ro⟩]⟩,
  ⟨0x58, [], 0x0, [⟨0, 64, .ro⟩]⟩,
  ⟨0x60, [], 0x0, [⟨0, 48, .ro⟩]⟩,
  ⟨0x80, [], 0x0, [⟨0, 64, .ro⟩]⟩,
  ⟨0x88, [], 0x32, [⟨0, 16, .rws⟩, ⟨16, 1, .rws⟩]⟩,
  ⟨0x90, [], 0x0, [⟨0, 64, .ro⟩]⟩,
  ⟨0x98, [], 0x0, [⟨0, 64, .ro⟩]⟩,
  ⟨0xA0, [], 0x0, [⟨0, 64, .ro⟩]⟩]

def regRowsCtl1 : List RegRow := [
  ⟨0xA8, [], 0x0, [⟨0, 1, .ro⟩, ⟨1, 1, .ro⟩, ⟨2, 1, .ro⟩, ⟨3, 1, .rw1c⟩, ⟨16, 16, .ro⟩]⟩,
  ⟨0x400, [(64, 0x10)], 0x0, [⟨0, 64, .ro⟩]⟩,
  ⟨0x408, [(64, 0x10)], 0x0, [⟨0, 2, .ro⟩, ⟨2, 2, .ro⟩, ⟨16, 16, .rw1c⟩]⟩,
  ⟨0x800, [], 0x0, [⟨0, 6, .rwi⟩]⟩,
  ⟨0x808, [], 0x0, [⟨0, 64, .ro⟩]⟩,
  ⟨0x810, [], 0x0, [⟨0, 64, .ro⟩]⟩,
  ⟨0xC00, [(64, 0x8)], 0x0, [⟨0, 1, .ro⟩, ⟨1, 1, .ro⟩, ⟨16, 16, .rw1c⟩]⟩,
  ⟨0x1000, [(64, 0x20)], 0x0, [⟨0, 64, .ro⟩]⟩,
  ⟨0x1008, [(64, 0x20)], 0x0, [⟨0, 64, .ro⟩]⟩,
  ⟨0x1010, [(64, 0x20)], 0x0, [⟨0, 16, .ro⟩, ⟨16, 4, .ro⟩, ⟨32, 16, .rw1c⟩]⟩,
  ⟨0x1018, [(64, 0x20)], 0x0, []⟩,
  ⟨0x20000, [(4096, 0x20)], 0x0, [⟨0, 64, .ro⟩]⟩,
  ⟨0x20008, [(4096, 0x20)], 0x0, [⟨0, 64, .ro⟩]⟩,
  ⟨0x20010, [(4096, 0x20)], 0x0, [⟨0, 64, .ro⟩]⟩,
  ⟨0x20018, [(4096, 0x20)], 0x0, [⟨0, 1, .ro⟩, ⟨1, 1, .ro⟩, ⟨2, 1, .ro⟩]⟩,
  ⟨0x30, [], 0x0, [⟨0, 16, .rw1c⟩, ⟨16, 16, .rw1c⟩, ⟨32, 16, .rw1c⟩, ⟨48, 16, .rw1c⟩]⟩,
  ⟨0x38, [], 0x0, [⟨0, 4, .ro⟩, ⟨4, 4, .ro⟩]⟩]

def regRowsCtl2 : List RegRow := [
  ⟨0x1800, [(64, 0x10)], 0x0, [⟨0, 16, .ro⟩, ⟨16, 1, .ro⟩, ⟨17, 1, .ro⟩, ⟨32, 32, .ro⟩]⟩,
  ⟨0x1808, [(64, 0x10)], 0x0, [⟨0, 16, .rw1c⟩, ⟨16, 16, .rw1c⟩, ⟨32, 32, .rw1c⟩]⟩,
  ⟨0x2000, [], 0x0, [⟨0, 10, .ro⟩, ⟨10, 1, .ro⟩]⟩,
  ⟨0x2008, [], 0x3C0258, [⟨0, 10, .rwi⟩, ⟨16, 16, .rwi⟩]⟩,
  ⟨0x2010, [], 0x500032001402BC, [⟨0, 16, .rwi⟩, ⟨16, 16, .rwi⟩, ⟨32, 16, .rwi⟩, ⟨48, 16, .rwi⟩]⟩,
  ⟨0x2018, [], 0x200280019003C, [⟨0, 16, .rwi⟩, ⟨16, 16, .rwi⟩, ⟨32, 16, .rwi⟩, ⟨48, 16, .rwi⟩]⟩,
  ⟨0x2020, [], 0x0, [⟨12, 36, .rws⟩, ⟨48, 15, .rws⟩, ⟨63, 1, .ro⟩]⟩,
  ⟨0x2028, [], 0x0, [⟨0, 32, .ro⟩, ⟨32, 32, .ro⟩]⟩,
  ⟨0x2030, [], 0x0, [⟨0, 2, .ro⟩, ⟨2, 1, .ro⟩, ⟨3, 1, .ro⟩, ⟨4, 1, .ro⟩, ⟨5, 3, .ro⟩]⟩,
  ⟨0x2100, [(64, 0x20)], 0x0, [⟨0, 64, .ro⟩]⟩,
  ⟨0x2108, [(64, 0x20)], 0x0, [⟨0, 64, .ro⟩]⟩,
  ⟨0x2110, [(64, 0x20)], 0x0, [⟨0, 16, .rw1c⟩, ⟨16, 16, .rw1c⟩, ⟨32, 16, .rw1c⟩]⟩,
  ⟨0x3000, [], 0x0, [⟨12, 36, .ro⟩, ⟨48, 4, .ro⟩]⟩,
  ⟨0x3008, [], 0x0, [⟨0, 16, .rwi⟩, ⟨16, 16, .ro⟩]⟩,
  ⟨0x3010, [], 0x0, [⟨21, 27, .ro⟩, ⟨48, 16, .ro⟩]⟩,
  ⟨0x3018, [], 0x0, [⟨0, 10, .ro⟩, ⟨10, 1, .ro⟩, ⟨11, 1, .ro⟩, ⟨16, 16, .rw1c⟩]⟩]

def regRowsCtl3 : List RegRow := [
  ⟨0x3020, [], 0x0, [⟨0, 16, .rw1c⟩, ⟨16, 16, .rw1c⟩, ⟨32, 16, .rw1c⟩, ⟨48, 16, .rw1c⟩]⟩,
  ⟨0x3028, [], 0x0, [⟨0, 1, .ro⟩, ⟨1, 1, .ro⟩, ⟨8, 6, .ro⟩, ⟨16, 16, .rw1c⟩, ⟨32, 16, .ro⟩]⟩,
  ⟨0x3030, [], 0x0, [⟨0, 32, .rw1c⟩]⟩,
  ⟨0x3040, [(8, 0x8)], 0x0, [⟨0, 64, .ro⟩]⟩,
  ⟨0x10000, [(1024, 0x40), (8, 0x8)], 0x0, [⟨0, 64, .ro⟩]⟩]

def regRowsHst0 : List RegRow := [
  ⟨0xA80000, [], 0x0, [⟨0, 12, .ro⟩, ⟨12, 1, .ro⟩, ⟨16, 16, .ro⟩, ⟨32, 16, .ro⟩]⟩,
  ⟨0xA80008, [], 0x0, [⟨0, 16, .ro⟩, ⟨16, 8, .ro⟩, ⟨24, 8, .ro⟩]⟩,
  ⟨0xA80010, [], 0x0, [⟨0, 8, .ro⟩, ⟨8, 16, .ro⟩]⟩,
  ⟨0xA80018, [], 0x0, [⟨0, 4, .ro⟩, ⟨4, 4, .rw1c⟩, ⟨16, 16, .rw1c⟩]⟩,
  ⟨0xA80020, [], 0x0, [⟨0, 48, .ro⟩, ⟨62, 2, .ro⟩]⟩,
  ⟨0xA80100, [(64, 0x10)], 0x0, [⟨0, 2, .rwi⟩, ⟨2, 1, .rwi⟩, ⟨4, 4, .rwi⟩, ⟨16, 16, .rwi⟩]⟩,
  ⟨0xA80108, [(64, 0x10)], 0x0, [⟨0, 32, .ro⟩, ⟨32, 1, .rw1c⟩, ⟨48, 16, .rw1c⟩]⟩,
  ⟨0xA80800, [(64, 0x8)], 0x0, [⟨0, 64, .wo⟩]⟩,
  ⟨0xA00000, [], 0xFF000000, [⟨0, 8, .rwi⟩, ⟨8, 8, .rwi⟩, ⟨16, 8, .rwi⟩, ⟨24, 8, .ro⟩, ⟨32, 16, .ro⟩]⟩,
  ⟨0xA00008, [], 0x0, [⟨0, 17, .ro⟩]⟩,
  ⟨0xA10000, [(256, 0x80)], 0x0, [⟨12, 36, .rws⟩]⟩,
  ⟨0xA10008, [(256, 0x80)], 0x0, [⟨12, 36, .rws⟩]⟩,
  ⟨0xA10010, [(256, 0x80)], 0x0, [⟨0, 4, .rws⟩, ⟨4, 5, .rws⟩, ⟨9, 1, .rws⟩, ⟨32, 32, .rws⟩]⟩,
  ⟨0xA10018, [(256, 0x80)], 0x0, [⟨0, 1, .rwi⟩, ⟨1, 1, .wo⟩]⟩,
  ⟨0xA10020, [(256, 0x80)], 0x0, [⟨0, 12, .ro⟩, ⟨16, 16, .ro⟩]⟩,
  ⟨0xA10028, [(256, 0x80)], 0x0, [⟨0, 16, .rwi⟩]⟩]

def regRowsHst1 : List RegRow := [
  ⟨0xA10030, [(256, 0x80)], 0x0, [⟨0, 2, .ro⟩, ⟨4, 17, .ro⟩, ⟨32, 16, .rw1c⟩, ⟨48, 12, .ro⟩, ⟨60, 4, .rw1c⟩]⟩,
  ⟨0xA10038, [(256, 0x80)], 0x0, [⟨0, 12, .rwi⟩, ⟨12, 7, .rwi⟩, ⟨19, 1, .rwi⟩, ⟨24, 8, .rwi⟩, ⟨32, 16, .rwi⟩]⟩,
  ⟨0xA10040, [(256, 0x80)], 0x0, [⟨12, 36, .rws⟩]⟩]

def regRowsTil0 : List RegRow := [
  ⟨0x10000000, [(384, 0x10000)], 0x0, [⟨0, 9, .ro⟩, ⟨9, 2, .ro⟩, ⟨11, 4, .ro⟩, ⟨15, 3, .ro⟩, ⟨18, 1, .ro⟩]⟩,
  ⟨0x10000008, [(384, 0x10000)], 0x0, [⟨0, 3, .ro⟩, ⟨16, 9, .ro⟩]⟩,
  ⟨0x10000010, [(384, 0x10000)], 0x0, [⟨0, 32, .ro⟩, ⟨32, 7, .ro⟩]⟩,
  ⟨0x10000018, [(384, 0x10000)], 0x0, [⟨0, 16, .rws⟩, ⟨16, 6, .rws⟩, ⟨32, 9, .rws⟩]⟩,
  ⟨0x10000020, [(384, 0x10000)], 0x0, [⟨0, 7, .ro⟩, ⟨16, 16, .ro⟩, ⟨32, 16, .ro⟩]⟩,
  ⟨0x10000028, [(384, 0x10000)], 0x0, [⟨0, 16, .ro⟩, ⟨16, 16, .ro⟩, ⟨32, 1, .rw1c⟩]⟩,
  ⟨0x10000030, [(384, 0x10000)], 0x0, [⟨0, 64, .ro⟩]⟩,
  ⟨0x10000038, [(384, 0x10000)], 0x0, [⟨0, 32, .ro⟩]⟩,
  ⟨0x10000040, [(384, 0x10000)], 0x0, [⟨0, 32, .rw1c⟩]⟩,
  ⟨0x10000048, [(384, 0x10000)], 0x0, [⟨0, 32, .ro⟩]⟩,
  ⟨0x10004000, [(384, 0x10000), (16, 0x8)], 0x0, [⟨0, 5, .ro⟩, ⟨5, 1, .rwi⟩, ⟨6, 1, .rwi⟩, ⟨16, 16, .rw1c⟩]⟩,
  ⟨0x10004080, [(384, 0x10000)], 0x0, [⟨0, 16, .rw1c⟩, ⟨16, 16, .rw1c⟩, ⟨32, 16, .rw1c⟩, ⟨48, 16, .rw1c⟩]⟩,
  ⟨0x10004088, [(384, 0x10000)], 0x0, [⟨0, 7, .ro⟩]⟩,
  ⟨0x10000800, [(384, 0x10000), (16, 0x20)], 0x0, [⟨0, 32, .rw1c⟩, ⟨32, 32, .rw1c⟩]⟩,
  ⟨0x10000808, [(384, 0x10000), (16, 0x20)], 0x0, [⟨0, 32, .rw1c⟩, ⟨32, 32, .rw1c⟩]⟩,
  ⟨0x10000810, [(384, 0x10000), (16, 0x20)], 0x0, [⟨0, 32, .rw1c⟩, ⟨32, 16, .rw1c⟩]⟩,
  ⟨0x10000818, [(384, 0x10000), (16, 0x20)], 0x0, []⟩]

def regRowsTil1 : List RegRow := [
  ⟨0x10000A00, [(384, 0x10000)], 0x0, [⟨0, 7, .ro⟩, ⟨16, 16, .rw1c⟩]⟩]

def regRowsArr0 : List RegRow := [
  ⟨0x10001000, [(384, 0x10000)], 0x0, [⟨0, 7, .ro⟩, ⟨8, 7, .ro⟩, ⟨16, 7, .ro⟩, ⟨24, 7, .ro⟩]⟩,
  ⟨0x10001008, [(384, 0x10000)], 0x0, [⟨0, 64, .ro⟩]⟩,
  ⟨0x10001010, [(384, 0x10000)], 0x0, [⟨0, 64, .ro⟩]⟩,
  ⟨0x10001018, [(384, 0x10000)], 0x0, [⟨0, 64, .ro⟩]⟩,
  ⟨0x10001020, [(384, 0x10000)], 0x0, [⟨0, 3, .ro⟩, ⟨3, 3, .ro⟩, ⟨6, 2, .ro⟩, ⟨16, 16, .ro⟩, ⟨32, 16, .ro⟩, ⟨48, 16, .ro⟩]⟩,
  ⟨0x10001040, [(384, 0x10000), (3, 0x20)], 0x0, [⟨0, 48, .rw1c⟩]⟩,
  ⟨0x10001048, [(384, 0x10000), (3, 0x20)], 0x0, [⟨0, 48, .rw1c⟩]⟩,
  ⟨0x10001050, [(384, 0x10000), (3, 0x20)], 0x0, [⟨0, 32, .rw1c⟩, ⟨32, 32, .rw1c⟩]⟩,
  ⟨0x10001058, [(384, 0x10000), (3, 0x20)], 0x0, [⟨0, 48, .rw1c⟩]⟩]

def regRowsVec0 : List RegRow := [
  ⟨0x10002000, [(384, 0x10000)], 0x0, [⟨0, 16, .ro⟩, ⟨16, 8, .ro⟩, ⟨24, 4, .ro⟩]⟩,
  ⟨0x10002008, [(384, 0x10000)], 0x0, [⟨0, 48, .rw1c⟩]⟩,
  ⟨0x10002010, [(384, 0x10000)], 0x0, [⟨0, 48, .rw1c⟩]⟩,
  ⟨0x10002018, [(384, 0x10000)], 0x0, [⟨0, 48, .rw1c⟩]⟩,
  ⟨0x10002100, [(384, 0x10000), (16, 0x8)], 0x0, [⟨0, 64, .ro⟩]⟩]

def regRowsKvp0 : List RegRow := [
  ⟨0x700000, [], 0x0, [⟨0, 1, .rwi⟩, ⟨1, 1, .rwi⟩]⟩,
  ⟨0x700008, [], 0x0, [⟨0, 2, .ro⟩, ⟨16, 16, .ro⟩, ⟨32, 17, .ro⟩]⟩,
  ⟨0x700010, [], 0x0, [⟨0, 48, .ro⟩]⟩,
  ⟨0x700018, [], 0x0, [⟨21, 27, .rws⟩, ⟨48, 16, .rws⟩]⟩,
  ⟨0x700020, [], 0x0, [⟨21, 27, .rws⟩, ⟨48, 16, .rws⟩]⟩,
  ⟨0x700028, [], 0x1020040705, [⟨0, 8, .rwt⟩, ⟨8, 8, .rwt⟩, ⟨16, 8, .rwt⟩, ⟨24, 8, .rwt⟩, ⟨32, 16, .rwt⟩]⟩,
  ⟨0x700030, [], 0x0, [⟨0, 32, .ro⟩, ⟨32, 32, .ro⟩]⟩,
  ⟨0x700100, [(8, 0x20)], 0x11, [⟨0, 2, .rws⟩, ⟨4, 4, .rws⟩, ⟨8, 4, .rws⟩]⟩,
  ⟨0x700108, [(8, 0x20)], 0x0, [⟨0, 32, .ro⟩, ⟨32, 32, .ro⟩]⟩,
  ⟨0x700110, [(8, 0x20)], 0x0, [⟨0, 32, .rw1c⟩, ⟨32, 32, .rw1c⟩]⟩,
  ⟨0x700118, [(8, 0x20)], 0x80000000000000, [⟨0, 1, .ro⟩, ⟨1, 1, .rw1c⟩, ⟨16, 16, .rw1c⟩, ⟨32, 24, .ro⟩]⟩]

def regRowsKvw0 : List RegRow := [
  ⟨0x10003000, [(384, 0x10000)], 0x0, [⟨0, 16, .ro⟩, ⟨16, 8, .ro⟩]⟩,
  ⟨0x10003008, [(384, 0x10000)], 0x0, [⟨0, 32, .rw1c⟩, ⟨32, 32, .rw1c⟩]⟩,
  ⟨0x10003010, [(384, 0x10000)], 0x0, [⟨0, 32, .rw1c⟩, ⟨32, 32, .rw1c⟩]⟩,
  ⟨0x10003018, [(384, 0x10000)], 0x0, [⟨0, 32, .rw1c⟩, ⟨32, 32, .rw1c⟩]⟩]

def regRowsSth0 : List RegRow := [
  ⟨0x600000, [], 0x6, [⟨0, 8, .rwt⟩]⟩,
  ⟨0x600008, [], 0x0, [⟨0, 1, .ro⟩, ⟨32, 18, .ro⟩]⟩,
  ⟨0x600010, [], 0x0, [⟨0, 48, .ro⟩]⟩,
  ⟨0x600018, [], 0x0, [⟨21, 27, .rws⟩, ⟨48, 16, .rws⟩]⟩,
  ⟨0x600020, [], 0x0, [⟨21, 27, .rws⟩, ⟨48, 16, .rws⟩]⟩,
  ⟨0x600028, [], 0x0, [⟨0, 32, .ro⟩, ⟨32, 32, .ro⟩]⟩,
  ⟨0x600100, [(4, 0x20)], 0x0, [⟨0, 32, .ro⟩, ⟨32, 32, .ro⟩]⟩,
  ⟨0x600108, [(4, 0x20)], 0x0, [⟨0, 32, .rw1c⟩, ⟨32, 32, .rw1c⟩]⟩,
  ⟨0x600110, [(4, 0x20)], 0x0, [⟨0, 32, .rw1c⟩, ⟨32, 16, .rw1c⟩, ⟨48, 16, .rw1c⟩]⟩]

def regRowsCdc0 : List RegRow := [
  ⟨0x800000, [(4, 0x20)], 0x0, [⟨0, 32, .rw1c⟩, ⟨32, 32, .rw1c⟩]⟩,
  ⟨0x800008, [(4, 0x20)], 0x0, [⟨0, 16, .rw1c⟩, ⟨16, 16, .rw1c⟩, ⟨32, 16, .rw1c⟩, ⟨48, 16, .rw1c⟩]⟩,
  ⟨0x800100, [(4, 0x20)], 0x0, [⟨0, 32, .rw1c⟩, ⟨32, 32, .rw1c⟩]⟩]

def regRowsHbm0 : List RegRow := [
  ⟨0x2000000, [(16, 0x10000)], 0x0, [⟨0, 2, .ro⟩, ⟨2, 2, .ro⟩, ⟨4, 2, .ro⟩, ⟨8, 8, .ro⟩, ⟨16, 7, .ro⟩]⟩,
  ⟨0x2000008, [(16, 0x10000)], 0x0, [⟨0, 32, .rw1c⟩, ⟨32, 16, .rw1c⟩, ⟨48, 16, .rw1c⟩]⟩,
  ⟨0x2000010, [(16, 0x10000)], 0xC01, [⟨0, 1, .rwi⟩, ⟨8, 8, .rwi⟩, ⟨16, 16, .ro⟩]⟩,
  ⟨0x2000018, [(16, 0x10000)], 0x0, [⟨0, 6, .ro⟩, ⟨6, 1, .ro⟩, ⟨16, 16, .ro⟩, ⟨32, 16, .rw1c⟩]⟩,
  ⟨0x2000100, [(16, 0x10000), (64, 0x8)], 0x0, [⟨0, 40, .rw1c⟩, ⟨40, 24, .ro⟩]⟩]

def regRowsInt0 : List RegRow := [
  ⟨0x400000, [], 0x0, [⟨0, 1, .rwi⟩, ⟨1, 1, .rwi⟩]⟩,
  ⟨0x400008, [], 0x0, [⟨0, 1, .ro⟩, ⟨16, 16, .ro⟩, ⟨32, 16, .ro⟩, ⟨48, 16, .ro⟩]⟩,
  ⟨0x400010, [], 0x0, [⟨0, 4, .rws⟩, ⟨4, 4, .rws⟩, ⟨8, 16, .rws⟩]⟩,
  ⟨0x400018, [], 0x0, [⟨12, 36, .rws⟩]⟩,
  ⟨0x400020, [], 0x0, [⟨12, 36, .rws⟩]⟩,
  ⟨0x400028, [], 0x0, [⟨21, 27, .rws⟩, ⟨48, 16, .rws⟩]⟩,
  ⟨0x400030, [], 0x0, [⟨0, 12, .rwi⟩, ⟨16, 12, .ro⟩]⟩,
  ⟨0x400038, [], 0x0, [⟨0, 12, .ro⟩, ⟨16, 12, .rwi⟩]⟩,
  ⟨0x400040, [], 0x0, [⟨0, 32, .wo⟩, ⟨32, 16, .wo⟩]⟩,
  ⟨0x400048, [], 0x0, [⟨0, 16, .rw1c⟩, ⟨16, 16, .rw1c⟩, ⟨32, 16, .rw1c⟩, ⟨48, 16, .rw1c⟩]⟩,
  ⟨0x400100, [(16, 0x8)], 0x0, [⟨0, 8, .ro⟩, ⟨8, 1, .ro⟩, ⟨32, 32, .ro⟩]⟩]

def regRowsLnk0 : List RegRow := [
  ⟨0x1000000, [(4, 0x100000)], 0x0, [⟨0, 12, .ro⟩, ⟨16, 1, .ro⟩, ⟨32, 16, .ro⟩]⟩,
  ⟨0x1000008, [(4, 0x100000)], 0x0, [⟨0, 16, .ro⟩, ⟨16, 6, .ro⟩, ⟨22, 1, .ro⟩, ⟨24, 8, .ro⟩, ⟨32, 16, .ro⟩, ⟨48, 2, .ro⟩]⟩,
  ⟨0x1000010, [(4, 0x100000)], 0x0, [⟨21, 27, .rws⟩, ⟨48, 16, .rws⟩]⟩,
  ⟨0x1000018, [(4, 0x100000)], 0x0, [⟨0, 32, .ro⟩, ⟨32, 32, .ro⟩]⟩,
  ⟨0x1000020, [(4, 0x100000)], 0x0, [⟨0, 32, .rw1c⟩, ⟨32, 16, .rw1c⟩, ⟨48, 16, .rw1c⟩]⟩,
  ⟨0x1000028, [(4, 0x100000)], 0x0, [⟨0, 16, .rw1c⟩, ⟨16, 16, .rw1c⟩, ⟨32, 16, .rw1c⟩, ⟨48, 16, .rw1c⟩]⟩,
  ⟨0x1000030, [(4, 0x100000)], 0x0, [⟨0, 16, .ro⟩, ⟨16, 16, .rw1c⟩, ⟨32, 16, .rw1c⟩, ⟨48, 16, .rw1c⟩]⟩,
  ⟨0x1000038, [(4, 0x100000)], 0x0, [⟨0, 32, .rw1c⟩, ⟨32, 16, .rw1c⟩]⟩,
  ⟨0x1000040, [(4, 0x100000)], 0x0, [⟨0, 16, .rwi⟩]⟩,
  ⟨0x1000048, [(4, 0x100000)], 0x0, [⟨0, 4, .ro⟩, ⟨8, 8, .ro⟩, ⟨16, 16, .ro⟩, ⟨32, 32, .ro⟩]⟩,
  ⟨0x1000100, [(4, 0x100000), (12, 0x10)], 0x0, [⟨0, 2, .ro⟩, ⟨2, 2, .ro⟩, ⟨8, 8, .ro⟩, ⟨16, 48, .ro⟩]⟩,
  ⟨0x1000108, [(4, 0x100000), (12, 0x10)], 0x0, [⟨0, 1, .ro⟩, ⟨8, 8, .ro⟩, ⟨16, 16, .rw1c⟩, ⟨32, 16, .rw1c⟩, ⟨48, 16, .rw1c⟩]⟩]

def regRowsPwr0 : List RegRow := [
  ⟨0x100000, [], 0xFF, [⟨0, 4, .ro⟩, ⟨4, 4, .ro⟩, ⟨8, 4, .ro⟩, ⟨12, 4, .ro⟩, ⟨16, 1, .ro⟩, ⟨17, 1, .ro⟩]⟩,
  ⟨0x100008, [], 0x51130, [⟨0, 16, .ro⟩, ⟨16, 5, .ro⟩]⟩,
  ⟨0x100010, [], 0xF00, [⟨0, 4, .rwi⟩, ⟨8, 4, .rwi⟩]⟩,
  ⟨0x100018, [], 0x0, [⟨0, 16, .ro⟩, ⟨16, 16, .ro⟩, ⟨32, 16, .ro⟩]⟩,
  ⟨0x100020, [], 0x0, [⟨0, 8, .ro⟩, ⟨8, 8, .ro⟩, ⟨16, 8, .ro⟩, ⟨24, 8, .ro⟩, ⟨32, 16, .ro⟩]⟩,
  ⟨0x100028, [], 0x0, [⟨0, 8, .ro⟩, ⟨8, 2, .ro⟩, ⟨10, 6, .ro⟩]⟩,
  ⟨0x100030, [], 0x46, [⟨0, 7, .rwi⟩]⟩,
  ⟨0x100038, [], 0x0, [⟨0, 16, .rw1c⟩, ⟨16, 16, .rw1c⟩, ⟨32, 16, .rw1c⟩, ⟨48, 16, .rw1c⟩]⟩,
  ⟨0x100100, [(64, 0x10)], 0x0, [⟨0, 16, .ro⟩, ⟨16, 16, .ro⟩]⟩,
  ⟨0x100108, [(64, 0x10)], 0x0, [⟨0, 48, .rw1c⟩]⟩,
  ⟨0x100800, [(14, 0x8)], 0x0, [⟨0, 16, .ro⟩, ⟨16, 16, .ro⟩]⟩]

def regRowsFac0 : List RegRow := [
  ⟨0x900000, [], 0x0, [⟨0, 1, .ro⟩, ⟨1, 1, .ro⟩, ⟨8, 8, .ro⟩, ⟨16, 16, .ro⟩]⟩,
  ⟨0x900008, [], 0xFFFFFFFF8000, [⟨0, 16, .ro⟩, ⟨16, 16, .ro⟩, ⟨32, 16, .ro⟩, ⟨48, 2, .ro⟩]⟩,
  ⟨0x900010, [], 0x0, [⟨0, 32, .ro⟩, ⟨32, 32, .ro⟩]⟩,
  ⟨0x900018, [], 0x0, [⟨0, 2, .ro⟩, ⟨16, 16, .ro⟩]⟩,
  ⟨0x900020, [], 0x0, [⟨0, 32, .rw1c⟩, ⟨32, 16, .rw1c⟩, ⟨48, 16, .rw1c⟩]⟩]

def regRowsSec0 : List RegRow := [
  ⟨0x200000, [], 0x0, [⟨0, 1, .ro⟩, ⟨1, 1, .ro⟩, ⟨2, 1, .ro⟩, ⟨3, 1, .ro⟩, ⟨4, 2, .ro⟩, ⟨6, 3, .ro⟩, ⟨9, 1, .ro⟩]⟩,
  ⟨0x200008, [], 0x0, [⟨0, 32, .ro⟩, ⟨32, 32, .ro⟩]⟩,
  ⟨0x200010, [], 0x0, [⟨0, 32, .ro⟩, ⟨32, 32, .ro⟩]⟩,
  ⟨0x200018, [], 0x0, [⟨0, 64, .ro⟩]⟩,
  ⟨0x200020, [], 0x0, [⟨0, 4, .ro⟩, ⟨32, 32, .ro⟩]⟩]

def regRowsMgt0 : List RegRow := [
  ⟨0x300000, [], 0x0, [⟨0, 7, .ro⟩, ⟨8, 8, .ro⟩]⟩,
  ⟨0x300008, [], 0x0, [⟨0, 16, .rw1c⟩, ⟨16, 16, .rw1c⟩, ⟨32, 16, .rw1c⟩, ⟨48, 16, .rw1c⟩]⟩,
  ⟨0x300010, [], 0x0, [⟨0, 16, .ro⟩, ⟨16, 16, .ro⟩]⟩]

def regRowsDbg0 : List RegRow := [
  ⟨0x500000, [], 0x0, [⟨0, 4, .ro⟩, ⟨4, 1, .rw1c⟩, ⟨16, 16, .rw1c⟩]⟩,
  ⟨0x500008, [], 0x0, [⟨0, 1, .rwi⟩, ⟨1, 1, .rwi⟩, ⟨8, 8, .rwi⟩, ⟨16, 9, .rwi⟩, ⟨25, 6, .rwi⟩]⟩,
  ⟨0x500010, [], 0x0, [⟨12, 36, .rwi⟩, ⟨48, 16, .rwi⟩]⟩,
  ⟨0x500018, [], 0x0, [⟨0, 32, .ro⟩, ⟨32, 1, .rw1c⟩, ⟨48, 16, .rw1c⟩]⟩,
  ⟨0x500020, [], 0x0, [⟨0, 9, .wo⟩, ⟨16, 16, .ro⟩]⟩,
  ⟨0x500028, [], 0x0, [⟨0, 9, .rwi⟩, ⟨9, 3, .rwi⟩, ⟨16, 32, .rwi⟩]⟩,
  ⟨0x500100, [(32, 0x8)], 0x0, [⟨0, 64, .ro⟩]⟩,
  ⟨0x501000, [(64, 0x80), (16, 0x8)], 0x0, [⟨0, 64, .ro⟩]⟩,
  ⟨0x503000, [(32, 0x8)], 0x0, [⟨0, 64, .ro⟩]⟩]

/-- Every register row of the spec (R5). -/
def regTable : List RegRow :=
  regRowsCtl0 ++
  regRowsCtl1 ++
  regRowsCtl2 ++
  regRowsCtl3 ++
  regRowsHst0 ++
  regRowsHst1 ++
  regRowsTil0 ++
  regRowsTil1 ++
  regRowsArr0 ++
  regRowsVec0 ++
  regRowsKvp0 ++
  regRowsKvw0 ++
  regRowsSth0 ++
  regRowsCdc0 ++
  regRowsHbm0 ++
  regRowsInt0 ++
  regRowsLnk0 ++
  regRowsPwr0 ++
  regRowsFac0 ++
  regRowsSec0 ++
  regRowsMgt0 ++
  regRowsDbg0

/-- Whether an offset from a row's base is one of the row's array elements. -/
def dimsHold : List (Nat × Nat) → Nat → Bool
  | [], o => o == 0
  | (count, stride) :: ds, o => decide (o / stride < count) && dimsHold ds (o % stride)

/-- Whether the row holds the register at block offset `a`. -/
def RegRow.holds (r : RegRow) (a : Nat) : Bool :=
  decide (r.base ≤ a) && dimsHold r.dims (a - r.base)

/-- The row of the register at block offset `a`, if the spec has one there. -/
def regRow? (a : Nat) : Option RegRow := regTable.find? (fun r => r.holds a)

/-- The registers with a non-zero reset value (every other register resets to 0). -/
def regResetRows : List RegRow := [
  ⟨0x0, [], 0x1, []⟩,
  ⟨0x8, [], 0x18, []⟩,
  ⟨0x10, [], 0x1, []⟩,
  ⟨0x20, [], 0x1, []⟩,
  ⟨0x48, [], 0x20000, []⟩,
  ⟨0x88, [], 0x32, []⟩,
  ⟨0xA00000, [], 0xFF000000, []⟩,
  ⟨0x700028, [], 0x1020040705, []⟩,
  ⟨0x700100, [(8, 0x20)], 0x11, []⟩,
  ⟨0x700118, [(8, 0x20)], 0x80000000000000, []⟩,
  ⟨0x600000, [], 0x6, []⟩,
  ⟨0x2000010, [(16, 0x10000)], 0xC01, []⟩,
  ⟨0x2008, [], 0x3C0258, []⟩,
  ⟨0x2010, [], 0x500032001402BC, []⟩,
  ⟨0x2018, [], 0x200280019003C, []⟩,
  ⟨0x100000, [], 0xFF, []⟩,
  ⟨0x100008, [], 0x51130, []⟩,
  ⟨0x100010, [], 0xF00, []⟩,
  ⟨0x100030, [], 0x46, []⟩,
  ⟨0x900008, [], 0xFFFFFFFF8000, []⟩]

/-- The reset value of the register at block offset `a` (the Reset columns of the register tables). -/
def regReset (a : Nat) : BitVec 64 :=
  match regResetRows.find? (fun r => r.holds a) with
  | some r => BitVec.ofNat 64 r.reset
  | none => 0#64

end Sys2Proof.Machine
end

