-- ==== Sys2Proof/Machine/State.lean ====
section
/-!
DEFINITION. The state of the module, as plain data: registers, memories, queues, units, and the queue of waiting commands.
The structures follow the chapters of the spec.
-/
namespace Sys2Proof.Machine

/-- No command of this block ends a run with a fault: an access the spec forbids answers the requester, and the module
goes on. -/
inductive Fault where
deriving DecidableEq, Repr

/-- Why a command is not run. -/
inductive Refusal where
  /-- Raised by an arm of `exec` whose command has no meaning yet; safe. -/
  | notModelled (mnemonic : String)
deriving DecidableEq, Repr

/-! ## Memories -/

/-- What a range of memory with no listed byte reads as: zero, or an unpredictable byte drawn under a salt. -/
inductive Fill where
  | zero
  | free (salt : Nat)
deriving DecidableEq, Repr

/-- A range and what its unlisted bytes read as. -/
structure Range where
  lo : Nat
  len : Nat
  fill : Fill
deriving DecidableEq, Repr

/-- A byte memory: the listed bytes in canonical form over background ranges, newest first. -/
structure Mem where
  cells : SMap Byte := []
  back : List Range := []
deriving DecidableEq, Repr

/-- A region of HBM as the address decode sees it (R312, R313): its range, its entry index, its pseudo-channel set, and the
first granule it takes in the channels of each compute die. -/
structure HbmRegion where
  base : Nat := 0
  size : Nat := 0
  index : Nat := 0
  pcs : List Nat := []
  bases : List Nat := []
deriving DecidableEq, Repr

/-- A decode of the HBM range: the interleave key and the regions in ascending BASE order (R314, R315). -/
structure HbmMap where
  key : Nat := 0
  regions : List HbmRegion := []
deriving DecidableEq, Repr

/-! ## Start, modes and resets (chapter 02, 23) -/

/-- Where the module stands between power and service: supplies removed, held in cold reset, booting towards Tethered,
the boot ROM's recovery service (R459), or running in one of the four modes. -/
inductive Phase where
  | off | coldReset | booting | recovery | running
deriving DecidableEq, Repr

/-- One start-report entry while an Ascent runs (Table MOD-8); KIND and INDEX follow from its position. -/
structure ReportEntry where
  stage : Nat := 0
  outcome : Nat := 0
  holes : Nat := 0
  reason : Nat := 0
  ms : Nat := 0
deriving DecidableEq, Repr

/-- An Ascent in progress: the unit (0 to 3 compute dies, 4 to 7 link dies, 8 the ENTRY stage), its stage (Table MOD-5), the
site within the HBM stage, the time the stage has taken, the local time at which the stage, or the training of its stack, began,
HOLES of the die so far (Table MOD-8: unusable tiles), and the report so far. -/
structure Ascent where
  unit : Nat := 0
  stage : Nat := 0
  site : Nat := 0
  stageMs : Nat := 0
  totalMs : Nat := 0
  start : Nat := 0
  since : Nat := 0
  holes : Nat := 0
  entries : List ReportEntry := []
deriving DecidableEq, Repr

/-! ## Security and management (chapter 21) -/

/-- One slot of the boot flash (Table SEC-2): its bytes (none: erased) and its try marks. -/
structure FlashSlot where
  bytes : Bytes := []
  marks : Nat := 0
deriving DecidableEq, Repr

/-- A debug grant in force (Table SEC-5): scope bits, key id, and the local time at which it ends. -/
structure Grant where
  scope : Nat := 0
  keyId : Nat := 0
  lifetime : Nat := 0
  ends : Nat := 0
deriving DecidableEq, Repr

/-- A firmware component being received (R460): its KIND, its bytes, the floor record it carries (MIN_VERSION and signature), and whether
it has been verified. -/
structure Transfer where
  kind : Nat := 0
  bytes : Bytes := []
  floor : Option (Nat × Bytes) := none
  verified : Bool := false
deriving DecidableEq, Repr

/-- What the boot flash, the straps and the security functions hold (chapter 21): the slots, floors, pending floor records (KIND, MIN_VERSION, the
slot whose image must reach Tethered), owner key and its replacement, the slots that run, the VERSIONs that last reached
Tethered, the updates applied whose image has not reached it yet (KIND, slot), straps, a failed PUF, KINDs whose update waits for a reset, components being received, nonces given, the nonce that is
valid, the grant in force, and the sensor values last refreshed. -/
structure Security where
  vendorA : FlashSlot := ⟨Config.shippedVendor, 1⟩
  vendorB : FlashSlot := {}
  platformA : FlashSlot := ⟨Config.shippedPlatform, 1⟩
  platformB : FlashSlot := {}
  floorVendor : Nat := 0
  floorPlatform : Nat := 0
  pendingFloor : List (Nat × Nat × Bool) := []
  owner : Option Bytes := none
  ownerNext : Option Bytes := none
  vendorSlotB : Bool := false
  platformSlotB : Bool := false
  lastVendor : Nat := 0
  lastPlatform : Nat := 0
  untried : List (Nat × Bool) := []
  bootSrc : Nat := 0
  mgmtAddr : Nat := 0
  pufFailed : Bool := false
  updates : List Nat := []
  transfers : List Transfer := []
  nonces : Nat := 0
  nonce : Option Bytes := none
  grant : Option Grant := none
  sensors : List Nat := []
deriving DecidableEq, Repr

/-! ## The host front end (chapters 05, 06) -/

/-- What a command will answer: Table CMD-10. -/
structure Completion where
  status : Nat := 0
  detail : Nat := 0
  result : Nat := 0
  part : Bool := false
deriving DecidableEq, Repr

/-- An outstanding command (R115): its handle, its 64-byte entry, whether it has started, what it waits for (a phase of its
own operation), a value it carries, and its answer once it has ended but its record is still held back (R121). -/
structure Pending where
  handle : Word := 0#64
  queue : Nat := 0
  seq : Nat := 0
  entry : Bytes := []
  started : Bool := false
  begun : Nat := 0
  phase : Nat := 0
  value : Nat := 0
  counters : List Nat := []
  done : Option Completion := none
deriving DecidableEq, Repr

/-- One queue pair, beside its registers: entries fetched since enable, the doorbell's tail, re-reads of a stale slot, records
written since enable, records not yet returned by the host, the first sequence and the number of sequences of this
incarnation, the latest sequence with a record, unsignalled records, and the submit window. -/
structure Queue where
  fetched : Nat := 0
  tail : Nat := 0
  stale : Bool := false
  rereads : Nat := 0
  written : Nat := 0
  unread : Nat := 0
  firstSeq : Nat := 0
  seqs : Nat := 0
  lastRecord : Option Nat := none
  unsignalled : Nat := 0
  submit : Bytes := []
  submitHandle : Word := 0#64
deriving DecidableEq, Repr

/-- A host message held for a full PERSIST channel (R154): physical tile, channel, the 64 bytes, and the SIGNAL that sent it (0: a
NOTIFY). -/
structure HostMsg where
  tile : Nat
  chan : Nat
  bytes : Bytes
  handle : Word
  logical : Option (Nat × Nat) := none
deriving DecidableEq, Repr

/-- An error record's handling window (R419): the unit, the class, the operations (tile, queue index) that consumed
the poisoned data of a DEFERRED record and have not ended, the record's SEQUENCE, and whether the unit has been left stopped, which ends
the window and excludes the unit. -/
structure Window where
  unit : Nat := 0
  cls : Nat := 0
  users : List (Nat × Nat) := []
  seq : Nat := 0
  left : Bool := false
deriving DecidableEq, Repr

/-- A UDP datagram on the line (R350, Table LIN-2): IPv4 or IPv6, the addresses, the traffic class (DSCP, ECN) and Don't
Fragment, the UDP ports, and the Zwine frame with its CRC. -/
structure Datagram where
  ipv4 : Bool := false
  srcIp : Nat := 0
  dstIp : Nat := 0
  dscp : Nat := 0
  ecn : Nat := 0
  dontFragment : Bool := false
  srcPort : Nat := 0
  dstPort : Nat := 0
  frame : Bytes := []
deriving DecidableEq, Repr

/-- A frame that leaves a link die: its port, peer, flow, sequence, whether it is a retransmission, what it carries, and its datagram. -/
structure LineOut where
  port : Nat := 0
  die : Nat := 0
  rank : Nat := 0
  flow : Nat := 0
  seq : Nat := 0
  retx : Bool := false
  body : Body
  wire : Datagram := {}
deriving DecidableEq, Repr

/-- The latest answers at the module's ports, and its output pins. -/
structure Outputs where
  hostData : Bytes := []
  hostFault : Bool := false
  hostStatus : Nat := 0
  pcieData : Bytes := []
  pcieUnsupported : Bool := false
  mgmtStatus : Nat := 0
  mgmtData : Bytes := []
  interrupts : List (Nat × Nat) := []
  line : List LineOut := []
  modbus : Bytes := []
  jtag : List Bool := []
  railEn : Nat := 0
  avs : SMap Nat := [(8, 800)]
  thermtripN : Bool := true
  pwrOffReqN : Bool := true
deriving DecidableEq, Repr

/-! ## The structure image (chapter 03) -/

/-- One section of an image: its id, minor, preamble, entries and whole body (PROGRAMS segments lie in the body). -/
structure Section where
  id : Nat := 0
  minor : Nat := 0
  pre : Bytes := []
  entries : List Bytes := []
  body : Bytes := []
deriving DecidableEq, Repr

/-- An image in force or waiting to take effect: its chosen minor, identifier, digest and sections. -/
structure Image where
  minor : Nat := 0
  id : Nat := 0
  digest : Bytes := []
  sections : List Section := []
deriving DecidableEq, Repr

/-- A tick-class change waiting for its boundary (R58, R71): the field, its value, and the UPDATE command that wrote it
(none: an RWT register write). `entry` is 0xFFFF_FFFF for the preamble. -/
structure Shadow where
  sec : Nat := 0
  entry : Nat := 0
  off : Nat := 0
  width : Nat := 0
  value : Nat := 0
  handle : Option Word := none
deriving DecidableEq, Repr

/-- A commit in progress (R69): its command, the boundaries it may still wait for, and whether it waits for quiescence (0),
prepares (1) or has prepared (2), its image, and whether a job image was in force when it started (R32). -/
structure Commit where
  handle : Word := 0#64
  wait : Nat := 0
  phase : Nat := 0
  image : Image
  had : Bool := false
deriving DecidableEq, Repr

/-! ## Tiles (chapter 07) -/

/-- A range of scratchpad bytes that an operation or a push touches, and whether it writes them. -/
structure Span where
  lo : Nat
  len : Nat
  write : Bool
deriving DecidableEq, Repr

/-- One operation of a tile's queue (R138 to R142): its descriptor, its generation, its prerequisites, its place in issue order,
whether an engine holds it, whether its effects are done, its transfer outcome, the engine that took it, engine-private
progress, the operations it comes after, the scratchpad bytes it touches and those it shares unordered (R141), the rows that a DMA
writes outside the tile (destination, source, bytes), and the entries of pages that a FORK met in transit (R273). -/
structure Op where
  desc : Bytes := []
  gen : Nat := 0
  pre1 : Nat := 0
  pre2 : Nat := 0
  order : Nat := 0
  started : Bool := false
  acted : Bool := false
  status : Nat := 0
  engine : Nat := 0
  aux : Nat := 0
  after : List Nat := []
  spans : List Span := []
  races : List (Nat × Nat) := []
  sends : List (Nat × Option Nat × Nat) := []
  met : List Nat := []
deriving DecidableEq, Repr

/-- A sending flow of a tile (R150 to R152): destination module rank (0xFFFF local), logical tile and channel, next SEQ, the
unacknowledged flits (queue index, flit), whether a resend waits for its backoff, and the backoff in clk (0: none). -/
structure Flow where
  dst : Nat := 0
  chan : Nat := 0
  module : Nat := 0xFFFF
  nextSeq : Nat := 0
  unacked : List (Nat × Bytes) := []
  resend : Bool := false
  backoff : Nat := 0
deriving DecidableEq, Repr

/-- What travels through the mesh for a message (R151, R152). -/
inductive FlitKind where
  | data | ack | refusal | undeliverable
deriving DecidableEq, Repr

/-- A message flit, or its answer, on its way between two physical tiles. -/
structure Flit where
  kind : FlitKind := .data
  src : Nat := 0
  dst : Nat := 0
  bytes : Bytes := []
deriving DecidableEq, Repr

/-- The stationary operand that an array holds (R202): its tag, its elements and its scale bytes, by column. -/
structure Held where
  tag : List Nat := []
  elems : List Nat := []
  scales : List Nat := []
deriving DecidableEq, Repr

/-- One entry of a tap table (R221): layer counter, component (1 FOOT, 2 WEIGHT, 3 UPDATE, 4 LOSS), the FP64 partial sum, and
whether a non-finite value was left out. -/
structure Tap where
  layer : Nat := 0
  comp : Nat := 0
  sum : Nat := 0
  nf : Bool := false
deriving DecidableEq, Repr

/-- A tap table as SLOT_END sends it (R222): logical tile, entries, layer counters that lost a contribution, and the NF bit. -/
structure TapTable where
  logical : Nat := 0
  taps : List Tap := []
  lost : List Nat := []
  nf : Bool := false
deriving DecidableEq, Repr

/-- Why a tile core is not executing. -/
inductive CoreRun where
  | idle | running | waitSlot | done | halted | trapped
deriving DecidableEq, Repr

/-- The foot accumulator of one array (R200): the FP32 words known, by row × 64 + column, and the seed of the free contents of the rest. -/
structure Foot where
  seed : Nat := 0
  words : SMap Nat := []
deriving DecidableEq, Repr

/-- One tile, beside its registers. -/
structure Tile where
  xreg : SMap Word := []
  pc : Word := 0#64
  run : CoreRun := .idle
  mcycle : Nat := 0
  reserve : Option (Nat × Nat) := none
  iram : SMap Byte := []
  dram : SMap Byte := []
  dramNew : SMap Byte := []
  ops : SMap Op := []
  gens : SMap Nat := []
  lastStatus : SMap (Nat × Nat) := []
  issued : Nat := 0
  fullStalls : Nat := 0
  chans : SMap (List Bytes) := []
  expect : SMap Nat := []
  flows : List Flow := []
  beat : Nat := 0
  held : SMap Held := []
  feet : SMap Foot := []
  touched : List Span := []
  pushed : List Span := []
  taps : List Tap := []
  tapLost : List Nat := []
deriving DecidableEq, Repr

/-! ## The parameter update and survival of a domain (chapters 17, 18) -/

/-- The update of a step (R377, R381, R387): its STEP UPDATE command (zero once complete), step and shard set, whether the latch is taken, its
outcome and the 40 bytes latched, whether the step's outcome is decided, and the outcome and the GNORM_SQ of the first pass 2. -/
structure Update where
  handle : Word := 0#64
  step : Nat := 0
  set : Nat := 0
  latched : Bool := false
  status : Nat := 0
  block : Bytes := []
  decided : Bool := false
  outcome : Nat := 0
  gnorm : Nat := 0
deriving DecidableEq, Repr

/-- A snapshot in progress (R398, R400): the state after `step`, the domain record and front part as copied, the STEP SNAPSHOT commands that
wait, whether its front part still holds the domain, the aligned time of its start, its partner slot, the place of its front part in the front
staging, and the partner's descriptor once it is whole. -/
structure Snap where
  step : Nat := 0
  record : DomRecord := {}
  front : Front := {}
  handles : List Word := []
  holding : Bool := false
  start : Nat := 0
  slot : Nat := 0
  staged : Nat := 0
  descriptor : Option Bytes := none
deriving DecidableEq, Repr

/-- A step whose blocks have been streamed and whose MIRROR_COMMIT has not been sent (R394): the step, and its domain record. -/
structure MirrorDue where
  step : Nat := 0
  record : DomRecord := {}
deriving DecidableEq, Repr

/-- A RESTORE in progress (R406, R407): its command, the step of its basis, the last step replayed, the spool records it replays, the next
sequence, whether the basis is loaded, the aligned time at which it began, and the tick at which the original run opened the first step
replayed. -/
structure Restore where
  handle : Word := 0#64
  step : Nat := 0
  last : Nat := 0
  spool : List Bytes := []
  loaded : Bool := false
  start : Nat := 0
  opened : Option Nat := none
deriving DecidableEq, Repr

/-- A protected WEIGHT region (R392, R393): its domain, place among the MEMORY entries, TENSOR_ID, base and bank bytes, METHOD in force (0: AUTO
undecided), the blocks of its write bank written in step n, n - 1 and n - 2, the blocks streamed in step n and not written since, the blocks
found changed, and the steps in a row streamed to this partner, up to the last one. -/
structure Protect where
  dom : Nat := 0
  index : Nat := 0
  tensor : Nat := 0
  base : Nat := 0
  bank : Nat := 0
  method : Nat := 0
  dirty : List (List Nat) := []
  sent : List Nat := []
  changed : Nat := 0
  streams : Nat := 0
  last : Nat := 0
deriving DecidableEq, Repr

/-- A partner slot of a source's domain (R400): empty (0), filling (1) or whole (2), its step, what it holds, and its descriptor. -/
structure PartnerSlot where
  state : Nat := 0
  step : Nat := 0
  size : Nat := 0
  basis : Basis := {}
  descriptor : Bytes := []
deriving DecidableEq, Repr

/-- What this module keeps as a partner for one domain of its source (R395, R400, R401), beside the mirror banks in its MIRROR_RESERVE region: the
sizes of the source's mirrored banks by region in image order, the step each bank is whole for, its records, MIRROR_COMMITs in
sequence, the latest mirrored step and the image it belongs to, the two slots and the one last made whole, and the spool records. -/
structure Served where
  plan : List (Nat × Nat) := []
  whole : List (Option Nat) := [none, none, none]
  records : List DomRecord := [{}, {}, {}]
  commits : Nat := 0
  mirrored : Nat := 0
  image : Nat := 0
  slots : List PartnerSlot := [{}, {}]
  latest : Option Nat := none
  spool : List Bytes := []
deriving DecidableEq, Repr

/-- Survival of the module (chapter 18): the partner's rank, the PARTNERS place asked, the places that answered PARTNER_BUSY in this round,
the bytes of the partner's reserve, the source served, the protected regions, what is kept for the source by domain, the descriptors in
the host's survival area by domain, the aligned time of the last whole snapshot's start, the spool records that wait for the end of the
search for a partner, and the answers given to offers (rank, status, feed, loop). -/
structure Survival where
  partner : Option Nat := none
  asking : Option Nat := none
  busy : Nat := 0
  room : Nat := 0
  source : Option Nat := none
  regions : List Protect := []
  served : SMap Served := []
  area : SMap Bytes := []
  lastStart : Nat := 0
  unsent : List Bytes := []
  offers : List (Nat × Nat × Nat × Nat) := []
deriving DecidableEq, Repr

/-! ## Domains (chapters 03, 04, 07) -/

/-- A LAUNCH of a domain (R126): its command (zero once that command has completed), slot limit, slots started, its first slot,
whether it has an argument block, and the logical tiles that have issued PROG_END, those of the current slot apart. -/
structure Launch where
  handle : Word := 0#64
  limit : Nat := 0
  slots : Nat := 0
  firstSlot : Nat := 0
  args : Bool := false
  ended : List Nat := []
  endedNow : List Nat := []
deriving DecidableEq, Repr

/-- A migration whose event waits for the next slot (R425): logical tile, old and new physical tile, slot, epoch. -/
structure Migration where
  logical : Nat := 0
  old : Nat := 0
  new : Nat := 0
  slot : Nat := 0
  epoch : Nat := 0
deriving DecidableEq, Repr

/-- One barrier of a domain (R157, R158): the generations released, the logical tiles that arrived, the groups of the release in
progress already released (0: none in progress), and the arrivals at the generation after it. -/
structure Barrier where
  gen : Nat := 0
  arrived : List Nat := []
  groups : Nat := 0
  next : List Nat := []
deriving DecidableEq, Repr

/-- A COLL_POST that waits for its boundary (R357): the posting tile, the domain's step, the descriptor. -/
structure Post where
  tile : Nat := 0
  step : Nat := 0
  desc : Bytes := []
deriving DecidableEq, Repr

/-- One domain in force, beside its registers: whether its first slot is still to start (R77), its placement epoch and map
(logical tile to physical tile where they differ) with the spares taken, the LAUNCH it runs and the one that waits for the next
slot, the STOPs that wait for its end, the open slot (whether it is open, replays or has slipped, and the tick that opened it),
whether the domain stopped for want of a spare, the RESUME that waits, resume records by position and half (R135), barriers,
and the recovery in progress (R423, R427), with the tick at which its next slot would start without the fault, and the unit that is to
report the recovery as long (0: none). -/
structure Dom where
  fresh : Bool := false
  epoch : Nat := 0
  place : SMap Nat := []
  taken : List Nat := []
  launch : Option Launch := none
  launchNext : Option Launch := none
  stops : List Word := []
  slotOpen : Bool := false
  replay : Bool := false
  slipped : Bool := false
  slotTick : Nat := 0
  noSpare : Bool := false
  faulted : Bool := false
  resumeBy : Option Word := none
  resume : SMap Nat := []
  barriers : SMap Barrier := []
  recovering : List Nat := []
  recoverCode : Nat := 0
  recoverSince : Nat := 0
  recoverDue : Nat := 0
  recoverLong : Nat := 0
  replayDue : Bool := false
  migrations : List Migration := []
  posts : List Post := []
  launchedColls : List Nat := []
  -- steps and survival
  step : Nat := 0
  stepOpen : Bool := false
  stepTick : Nat := 0
  -- the opened steps whose seal is still to be made, and the tick that opened each (R340)
  unsealed : List (Nat × Nat) := []
  spoolSeq : Nat := 0
  stepsOpened : Nat := 0
  beginBy : List (Word × Nat) := []
  updateBy : List Update := []
  update : Option Update := none
  -- the logical tiles whose FINAL slot of the step is finished, and those that ran a FINAL operation in the open slot (R387)
  finals : List Nat := []
  finalsNow : List Nat := []
  wholeStep : Option Nat := none
  wholeSlot : Nat := 0
  -- the STEP SNAPSHOT commands and requests that the next step boundary serves, the step from which a job-wide request is served
  snapWanted : Bool := false
  snapBy : List Word := []
  snapAt : List Nat := []
  snap : Option Snap := none
  mirrorDue : List MirrorDue := []
  mirrorCount : Nat := 0
  mirroredStep : Option Nat := none
  cleanSteps : List Nat := []
  restore : Option Restore := none
  restoreBad : Bool := false
  -- training support (R219 to R223): tap tables of the open slot, the two banks, the step number held in LAST
  tables : List TapTable := []
  current : Bank := {}
  last : Bank := {}
  lastStep : Nat := 0
deriving DecidableEq, Repr

/-! ## The page engine (chapter 12) -/

/-- A run block of a page pool that is not wholly free: its pool, its slots in use as a mask, the entry 16r it is reserved for
(R269), and the order of that reservation. -/
structure Block where
  pool : Nat := 0
  taken : Nat := 0
  resv : Option Nat := none
  age : Nat := 0
deriving DecidableEq, Repr

/-- A freed frame on its way back to its pool (R275): the frame unit, the tick in which it was freed, and the walker operations
(tile, queue index, generation) then in flight. -/
structure FreeFrame where
  frame : Nat := 0
  tick : Nat := 0
  users : List (Nat × Nat × Nat) := []
deriving DecidableEq, Repr

/-- A move of a run group between HBM and host memory (R276): whether it spills, its pool and entry 16r, and its pages as (entry,
old frame, new frame, tier they leave, tier they reach). -/
structure PageMove where
  id : Nat := 0
  spill : Bool := true
  pool : Nat := 0
  group : Nat := 0
  intact : Bool := false
  pages : List (Nat × Nat × Nat × Nat × Nat) := []
deriving DecidableEq, Repr

/-- What the page engine keeps beside its tables in HBM: run blocks by first frame unit, freed frames, moves, spill space in use
(first 256-byte unit and units) of each tier, reservations made, the sweep hand of each pool (R277), the pools whose sweep has
spilled and those whose SPILL_FULL has been raised, the walker caches by die and set, most recent line first (R267), and whether the tables
in HBM are those of an enable since the last commit. -/
structure Kvp where
  tables : Bool := false
  blocks : SMap Block := []
  freed : List FreeFrame := []
  moves : List PageMove := []
  nextMove : Nat := 0
  ddr : SMap Nat := []
  cxl : SMap Nat := []
  age : Nat := 0
  hands : SMap Nat := []
  swept : List Nat := []
  fullSeen : List Nat := []
  cache : SMap (List Nat) := []
deriving DecidableEq, Repr

/-! ## The stash (chapter 13) -/

/-- The stash units: handles by index, the space in use as (address, bytes), and the space of released handles whose move has not
ended, by handle (R294). -/
structure Stash where
  handles : SMap Handle := []
  space : SMap Nat := []
  orphans : List (Nat × List Nat) := []
deriving DecidableEq, Repr

/-! ## Zwine (chapter 16) -/

/-- What the module knows of a peer (R353, R355): its STATE (0 NONE, 1 HELLO, 2 LIVE, 3 LOST, 4 VERSION_REJECTED), the chosen minor (0xFF none,
from the first HELLO on), the median round trip in 10 ns units, and the frames retransmitted to it. -/
structure PeerState where
  state : Nat := 0
  minor : Nat := 0
  rtt : Nat := 0
  retx : Nat := 0
deriving DecidableEq, Repr

/-- A frame sent and not yet acknowledged (R351, R352): its SEQ, its retransmission timer in ns, the link die and port by which it was last
sent, and what it carries. -/
structure Sent where
  seq : Nat := 0
  timer : Nat := 20000
  via : Option (Nat × Nat) := none
  body : Body
deriving DecidableEq, Repr

/-- A sending flow (R351, R352): the link die that serves it, the peer, the flow number, the next SEQ, the window, the SEQ whose
acknowledgement ends the round trip in progress, the unacknowledged frames, and those that wait for the window. -/
structure OutFlow where
  die : Nat := 0
  rank : Nat := 0
  flow : Nat := 0
  next : Nat := 0
  window : Nat := 128
  turn : Nat := 0
  unacked : List Sent := []
  queue : List Body := []
deriving DecidableEq, Repr

/-- A receiving flow (R351): the link die that last received from it, the peer, the flow number, the next SEQ to deliver, frames held
out of order, and the frames and marks since the last SACK. -/
structure InFlow where
  die : Nat := 0
  rank : Nat := 0
  flow : Nat := 0
  next : Nat := 0
  held : List (Nat × Body) := []
  since : Nat := 0
  marks : Nat := 0
deriving DecidableEq, Repr

/-! ## Time (chapter 04) -/

/-- The offset measurement (R86, R87): the offsets of the set in progress, the local time of the request under way and whether it is the
periodic round trip, whether a rejected set is to be repeated, the tick of the last periodic round trip, and, on a module that has become
time master at the loss of another, the one it replaced, until that is live again (R88). -/
structure Measure where
  trips : List Int := []
  sent : Option Word := none
  single : Bool := false
  due : Bool := false
  tripTick : Nat := 0
  errAt : Nat := 0
  heir : Option Nat := none
deriving DecidableEq, Repr

/-! ## Collectives (chapter 16) -/

/-- A collective of a domain in one step (R357 to R368): its post, home link die and group once launched here, the notices that a
coordinator holds (member, CRC, NONFINITE), STEP_NF as it stood at launch (R363), the boundary at which it first held the quorum, the ranks
lost before the decision (R353), the decision, the chunks of contributions and results held (by sender and chunk), what each contribution is held
against with its NONFINITE, the members of whose contribution a chunk was lost (R356), whether the block owned here has been reduced, and whether it
has ended here. -/
structure Coll where
  dom : Nat := 0
  id : Nat := 0
  step : Nat := 0
  post : Bytes := []
  launched : Option Nat := none
  home : Nat := 0
  ranks : List Nat := []
  self : Nat := 0
  crc : Nat := 0
  notices : List (Nat × Nat × Bool) := []
  stepNf : Bool := false
  quorum : Option Nat := none
  lost : List Nat := []
  verdict : Option Verdict := none
  parts : SMap Bytes := []
  results : SMap Bytes := []
  kins : SMap (Kin × Bool) := []
  holes : List Nat := []
  reduced : Bool := false
  ended : Bool := false
deriving DecidableEq, Repr

/-- A record in the host spool ring (R401): its place and length, its domain and the step it belongs to. -/
structure SpoolRec where
  off : Nat := 0
  len : Nat := 0
  dom : Nat := 0
  step : Nat := 0
deriving DecidableEq, Repr

/-! ## Memory and arbitration (chapter 14) -/

/-- An arbiter (R324, R327): its owner and whether that grant's transfer still runs, the grants used in the window, the backoff of each
requester, the requesters whose backoff has not run out, the last requester granted from each tier, and the requesters
marked faulted. -/
structure Arb where
  owner : Option Nat := none
  granted : Bool := false
  used : SMap Nat := []
  backoff : SMap Nat := []
  waiting : List Nat := []
  last1 : Option Nat := none
  last2 : Option Nat := none
  last3 : Option Nat := none
  faulted : List Nat := []
deriving DecidableEq, Repr

/-- The hotspot detector of a compute die (R317): consecutive ticks towards ACTIVE, and towards its clearing. -/
structure HotRun where
  above : Nat := 0
  under : Nat := 0
  active : Bool := false
deriving DecidableEq, Repr

/-! ## Sample intake (chapter 15) -/

/-- A batch record held until its seal (Table INT-2). -/
structure Batch where
  dom : Nat := 0
  step : Nat := 0
  outType : Nat := 0
  count : Nat := 0
  mask : Nat := 0
deriving DecidableEq, Repr

/-- The intake: held batches, samples by number, each engine's samples (the one it decodes first), seals made as (domain, step), and
the samples and tokens numbered so far. Disabling it discards all but the seals made and the numbering of the tokens (R342). -/
structure Intake where
  batches : List Batch := []
  samples : SMap Sample := []
  engines : SMap (List Nat) := []
  seals : List (Nat × Nat) := []
  count : Nat := 0
  tokens : Nat := 0
deriving DecidableEq, Repr

/-! ## Power, cooling and the facility port (chapter 20) -/

/-- Power and thermal control (R431 to R440): cap and thermal steps, the emergency step of a droop and whether a trip is held, the local
time of the last droop, the latest readings (°C), 1 ms power samples (W, newest first), periods of cooling, requests held by
rank, the decision last sent, decisions that wait for their boundary (aligned time, step), whether an agreement has taken effect
since Aloft entry, the step whose voltage the rails have, a voltage rise under way, whether the clock owes a rise to a boundary that has
passed, the compute dies' own voltage offsets (mV), the last CAP_UNREACHABLE, and whether ballast is off. -/
structure Power where
  capStep : Nat := 0
  thermalStep : Nat := 0
  droopStep : Nat := 0
  tripHeld : Bool := false
  droopAt : Option Nat := none
  compute : List Nat := []
  link : List Nat := []
  host : Nat := 0
  hbm : List Nat := []
  samples : List Nat := []
  cool : Nat := 0
  requests : SMap Nat := []
  lastSent : Option Nat := none
  decisions : List (Nat × Nat) := []
  agreed : Bool := false
  volts : Nat := 15
  rising : Option Nat := none
  owed : Bool := false
  offsets : SMap Int := []
  unreachable : Option Nat := none
  ballastOff : Bool := false
deriving DecidableEq, Repr

/-- The facility port (R445 to R450): the field side's holding registers, relayed input registers, own supply (mV), error count and version, which
live on the field supply; and the module's view: the last heartbeat, the last SHED received, the out-of-range episode, the leak hold;
and the latest frames each way across the isolation die, as (type, content). -/
structure Facility where
  holding : List Nat := [0x8000, 0xFFFF, 0xFFFF, 0, 0, 0, 0, 0, 0, 0, 0]
  relayed : List Nat := [0, 0, 0, 0, 0, 0, 0, 0, 0, 0, 0]
  supply : Nat := 0
  errors : Nat := 0
  major : Nat := 0
  minor : Nat := 0
  beat : Nat := 0
  shedSeen : Nat := 0
  outOfRange : Bool := false
  leakHold : Bool := false
  inward : List (Nat × Nat) := []
  outward : List (Nat × Nat) := []
deriving DecidableEq, Repr

/-! ## Debug and tensor watch (chapter 22) -/

/-- A reading of a watch point (R477): the step and the bank it reads. -/
structure Reading where
  step : Nat := 0
  base : Nat := 0
  len : Nat := 0
  tensor : Nat := 0
  stats : Nat := 0
  dom : Nat := 0
  replay : Bool := false
deriving DecidableEq, Repr

/-- The instructions of the Debug Port (R468); its 8-bit register holds the code of one (R479). -/
inductive JtagInstr where
  | bypass | idcode | samplePreload | extest | clamp | instrument
deriving DecidableEq, Repr

/-- Debug and watch state: the last eight records of each point, the readings of each point in progress, oldest first, the instruction in
the Debug Port's register, boundary-scan cells, the values driven at the pins, and the instrument network's segment bits. -/
structure Debug where
  points : SMap (List Bytes) := []
  readings : SMap (List Reading) := []
  ir : JtagInstr := .idcode
  cells : List Bool := []
  driven : List Bool := []
  segments : List Bool := []
deriving DecidableEq, Repr

/-! ## The module -/

/-- The state of the module. -/
structure State where
  /-- the commands that wait, first in, first out -/
  pending : List Instr := []
  -- power, pins, start
  phase : Phase := .booting
  pwrgood : Bool := true
  rstN : Bool := true
  part : Part := {}
  board : Board := {}
  foundation : Foundation := {}
  security : Security := {}
  attempts : Nat := 0
  ascent : Option Ascent := none
  retryPending : Bool := false
  dies : Nat := 0
  hbmStacks : Nat := 0
  links : Nat := 0
  d2dUp : Nat := 0
  unusable : List Nat := []
  selfRefresh : Nat := 0
  railPg : Nat := 0
  haltCold : Bool := false
  coldBoot : Bool := true
  coldCause : Nat := 1
  hbmSet : Nat := 0
  -- registers and memory
  regs : SMap Word := []
  mem : Mem := ⟨[], [⟨0xF000_0000_0000, 0x1_0000_0000, .zero⟩, ⟨0, 2 ^ 48, .free 0⟩]⟩
  /-- the poisoned 64-byte lines (R321), by place in `mem`, ascending -/
  poison : List Nat := []
  fresh : Nat := 1
  /-- the decode of the HBM range in force, and the one the next commit compares with (R316) -/
  hbmMap : HbmMap := {}
  hbmPrev : HbmMap := {}
  -- tick and time
  localNs : Nat := 0
  lastBoundary : Nat := 0
  nextBoundary : Nat := 50000
  slew : Int := 0
  slewAt : Nat := 0
  aligned : Bool := false
  /-- the frequency correction in force (R87), in units of 10^-9 -/
  freq : Int := 0
  timeMaster : Nat := 0
  measure : Measure := {}
  measureBy : List Word := []
  -- structure image
  stagedLen : Nat := 0
  stageBy : Option Word := none
  validateBy : Option Word := none
  commit : Option Commit := none
  image : Option Image := none
  shadows : List Shadow := []
  -- host front end
  sealing : List Nat := []
  hostMsgs : List HostMsg := []
  queues : SMap Queue := []
  cmds : List Pending := []
  outs : Outputs := {}
  -- errors and events
  recSeq : Nat := 0
  ringUnread : Nat := 0
  ringWritten : Nat := 0
  ringGap : Nat := 0
  windows : List Window := []
  onceTick : List Nat := []
  counts : SMap Nat := []
  -- tiles and domains
  tiles : SMap Tile := []
  doms : SMap Dom := []
  net : List Flit := []
  kvp : Kvp := {}
  stash : Stash := {}
  /-- what counters of whole units (MiB, thousands) have counted beyond their last unit, by register and bit -/
  rests : SMap Nat := []
  /-- values written to RWT registers that wait for the next boundary (R6) -/
  regShadows : SMap Word := []
  -- memory and arbitration: accesses by pseudo-channel since commit, in this tick and in the last, the detectors by die, the next
  -- word each stack's scrubber reads, and the arbiters
  hbmSeen : SMap Nat := []
  hbmTick : SMap Nat := []
  hbmLast : SMap Nat := []
  hot : SMap HotRun := []
  scrubAt : SMap Nat := []
  arbs : SMap Arb := []
  /-- frames replayed on die-to-die and host-die ports, by unit id (R421) -/
  replays : SMap Nat := []
  /-- risk scores by input in units of 2^-32 (R403): 0 to 15 the ECC of each stack, then RETRAIN, OVERRUN, DROOP, COOLANT, BATTERY,
  NONFINITE and SPIKE; and the aligned time to which they have been halved -/
  risk : SMap Nat := []
  riskAt : Nat := 0
  intake : Intake := {}
  -- Zwine: peers by rank, flows, and retrains of each port (16n + p) since it was last up
  peers : SMap PeerState := []
  outFlows : List OutFlow := []
  inFlows : List InFlow := []
  retrains : SMap Nat := []
  -- collectives known here, tails held, and what the next COLL record of a collective (4096d + id) names of tails
  colls : List Coll := []
  tails : List Tail := []
  tailNotes : SMap (List Nat) := []
  -- survival, power, facility, debug
  spoolRing : List SpoolRec := []
  survival : Survival := {}
  power : Power := {}
  facility : Facility := {}
  dbg : Debug := {}
deriving DecidableEq, Repr

/-- The outcome of a step of this machine. -/
abbrev Out := Host.Outcome State Fault Refusal

/-- The module right after reset: the end of a cold reset at power-on, with PWRGOOD and RST_N high and the boot ROM
running the shipped foundation image. Every register holds its reset value (R6), memory is unpredictable (R48), and no
command waits. -/
def State.reset : State := {}

end Sys2Proof.Machine
end

