-- ==== Sys2Proof/Machine/Ops.lean ====
section
/-!
DEFINITION. The named operations over the state: registers and their fields, memories, the physical address map, time, error
records and events, completion records.
-/
namespace Sys2Proof.Machine

/-! ## Registers (R5, R6) -/

/-- The stored value of the register at block offset `a`. -/
def State.reg (s : State) (a : Nat) : Word := (smapFind s.regs a).getD (regReset a)

/-- `s` with the register at block offset `a` holding `v`. -/
def State.setReg (s : State) (a : Nat) (v : Word) : State :=
  { s with regs := smapPut (fun k => some (regReset k)) s.regs a v }

/-- The value of a register field. -/
def State.fld (s : State) (f : Fld) : Nat := bitsOf (s.reg f.reg).toNat f.lo f.width

/-- `s` with a register field set to `v` (mod its width). -/
def State.setFld (s : State) (f : Fld) (v : Nat) : State :=
  s.setReg f.reg (word (setBits (s.reg f.reg).toNat f.lo f.width v))

/-- A counter field raised by `n`, saturating (R430, R469). -/
def State.addFld (s : State) (f : Fld) (n : Nat) : State :=
  s.setFld f (satTo (2 ^ f.width - 1) (s.fld f + n))

/-- `n` counted by a counter field of whole `unit`s. -/
def State.addScaled (s : State) (f : Fld) (unit n : Nat) : State :=
  let key := f.reg * 64 + f.lo
  let total := (smapFind s.rests key).getD 0 + n
  ({ s with rests := smapPut (fun _ => some 0) s.rests key (total % unit) }).addFld f (total / unit)

/-- A counter field lowered by `n`, not below zero. -/
def State.subFld (s : State) (f : Fld) (n : Nat) : State := s.setFld f (s.fld f - n)

/-- `s` with the registers at the offsets of the list back at their reset values. -/
def State.resetRegs (s : State) : List Nat → State
  | [] => s
  | a :: as => (s.setReg a (regReset a)).resetRegs as

/-- `s` with every register whose offset lies in [lo, lo + n) back at its reset value. -/
def State.resetRegRange (s : State) (lo n : Nat) : State := { s with regs := smapDrop s.regs lo n }

/-! ## Modes (Table MOD-1) and units -/

/-- The mode in force: 1 TETHERED, 2 ASCENT, 3 ALOFT, 0xF HALTED (R29). -/
def State.mode (s : State) : Nat := s.fld CTL_MODE_MODE

/-- Whether the host complex runs and the module is in mode `m`. -/
def State.inMode (s : State) (m : Nat) : Bool := s.phase == .running && s.mode == m

/-- Whether the module is Aloft. -/
def State.aloft (s : State) : Bool := s.inMode 3

/-- The compute die of tile `t` (R14). -/
def dieOf (t : Nat) : Nat := t % 24 / 12 + 2 * (t / 24 / 8)

/-- Whether stack site `x` is fitted (R15). -/
def Part.stackFitted (p : Part) (x : Nat) : Bool := x < 16 && x % 4 < p.hbmStacks / 4

/-- The fitted stack sites as a mask. -/
def Part.stackMask (p : Part) : Nat := (List.range 16).foldl (fun m x => if p.stackFitted x then withBit m x else m) 0

/-- The TDP of a variant's -25 part (Table SCO-3). -/
def Part.tdp25 (p : Part) : Nat :=
  match p.variant with
  | .s08l2 => 2900
  | .s12l2 => 3300
  | .s12l3 => 3700
  | .s16l3 => 4050
  | .s16l4 => 4400

/-- The rated flow of a variant in 0.01 L/min (Table PWR-2). -/
def Part.ratedFlow (p : Part) : Nat :=
  match p.variant with
  | .s08l2 => 500
  | .s12l2 => 560
  | .s12l3 => 630
  | .s16l3 => 690
  | .s16l4 => 750

/-- The TDP of a part: a -22 part's is 12 % below (R11, Table SCO-3). -/
def Part.tdp (p : Part) : Nat := if p.bin22 then p.tdp25 * 88 / 100 else p.tdp25

/-- The compute die that carries link die `n` (R16, Table ARC-2). -/
def linkHost (n : Nat) : Nat := if n = 0 then 0 else if n = 1 then 3 else if n = 2 then 1 else 2

/-- The ports between compute dies: 0 joins 0–1, 1 joins 2–3, 2 joins 0–2, 3 joins 1–3 (Table ERR-4). -/
def portDies (p : Nat) : Nat × Nat :=
  if p = 0 then (0, 1) else if p = 1 then (2, 3) else if p = 2 then (0, 2) else (1, 3)

/-- The set bits of `m` below 16, counted. -/
def popcount (m : Nat) : Nat := (bitsSet m 16).length

/-- Hub hops between compute dies (Table ERR-4). -/
def hubHops (a b : Nat) : Nat := popcount (a ^^^ b)

/-- Whether tile `t` is usable on an admitted die (R41). -/
def State.tileUsable (s : State) (t : Nat) : Bool :=
  decide (t < 384) && bitOf s.dies (dieOf t) && !(s.unusable.contains t)

/-! ## Memory -/

/-- What an unlisted byte at `a` is known to be, under the newest range that holds it. -/
def rangeKnown : List Range → Nat → Option Byte
  | [], _ => some 0#8
  | r :: rs, a =>
    if r.lo ≤ a ∧ a < r.lo + r.len then
      match r.fill with
      | .zero => some 0#8
      | .free _ => none
    else rangeKnown rs a

/-- What an unlisted byte at `a` reads as. -/
def rangeByte : List Range → Nat → Byte
  | [], _ => 0#8
  | r :: rs, a =>
    if r.lo ≤ a ∧ a < r.lo + r.len then
      match r.fill with
      | .zero => 0#8
      | .free salt => Config.freeByte salt a
    else rangeByte rs a

/-- One byte of memory. -/
def memGet (m : Mem) (a : Nat) : Byte := (smapFind m.cells a).getD (rangeByte m.back a)

/-- A write of one byte; the canonical form is kept. -/
def memPut (m : Mem) (a : Nat) (b : Byte) : Mem :=
  { m with cells := smapPut (rangeKnown m.back) m.cells a b }

/-- `n` bytes from `a`. -/
def memRead (m : Mem) : Nat → Nat → Bytes
  | _, 0 => []
  | a, n + 1 => memGet m a :: memRead m (a + 1) n

/-- A byte string written from `a`. -/
def memWrite (m : Mem) : Nat → Bytes → Mem
  | _, [] => m
  | a, b :: bs => memWrite (memPut m a b) (a + 1) bs

/-- A range set as a whole: zeroed, or made unpredictable. -/
def memFill (m : Mem) (lo len : Nat) (f : Fill) : Mem :=
  { cells := smapDrop m.cells lo len, back := ⟨lo, len, f⟩ :: m.back }

/-- The canonical form of a memory. -/
def memWf (m : Mem) : Bool := smapWf (rangeKnown m.back) m.cells

/-! ## The physical address map (R97, R98) -/

/-- The base of host DDR. -/
def ddrBase : Nat := 0
/-- The base of HBM. -/
def hbmBase : Nat := 0x1000_0000_0000
/-- The base of the scratchpad windows. -/
def padBase : Nat := 0x2000_0000_0000
/-- The base of CXL memory. -/
def cxlBase : Nat := 0x3000_0000_0000
/-- The base of the register blocks. -/
def blockBase : Nat := 0xF000_0000_0000
/-- The HBM storage of 16 stacks: 768 GiB (R310). -/
def hbmSpan : Nat := 768 * 2 ^ 30

/-- The scratchpad of tile `t` begins here. -/
def padAddr (t : Nat) : Nat := padBase + t * 0x40_0000

/-- The bytes of a scratchpad. -/
def padSize : Nat := 0x30_0000

/-- The fitted capacity of host DDR (R92). -/
def State.ddrSize (s : State) : Nat := s.board.ddrGib * 2 ^ 30

/-- The CXL devices that the foundation image maps, and the memory they hold from `cxlBase` on (R93). -/
def State.cxlMapped (s : State) : List CxlDevice := mappedDevices 0 (s.board.devices s.foundation.bifurcation)
def State.cxlGib (s : State) : Nat := (s.cxlMapped.map (·.gib)).sum
def State.cxlSize (s : State) : Nat := s.cxlGib * 2 ^ 30

/-- The areas of host DDR that the foundation image reserves (R92): the staging area, the error-log mirror area and the event ring. -/
def State.stageBase (s : State) : Nat := s.ddrSize - s.foundation.stageBelow
def State.errAreaBase (s : State) : Nat := s.ddrSize - s.foundation.errAreaBelow
def State.errRingBase (s : State) : Nat := s.ddrSize - s.foundation.errRingBelow

/-- The admitted HBM capacity. -/
def State.hbmSize (s : State) : Nat := popcount s.hbmStacks * 48 * 2 ^ 30

/-! ## The HBM decode (R312 to R315)

Bytes of HBM are kept by their place in storage: pseudo-channel, granule and byte, as an offset from `hbmBase`. -/

/-- The storage of one pseudo-channel: 768 MiB, and its 3,145,728 granules of 256 bytes (R310, R313). -/
def pcBytes : Nat := 0x3000_0000
def pcGranules : Nat := 3145728

/-- A product modulo 2^64. -/
def mul64 (a b : Nat) : Nat := a * b % 2 ^ 64

/-- The mixing function of R314. -/
def hbmMix (x : Nat) : Nat :=
  let x := x ^^^ (x / 2 ^ 29)
  let x := mul64 x 0xC3A51E97_2B6DF04B
  let x := x ^^^ (x / 2 ^ 32)
  let x := mul64 x 0x8F3D6A1C_E259B7A3
  x ^^^ (x / 2 ^ 29)

/-- The rotation of stripe `n` of a region under an interleave key (R314). -/
def stripeRot (key : Nat) (r : HbmRegion) (n : Nat) : Nat :=
  (hbmMix (n ^^^ (key % 2 ^ 64) ^^^ (r.index * 2 ^ 40 % 2 ^ 64)) ^^^ (key / 2 ^ 64)) % r.pcs.length

/-- Whether a region holds HBM offset `a`. -/
def HbmRegion.holds (r : HbmRegion) (a : Nat) : Bool := decide (r.base ≤ a ∧ a < r.base + r.size)

/-- The granules of a region in each channel of its set (R313). -/
def HbmRegion.depth (r : HbmRegion) : Nat := (r.size / 256 + r.pcs.length - 1) / r.pcs.length

/-- The place in storage of HBM offset `a` (R314). -/
def HbmMap.place (m : HbmMap) (a : Nat) : Option Nat :=
  match m.regions.find? (fun r => r.holds a) with
  | none => none
  | some r =>
    let g := (a - r.base) / 256
    let n := r.pcs.length
    let pc := r.pcs.getD ((g % n + stripeRot m.key r (g / n)) % n) 0
    some (pc * pcBytes + (r.bases.getD (pc / 256) 0 + g / n) * 256 + (a - r.base) % 256)

/-- The HBM offset that decodes to place `k` of the storage, if one does (R322). -/
def HbmMap.unplace (m : HbmMap) (k : Nat) : Option Nat :=
  let pc := k / pcBytes
  let slot := k % pcBytes / 256
  match m.regions.find? (fun r => r.pcs.contains pc &&
      decide (r.bases.getD (pc / 256) 0 ≤ slot ∧ slot < r.bases.getD (pc / 256) 0 + r.depth)) with
  | none => none
  | some r =>
    let s := slot - r.bases.getD (pc / 256) 0
    let n := r.pcs.length
    let g := s * n + (r.pcs.idxOf pc + n - stripeRot m.key r s) % n
    if g < r.size / 256 then some (r.base + g * 256 + k % 256) else none

/-- Where the byte at physical address `a` is kept. -/
def State.loc (s : State) (a : Nat) : Nat :=
  if hbmBase ≤ a ∧ a < hbmBase + hbmSpan then
    match s.hbmMap.place (a - hbmBase) with
    | some k => hbmBase + k
    | none => hbmBase + hbmSpan + (a - hbmBase)
  else a

/-- The physical address at which the byte kept at `k` is seen. -/
def State.unloc (s : State) (k : Nat) : Option Nat :=
  if hbmBase ≤ k ∧ k < hbmBase + hbmSpan then (s.hbmMap.unplace (k - hbmBase)).map (hbmBase + ·) else some k

/-! ## Bytes of the physical address space -/

/-- `n` bytes from physical address `a`. -/
def State.bytesAt (s : State) : Nat → Nat → Bytes
  | _, 0 => []
  | a, n + 1 => memGet s.mem (s.loc a) :: s.bytesAt (a + 1) n

/-- The `n`-byte little-endian number at physical address `a`. -/
def State.numAt (s : State) (a n : Nat) : Nat := leNat (s.bytesAt a n)

/-- A byte string written at physical address `a`. -/
def State.store (s : State) : Nat → Bytes → State
  | _, [] => s
  | a, b :: bs => ({ s with mem := memPut s.mem (s.loc a) b }).store (a + 1) bs

/-- An `n`-byte little-endian number written at physical address `a`. -/
def State.storeNum (s : State) (a n v : Nat) : State := s.store a (leBytes n v)

/-- A range of the kept bytes made unpredictable, under a fresh salt. -/
def State.scramble (s : State) (lo len : Nat) : State :=
  { s with mem := memFill s.mem lo len (.free s.fresh), fresh := s.fresh + 1,
           poison := s.poison.filter (fun l => ¬ (lo ≤ l ∧ l < lo + len)) }

/-- The bytes that two sets of spans share, where one of the two writes. -/
def meets (xs ys : List Span) : List (Nat × Nat) :=
  xs.flatMap (fun x => ys.filterMap (fun y =>
    let lo := max x.lo y.lo
    let fin := min (x.lo + x.len) (y.lo + y.len)
    if (x.write || y.write) && decide (lo < fin) then some (lo, fin - lo) else none))

/-- A range of the kept bytes set to zero. -/
def State.clear (s : State) (lo len : Nat) : State :=
  { s with mem := memFill s.mem lo len .zero,
           poison := s.poison.filter (fun l => ¬ (lo ≤ l ∧ l < lo + len)) }

/-- `f` on the storage of each channel of a region: its first byte and its length. -/
def State.overRegion (s : State) (r : HbmRegion) (f : State → Nat → Nat → State) : State :=
  r.pcs.foldl (fun s pc => f s (hbmBase + pc * pcBytes + r.bases.getD (pc / 256) 0 * 256) (r.depth * 256)) s

def State.isDdr (s : State) (a : Nat) : Bool := decide (a < s.ddrSize)
def State.isCxl (s : State) (a : Nat) : Bool := decide (cxlBase ≤ a ∧ a < cxlBase + s.cxlSize)
/-- HBM is mapped only in Aloft, within the admitted capacity (R98) and a region of the decode in force (R315). -/
def State.isHbm (s : State) (a : Nat) : Bool :=
  s.aloft && decide (hbmBase ≤ a ∧ a < hbmBase + s.hbmSize) && s.hbmMap.regions.any (fun r => r.holds (a - hbmBase))
/-- The scratchpad slot of a usable tile of an admitted die, in Aloft (R98). -/
def State.isPad (s : State) (a : Nat) : Bool :=
  s.aloft && decide (padBase ≤ a ∧ a < padBase + 384 * 0x40_0000) && s.tileUsable ((a - padBase) / 0x40_0000)

/-- Whether an address holds memory (R97, R98). -/
def State.mapped (s : State) (a : Nat) : Bool := s.isDdr a || s.isCxl a || s.isHbm a || s.isPad a

/-- How far from HBM offset `a` the regions of a list reach without a gap. -/
def reach (a : Nat) : List HbmRegion → Nat
  | [] => a
  | r :: rs => reach (if r.holds a then r.base + r.size else a) rs

/-- Whether all of `n` bytes from `a` hold memory of one kind. -/
def State.mappedAll (s : State) (a n : Nat) : Bool :=
  n == 0 || (s.isDdr a && s.isDdr (a + n - 1)) || (s.isCxl a && s.isCxl (a + n - 1)) ||
    (s.isHbm a && s.isHbm (a + n - 1) && decide (a - hbmBase + n ≤ reach (a - hbmBase) s.hbmMap.regions)) ||
    (s.isPad a && s.isPad (a + n - 1) &&
      (List.range ((a + n - 1) / 0x40_0000 - a / 0x40_0000)).all (fun j => s.isPad ((a / 0x40_0000 + j) * 0x40_0000)))

/-- The first address of `n` bytes from `a` that holds no memory, when not all of them do. -/
def State.unmappedAt (s : State) (a n : Nat) : Nat :=
  if s.isDdr a then s.ddrSize
  else if s.isCxl a then cxlBase + s.cxlSize
  else if s.isHbm a then hbmBase + reach (a - hbmBase) s.hbmMap.regions
  else if s.isPad a then
    let k := a / 0x40_0000
    match (List.range (n / 0x40_0000 + 2)).find? (fun j => !s.isPad ((k + j) * 0x40_0000)) with
    | some j => (k + j) * 0x40_0000
    | none => a
  else a

/-- A device engine reaches for `n` bytes from `a`: HST_FAULT_ADDR names the first that holds no memory (Table HST-9). -/
def State.engineFault (s : State) (a n : Nat) : State :=
  if s.mappedAll a n then s else (s.setFld HST_FAULT_ADDR_ADDR (s.unmappedAt a n)).setFld HST_FAULT_ADDR_SOURCE 1

/-- The last 1 MiB of a tile's 4 MiB scratchpad slot is reserved (R97). -/
def padReserved (a : Nat) : Bool :=
  decide (padBase ≤ a ∧ a < padBase + 384 * 0x40_0000) && decide (padSize ≤ (a - padBase) % 0x40_0000)

/-- One byte of mapped memory; the reserved part of a scratchpad slot reads as zero (R97). -/
def State.physByte (s : State) (a : Nat) : Byte := if padReserved a then 0#8 else memGet s.mem (s.loc a)

/-- `n` bytes of mapped memory. -/
def State.physRead (s : State) : Nat → Nat → Bytes
  | _, 0 => []
  | a, n + 1 => s.physByte a :: s.physRead (a + 1) n

/-- A write of mapped memory; writes to the reserved part of a scratchpad slot are ignored (R97). -/
def State.physWrite (s : State) : Nat → Bytes → State
  | _, [] => s
  | a, b :: bs =>
    (if padReserved a then s else { s with mem := memPut s.mem (s.loc a) b }).physWrite (a + 1) bs

/-- The 64-byte line of an address. -/
def lineOf (a : Nat) : Nat := a / 64 * 64

/-- The first poisoned byte address among `n` bytes from `a`. -/
def State.poisonedIn (s : State) (a n : Nat) : Option Nat :=
  ((s.poison.filterMap s.unloc).filter (fun l => decide (l < a + n ∧ a < l + 64))).foldl
    (fun m l => some (match m with | some b => min b (max l a) | none => max l a)) none

/-- A line marked poisoned, in ascending order (R321). -/
def insertAsc (k : Nat) : List Nat → List Nat
  | [] => [k]
  | j :: js => if k < j then k :: j :: js else if k = j then j :: js else j :: insertAsc k js

/-- The line of a physical address marked poisoned (R321). -/
def State.poisonLine (s : State) (a : Nat) : State := { s with poison := insertAsc (lineOf (s.loc a)) s.poison }

/-- Whole lines written again are no longer poisoned (R321). -/
def State.unpoison (s : State) (a n : Nat) : State :=
  if s.poison = [] then s
  else { s with poison := s.poison.filter (fun k =>
    match s.unloc k with | some l => !(decide (a ≤ l ∧ l + 64 ≤ a + n)) | none => true) }

/-- One more entry under a key of a store of counts. -/
def tally (m : SMap Nat) (k n : Nat) : SMap Nat := smapPut (fun _ => some 0) m k ((smapFind m k).getD 0 + n)

/-- The pseudo-channel that serves the access at a physical address of HBM. -/
def State.channelOf (s : State) (a : Nat) : Nat := (s.loc a - hbmBase) / pcBytes

/-- `n` 64-byte accesses of the lines from `a`, counted by their pseudo-channels (R317). -/
def State.countLines (s : State) (a : Nat) : Nat → State
  | 0 => s
  | n + 1 =>
    let pc := s.channelOf a
    { s with hbmSeen := tally s.hbmSeen pc 1, hbmTick := tally s.hbmTick pc 1 }.countLines (a + 64) n

/-- One of the 14 global counters of a domain and of the package raised by `n` (R471): domain `d` (64 or more: the package
alone). -/
def State.count (s : State) (d i n : Nat) : State :=
  let put (m : SMap Nat) (k : Nat) := smapPut (fun _ => some 0) m k ((smapFind m k).getD 0 + n)
  { s with counts := if d < 64 then put (put s.counts (d * 16 + i)) (64 * 16 + i) else put s.counts (64 * 16 + i) }

/-- The 64-byte accesses that `n` bytes from `a` take, when they lie in HBM. -/
def hbmLines (a n : Nat) : Nat := if n = 0 ∨ a < hbmBase ∨ hbmBase + hbmSpan ≤ a then 0 else (a + n - 1) / 64 - a / 64 + 1

/-- The accesses of `n` bytes from `a` counted by their pseudo-channels and by the package's counter (R317, R471). -/
def State.countHbm (s : State) (a n : Nat) : State :=
  if hbmLines a n = 0 then s else (s.countLines (lineOf a) (hbmLines a n)).count 64 9 (hbmLines a n)

/-- The same accesses counted by the domain that they are tagged with. -/
def State.tagHbm (s : State) (d a n : Nat) : State :=
  if d < 64 then { s with counts := tally s.counts (16 * d + 9) (hbmLines a n) } else s

/-- A read of `n` bytes from `a` for domain `d`, as accesses. -/
def State.readHbm (s : State) (d a n : Nat) : State := (s.countHbm a n).tagHbm d a n

/-- Numbers put into an ascending list without repeats. -/
def unionAsc (xs ys : List Nat) : List Nat := ys.foldl (fun m y => insertAsc y m) xs

/-- The 4 KiB blocks of a region's bank for step `n` that `len` bytes from `a` touch (R394). -/
def Protect.blocksHit (r : Protect) (n a len : Nat) : List Nat :=
  let lo := r.base + n % 2 * r.bank
  if len = 0 ∨ a + len ≤ lo ∨ lo + r.bank ≤ a then []
  else
    let b0 := (max a lo - lo) / 4096
    let b1 := (min (a + len) (lo + r.bank) - 1 - lo) / 4096
    (List.range (b1 - b0 + 1)).map (b0 + ·)

/-- The dirty bits of the write banks of MIRROR regions that `len` bytes from `a` touch (R394). -/
def State.markDirty (s : State) (a len : Nat) : State :=
  if s.survival.regions.all (fun r => r.method != 1) then s
  else
    let mark (r : Protect) : Protect :=
      let x := (smapFind s.doms r.dom).getD {}
      let bs := if r.method = 1 then r.blocksHit x.step a len else []
      if bs = [] then r
      else { r with dirty := unionAsc (r.dirty.headD []) bs :: r.dirty.drop 1, sent := r.sent.filter (fun b => !(bs.contains b)) }
    { s with survival := { s.survival with regions := s.survival.regions.map mark } }

/-- A device write of `n` bytes of scratchpads from `a` breaks the reservations of `lr` that it touches (R133). -/
def State.breakReserve (s : State) (a n : Nat) : State :=
  if n = 0 ∨ a < padBase ∨ padBase + 384 * 0x40_0000 ≤ a then s
  else
    let cut (x : Tile) : Tile :=
      match x.reserve with
      | some (b, m) => if b < a + n ∧ a < b + m then { x with reserve := none } else x
      | none => x
    let lo := (a - padBase) / 0x40_0000
    let hi := (a + n - 1 - padBase) / 0x40_0000
    (List.range (hi - lo + 1)).foldl (fun (s : State) j =>
      match smapFind s.tiles (lo + j) with
      | some x => if x.reserve.isSome then { s with tiles := smapPut (fun _ => some {}) s.tiles (lo + j) (cut x) } else s
      | none => s) s

/-- A device write of mapped memory: the bytes, the poison of the lines it covers whole, the accesses it takes, and the dirty bits it
sets. -/
def State.devWrite (s : State) (a : Nat) (bs : Bytes) : State :=
  ((((s.physWrite a bs).unpoison a bs.length).countHbm a bs.length).markDirty a bs.length).breakReserve a bs.length

/-- `len` bytes at physical address `a` made unpredictable. -/
def State.openAt (s : State) (a len : Nat) : State :=
  if padBase ≤ a then s.scramble a len
  else { s.devWrite a ((List.range len).map (Config.freeByte s.fresh)) with fresh := s.fresh + 1 }

/-- A byte of a tile's data SRAM: as written since its program was loaded, or else as loaded (R135, R136). -/
def Tile.dramByte (x : Tile) (o : Nat) : Byte := (smapFind x.dramNew o).getD ((smapFind x.dram o).getD 0#8)

/-- Ranges of bytes made unpredictable. -/
def State.scrambleAll (s : State) (rs : List (Nat × Nat)) : State := rs.foldl (fun s r => s.openAt r.1 r.2) s

/-- Whether an address lies in a scratchpad slot of the map. -/
def inPads (a : Nat) : Bool := decide (padBase ≤ a ∧ a < padBase + 384 * 0x40_0000)

/-- Whether an address is host memory: host DDR, or CXL memory. -/
def State.isHost (s : State) (a : Nat) : Bool := s.isDdr a || s.isCxl a

/-- Whether two ranges of bytes have a 64-byte line in common. -/
def shareLine (a n b m : Nat) : Bool := decide (0 < n ∧ 0 < m ∧ a / 64 ≤ (b + m - 1) / 64 ∧ b / 64 ≤ (a + n - 1) / 64)

/-- A transfer that ends early: each 64-byte line of its destination has been written or is dropped, as the module chooses. -/
def State.landBytes (s : State) (dst : Nat) (bs : Bytes) : State :=
  let lines := (List.range ((dst + bs.length + 63) / 64 - dst / 64)).map (fun i => 64 * (dst / 64 + i))
  let s := lines.foldl (fun s l =>
    let a := max dst l
    if (Config.freeByte s.fresh (l / 64)).getLsbD 0 then s.devWrite a (takeAt bs (a - dst) (min (dst + bs.length) (l + 64) - a)) else s) s
  { s with fresh := s.fresh + 1 }

/-- How many of those lines a transfer of `n` bytes that ends now drops. -/
def State.lostLines (s : State) (dst n : Nat) : Nat :=
  ((List.range ((dst + n + 63) / 64 - dst / 64)).filter (fun i => !(Config.freeByte s.fresh (dst / 64 + i)).getLsbD 0)).length

/-- The lines of a destination that a transfer ended early has not written, which ones the module chooses: what stood there is open. -/
def State.dropLines (s : State) (dst n : Nat) : State :=
  let s := (List.range (n / 64)).foldl (fun s i =>
    if (Config.freeByte s.fresh i).getLsbD 0 then s else s.openAt (dst + 64 * i) 64) s
  { s with fresh := s.fresh + 1 }

/-- Whether an arbiter has revoked a grant of unit `u` since the unit was reset (R327): it gets no further grant. -/
def State.revoked (s : State) (u : Nat) : Bool := s.arbs.any (fun e => e.2.faulted.contains u)

/-! ## Open values -/

/-- A fresh unpredictable word (R1). -/
def State.freshWord (s : State) : Word × State := (Config.freeWord s.fresh, { s with fresh := s.fresh + 1 })

/-! ## Units -/

def State.tile (s : State) (t : Nat) : Tile := (smapFind s.tiles t).getD {}
def State.setTile (s : State) (t : Nat) (x : Tile) : State :=
  { s with tiles := smapPut (fun _ => some {}) s.tiles t x }
def State.dom (s : State) (d : Nat) : Dom := (smapFind s.doms d).getD {}
def State.setDom (s : State) (d : Nat) (x : Dom) : State :=
  { s with doms := smapPut (fun _ => some {}) s.doms d x }
def State.queue (s : State) (q : Nat) : Queue := (smapFind s.queues q).getD {}
def State.setQueue (s : State) (q : Nat) (x : Queue) : State :=
  { s with queues := smapPut (fun _ => some {}) s.queues q x }

/-- The tile that a unit is a part of, by its unit id (Table ERR-4): a tile, an array, a vector engine, a walker. -/
def tileOfUnit (u : Nat) : Option Nat :=
  let i := u % 4096
  let t := if u / 4096 = 0 then i else if u / 4096 = 1 then i / 3 else if u / 4096 = 2 then i
    else if u / 4096 = 0xD ∧ 0x100 ≤ i then i - 0x100 else 384
  if t < 384 then some t else none

/-- A tile's units are no longer marked faulted at the arbiters (R327). -/
def State.clearRevoked (s : State) (t : Nat) : State :=
  if s.arbs = [] then s
  else { s with arbs := s.arbs.map (fun e => (e.1, { e.2 with faulted := e.2.faulted.filter (fun u => tileOfUnit u != some t) })) }

/-! ## Time (R85) -/

/-- The offset of aligned time from local time (ns, signed). -/
def State.offset (s : State) : Int := signedOf 64 (s.reg CTL_TIME_OFFSET).toNat

/-- The aligned time now, as 64 bits: every timestamp is aligned time (R85). -/
def State.now (s : State) : Nat := unsignedOf 64 ((s.localNs : Int) + s.offset)

/-- Local time runs on by `ns` (R85). -/
def State.advance (s : State) (ns : Nat) : State := { s with localNs := s.localNs + ns }

/-- The tick count. -/
def State.tick (s : State) : Nat := s.fld CTL_TICK_COUNT_VALUE

/-! ## Halted cores (R475) -/

/-- The bytes of the instruction at the program counter of a tile: 4, or 2 for a compressed one. -/
def Tile.instrLen (x : Tile) : Nat := if ((smapFind x.iram x.pc.toNat).getD 0#8).toNat % 4 = 3 then 4 else 2

/-- A halted core restarts at the next instruction. -/
def Tile.resumed (x : Tile) : Tile := if x.run = .halted then { x with run := .running, pc := x.pc + word x.instrLen } else x

/-! ## Trace (R473) -/

/-- The scopes of the debug grant in force (Table SEC-5). -/
def State.scope (s : State) : Nat := match s.security.grant with | some g => g.scope % 16 | none => 0

/-- A trace record (Table DBG-4), when trace runs and KIND `kind` is enabled; the buffer stops or wraps when it is full. A record of a
unit outside the host die is dropped and counted when its port is saturated: an open choice of timing (R473). -/
def State.trace (s : State) (unit kind dom ticket : Nat) (args : Bytes) : State :=
  let size := s.fld DBG_TRACE_BASE_SIZE * 2 ^ 20
  if bitOf s.scope 2 && s.fld DBG_TRACE_CTRL_ENABLE == 1 && bitOf (s.fld DBG_TRACE_CTRL_KINDS) (kind - 1) &&
      s.fld DBG_TRACE_PTR_STOPPED == 0 && size != 0 then
    let drop := decide (unit / 4096 < 7) && Config.choice s.fresh % 2 == 1
    let s := { s with fresh := s.fresh + 1 }
    if drop then s.addFld DBG_TRACE_PTR_LOST 1
    else
    let off := s.fld DBG_TRACE_PTR_NEXT % size
    let flags := (if s.fld CTL_TIME_STATUS_ALIGNED = 0 then 1 else 0) + (if dom < 64 ∧ (s.dom dom).replay then 2 else 0)
    let s := s.store (s.fld DBG_TRACE_BASE_BASE * 4096 + off)
      (leBytes 8 s.now ++ leBytes 2 unit ++ leBytes 1 kind ++ leBytes 1 flags ++ leBytes 2 dom ++ leBytes 2 ticket ++ padTo 16 args)
    if off + 32 < size then s.setFld DBG_TRACE_PTR_NEXT (off + 32)
    else if s.fld DBG_TRACE_CTRL_WRAP = 1 then s.setFld DBG_TRACE_PTR_NEXT 0
    else (s.setFld DBG_TRACE_PTR_NEXT size).setFld DBG_TRACE_PTR_STOPPED 1
  else s

/-! ## Records and events (R415, R418, R419) -/

/-- The domain field of a record: 0xFFFF names none. -/
def noDomain : Nat := 0xFFFF

/-- The 64 bytes of a record or event (Table ERR-3), PHASE and LOST_BEFORE clear. -/
def recordBytes (time unit cls flags code dom : Nat) (args : Bytes) (seq aux : Nat) : Bytes :=
  leBytes 8 time ++ leBytes 2 unit ++ leBytes 1 cls ++ leBytes 1 flags ++ leBytes 2 code ++ leBytes 2 dom ++
    padTo 32 args ++ leBytes 8 seq ++ leBytes 8 aux

/-- One entry written to the host event ring, if it has room (R418). -/
def State.ringPut (s : State) (entry : Bytes) : State :=
  let cap := 2 ^ s.foundation.errRingLog2
  if s.ringUnread ≥ cap then
    { (s.addFld CTL_ERR_STATUS_RING_LOST 1) with ringGap := s.ringGap + 1 }
  else
    let slot := s.ringWritten % cap
    let phase := (s.ringWritten / cap + 1) % 2
    let b10 := (entry.getD 10 0#8).toNat + 128 * phase
    let b11 := (entry.getD 11 0#8).toNat + (if s.ringGap = 0 then 0 else 2)
    let e := putAt (putAt entry 10 [byte b10]) 11 [byte b11]
    let s := { s with ringUnread := s.ringUnread + 1, ringWritten := s.ringWritten + 1, ringGap := 0 }
    (s.store (s.errRingBase + 64 * slot) e).setFld CTL_ERR_RING_PTR_TAIL ((slot + 1) % cap)

/-- The SEQUENCE counter taken, with LOG_NEXT showing the next entry (R415, R418). -/
def State.nextSeq (s : State) : State :=
  ({ s with recSeq := s.recSeq + 1 }).setFld CTL_ERR_STATUS_LOG_NEXT ((s.recSeq + 1) % 1024)

/-- An entry written to the ring, with event RING_LOST behind the first entry after a loss (R418). -/
def State.ringEntry (s : State) (entry : Bytes) : State :=
  let gap := s.ringGap
  let s1 := s.ringPut entry
  if gap ≠ 0 ∧ s1.ringGap = 0 then
    let e := recordBytes s1.now 0x7400 0xF 0 0x807D noDomain (leBytes 4 gap) s1.recSeq 0
    s1.nextSeq.ringPut e
  else s1

/-- An event raised (R497): its unit, code, domain and ARGS. -/
def State.event (s : State) (unit code dom : Nat) (args : Bytes) : State :=
  let e := recordBytes s.now unit 0xF 0 code dom args s.recSeq 0
  s.nextSeq.ringEntry e

/-- What a record says beyond its unit and class. -/
structure ErrInfo where
  code : Nat
  dom : Nat := 0xFFFF
  handle : Nat := 0
  addr : Nat := 0
  syndrome : Bytes := []
  aux : Nat := 0

/-- An error record entered in the internal log, its mirror and the host ring (R418), in class `cls` with the flags of byte 11. -/
def State.logRecord (s : State) (unit cls flags : Nat) (i : ErrInfo) : State :=
  let idx := s.recSeq % 1024
  let e := recordBytes s.now unit cls flags i.code i.dom
    (leBytes 8 i.handle ++ leBytes 8 i.addr ++ padTo 16 i.syndrome) s.recSeq i.aux
  let wrapped := (List.range 8).any (fun w => s.reg (CTL_ERR_LOG idx w) != 0#64)
  let put (s : State) (base : Nat → Nat) : State :=
    (List.range 8).foldl (fun s w => s.setReg (base w) (word (fieldAt e (8 * w) 8))) s
  let s := if wrapped then s.setFld CTL_ERR_STATUS_LOG_WRAPPED 1 else s
  let s := put s (CTL_ERR_LOG idx)
  let s := if cls = 3 ∧ s.fld CTL_ERR_STATUS_FATAL_VALID = 0
    then (put s CTL_ERR_FATAL).setFld CTL_ERR_STATUS_FATAL_VALID 1 else s
  let s := s.store (s.errAreaBase + 64 * idx) e
  let s := if cls = 0 then s.addFld CTL_ERR_COUNTS_CORRECTED 1
    else if cls = 1 then s.addFld CTL_ERR_COUNTS_DEFERRED 1
    else if cls = 2 then s.addFld CTL_ERR_COUNTS_CONTAINED 1 else s
  let s := s.trace unit 8 i.dom 0 (leBytes 2 i.code ++ zeros 6 ++ leBytes 8 s.recSeq)
  let s := if bitOf flags 0 then s.addFld CTL_ERR_COUNTS_ESCALATED 1 else s
  s.nextSeq.ringEntry e

/-- Whether a handling window is one of the unit, and open (R414). -/
def Window.opens (w : Window) (unit : Nat) : Bool := w.unit == unit && !w.left && (w.cls == 2 || !w.users.isEmpty)

/-- Whether a handling window of the unit is open (R419). -/
def State.windowOpen (s : State) (unit : Nat) : Bool := s.windows.any (fun w => w.opens unit)

/-- Whether a unit is faulted and excluded, its handling window over (R419): a FAULTED tile or a part of one, or a unit left stopped. -/
def State.excluded (s : State) (unit : Nat) : Bool :=
  !(s.windowOpen unit) &&
    ((match tileOfUnit unit with | some t => s.fld (TIL_STATE_STATE t) == 6 | none => false) || s.windows.any (fun w => w.unit == unit && w.left))

/-- The class in which an error of class `cls` at `unit` is recorded (R419). -/
def State.escalated (s : State) (unit cls : Nat) : Nat :=
  if s.excluded unit then cls
  else if (cls = 1 ∨ cls = 2) ∧ s.windowOpen unit then cls + 1 else cls

/-- An error detected in a unit (R419): recorded one class higher during the handling window of an earlier error of the unit,
with ERROR_ESCALATED behind it, which names the first record; a DEFERRED or CONTAINED error opens a window. The caller applies the effects of the class
`s.escalated unit cls`. -/
def State.report (s : State) (unit cls : Nat) (i : ErrInfo) : State :=
  let up := s.escalated unit cls
  let seq := s.recSeq
  let first := ((s.windows.filter (fun w => w.opens unit)).getLast?.map (·.seq)).getD 0
  let s1 := s.logRecord unit up (if s.excluded unit then 4 else if up = cls then 0 else 1) i
  let s2 := if up = cls then s1 else s1.event unit 0x807C i.dom (leBytes 1 cls ++ leBytes 1 up ++ zeros 6 ++ leBytes 8 first)
  if (up = 1 ∨ up = 2) ∧ s.excluded unit = false then { s2 with windows := { unit := unit, cls := up, seq := seq } :: s2.windows } else s2

/-- What the record of a word in error says of it (Table ERR-3): its address, its syndrome and its place in the 64-byte access. -/
def foundInfo (f : Found) (code : Nat) : ErrInfo :=
  { code := code, addr := f.addr.toNat, syndrome := leBytes 2 f.syndrome.toNat ++ leBytes 1 (f.addr.toNat / 8 % 8) }

/-- A CORRECTED record of a unit, the first of the unit in this tick (R420, R421). -/
def State.correctedOnce (s : State) (unit : Nat) (i : ErrInfo) : State :=
  if s.onceTick.contains unit then s
  else ({ s with onceTick := unit :: s.onceTick }).report unit 0 i

/-- A unit, stopped by a CONTAINED error, is left stopped: its handling window ends (R414). -/
def State.leaveStopped (s : State) (unit : Nat) : State :=
  { s with windows := s.windows.map (fun w => if w.unit = unit ∧ w.cls = 2 then { w with left := true } else w) }

/-- The handling windows of a unit end (R414). -/
def State.closeWindows (s : State) (p : Nat → Bool) : State :=
  { s with windows := s.windows.filter (fun w => !(p w.unit)) }

/-! ## Risk (R403) -/

/-- The inputs of Table SRV-4 beside the per-stack ECC scores 0 to 15. -/
def riskRetrain : Nat := 16
def riskOverrun : Nat := 17
def riskDroop : Nat := 18
def riskCoolant : Nat := 19
def riskBattery : Nat := 20
def riskNonfinite : Nat := 21
def riskSpike : Nat := 22

/-- The weight of an input (Table SRV-4). -/
def State.riskWeight (s : State) (k : Nat) : Nat :=
  if k < 16 then s.fld CTL_SRV_WEIGHTS2_ECC
  else if k = riskRetrain then s.fld CTL_SRV_WEIGHTS2_RETRAIN
  else if k = riskOverrun then s.fld CTL_SRV_WEIGHTS2_OVERRUN
  else if k = riskDroop then s.fld CTL_SRV_WEIGHTS2_DROOP
  else if k = riskCoolant then s.fld CTL_SRV_WEIGHTS_COOLANT
  else if k = riskBattery then s.fld CTL_SRV_WEIGHTS_BATTERY
  else if k = riskNonfinite then s.fld CTL_SRV_WEIGHTS_NONFINITE
  else s.fld CTL_SRV_WEIGHTS_SPIKE

/-- A weight added to the score of an input. -/
def State.addScore (s : State) (k w : Nat) : State := { s with risk := tally s.risk k (w * 2 ^ 32) }

/-- An event of a risk input (R403). -/
def State.addRisk (s : State) (k : Nat) : State := s.addScore k (s.riskWeight k)

/-- A port replays flits, or retrains within 1 ms (R421): the replays are counted, with a CORRECTED record the first time in a tick; a retrain is
a RETRAIN risk input. -/
def State.portReplay (s : State) (unit replays : Nat) (retrain : Bool) : State :=
  let s := if replays = 0 then s
    else
      let s := { s with replays := tally s.replays unit replays }
      s.correctedOnce unit { code := 0x0074, syndrome := leBytes 4 ((smapFind s.replays unit).getD 0) }
  if retrain then s.addRisk riskRetrain else s

/-! ## Completion records (R121 to R124) -/

/-- The handle of a queue's sequence under an incarnation (Table CMD-2). -/
def mkHandle (queue seq inc : Nat) : Word :=
  let hi := leBytes 2 inc ++ leBytes 4 seq ++ leBytes 1 queue
  word (leNat (xorBytes hi :: hi))

/-- Fields of a command entry (Table CMD-1). -/
def Pending.cls (p : Pending) : Nat := bitsOf (fieldAt p.entry 0 2) 12 4
def Pending.op (p : Pending) : Nat := bitsOf (fieldAt p.entry 0 2) 0 12
/-- PRIORITY (R114, R122), ignored for STRUCT, SECURE and QUERY. -/
def Pending.priority (p : Pending) : Bool := bitOf (fieldAt p.entry 2 1) 3 && p.cls != 3 && p.cls != 5 && p.cls != 7
def Pending.fence (p : Pending) : Bool := bitOf (fieldAt p.entry 2 1) 0
/-- ORDERED: the flag of the entry; STEP UPDATE always behaves as if it were set (R377). -/
def Pending.ordered (p : Pending) : Bool := bitOf (fieldAt p.entry 2 1) 1 || (p.cls == 4 && p.op == 2)
def Pending.wantsCounters (p : Pending) : Bool := bitOf (fieldAt p.entry 2 1) 2
def Pending.domain (p : Pending) : Nat := fieldAt p.entry 10 2

/-- The 14 counters of a command's scope (R472): its domain's, or the package's when DOMAIN is 0xFFFF. -/
def State.counterSet (s : State) (dom : Nat) : List Nat :=
  (List.range 14).map (fun i => (s.reg (if dom < 64 then DBG_GCNT dom i else DBG_PCNT i)).toNat)

/-- The 8-byte words of a counter latch. -/
def counterBytes : List Nat → Bytes
  | [] => []
  | v :: vs => leBytes 8 v ++ counterBytes vs

/-- The 256-byte counter block (Table DBG-3, R123); a command that never started has a zero start latch and zero sets (R472). -/
def State.counterBlock (s : State) (p : Pending) (result : Nat) : Bytes :=
  let ends := if p.started then s.counterSet p.domain else []
  padTo 248 (leBytes 8 (p.counters.getD 0 0) ++ leBytes 8 s.now ++ padTo 112 (counterBytes (p.counters.drop 1)) ++
    padTo 112 (counterBytes ends) ++ leBytes 2 p.domain) ++ leBytes 8 result

/-- A message-signalled interrupt to the queue's hart (R124), the queue's unsignalled records then being none. -/
def State.interrupt (s : State) (q : Nat) : State :=
  let s := s.setQueue q { s.queue q with unsignalled := 0 }
  if s.fld (HST_Q_IRQ_ENABLE q) = 1 then
    { s with outs := { s.outs with interrupts := s.outs.interrupts ++ [(s.fld (HST_Q_IRQ_HART q), s.fld (HST_Q_IRQ_IDENTITY q))] } }
  else s

/-- The latest of a queue's recorded sequences once `seq` has a record, counted from the first of the incarnation (R49). -/
def Queue.latest (x : Queue) (seq : Nat) : Nat :=
  match x.lastRecord with
  | some l => if (seq + 2 ^ 32 - x.firstSeq) % 2 ^ 32 < (l + 2 ^ 32 - x.firstSeq) % 2 ^ 32 then l else seq
  | none => seq

/-- One completion record written at the queue's tail (R123), with the counter block (R122), the interrupt (R124), the queue's
counts, and the end of draining (R112). -/
def State.writeRecord (s : State) (p : Pending) (c : Completion) : State :=
  let q := p.queue
  let qs := s.queue q
  let cap := 2 ^ s.fld (HST_Q_CONFIG_CQ_LOG2 q)
  let slot := qs.written % cap
  let phase := (qs.written / cap + 1) % 2
  let cntBase := s.fld (HST_Q_CNT_BASE_BASE q) * 4096
  let cnt := p.wantsCounters && cntBase != 0
  let cntAddr := cntBase + 256 * slot
  let s := if cnt then s.store cntAddr (s.counterBlock p c.result) else s
  let flags := phase + (if cnt then 2 else 0) + (if c.part then 4 else 0)
  let rec' := leBytes 8 p.handle.toNat ++ leBytes 2 c.status ++ leBytes 2 flags ++ leBytes 4 c.detail ++ leBytes 8 s.now ++
    leBytes 8 (if cnt then cntAddr else c.result)
  let s := s.store (s.fld (HST_Q_CQ_BASE_BASE q) * 4096 + 32 * slot) rec'
  let qs' := { qs with written := qs.written + 1, unread := qs.unread + 1, lastRecord := some (qs.latest p.seq),
                       unsignalled := qs.unsignalled + 1 }
  let s := (s.setQueue q qs').subFld (HST_Q_STATUS_OUTSTANDING q) 1
  let s := if qs'.unsignalled ≥ max 1 (s.fld (HST_Q_IRQ_COALESCE_COUNT q)) then s.interrupt q else s
  if s.fld (HST_Q_STATUS_STATE q) = 2 ∧ s.fld (HST_Q_STATUS_OUTSTANDING q) = 0
  then s.setFld (HST_Q_STATUS_STATE q) 0 else s

/-- The commands of queue `q` that have ended and are not held back by an earlier FENCE or ORDERED command without a record
(R121), in sequence order; `held` tells that such a command came before. -/
def releasable (q : Nat) : Bool → List Pending → List Pending
  | _, [] => []
  | held, p :: ps =>
    if p.queue ≠ q then releasable q held ps
    else
      let ord := p.fence || p.ordered
      if p.done.isSome && !(ord && held) then p :: releasable q held ps
      else releasable q (held || ord) ps

/-- Every record of queue `q` that may now be written, written in sequence order. -/
def State.flush (s : State) (q : Nat) : State :=
  (releasable q false s.cmds).foldl (fun s p =>
    match p.done with
    | some c => ({ s with cmds := s.cmds.filter (fun x => x.handle != p.handle) }).writeRecord p c
    | none => s) s

/-- The outstanding command with this handle. -/
def State.cmd (s : State) (h : Word) : Option Pending := s.cmds.find? (fun p => p.handle == h)

/-- An outstanding command changed. -/
def State.setCmd (s : State) (p : Pending) : State :=
  { s with cmds := s.cmds.map (fun x => if x.handle == p.handle then p else x) }

/-- A command ends: its record is written as soon as the order of its queue allows (R121); a command that has ended keeps its
first answer (promise 1 of Table ERR-7). -/
def State.finish (s : State) (h : Word) (c : Completion) : State :=
  match s.cmd h with
  | none => s
  | some p =>
    match p.done with
    | some _ => s
    | none => ((s.setCmd { p with done := some c }).trace 0x7400 4 p.domain 0 (leBytes 8 h.toNat ++ leBytes 2 c.status)).flush p.queue

/-- A command ends with a status and nothing else. -/
def State.finishWith (s : State) (h : Word) (status : Nat) : State := s.finish h { status := status }

/-- A command ends with OK and a result value. -/
def State.finishOk (s : State) (h : Word) (result : Nat) : State := s.finish h { result := result }

/-- Every outstanding command that satisfies `f` ends with `c`, in acceptance order. -/
def State.finishAll (s : State) (f : Pending → Bool) (c : Pending → Completion) : State :=
  (s.cmds.filter (fun p => f p && p.done.isNone)).foldl (fun s p => s.finish p.handle (c p)) s

end Sys2Proof.Machine
end

