-- ==== Sys2Proof/Machine/Domains.lean ====
section
/-!
DEFINITION. Fields of the structure image in force (chapter 03), and the tiles, spares, programs, regions and slots of the
domains it defines (chapters 04, 07).
-/
namespace Sys2Proof.Machine

/-! ## Fields of the image (Table STR-5) -/

/-- A section of an image. -/
def Image.sec (i : Image) (id : Nat) : Option Section := i.sections.find? (fun x => x.id == id)

/-- A section of the job image in force. -/
def State.sec (s : State) (id : Nat) : Option Section := s.image.bind (fun i => i.sec id)

/-- The `n`-byte preamble field at `off` of section `id`, or `dflt` when the section is omitted. -/
def State.preField (s : State) (id off n dflt : Nat) : Nat :=
  match s.sec id with
  | some x => fieldAt x.pre off n
  | none => dflt

/-- The entries of section `id`; none when it is omitted. -/
def State.entries (s : State) (id : Nat) : List Bytes :=
  match s.sec id with
  | some x => x.entries
  | none => []

/-- Section ids (Table STR-3). -/
def secDomains : Nat := 0x01
def secRoutes : Nat := 0x02
def secMemory : Nat := 0x03
def secFormats : Nat := 0x04
def secStash : Nat := 0x05
def secSurvival : Nat := 0x06
def secTick : Nat := 0x07
def secArbitration : Nat := 0x08
def secPower : Nat := 0x09
def secIntake : Nat := 0x0A
def secWatch : Nat := 0x0B
def secPrograms : Nat := 0x0C
def secDeterminism : Nat := 0x0D

/-! ## Domains -/

/-- The DOMAINS entry of domain `d`. -/
def State.domEntry (s : State) (d : Nat) : Option Bytes := (s.entries secDomains).find? (fun e => fieldAt e 0 1 == d)

/-- The domains in force, ascending. -/
def State.domIds (s : State) : List Nat := (List.range 64).filter (fun d => (s.domEntry d).isSome)

/-- The logical tiles of a domain, ascending (DOMAINS TILES). -/
def State.domTiles (s : State) (d : Nat) : List Nat :=
  match s.domEntry d with
  | some e => bitmapOf (takeAt e 8 48)
  | none => []

/-- The spares of a domain, ascending (DOMAINS SPARES). -/
def State.domSpares (s : State) (d : Nat) : List Nat :=
  match s.domEntry d with
  | some e => bitmapOf (takeAt e 56 48)
  | none => []

/-- The physical tile that runs logical tile `l` of domain `d` (the placement map, R423). -/
def State.phys (s : State) (d l : Nat) : Nat := (smapFind (s.dom d).place l).getD l

/-- The working tiles of a domain, as physical tiles. -/
def State.workers (s : State) (d : Nat) : List Nat := (s.domTiles d).map (s.phys d)

/-- The domain whose working tile physical tile `t` is. -/
def State.domOf (s : State) (t : Nat) : Option Nat := s.domIds.find? (fun d => (s.workers d).contains t)

/-- The domain that physical tile `t` is of, as a working tile, a spare or a tile that it has lost. -/
def State.homeOf (s : State) (t : Nat) : Option Nat :=
  s.domIds.find? (fun d => (s.workers d ++ s.domSpares d ++ s.domTiles d).contains t)

/-- The domain of a tile, or 64 for none: the set of global counters its work counts in. -/
def State.setOf (s : State) (t : Nat) : Nat := (s.domOf t).getD 64

/-- The logical tile that physical tile `t` runs in domain `d`. -/
def State.logicalOf (s : State) (d t : Nat) : Nat := ((s.domTiles d).find? (fun l => s.phys d l == t)).getD t

/-- The domain of a logical tile. -/
def State.domOfLogical (s : State) (l : Nat) : Option Nat := s.domIds.find? (fun d => (s.domTiles d).contains l)

/-- The PROGRAMS entry that logical tile `l` runs. -/
def State.program (s : State) (l : Nat) : Option Bytes :=
  (s.entries secPrograms).find? (fun e => (bitmapOf (takeAt e 32 48)).contains l)

/-- The effective width of array `a` of tile `t` (R207): WIDTH_CLAMP when the tile's domain has CLAMP set, its usable width
otherwise. -/
def State.effWidth (s : State) (t a : Nat) : Nat :=
  let own := bitsOf (s.reg (ARR_SHAPE t)).toNat (8 * a) 7
  match s.domOf t with
  | none => own
  | some d =>
    match s.domEntry d with
    | some e => if bitOf (fieldAt e 1 1) 0 then fieldAt e 2 1 else own
    | none => own

/-- The FORMATS entry of an index in force (R188). -/
def State.formatEntry (s : State) (i : Nat) : Option Bytes := (s.entries secFormats).find? (fun e => fieldAt e 0 1 == i)

/-- The carried bytes of a logical tile (R80). -/
def State.carried (s : State) (l : Nat) : Nat :=
  match s.program l with
  | some e => fieldAt e 24 2 * 1024
  | none => 0

/-- The stride C of a domain's slot shadow (R81): its programs' largest CARRIED_KIB, in bytes. -/
def State.stride (s : State) (d : Nat) : Nat :=
  (s.entries secPrograms).foldl (fun c e => if fieldAt e 2 1 = d then max c (fieldAt e 24 2 * 1024) else c) 0

/-- The MEMORY entries of a kind owned by a domain. -/
def State.regions (s : State) (kind d : Nat) : List Bytes :=
  (s.entries secMemory).filter (fun e => fieldAt e 0 1 == kind && fieldAt e 3 1 == d)

/-- The physical address of a domain's SLOT_SHADOW region. -/
def State.shadowBase (s : State) (d : Nat) : Nat :=
  match s.regions 4 d with
  | e :: _ => hbmBase + fieldAt e 8 8
  | [] => hbmBase

/-- The shadow position of a logical tile (R81): TILES ascending, then SPARES ascending. A spare that takes over a tile takes
over its position, so positions follow logical ids. -/
def State.position (s : State) (d l : Nat) : Nat := (s.domTiles d).idxOf l

/-- The address of a half of a position of the slot shadow (R81). -/
def State.shadowAddr (s : State) (d pos half : Nat) : Nat := s.shadowBase d + (2 * pos + half) * s.stride d

/-- The argument area of a domain (R81). -/
def State.argArea (s : State) (d : Nat) : Nat :=
  s.shadowBase d + 2 * s.stride d * ((s.domTiles d).length + (s.domSpares d).length)

/-- The current slot number of a domain. -/
def State.slot (s : State) (d : Nat) : Nat := (s.reg (CTL_DOM_SLOT d)).toNat

/-- The slot state of a domain: 0 NONE, 1 RUNNING, 2 SLIPPED, 3 STOPPED (Table TCK-4). -/
def State.domState (s : State) (d : Nat) : Nat := s.fld (CTL_DOM_STATE_STATE d)

/-- The state of a tile (Table TIL-12): 0 FREE, 1 IDLE, 2 RUNNING, 3 SLOT_DONE, 4 STOPPED, 5 SPARE, 6 FAULTED, 7 UNUSABLE. -/
def State.tileState (s : State) (t : Nat) : Nat := s.fld (TIL_STATE_STATE t)

def State.setTileState (s : State) (t v : Nat) : State := s.setFld (TIL_STATE_STATE t) v

/-- Whether the intake is ENABLED. -/
def State.intakeOn (s : State) : Bool := s.fld INT_STATUS_STATE == 1

/-- Whether a domain in force runs. -/
def State.anyDomainRuns (s : State) : Bool := s.domIds.any (fun d => s.domState d == 1 || s.domState d == 2)

/-! ## Tile resets and slot starts -/

/-- A row of a transfer in flight as its tile stops (R79): each 64-byte line of the destination has landed or is dropped, as the module
chooses. What a row without a source carries is open. -/
def State.landRow (s : State) (x : Nat × Option Nat × Nat) : State :=
  match x.2.1 with
  | some a => s.landBytes x.1 (s.physRead a x.2.2)
  | none => { s with fresh := s.fresh + 1 }.landBytes x.1 ((List.range x.2.2).map (Config.freeByte s.fresh))

/-- The rows of a tile's transfers that have started and not ended. -/
def State.outgoing (s : State) (t : Nat) : List (Nat × Option Nat × Nat) :=
  (s.tile t).ops.flatMap (fun e => if e.2.started && !e.2.acted then e.2.sends else [])

/-- The transfers of a tile that have started and not ended, as it stops. -/
def State.landRows (s : State) (t : Nat) : State := (s.outgoing t).foldl State.landRow s

/-- Bytes made unpredictable, with a seed. -/
def openBytes (seed : Nat) (m : SMap Byte) : SMap Byte := m.map (fun e => (e.1, Config.freeByte seed e.1))

/-- A tile cleared (R52): the core, the operation queue, the mailbox channels and the engines; the scratchpad, the foot accumulators, and
what data SRAM has been given since the program was loaded (R136), become unpredictable. Generations run on (R138). Flits on their way
from the tile travel on, to be discarded where they arrive (R153). -/
def State.emptyTile (s : State) (t : Nat) : State :=
  let old := s.tile t
  let s := s.setTile t { iram := old.iram, gens := old.gens, dram := old.dram, dramNew := openBytes s.fresh old.dramNew,
                         fullStalls := old.fullStalls, feet := (List.range 3).map (fun a => (a, { seed := s.fresh + 1 + a })) }
  let s := { s with fresh := s.fresh + 4 }
  let s := (List.range 16).foldl (fun s c => s.setFld (TIL_MSG_CHAN_COUNT t c) 0) s
  let s := (s.resetRegRange (VEC_SUM t 0) 0x80).clearRevoked t
  s.scramble (padAddr t) padSize

/-- A tile reset (R52): the transfers in flight land or are dropped line by line (R79), and the tile is cleared. -/
def State.resetTile (s : State) (t : Nat) : State := (s.landRows t).emptyTile t

/-- The placement epoch of a message's sender (Table TIL-8). -/
def msgEpoch (m : Bytes) : Nat := fieldAt m 8 4

/-- The start PC of logical tile `l` at the start of slot `n` (R135): ENTRY_PC in the first slot of a LAUNCH, otherwise the
resume record's half (n − 1) mod 2. -/
def State.startPc (s : State) (d l n : Nat) : Nat :=
  let entry := match s.program l with
    | some e => fieldAt e 20 4
    | none => 0
  match (s.dom d).launch with
  | some la =>
    if la.firstSlot = n then entry
    else (smapFind (s.dom d).resume (2 * s.position d l + (n + 1) % 2)).getD entry
  | none => entry

/-- The general registers at a slot start (R135): a0 the slot number, a1 the argument block, a2 the REPLAY and FIRST flags, a3
the logical and a4 the physical tile id. -/
def State.startRegs (s : State) (d l t n : Nat) (replay : Bool) : SMap Word :=
  let (a1, first) := match (s.dom d).launch with
    | some la => (if la.args then s.argArea d else 0, la.firstSlot == n)
    | none => (0, false)
  [(10, word n), (11, word a1), (12, word ((if replay then 1 else 0) + (if first then 2 else 0))), (13, word l),
    (14, word t)].filter (fun e => e.2 != 0#64)

/-- Whether a logical tile has a running share of its domain's LAUNCH. -/
def State.inLaunch (s : State) (d l : Nat) : Bool :=
  match (s.dom d).launch with
  | some la => !(la.ended.contains l) && !(la.endedNow.contains l)
  | none => false

/-- The mailbox channels at a slot start (R149): PERSIST channels keep their messages, the others are emptied and their
messages counted in DISCARDED. -/
def State.emptyChannels (s : State) (t : Nat) : State :=
  (List.range 16).foldl (fun s c =>
    if s.fld (TIL_MSG_CHAN_PERSIST t c) = 1 then s
    else
      let n := ((smapFind (s.tile t).chans c).getD []).length
      let s := s.addFld (TIL_MSG_CHAN_DISCARDED t c) n
      (s.setTile t { s.tile t with chans := smapDel (s.tile t).chans c }).setFld (TIL_MSG_CHAN_COUNT t c) 0) s

/-- One working tile at the start of slot `n` (R135, R149, R152): channels, flow sequence counters, summary registers and numeric
counter sets (R190, R240), held operands (R202), the tap table (R221), and the core, which runs when the tile has a share of a
LAUNCH. -/
def State.startTile (s : State) (d l n : Nat) (replay : Bool) : State :=
  let t := s.phys d l
  let s := s.emptyChannels t
  let s := (s.resetRegRange (VEC_SUM t 0) 0x80).resetRegRange (TIL_NUM_FAULTS t 0) 0x200
  let s := s.setFld (TIL_TAP_STATUS_ENTRIES t) 0
  let x := s.tile t
  let run := s.inLaunch d l
  let s := s.setTile t { x with
    flows := [], expect := [], reserve := none, held := [], taps := [], tapLost := [], touched := [], pushed := [],
    xreg := if run then s.startRegs d l t n replay else x.xreg,
    pc := if run then word (s.startPc d l n) else x.pc,
    run := if run then .running else if x.run = .done then .done else .idle }
  s.setTileState t (if run then 2 else if (s.tile t).run = .done then 3 else 1)

/-- The LAUNCH of a domain at the start of slot `n`: on a replay the tiles that ended in the slot run it again (R423); otherwise a
waiting LAUNCH takes over, and the slot counts. -/
def Dom.enterSlot (x : Dom) (n : Nat) (replay : Bool) : Dom :=
  if replay then { x with launch := x.launch.map (fun l => { l with endedNow := [] }) }
  else
    match x.launchNext with
    | some l => { x with launch := some { l with firstSlot := n, slots := 1 }, launchNext := none }
    | none => { x with launch := x.launch.map (fun l =>
        { l with ended := l.ended ++ l.endedNow, endedNow := [], slots := l.slots + 1 }) }

/-- A domain's slot `n` starts (R77, R157, R159): barriers clear, flits of the domain's present epoch are gone, and every working tile starts; on a replay the carried region
is loaded from the shadow half (n − 1) mod 2, or zeroed for slot 0 (R81), as it is at slot 0, and the rest of the scratchpad is
unpredictable (R80). -/
def State.startSlot (s : State) (d n : Nat) (replay : Bool) : State :=
  let tiles := s.domTiles d
  let x := (s.dom d).enterSlot n replay
  let s := s.setDom d { x with slotOpen := true, replay := replay, barriers := [], slipped := false, tables := [] }
  let s := { s with net := s.net.filter (fun f => !((s.workers d).contains f.src) || decide (msgEpoch f.bytes < x.epoch)) }
  tiles.foldl (fun s l =>
    let t := s.phys d l
    let c := s.carried l
    let s := if replay then s.scramble (padAddr t + c) (padSize - c) else s
    let s := if n = 0 then s.clear (padAddr t) c
      else if replay then s.devWrite (padAddr t) (s.bytesAt (s.shadowAddr d (s.position d l) ((n + 1) % 2)) c)
      else s
    s.startTile d l n replay) s

/-- The bytes that instruction and data segments of a PROGRAMS entry name, within the section's body. -/
def segment (body e : Bytes) (offAt lenAt : Nat) : Bytes := takeAt body (fieldAt e offAt 4) (fieldAt e lenAt 4)

/-- A byte string as the listed bytes of a store whose unlisted bytes read zero. -/
def listBytes : Nat → Bytes → SMap Byte
  | _, [] => []
  | a, b :: bs => if b = 0#8 then listBytes (a + 1) bs else (a, b) :: listBytes (a + 1) bs

/-- A tile's instruction and data SRAM loaded with a program's segments, zero above them (R135). -/
def State.loadTile (s : State) (t : Nat) (body e : Bytes) : State :=
  s.setTile t { s.tile t with iram := listBytes 0 (segment body e 4 8), dram := listBytes 0 (segment body e 12 16),
                              dramNew := [] }

end Sys2Proof.Machine
end

