-- ==== Sys2Proof/Machine/Digest.lean ====
section
/-!
DEFINITION. The published digests and checks that the spec names: SHA-512 (image digests, key ids), CRC-32C and the 64-bit
ECMA CRC (frames, snapshots, samples).
-/
namespace Sys2Proof.Machine

/-- The 16 first round constants of SHA-512, and the rest in pieces. -/
def shaK0 : List Word := [
  0x428a2f98d728ae22#64, 0x7137449123ef65cd#64, 0xb5c0fbcfec4d3b2f#64, 0xe9b5dba58189dbbc#64,
  0x3956c25bf348b538#64, 0x59f111f1b605d019#64, 0x923f82a4af194f9b#64, 0xab1c5ed5da6d8118#64,
  0xd807aa98a3030242#64, 0x12835b0145706fbe#64, 0x243185be4ee4b28c#64, 0x550c7dc3d5ffb4e2#64,
  0x72be5d74f27b896f#64, 0x80deb1fe3b1696b1#64, 0x9bdc06a725c71235#64, 0xc19bf174cf692694#64]
/-- Round constants of SHA-512. -/
def shaK1 : List Word := [
  0xe49b69c19ef14ad2#64, 0xefbe4786384f25e3#64, 0x0fc19dc68b8cd5b5#64, 0x240ca1cc77ac9c65#64,
  0x2de92c6f592b0275#64, 0x4a7484aa6ea6e483#64, 0x5cb0a9dcbd41fbd4#64, 0x76f988da831153b5#64,
  0x983e5152ee66dfab#64, 0xa831c66d2db43210#64, 0xb00327c898fb213f#64, 0xbf597fc7beef0ee4#64,
  0xc6e00bf33da88fc2#64, 0xd5a79147930aa725#64, 0x06ca6351e003826f#64, 0x142929670a0e6e70#64]
/-- Round constants of SHA-512. -/
def shaK2 : List Word := [
  0x27b70a8546d22ffc#64, 0x2e1b21385c26c926#64, 0x4d2c6dfc5ac42aed#64, 0x53380d139d95b3df#64,
  0x650a73548baf63de#64, 0x766a0abb3c77b2a8#64, 0x81c2c92e47edaee6#64, 0x92722c851482353b#64,
  0xa2bfe8a14cf10364#64, 0xa81a664bbc423001#64, 0xc24b8b70d0f89791#64, 0xc76c51a30654be30#64,
  0xd192e819d6ef5218#64, 0xd69906245565a910#64, 0xf40e35855771202a#64, 0x106aa07032bbd1b8#64]
/-- Round constants of SHA-512. -/
def shaK3 : List Word := [
  0x19a4c116b8d2d0c8#64, 0x1e376c085141ab53#64, 0x2748774cdf8eeb99#64, 0x34b0bcb5e19b48a8#64,
  0x391c0cb3c5c95a63#64, 0x4ed8aa4ae3418acb#64, 0x5b9cca4f7763e373#64, 0x682e6ff3d6b2b8a3#64,
  0x748f82ee5defb2fc#64, 0x78a5636f43172f60#64, 0x84c87814a1f0ab72#64, 0x8cc702081a6439ec#64,
  0x90befffa23631e28#64, 0xa4506cebde82bde9#64, 0xbef9a3f7b2c67915#64, 0xc67178f2e372532b#64]
/-- Round constants of SHA-512. -/
def shaK4 : List Word := [
  0xca273eceea26619c#64, 0xd186b8c721c0c207#64, 0xeada7dd6cde0eb1e#64, 0xf57d4f7fee6ed178#64,
  0x06f067aa72176fba#64, 0x0a637dc5a2c898a6#64, 0x113f9804bef90dae#64, 0x1b710b35131c471b#64,
  0x28db77f523047d84#64, 0x32caab7b40c72493#64, 0x3c9ebe0a15c9bebc#64, 0x431d67c49c100d4c#64,
  0x4cc5d4becb3e42b6#64, 0x597f299cfc657e2a#64, 0x5fcb6fab3ad6faec#64, 0x6c44198c4a475817#64]
def shaK : List Word := shaK0 ++ shaK1 ++ shaK2 ++ shaK3 ++ shaK4

/-- The initial hash value of SHA-512. -/
def shaInit : List Word := [
  0x6a09e667f3bcc908#64, 0xbb67ae8584caa73b#64, 0x3c6ef372fe94f82b#64, 0xa54ff53a5f1d36f1#64,
  0x510e527fade682d1#64, 0x9b05688c2b3e6c1f#64, 0x1f83d9abfb41bd6b#64, 0x5be0cd19137e2179#64]

/-- The big-endian word of 8 bytes. -/
def beWord : Bytes → Word := List.foldl (fun w b => w * 256#64 + b.setWidth 64) 0#64

/-- The 8 big-endian bytes of a word. -/
def beBytes (w : Word) : Bytes := (leBytes 8 w.toNat).reverse

/-- The message schedule, grown by one word: the newest word comes first. -/
def shaGrow (ws : List Word) : List Word :=
  let w (i : Nat) := ws.getD i 0#64
  let s0 := (w 14).rotateRight 1 ^^^ (w 14).rotateRight 8 ^^^ (w 14 >>> 7)
  let s1 := (w 1).rotateRight 19 ^^^ (w 1).rotateRight 61 ^^^ (w 1 >>> 6)
  (w 15 + s0 + w 6 + s1) :: ws

/-- The schedule of `n` further words. -/
def shaSchedule : Nat → List Word → List Word
  | 0, ws => ws
  | n + 1, ws => shaSchedule n (shaGrow ws)

/-- One round on the eight working variables. -/
def shaRound (v : List Word) (k w : Word) : List Word :=
  let x (i : Nat) := v.getD i 0#64
  let s1 := (x 4).rotateRight 14 ^^^ (x 4).rotateRight 18 ^^^ (x 4).rotateRight 41
  let ch := (x 4 &&& x 5) ^^^ (~~~(x 4) &&& x 6)
  let t1 := x 7 + s1 + ch + k + w
  let s0 := (x 0).rotateRight 28 ^^^ (x 0).rotateRight 34 ^^^ (x 0).rotateRight 39
  let maj := (x 0 &&& x 1) ^^^ (x 0 &&& x 2) ^^^ (x 1 &&& x 2)
  [t1 + s0 + maj, x 0, x 1, x 2, x 3 + t1, x 4, x 5, x 6]

/-- The words of a block of 128 bytes, `n` words from the first. -/
def blockWords : Nat → Bytes → List Word
  | 0, _ => []
  | n + 1, bs => beWord (bs.take 8) :: blockWords n (bs.drop 8)

/-- The hash value after one block. -/
def shaBlock (h : List Word) (block : Bytes) : List Word :=
  let ws := (shaSchedule 64 (blockWords 16 block).reverse).reverse
  let v := (shaK.zip ws).foldl (fun v kw => shaRound v kw.1 kw.2) h
  List.zipWith (· + ·) h v

/-- The hash value after `n` blocks. -/
def shaBlocks : Nat → List Word → Bytes → List Word
  | 0, h, _ => h
  | n + 1, h, bs => shaBlocks n (shaBlock h (bs.take 128)) (bs.drop 128)

/-- SHA-512 (R56, R457, R463). -/
def sha512 (bs : Bytes) : Bytes :=
  let padding := (239 - bs.length % 128) % 128
  let m := bs ++ [0x80#8] ++ zeros padding ++ (leBytes 16 (8 * bs.length)).reverse
  (shaBlocks (m.length / 128) shaInit m).flatMap beBytes

/-- One bit of a reflected CRC over `p`. -/
def crcStep (p c : Nat) : Nat := if c % 2 = 1 then (c / 2) ^^^ p else c / 2

/-- One byte of a reflected CRC. -/
def crcByte (p c : Nat) (b : Byte) : Nat :=
  crcStep p (crcStep p (crcStep p (crcStep p (crcStep p (crcStep p (crcStep p (crcStep p (c ^^^ b.toNat))))))))

/-- CRC-32C of a byte string (Castagnoli, reflected). -/
def crc32c (bs : Bytes) : Nat := (bs.foldl (crcByte 0x82F63B78) 0xFFFFFFFF) ^^^ 0xFFFFFFFF

/-- One bit of the 64-bit CRC, most significant bit first (ECMA-182 polynomial, R477). -/
def crc64Step (c : Nat) : Nat :=
  let d := c * 2 % 2 ^ 64
  if c / 2 ^ 63 % 2 = 1 then d ^^^ 0x42F0E1EBA9EA3693 else d

/-- One byte of the 64-bit CRC. -/
def crc64Byte (c : Nat) (b : Byte) : Nat :=
  crc64Step (crc64Step (crc64Step (crc64Step (crc64Step (crc64Step (crc64Step (crc64Step (c ^^^ (b.toNat * 2 ^ 56)))))))))

/-- CRC-64: initial value zero, no reflection, no final XOR (R477). -/
def crc64 (bs : Bytes) : Nat := bs.foldl crc64Byte 0

/-- KEY_ID of a public key: the first 8 bytes of its SHA-512. -/
def keyId (key : Bytes) : Nat := leNat ((sha512 key).take 8)

/-- The module id (R463): as a KEY_ID of the identity public key. -/
def ownModuleId : Nat := keyId Config.identityKey

end Sys2Proof.Machine
end

