-- ==== Sys2Proof/Machine/Handles.lean ====
section
/-!
DEFINITION. The stash's handle table and space (R290, R291, R294 to R296): entries, allocation, release and discard.
-/
namespace Sys2Proof.Machine

/-! ## The handle table (R290, Table STH-2) -/

/-- The bytes of the handle table. -/
def stashTable : Nat := 2 ^ 24

/-- The lowest of MEMORY entries by BASE. -/
def lowestRegion : List Bytes → Option Bytes
  | [] => none
  | e :: es =>
    match lowestRegion es with
    | none => some e
    | some f => if fieldAt f 8 8 < fieldAt e 8 8 then some f else some e

/-- The MEMORY entry whose first 16 MiB hold the handle table (R290). -/
def State.stashRegion (s : State) : Option Bytes :=
  lowestRegion ((s.entries secMemory).filter (fun e => fieldAt e 0 1 == 2 && fieldAt e 1 1 == 0 && decide (stashTable ≤ fieldAt e 16 8)))

/-- The physical address of the handle table. -/
def State.stashBase (s : State) : Option Nat := s.stashRegion.map (fun e => hbmBase + fieldAt e 8 8)

/-- The 64 bytes of a handle entry (Table STH-2). -/
def Handle.bytes (x : Handle) : Bytes :=
  let bit (b : Bool) (i : Nat) : Nat := if b then 2 ^ i else 0
  padTo 64 (leBytes 1 x.state ++ leBytes 1 (x.dom + bit x.committed 6 + bit x.releasing 7) ++ leBytes 2 x.cls ++ leBytes 1 x.fmt ++
    leBytes 1 x.dualFmt ++ leBytes 1 (bit x.dual 0 + bit x.pCoded 1 + bit x.dCoded 2 + bit x.demoted 3) ++ leBytes 1 x.die ++
    leBytes 8 x.regSlot ++ leBytes 8 x.consumer ++ leBytes 8 x.pAddr ++ leBytes 4 x.pRaw ++ leBytes 4 x.pStored ++
    leBytes 8 x.dAddr ++ leBytes 4 x.dRaw ++ leBytes 4 x.dStored)

/-- Handle `h`. -/
def State.handle (s : State) (h : Nat) : Handle := (smapFind s.stash.handles h).getD {}

/-- Handle `h` set, with its entry in the table. -/
def State.setHandle (s : State) (h : Nat) (x : Handle) : State :=
  let s := { s with stash := { s.stash with handles := smapPut (fun _ => some {}) s.stash.handles h x } }
  match s.stashBase with
  | some a => s.devWrite (a + 64 * h) x.bytes
  | none => s

/-! ## Space -/

/-- The first address from `a` below `fin` with `n` bytes clear of the space in use. -/
def fitFrom (a fin n : Nat) : SMap Nat → Option Nat
  | [] => if a + n ≤ fin then some a else none
  | (b, l) :: m =>
    if b + l ≤ a then fitFrom a fin n m
    else if a + n ≤ b then (if a + n ≤ fin then some a else none)
    else fitFrom (b + l) fin n m

/-- A place for `n` bytes in the first of the ranges that has one. -/
def fitIn (space : SMap Nat) (n : Nat) : List (Nat × Nat) → Option Nat
  | [] => none
  | (lo, len) :: rs =>
    match fitFrom lo (lo + len) n space with
    | some a => some a
    | none => fitIn space n rs

/-- Places taken for parts of these lengths, in 256-byte units: none when one finds no room. -/
def takeSpace (ranges : List (Nat × Nat)) (space : SMap Nat) : List Nat → Option (List Nat × SMap Nat)
  | [] => some ([], space)
  | n :: ns =>
    let n' := (n + 255) / 256 * 256
    match fitIn space n' ranges with
    | none => none
    | some a =>
      match takeSpace ranges (smapIns space a n') ns with
      | none => none
      | some (as, sp) => some (a :: as, sp)

/-- Space freed at these addresses. -/
def State.freeSpace (s : State) (as : List Nat) : State :=
  { s with stash := { s.stash with space := as.foldl smapDel s.stash.space } }

/-- The addresses a handle occupies where it is, and those its move takes it to. -/
def Handle.places (x : Handle) : List Nat :=
  if x.state = 0 ∨ x.state = 6 then [] else x.pAddr :: (if x.dual then [x.dAddr] else [])
def Handle.targets (x : Handle) : List Nat :=
  match x.move with
  | some m => m.pAddr :: (if x.dual then [m.dAddr] else [])
  | none => []

/-! ## Release and discard (R294, R295) -/

/-- Handle `h` becomes FREE: its space is freed, at the end of a move in progress. -/
def State.freeHandle (s : State) (h : Nat) (atOnce : Bool) : State :=
  let x := s.handle h
  let as := x.places ++ x.targets
  let s := if x.move.isSome && !atOnce then { s with stash := { s.stash with orphans := s.stash.orphans ++ [(h, as)] } }
    else s.freeSpace as
  s.setHandle h {}

/-- The handles of domain `d`. -/
def State.handlesOf (s : State) (d : Nat) : List Nat := (s.stash.handles.filter (fun e => e.2.state != 0 && e.2.dom == d)).map (·.1)

/-- A slot of domain `d` is finished (step 2 of Table TCK-2): released handles become FREE, registered ones COMMITTED (R294). -/
def State.stashFinish (s : State) (d : Nat) : State :=
  (s.handlesOf d).foldl (fun s h =>
    let x := s.handle h
    if x.releasing then s.freeHandle h false
    else if x.committed then s else s.setHandle h { x with committed := true }) s

/-- A slot of domain `d` does not finish (R295): its registrations are discarded, its releases cleared. -/
def State.stashDiscard (s : State) (d : Nat) : State :=
  (s.handlesOf d).foldl (fun s h =>
    let x := s.handle h
    if !x.committed then s.freeHandle h true
    else if x.releasing then s.setHandle h { x with releasing := false } else s) s

end Sys2Proof.Machine
end

