-- ==== Sys2Proof/Machine/Layout.lean ====
section
/-!
DEFINITION. The layout of HBM that a MEMORY section gives (R312, R313), the decode without a job image (R315), and what a change of
layout does to the contents (R316).
-/
namespace Sys2Proof.Machine

/-- The package pseudo-channels of the stacks of a mask, ascending (R15, R312). -/
def channelsOf (hbmStacks : Nat) : List Nat := (bitsSet hbmStacks 16).flatMap (fun x => fromTo (64 * x) 64)

/-- The stacks of compute die `k` within a mask (R15). -/
def stacksOn (k hbmStacks : Nat) : Nat := bitsOf hbmStacks (4 * k) 4 * 2 ^ (4 * k)

/-- Entry `i` of MEMORY as a region over the admitted stacks (R312), its storage not placed yet. -/
def regionOf (hbmStacks i : Nat) (e : Bytes) : HbmRegion :=
  { base := fieldAt e 8 8, size := fieldAt e 16 8, index := i,
    pcs := channelsOf (if fieldAt e 1 1 = 1 then stacksOn (fieldAt e 2 1) hbmStacks else hbmStacks), bases := [0, 0, 0, 0] }

/-- A region inserted in ascending BASE order. -/
def insertRegion (r : HbmRegion) : List HbmRegion → List HbmRegion
  | [] => [r]
  | x :: xs => if r.base < x.base then r :: x :: xs else x :: insertRegion r xs

/-- The compute dies whose channels a region uses. -/
def HbmRegion.dies (r : HbmRegion) : List Nat := (List.range 4).filter (fun k => r.pcs.any (fun pc => pc / 256 == k))

/-- Storage placed in ascending BASE order (R313); `used` is what each die's channels hold so far. -/
def placeRegions : List Nat → List HbmRegion → List HbmRegion
  | _, [] => []
  | used, r :: rs =>
    let ds := r.dies
    { r with bases := used } ::
      placeRegions ((List.range 4).map (fun k => used.getD k 0 + (if ds.contains k then r.depth else 0))) rs

/-- The regions of a list of MEMORY entries. -/
def regionsFrom (hbmStacks : Nat) : Nat → List Bytes → List HbmRegion
  | _, [] => []
  | i, e :: es => insertRegion (regionOf hbmStacks i e) (regionsFrom hbmStacks (i + 1) es)

/-- The decode that a MEMORY section gives over the admitted stacks. -/
def mapOf (hbmStacks key : Nat) (entries : List Bytes) : HbmMap :=
  { key := key, regions := placeRegions [0, 0, 0, 0] (regionsFrom hbmStacks 0 entries) }

/-- The decode without a job image: one global region over the admitted range, entry index 0, key zero (R315). -/
def plainMap (hbmStacks : Nat) : HbmMap :=
  { key := 0, regions := [{ base := 0, size := popcount hbmStacks * 48 * 2 ^ 30, index := 0, pcs := channelsOf hbmStacks, bases := [0, 0, 0, 0] }] }

/-- The regions that decide what the addresses of region `r` return after a commit (R316): those that share a channel with it and
lie no higher. -/
def HbmMap.near (m : HbmMap) (r : HbmRegion) : List HbmRegion :=
  m.regions.filter (fun x => decide (x.base ≤ r.base) && x.pcs.any (fun pc => r.pcs.contains pc))

/-- A region as its MEMORY entry and the admitted stacks give it, without its place in storage. -/
def HbmRegion.given (r : HbmRegion) : HbmRegion := { r with bases := [] }

/-- Whether the addresses of region `r` return the old contents of their storage when decode `old` gives way to `new` (R316). -/
def keepsContents (old new : HbmMap) (r : HbmRegion) : Bool :=
  decide (old.key = new.key) && decide ((old.near r).map HbmRegion.given = (new.near r).map HbmRegion.given)

/-- A new decode takes over from the one compared with: the storage of every region that does not keep its contents becomes
unpredictable (R316), but for the regions of `zeroed`, which the commit has set to zero. -/
def State.newLayout (s : State) (m : HbmMap) (zeroed : List HbmRegion) : State :=
  let old := s.hbmPrev
  let s := { s with hbmMap := m, hbmPrev := m }
  m.regions.foldl (fun s r => if keepsContents old m r || zeroed.contains r then s else s.overRegion r State.scramble) s

/-- The decode without a job image takes over (R315). -/
def State.plainLayout (s : State) : State :=
  { s with hbmMap := plainMap s.hbmStacks, hbmPrev := plainMap s.hbmStacks }

end Sys2Proof.Machine
end

