-- ==== Sys2Proof/Machine/Modes.lean ====
section
/-!
DEFINITION. Modes and resets (chapter 02): mode changes, the start report, Halted, the device reset and the cold reset, and the
contained stop of a domain (chapters 04, 07, 19). The meanings of the start commands are in Machine/Start.lean.
-/
namespace Sys2Proof.Machine

/-! ## Mode changes (R29, R55) -/

/-- The module enters mode `m` (R29), with event MODE_CHANGE naming the reset-cause bits `cause` (R55). DESIGN CHOICE: HOLES is 0
outside Aloft. -/
def State.setMode (s : State) (m cause : Nat) : State :=
  let old := s.mode
  let s := s.setFld CTL_MODE_PREV_MODE old
  let s := s.setFld CTL_MODE_MODE m
  let s := s.setFld CTL_MODE_STAGE 0
  let s := s.setFld CTL_MODE_UNIT_KIND 0
  let s := s.setFld CTL_MODE_UNIT_INDEX 0
  let s := if m = 3 then s else s.setFld CTL_MODE_HOLES 0
  s.event 0x8002 EV_MODE_CHANGE noDomain
    (leBytes 1 old ++ leBytes 1 m ++ leBytes 2 (s.fld CTL_MODE_HOLES) ++ leBytes 4 cause)

/-- The first entry into Tethered after a cold reset: there is no earlier mode (R29). -/
def State.firstTethered (s : State) (cause : Nat) : State :=
  let s := s.setFld CTL_MODE_PREV_MODE 0
  let s := s.setFld CTL_MODE_MODE 1
  s.event 0x8002 EV_MODE_CHANGE noDomain (leBytes 1 0 ++ leBytes 1 1 ++ leBytes 2 0 ++ leBytes 4 cause)

/-! ## The tick grid (R89) -/

/-- The tick period in force (ns). -/
def State.periodNs (s : State) : Nat := s.fld CTL_TICK_CONFIG_PERIOD * 1000

/-- The least multiple of `p` that is no less than `t`. -/
def roundUp (p t : Nat) : Nat := (t + p - 1) / p * p

/-- The period changed between boundaries (R89): the next boundary falls at the first multiple of the new period at least one
new period after the last boundary and no earlier than now. -/
def State.regrid (s : State) (us : Nat) : State :=
  let p := us * 1000
  ({ s with nextBoundary := roundUp p (max (s.lastBoundary + p) s.now) }).setFld CTL_TICK_CONFIG_PERIOD us

/-- The tether structure's period and overrun policy (R76). -/
def State.tetherTick (s : State) : State :=
  (s.regrid s.foundation.tickUs).setFld CTL_TICK_CONFIG_OVERRUN s.foundation.tickOverrun

/-! ## The end of a job image -/

/-- The page engine is DISABLED, its tables left as they are (R285). -/
def State.kvpOff (s : State) : State :=
  (({ s with kvp := {} }.setFld KVP_STATUS_STATE 0).setFld KVP_CTRL_ENABLE 0).setFld KVP_STATUS_OPEN_SEQS 0

/-- The intake is DISABLED: held batches, reserve queues, ready samples and outstanding tokens go (R342); the seals made stay made
(R334). -/
def State.intakeOff (s : State) : State :=
  let s := { s with intake := { seals := s.intake.seals, tokens := s.intake.tokens } }
  let s := ((s.setFld INT_CTRL_ENABLE 0).setFld INT_STATUS_STATE 0).setFld INT_STATUS_PENDING 0
  (List.range 16).foldl (fun s e => (s.setFld (INT_ENGINE_QUEUED e) 0).setFld (INT_ENGINE_BUSY e) 0) s

/-- The domains of the image in force cease: their slot, tile and placement state goes. -/
def State.dropDomains (s : State) : State :=
  let s := { s with doms := [], net := [], shadows := [], stash := {}, survival := { s.survival with regions := [] },
                    dbg := { s.dbg with readings := [] }, intake := { s.intake with seals := [] } }.kvpOff.intakeOff
  let s := s.resetRegRange (CTL_DOM_SLOT 0) (64 * 16)
  (List.range 384).foldl (fun s t =>
    let s := s.setReg (TIL_PROGRAM t) 0#64
    if s.tileState t = 6 ∨ s.tileState t = 7 then s else s.setReg (TIL_STATE t) 0#64) s

/-- No job image is in force (Tables STR-8 and STR-9): no id, no version, no commit tick. -/
def State.noImage (s : State) : State :=
  let s := { s with image := none }.setFld CTL_STRUCT_STATUS_IN_FORCE 0
  let s := (s.setFld CTL_STRUCT_VERSION_CHOSEN_MINOR 0).setFld CTL_STRUCT_VERSION_MAJOR 0
  (s.setReg CTL_STRUCT_ID 0#64).setReg CTL_STRUCT_COMMIT_TICK 0#64

/-- The job image in force ends without a commit (R64): the staging area empties, no image is in force, and the tether tick
applies again (R89). -/
def State.endImage (s : State) : State :=
  let had := s.image.isSome || s.commit.isSome
  let s := { s.dropDomains with commit := none, stagedLen := 0, stageBy := none, validateBy := none }
  let s := (s.setFld CTL_STRUCT_STATUS_STAGE_STATE 0).noImage
  if had then s.tetherTick else s

/-! ## The start report (R46, Tables MOD-7 and MOD-8) -/

/-- The 8 bytes of entry `i` of the start report. -/
def reportEntry (i : Nat) (e : ReportEntry) : Bytes :=
  let (kind, index) := if i < 4 then (1, i) else if i < 20 then (2, i - 4) else (3, i - 20)
  leBytes 1 kind ++ leBytes 1 index ++ leBytes 1 (e.stage + 16 * e.outcome) ++ leBytes 1 e.holes ++ leBytes 2 e.reason ++
    leBytes 2 (satTo 0xFFFF e.ms)

/-- The entries of the start report from position `i`. -/
def reportEntries : Nat → List ReportEntry → Bytes
  | _, [] => []
  | i, e :: es => reportEntry i e ++ reportEntries (i + 1) es

/-- The start report of an Ascent, with RESULT and ENTRY_REASON. -/
def State.reportBytes (s : State) (a : Ascent) (result reason : Nat) : Bytes :=
  padTo 64 (leBytes 2 s.attempts ++ leBytes 1 result ++ leBytes 1 24 ++ leBytes 2 s.part.stackMask ++ leBytes 2 s.hbmStacks ++
    leBytes 1 (s.dies + 16 * (2 ^ s.part.links - 1)) ++ leBytes 1 s.links ++ leBytes 2 reason ++ leBytes 4 a.totalMs ++
    leBytes 8 a.start ++ leBytes 8 s.now) ++ reportEntries 0 a.entries

/-- The start report written into CTL_START_REPORT, replacing the previous one (R46); the Ascent is over. -/
def State.writeReport (s : State) (a : Ascent) (result reason : Nat) : State :=
  let bs := s.reportBytes a result reason
  { ((List.range 32).foldl (fun s w => s.setReg (CTL_START_REPORT w) (word (fieldAt bs (8 * w) 8))) s) with ascent := none }

/-- The fresh entries of an Ascent: not attempted, or not fitted. -/
def freshEntries (p : Part) : List ReportEntry :=
  (List.range 24).map (fun i =>
    if i < 4 then { outcome := 3 }
    else if i < 20 then { outcome := if p.stackFitted (i - 4) then 3 else 2 }
    else { outcome := if i - 20 < p.links then 3 else 2 })

/-- The position of the unit in progress in the start report. -/
def Ascent.slot (a : Ascent) : Nat :=
  if a.unit < 4 then (if a.stage = 2 then 4 + 4 * a.unit + a.site else a.unit) else 20 + (a.unit - 4)

/-- ms of local time. -/
def msNs (ms : Nat) : Nat := ms * 1000000

/-- Time passes in a stage. -/
def Ascent.spend (a : Ascent) (ms : Nat) : Ascent := { a with stageMs := a.stageMs + ms, totalMs := a.totalMs + ms }

/-- The local time when a stage, or the training of a stack, has taken `ms` since it began (R85). -/
def State.stageEnds (s : State) (a : Ascent) (ms : Nat) : State := { s with localNs := max s.localNs (a.since + msNs ms) }

/-- The position of a die in the start report. -/
def dieSlot (u : Nat) : Nat := if u < 4 then u else 20 + (u - 4)

/-- The report of an Ascent cut short at local time `ns`: the unit in progress shows its stage with OUTCOME 3, its holes and the time it
spent there (R46). -/
def Ascent.cut (a : Ascent) (ns : Nat) : Ascent :=
  let more := (ns - a.since) / msNs 1
  let a := a.spend more
  if a.unit ≥ 8 then a
  else
    let es := a.entries.set (dieSlot a.unit) { stage := a.stage, outcome := 3, holes := a.holes, ms := a.stageMs }
    { a with entries := if a.unit < 4 ∧ a.stage = 2 then es.set a.slot { stage := 2, outcome := 3, ms := more } else es }

/-- A failed start (R45): the report, event START_FAILED, and FAILED raised, with EXHAUSTED at the limit. DESIGN CHOICE: the first unit
left out is the first one in the order of the report. -/
def State.failStart (s : State) (a : Ascent) (reason : Nat) (halted hostLink : Bool) : State :=
  let failed := satTo 7 (s.fld CTL_START_COUNT_FAILED + 1)
  let out := decide (failed ≥ s.fld CTL_START_COUNT_LIMIT)
  let result := if out then 3 else 2
  let s := s.setFld CTL_START_COUNT_FAILED failed
  let s := if out then s.setFld CTL_START_COUNT_EXHAUSTED 1 else s
  let first := (a.entries.find? (fun e => e.outcome == 1)).map (·.reason)
  let s := s.writeReport a result reason
  s.event 0x8002 EV_START_FAILED noDomain
    (leBytes 2 s.attempts ++ leBytes 1 result ++ leBytes 1 failed ++ leBytes 2 reason ++ leBytes 2 (first.getD 0) ++
      leBytes 1 ((if halted then 1 else 0) + (if hostLink then 2 else 0)))

/-! ## Halted (R33) -/

/-- HBM_STATUS of the stacks of a mask shows STATE `st` (0 ABSENT, 1 ACTIVE, 2 SELF_REFRESH, 3 TRAINING). -/
def State.showStacks (s : State) (mask st : Nat) : State :=
  (bitsSet mask 16).foldl (fun s x => s.setFld (HBM_STATUS_STATE x) st) s

/-- The module enters Halted (R33): every outstanding handle ends with UNIT_FAULT, the job image and the staging area end (R64),
and the stacks go into self-refresh with their contents kept; an Ascent that ends so is a failed start (R45), whose report shows
ENTRY_REASON 0 and the unit in progress with OUTCOME 3 and REASON 0 (DESIGN CHOICE). -/
def State.enterHalted (s : State) (cold : Bool) : State :=
  if s.mode = 0xF then { s with haltCold := s.haltCold || cold }
  else
    let s := match s.ascent with
      | some a => s.failStart (a.cut s.localNs) 0 true false
      | none => s
    let s := s.finishAll (fun _ => true) (fun _ => { status := ST_UNIT_FAULT })
    let s := s.endImage
    let s := (List.range 384).foldl (fun s t =>
      match smapFind s.tiles t with
      | some x => s.setTile t { x with run := if x.run = .running ∨ x.run = .waitSlot then .idle else x.run }
      | none => s) s
    (({ (s.setMode 0xF 0) with selfRefresh := s.selfRefresh ||| s.hbmStacks, haltCold := cold }).showStacks s.hbmStacks 2)

/-- An error detected in a unit, with its consequence for the module: a record of class FATAL, in any mode but Tethered, enters
Halted (R33, R414, R419); unit classes 7 and 8 make it end only by a cold reset. -/
def State.fault (s : State) (unit cls : Nat) (i : ErrInfo) : State :=
  let up := s.escalated unit cls
  let s := s.report unit cls i
  if up = 3 ∧ s.mode ≠ 1 then s.enterHalted (unit / 4096 == 7 || unit / 4096 == 8) else s

/-! ## Words found in error (R320 to R322, R420) -/

/-- What a record says of the word kept at `k` (R322): its physical address, or its offset within the pseudo-channel with bit 63
set. -/
def State.wordAddress (s : State) (k : Nat) : Nat :=
  match s.unloc k with
  | some a => a
  | none => 2 ^ 63 + (k - hbmBase) % pcBytes

/-- A word of HBM of stack `x`, kept at `k`, was read with a corrected error (R320). -/
def State.wordFixed (s : State) (x k syndrome : Nat) : State :=
  ((s.addFld (HBM_ECC_CORRECTED x) 1).correctedOnce (0x3000 + (k - hbmBase) / pcBytes)
    { code := ST_ECC_CORRECTED, addr := s.wordAddress k, syndrome := leBytes 2 syndrome ++ leBytes 1 (k / 8 % 8) }).addRisk x

/-- The source, destination and length of a MOVE. -/
def Pending.src (p : Pending) : Nat := fieldAt p.entry 16 8
def Pending.dst (p : Pending) : Nat := fieldAt p.entry 24 8
def Pending.len (p : Pending) : Nat := fieldAt p.entry 32 8

/-- Whether an address lies in the range of HBM (Table HST-3). -/
def inHbm (a : Nat) : Bool := decide (hbmBase ≤ a ∧ a < hbmBase + hbmSpan)

/-- The die whose codecs a MOVE uses (R307): that of its HBM end, otherwise q mod 4. -/
def State.moveDie (s : State) (p : Pending) : Nat :=
  let at' (a : Nat) : Nat := (s.loc a - hbmBase) / pcBytes / 256 % 4
  if inHbm p.src then at' p.src else if inHbm p.dst then at' p.dst else p.queue % 4

/-- The unit whose grants carry a MOVE: the host-die port of its compute die (R307). -/
def State.movePort (s : State) (p : Pending) : Nat := 0x7300 + s.moveDie p

/-- Whether one of `n` bytes at `a` is kept in the pseudo-channel of unit `u`. -/
def State.inChannel (s : State) (u a n : Nat) : Bool :=
  (List.range ((n + 63) / 64)).any (fun i =>
    let k := s.loc (a + 64 * i)
    decide (hbmBase ≤ k ∧ k < hbmBase + hbmSpan) && 0x3000 + (k - hbmBase) / pcBytes == u)

/-- Whether a MOVE in progress is carried by unit `u`: its host-die port, or a pseudo-channel that it reads or writes. -/
def State.carries (s : State) (u : Nat) (p : Pending) : Bool :=
  p.cls == 2 && p.started && p.done.isNone &&
    (s.movePort p == u || (u / 4096 == 3 && (s.inChannel u p.src p.len || (p.op != 2 && s.inChannel u p.dst p.len))))

/-- A unit that is no part of a tile stops on a CONTAINED error (Table ERR-1): the outstanding handles that it carries end with UNIT_FAULT, and
it is left stopped. -/
def State.contain (s : State) (u : Nat) : State :=
  (s.finishAll (s.carries u) (fun _ => { status := ST_UNIT_FAULT, part := true })).leaveStopped u

/-- A word of HBM of stack `x`, kept at `k`, is uncorrectable (R321): its access is poisoned, with a DEFERRED record; escalated, it stops the
pseudo-channel (R414, R419). -/
def State.wordPoisoned (s : State) (x k syndrome : Nat) : State :=
  let u := 0x3000 + (k - hbmBase) / pcBytes
  let up := s.escalated u 1
  let s := { s with poison := insertAsc (lineOf k) s.poison }
  let s := (s.addFld (HBM_ECC_POISONED x) 1).fault u 1
    { code := ST_ECC_UNCORRECTABLE, addr := s.wordAddress k, syndrome := leBytes 2 syndrome ++ leBytes 1 (k / 8 % 8) }
  if up = 2 then s.contain u else s

/-- One word of HBM that an access finds in error: nothing unless it lies in a stack that is ACTIVE. -/
def State.hbmError (s : State) (f : Found) : State :=
  let k := s.loc f.addr.toNat / 8 * 8
  let x := (k - hbmBase) / pcBytes / 64
  if hbmBase ≤ k ∧ k < hbmBase + hbmSpan ∧ s.fld (HBM_STATUS_STATE x) = 1 then
    match f.ecc with
    | .clean => s
    | .corrected => s.wordFixed x k f.syndrome.toNat
    | .uncorrectable => s.wordPoisoned x k f.syndrome.toNat
  else s

/-! ## Domain stops -/

/-- The outstanding commands of a domain. -/
def ofDomain (d : Nat) (p : Pending) : Bool := p.domain == d

/-- A domain stops (R79, R137, R426): its tiles reset and STOPPED, its state STOPPED, and its outstanding handles ended with
`answer`, with event DOMAIN_CONTAINED (Table ERR-5). The slot and the share of the LAUNCH stay, for a replay. -/
def State.stopDomain (s : State) (d code : Nat) (answer : Pending → Completion) : State :=
  let s := (s.workers d).foldl (fun s t =>
    let s := s.resetTile t
    if s.tileState t = 6 then s else s.setTileState t 4) s
  let s := (s.setFld (CTL_DOM_STATE_STATE d) 3).stashDiscard d
  let s := s.finishAll (ofDomain d) answer
  let s := s.setDom d { s.dom d with
    slotOpen := false, resumeBy := none, barriers := [], posts := [], tables := [], stops := [], launchNext := none, recovering := [], replayDue := false,
    launch := (s.dom d).launch.map (fun l => { l with handle := 0#64 }) }
  let s := s.closeWindows (fun u => (match tileOfUnit u with | some t => (s.workers d).contains t | none => false) || u == 0x8000)
  s.event 0x8003 EV_DOMAIN_CONTAINED d (leBytes 2 code)

/-- The LAUNCH handle of a domain; 0 none. -/
def State.launchHandle (s : State) (d : Nat) : Nat :=
  match (s.dom d).launch with
  | some l => l.handle.toNat
  | none => 0

/-- A program trap or a descriptor fault of physical tile `t` (R137, R142): a CONTAINED record, the domain stopped, the LAUNCH
ended with `status` and DETAIL, PARTIAL set, and every other handle CANCELLED. -/
def State.trapDomain (s : State) (t status detail : Nat) : State :=
  match s.domOf t with
  | none => s
  | some d =>
    if s.domState d = 3 then s
    else
      let s := s.setDom d { s.dom d with faulted := true }
      let lh := s.launchHandle d
      let up := s.escalated t 2
      let s := s.fault t 2 { code := status, dom := d, handle := lh }
      if up = 3 then s
      else s.stopDomain d status (fun p =>
        if p.handle.toNat = lh then { status := status, detail := detail, part := true } else { status := ST_CANCELLED })

/-! ## Rails (R487) -/

/-- The rails that a device reset leaves on: none, or with HOLD_HBM the two supplies of rail 9 (R487). -/
def keptRails (hold : Bool) (en : Nat) : Nat := if hold then (bitsOf en 9 1) * 2 ^ 9 + (bitsOf en 14 1) * 2 ^ 14 else 0

/-! ## Device reset (R49 to R51) -/

/-- What a device reset leaves of the steps (R433): F15 in force and agreed, without an event, and no agreement. -/
def State.resetSteps (s : State) : State :=
  let p := { s.power with requests := [], lastSent := none, decisions := [], agreed := false, volts := 15, rising := none }
  let s := { s with power := { p with owed := false, offsets := [] },
                    outs := { s.outs with avs := s.outs.avs.filter (fun e => decide (8 ≤ e.1)) } }
  (s.setFld PWR_STATUS_FSTEP 15).setFld PWR_STATUS_AGREED 15

/-- The registers of stack `x` at their reset values: HBM_SCRUB.PASSES counts on, since cold reset (R329). -/
def State.resetStack (s : State) (x : Nat) : State :=
  (s.resetRegRange (HBM_STATUS x) 0x1_0000).setFld (HBM_SCRUB_PASSES x) (s.fld (HBM_SCRUB_PASSES x))

/-- The state of the compute and link dies cleared (R48): tiles, domains with their non-finite flags and spike detectors (R229), meshes,
stash units, codecs, the page engine's counters, and the register blocks of tiles, stacks and link dies. -/
def State.clearDies (s : State) : State :=
  let s := { s with
    tiles := [], doms := [], net := [], stash := {}, arbs := [], hbmSeen := [], hbmTick := [], hbmLast := [], hot := [],
    peers := [], outFlows := [], inFlows := [], retrains := [], colls := [], tails := [], tailNotes := [], windows := [], dies := 0,
    links := 0, d2dUp := 0, unusable := [] }
  let s := { s with survival := { area := s.survival.area, lastStart := s.survival.lastStart } }.resetSteps
  let s := { s with timeMaster := 0, measure := {}, measureBy := [] }
  let s := (s.setFld CTL_TIME_STATUS_MASTER 0).setFld CTL_TIME_STATUS_MEASURING 0
  let s := s.setReg CTL_SRV_PARTNER 0#64
  let s := s.resetRegRange 0x0100_0000 0x40_0000
  let s := (List.range 16).foldl State.resetStack s
  let s := s.resetRegRange 0x1000_0000 0x180_0000
  let s := (s.resetRegRange (CTL_DOM_NONFINITE 0) (64 * 8)).resetRegRange (CTL_SPIKE_MEAN 0) (64 * 0x20)
  let s := (s.resetRegRange STH_CONFIG 0x10_0000).resetRegRange (CDC_DIE_BYTES 0) 0x10_0000
  let s := (List.range 8).foldl (fun (s : State) p => s.resetRegRange (KVP_POOL_STATS p) 16) s
  let s := s.resetRegRange (DBG_PCNT 0) 256
  let s := { s with counts := s.counts.filter (fun e => e.1 < 1024) }
  s.setFld HST_LINK_STATUS_UP 0

/-- Whether an Ascent has not reached the stack at site `x`: its entry is untouched and its training not under way. -/
def Ascent.unreached (a : Ascent) (x : Nat) : Bool :=
  (a.entries.getD (4 + x) {}).outcome == 3 && !(decide (a.unit < 4) && a.stage == 2 && a.slot == 4 + x)

/-- The stacks that a device reset keeps in self-refresh (R51): with HOLD_HBM the admitted stacks, and during an Ascent those
still held that it has not reached. -/
def State.heldStacks (s : State) (hold : Bool) : Nat :=
  if !hold then 0
  else
    match s.ascent with
    | none => s.hbmStacks
    | some a =>
      (List.range 16).foldl (fun m x =>
        if bitOf s.hbmStacks x || (bitOf s.selfRefresh x && a.unreached x) then withBit m x else m) 0

/-- PRESERVED after a reset that keeps the stacks of `held` (R51): set for the admitted stacks, and for the others only where it still
was. -/
def State.preserved (s : State) (held : Nat) : Nat := held &&& (s.hbmStacks ||| s.fld CTL_HBM_PRESERVED_PRESERVED)

/-- Every queue's handles of an incarnation ended (R49, R131): sequences run on, and the sequences of the new incarnation start
at the next one. -/
def State.newIncarnation (s : State) : State :=
  let inc := s.fld CTL_INCARNATION_INCARNATION
  let s := s.setFld CTL_INCARNATION_INCARNATION (if inc = 0xFFFF then 1 else inc + 1)
  (List.range 256).foldl (fun s q =>
    if (smapFind s.queues q).isNone then s
    else
      let qs := s.queue q
      s.setQueue q { qs with firstSeq := (qs.firstSeq + qs.seqs) % 2 ^ 32, seqs := 0, lastRecord := none }) s

/-- The handles of an incarnation that ends with the host link (R49): no record; one INCARNATION_END per queue not DISABLED, in
ascending order. -/
def State.lostHandles (s : State) : State :=
  let inc := s.fld CTL_INCARNATION_INCARNATION
  let s := { s with cmds := [] }
  (List.range 256).foldl (fun s q =>
    if s.fld (HST_Q_STATUS_STATE q) = 0 then s
    else
      let qs := s.queue q
      let (none', last) := match qs.lastRecord with
        | some l => (0, l)
        | none => (1, (qs.firstSeq + 2 ^ 32 - 1) % 2 ^ 32)
      let s := s.event 0x7400 EV_INCARNATION_END noDomain (leBytes 2 inc ++ leBytes 1 q ++ leBytes 1 none' ++ leBytes 4 last)
      let s := s.setFld (HST_Q_STATUS_OUTSTANDING q) 0
      if s.fld (HST_Q_STATUS_STATE q) = 2 then s.setFld (HST_Q_STATUS_STATE q) 0 else s) s

/-- Cause bits added to CTL_RESET_CAUSE (R54). -/
def State.addCause (s : State) (bits : Nat) : State :=
  s.setReg CTL_RESET_CAUSE (s.reg CTL_RESET_CAUSE ||| word bits)

/-- Rails enabled at the outputs (R485). -/
def State.setRails (s : State) (en : Nat) : State :=
  { s with outs := { s.outs with railEn := en }, railPg := s.railPg &&& en }

/-- The set point of core rail `r` at step `n` (mV, R431, Table PWR-1, Table PHY-2): a compute die's nominal voltage and its own offset; for a
link die's rail 700 to 850 mV and for the host die's 700 to 900 mV, which of them the spec leaves open. -/
def State.setPoint (s : State) (r n : Nat) : Nat :=
  if r < 4 then ((850 : Int) - 15 * n + (smapFind s.power.offsets r).getD 0).toNat
  else if r < 8 then 700 + Config.coreVolts r n % 151
  else 700 + Config.coreVolts r n % 201

/-- The set point of core rail `r` at step `n` sent over AVSBus (R431, R485). -/
def State.sendPoint (s : State) (r n : Nat) : State := { s with outs := { s.outs with avs := smapIns s.outs.avs r (s.setPoint r n) } }

/-- The set points of a step sent to the core rails that are enabled, and to the host die's (R452). -/
def State.sendPoints (s : State) (n : Nat) : State :=
  ((List.range 9).filter (fun r => r == 8 || bitOf s.outs.railEn r)).foldl (fun s r => s.sendPoint r n) s

/-- A compute die's own offset is measured (R431), a value within ±40 mV that the spec leaves open, and the rail set with it. -/
def State.measureOffset (s : State) (k : Nat) : State :=
  let (x, s) := s.freshWord
  ({ s with power := { s.power with offsets := smapIns s.power.offsets k ((x.toNat % 81 : Nat) - 40 : Int) } }).sendPoint k s.power.volts

/-- The rail of a unit: compute die d is rail d, link die n rail 4 + n (Table PWR-6). -/
def Ascent.rail (a : Ascent) : Nat := a.unit

/-- The POWER stage of a unit enables its rail once the rails before it are good (R487): rail 9's two supplies for the compute
dies, rail 12 besides for the link dies; its own rail is set to the voltage of F15 first. -/
def State.enableRails (s : State) (a : Ascent) : State :=
  let on (r : Nat) := bitOf s.railPg r
  if a.unit ≥ 8 then s
  else if !on 9 then s.setRails (withBit s.outs.railEn 9)
  else if !on 14 then s.setRails (withBit s.outs.railEn 14)
  else if a.unit ≥ 4 && !on 12 then s.setRails (withBit s.outs.railEn 12)
  else (s.sendPoint a.rail 15).setRails (withBit s.outs.railEn a.rail)

/-- Ascent begins (R34, R35, R38): mode ASCENT, the first compute die at its POWER stage, and the first rail of it that is not good enabled
(R487): rail 9's VDDC_HBM, or after a reset that held HBM the die's own. -/
def State.startAscent (s : State) : State :=
  let s := { s with attempts := s.attempts + 1, retryPending := false, dies := 0, links := 0, hbmStacks := 0 }
  let s := s.setMode 2 0
  let s := s.setFld CTL_MODE_STAGE 1
  let s := s.setFld CTL_MODE_UNIT_KIND 1
  let a : Ascent := { unit := 0, stage := 1, start := s.now, since := s.localNs, entries := freshEntries s.part }
  { s with ascent := some a }.enableRails a

/-- On entering Tethered the module begins Ascent by itself under AUTO_ASCENT, unless the start limit is reached (R35, R45). -/
def State.autoAscent (s : State) : State :=
  if s.phase = .running ∧ s.foundation.autoAscent = true ∧ s.fld CTL_START_COUNT_EXHAUSTED = 0 then s.startAscent else s

/-- The handles of the incarnation end with ABORTED_RESET (R49), their counter blocks those of a command that never started (R472), or
without records when the host link is lost. -/
def State.abortHandles (s : State) (linkUp : Bool) : State :=
  if linkUp then
    { s with cmds := s.cmds.map (fun (p : Pending) => if p.done.isSome then p else { p with started := false, counters := [] }) }.finishAll (fun _ => true)
      (fun _ => { status := ST_ABORTED_RESET })
  else s.lostHandles

/-- HBM, the scratchpads and the rails at a device reset (R51, R487): the stacks of `held` stay in self-refresh, and no retry of an earlier
start is pending (R35). -/
def State.dropDies (s : State) (held : Nat) (hold : Bool) : State :=
  let set := if s.hbmStacks = 0 then s.hbmSet else s.hbmStacks
  let prev := if s.hbmMap.regions = [] then s.hbmPrev else s.hbmMap
  let bits := s.preserved held
  let s := s.clearDies
  let s := { s with hbmStacks := 0, selfRefresh := held, hbmSet := set, ascent := none, retryPending := false, haltCold := false,
                    hbmMap := {}, hbmPrev := prev }
  let s := (s.setFld CTL_HBM_PRESERVED_PRESERVED bits).showStacks held 2
  let s := if hold then s else s.scramble hbmBase hbmSpan
  let s := (s.scramble padBase (384 * 0x40_0000)).kvpOff
  s.setRails (keptRails hold s.outs.railEn)

/-- The CTL_RESET_CAUSE bits of a device reset: leaving Halted adds HALT_EXIT (R54). -/
def State.resetBits (s : State) (causes : Nat) : Nat := if s.mode = 0xF then setBits causes 6 1 1 else causes

/-- The module is in Tethered, by a reset with these cause bits (R55). -/
def State.toTethered (s : State) (causes : Nat) : State := if s.mode = 1 then s else s.setMode 1 causes

/-- The dies device-reset in a Halted that only a cold reset ends (R33, R50): the module stays in Halted, with cause bits added. DEDUCED. -/
def State.resetHalted (s : State) (causes : Nat) : State :=
  { (((((s.abortHandles false).newIncarnation).endImage).dropDies 0 false).addCause causes) with haltCold := true }

/-- A device reset (R49, R50, R51): handles end with ABORTED_RESET, or without records when the host link is lost; HBM is held
or lost; the dies clear; the incarnation rises; the module is in Tethered. `causes` are the CTL_RESET_CAUSE bits. -/
def State.deviceReset (s : State) (causes : Nat) (hold linkUp : Bool) : State :=
  ((((((s.abortHandles linkUp).newIncarnation).endImage).dropDies (s.heldStacks hold) hold).addCause
    (s.resetBits causes)).toTethered (s.resetBits causes))

/-! ## Cold reset (R48, R490) -/

/-- What a cold reset leaves (R48, R54): the part, its flash, the straps' last sample, the facility port's field side, the start counts and reset causes unless
power was lost; everything else at reset values and all memory unpredictable. -/
def State.coldReset (s : State) (powerOn : Bool) (causes : Nat) : State :=
  let z : State := { State.reset with
    phase := .coldReset, pwrgood := s.pwrgood, rstN := s.rstN, part := s.part, board := s.board, foundation := s.foundation,
    security := { s.security with
      nonce := none, grant := none, transfers := [], sensors := [] },
    facility := { holding := s.facility.holding, relayed := s.facility.relayed, supply := s.facility.supply, errors := s.facility.errors,
                  major := s.facility.major, minor := s.facility.minor },
    coldCause := causes, attempts := if powerOn then 0 else s.attempts, fresh := s.fresh + 1, pending := s.pending }
  let z := { z with mem := { cells := [], back := [⟨0xF000_0000_0000, 0x1_0000_0000, .zero⟩, ⟨0, 2 ^ 48, .free s.fresh⟩] } }
  let z := z.setFld PWR_CAP_CAP_W s.part.tdp
  if powerOn then z
  else
    let z := z.setReg CTL_RESET_CAUSE (s.reg CTL_RESET_CAUSE ||| word causes)
    z.setReg CTL_START_COUNT (s.reg CTL_START_COUNT)

end Sys2Proof.Machine
end

