-- ==== Sys2Proof/Machine/Boot.lean ====
section
/-!
DEFINITION. The boot ROM (chapter 21): verification of the images in flash, the choice of slots, and the settings that the
foundation image carries (chapter 02).
-/
namespace Sys2Proof.Machine

/-- VERSION of an image (Table SEC-3). -/
def imageVersion (bs : Bytes) : Nat := fieldAt bs 8 4

/-- The body of an image. -/
def imageBody (bs : Bytes) : Bytes := takeAt bs 192 (fieldAt bs 12 4)

/-- Header and layout of an image of a KIND (Table SEC-3): magic, kind, format, reserved bytes zero, length within the bytes and
within the slot. -/
def imageLayoutOk (kind : Nat) (bs : Bytes) : Bool :=
  fieldAt bs 0 4 == 0x4658444C && fieldAt bs 4 1 == kind && fieldAt bs 5 1 == 1 && fieldAt bs 6 2 == 0 &&
    allZero (takeAt bs 24 40) && decide (192 ≤ bs.length) && decide (fieldAt bs 12 4 + 192 ≤ bs.length) &&
    decide (bs.length ≤ (if kind = 1 then 63 * 2 ^ 20 else 512 * 2 ^ 10))

/-- DIGEST of an image: SHA-512 over bytes 0–63 and the body (Table SEC-3). -/
def imageDigestOk (bs : Bytes) : Bool := sha512 (takeAt bs 0 64 ++ imageBody bs) == takeAt bs 64 64

/-- The keys that may sign an image of a KIND (R457): the vendor key; for a platform block the owner key once enrolled. -/
def imageKey (kind : Nat) (owner : Option Bytes) : Bytes :=
  if kind = 1 then Config.vendorKey else owner.getD Config.vendorKey

/-- SIGNATURE of an image against the key that KEY_ID names (R458). -/
def imageSignatureOk (kind : Nat) (owner : Option Bytes) (bs : Bytes) : Bool :=
  let key := imageKey kind owner
  fieldAt bs 16 8 == keyId key && Config.ed25519Verify key (takeAt bs 64 64) (takeAt bs 128 64)

/-- The settings of a vendor image and of a platform block: the shipped ones hold the defaults of the spec. -/
def vendorOf (bs : Bytes) : VendorSettings := if bs = Config.shippedVendor then {} else Config.vendorSettings (imageBody bs)
def platformOf (bs : Bytes) : PlatformSettings := if bs = Config.shippedPlatform then {} else Config.platformSettings (imageBody bs)

/-- Whether two areas of host DDR overlap. -/
def overlaps (a n b m : Nat) : Bool := decide (a < b + m) && decide (b < a + n)

/-- Whether the settings of a vendor image lie in their ranges, host DDR ending at `top`: the tick (Table STR-5), and the reserved areas
(R92, R418), each within host DDR and aligned as its base register shows it. -/
def vendorOk (top : Nat) (v : VendorSettings) : Bool :=
  let ring := 64 * 2 ^ v.errRingLog2
  decide (10 ≤ v.tickUs ∧ v.tickUs ≤ 400 ∧ v.tickUs % 10 = 0) && decide (v.tickOverrun ≤ 1) &&
    decide (8 ≤ v.errRingLog2 ∧ v.errRingLog2 ≤ 16) && decide (v.errRingBelow < top) && decide ((top - v.errRingBelow) % 4096 = 0) &&
    decide (ring ≤ v.errRingBelow) &&
    decide (v.stageBelow ≤ top ∧ (top - v.stageBelow) % 2 ^ 21 = 0 ∧ 2 ^ 28 ≤ v.stageBelow) &&
    decide (v.errAreaBelow ≤ top ∧ (top - v.errAreaBelow) % 2 ^ 21 = 0 ∧ v.errAreaMib * 2 ^ 20 ≤ v.errAreaBelow ∧ v.errAreaMib < 2 ^ 16) &&
    !(overlaps (top - v.errRingBelow) ring (top - v.stageBelow) (2 ^ 28)) &&
    !(overlaps (top - v.errRingBelow) ring (top - v.errAreaBelow) (v.errAreaMib * 2 ^ 20)) &&
    !(overlaps (top - v.stageBelow) (2 ^ 28) (top - v.errAreaBelow) (v.errAreaMib * 2 ^ 20))

/-- Whether the ports of lane group `g` of link die `n` are one of the configurations of Table LIN-1: none, two 800G ports, or one 1.6T
port with the odd port unused. -/
def groupOk (ports : List PortCfg) (n g : Nat) : Bool :=
  let p (i : Nat) : PortCfg := ports.getD (12 * n + 2 * g + i) {}
  let used (i : Nat) : Bool := decide ((p i).pmd ≤ 2 ∧ (p i).firstLane = 4 * (2 * g + i) ∧ (p i).mac < 2 ^ 48)
  ((p 0).speed == 0 && (p 1).speed == 0) || ((p 0).speed == 1 && (p 1).speed == 1 && used 0 && used 1) ||
    ((p 0).speed == 2 && (p 1).speed == 0 && used 0)

/-- Whether the settings of a platform block lie in their ranges: the start policy (Table MOD-4), the line ports (Table LIN-1), and the
fields that Tables LIN-7, HST-9 and PWR-8 show. -/
def platformOk (p : PlatformSettings) : Bool :=
  decide (1 ≤ p.startLimit ∧ p.startLimit ≤ 7) && decide (1 ≤ p.retryDelay ∧ p.retryDelay ≤ 60) &&
    decide (2 ≤ p.minComputeDies ∧ p.minComputeDies ≤ 4) && decide (p.minLinkDies ≤ 4) &&
    decide (4 ≤ p.minStacks ∧ p.minStacks ≤ 16) && decide (p.maxTileHoles ≤ 8) &&
    (p.peers.isEmpty || decide (p.ownRank < p.peers.length)) && decide (p.peers.length < 2 ^ 16) &&
    (p.ports.isEmpty || (List.range 24).all (fun i => groupOk p.ports (i / 6) (i % 6))) &&
    decide (p.udpPort < 2 ^ 16 ∧ p.dscp < 2 ^ 6 ∧ 5 ≤ p.peerTimeoutMs ∧ p.peerTimeoutMs ≤ 1000 ∧ p.payloadMax ≤ 2) &&
    decide (p.bifurcation < 2 ^ 8) && decide (80 ≤ p.throttleC ∧ p.throttleC ≤ 100) && decide (p.leakAction ≤ 2) &&
    decide (2 ≤ p.facTimeout ∧ p.facTimeout ≤ 60)

/-- Whether the settings of an image of a KIND lie in their ranges: a value outside its range makes the image fail verification (R37,
R418). -/
def imageSettingsOk (top kind : Nat) (bs : Bytes) : Bool :=
  if kind = 1 then vendorOk top (vendorOf bs) else platformOk (platformOf bs)

/-- Whether an image verifies (R37, R458), host DDR ending at `top`. -/
def imageVerifies (top kind : Nat) (owner : Option Bytes) (bs : Bytes) : Bool :=
  imageLayoutOk kind bs && imageDigestOk bs && imageSignatureOk kind owner bs && imageSettingsOk top kind bs

/-- The bytes a slot shows to the boot ROM: none for an erased slot. -/
def slotOk (top kind : Nat) (owner : Option Bytes) (floor : Nat) (x : FlashSlot) : Bool :=
  imageVerifies top kind owner x.bytes && decide (floor ≤ imageVersion x.bytes) && decide (x.marks < 2)

/-- The slot the boot ROM chooses among A and B (R459): by VERSION descending, A first on a tie, A alone when BOOT_SRC forces it;
`some true` is B. -/
def chooseSlot (top kind : Nat) (owner : Option Bytes) (floor : Nat) (forceA : Bool) (a b : FlashSlot) : Option Bool :=
  let okA := slotOk top kind owner floor a
  let okB := !forceA && slotOk top kind owner floor b
  if okA && okB then some (decide (imageVersion a.bytes < imageVersion b.bytes))
  else if okA then some false
  else if okB then some true
  else none

/-- A try mark added to a slot (R459). -/
def addMark (x : FlashSlot) : FlashSlot := { x with marks := x.marks + 1 }

/-- The slot chosen for a KIND gets its try mark (R459): `some true` is B. -/
def Security.marked (c : Security) (kind : Nat) (b : Option Bool) : Security :=
  match kind, b with
  | _, none => c
  | 1, some false => { c with vendorA := addMark c.vendorA }
  | 1, some true => { c with vendorB := addMark c.vendorB }
  | _, some false => { c with platformA := addMark c.platformA }
  | _, some true => { c with platformB := addMark c.platformB }

/-- The boot ROM runs with slot A forced for the vendor image or the platform block (R459): a slot of each KIND is chosen and marked, and
the module boots, or stays in recovery for want of one. -/
def State.bootWith (s : State) (forceV forceP : Bool) : State :=
  let c := { s.security with updates := [] }
  let v := chooseSlot s.ddrSize 1 c.owner c.floorVendor forceV c.vendorA c.vendorB
  let p := chooseSlot s.ddrSize 2 c.owner c.floorPlatform forceP c.platformA c.platformB
  let s := { s with security := (c.marked 1 v).marked 2 p }
  match v, p with
  | some v, some p =>
    let vb := if v then c.vendorB.bytes else c.vendorA.bytes
    let pb := if p then c.platformB.bytes else c.platformA.bytes
    let f : Foundation := { toVendorSettings := vendorOf vb, toPlatformSettings := platformOf pb }
    { s with security := { s.security with vendorSlotB := v, platformSlotB := p }, foundation := f, phase := .booting }
  | _, _ => { s with phase := .recovery }

/-- The boot ROM runs under the sampled BOOT_SRC (R459); a replaced owner key takes effect (R462). A failed PUF reconstruction leaves it in
recovery with a FATAL record (R463). -/
def State.bootRom (s : State) (pufOk : Bool) : State :=
  let c := s.security
  let s := { s with security := { c with pufFailed := !pufOk, owner := c.ownerNext.orElse (fun _ => c.owner), ownerNext := none } }
  if !pufOk then ({ s with phase := .recovery }).logRecord 0xA000 3 0 { code := ST_PUF_FAILURE }
  else if s.security.bootSrc ≥ 2 then { s with phase := .recovery }
  else s.bootWith (s.security.bootSrc == 1) (s.security.bootSrc == 1)

/-- The bytes of the images that run. -/
def Security.vendor (c : Security) : Bytes := if c.vendorSlotB then c.vendorB.bytes else c.vendorA.bytes
def Security.platform (c : Security) : Bytes := if c.platformSlotB then c.platformB.bytes else c.platformA.bytes

/-- The slot of a KIND that runs: whether it is B. -/
def Security.slotB (c : Security) (kind : Nat) : Bool := if kind = 1 then c.vendorSlotB else c.platformSlotB

/-- Pending floor records whose image runs take effect: a floor is never lowered (R461). -/
def raiseFloors (c : Security) : List (Nat × Nat × Bool) → Security
  | [] => c
  | (kind, v, slotB) :: rest =>
    raiseFloors (if c.slotB kind ≠ slotB then { c with pendingFloor := (kind, v, slotB) :: c.pendingFloor }
      else if kind = 1 then { c with floorVendor := max c.floorVendor v }
      else { c with floorPlatform := max c.floorPlatform v }) rest

/-- At Tethered the images that run clear their try marks, pending floor records of their KINDs are written (R459, R461), and
event FOUNDATION_UPDATED names the VERSIONs of each update whose image reaches Tethered for the first time, and of each KIND that runs
another VERSION than before (Table SEC-8). -/
def State.imagesReached (s : State) : State :=
  let c := s.security
  let v := imageVersion c.vendor
  let p := imageVersion c.platform
  let c := { (raiseFloors { c with pendingFloor := [] } c.pendingFloor) with
    vendorA := if c.vendorSlotB then c.vendorA else { c.vendorA with marks := 0 },
    vendorB := if c.vendorSlotB then { c.vendorB with marks := 0 } else c.vendorB,
    platformA := if c.platformSlotB then c.platformA else { c.platformA with marks := 0 },
    platformB := if c.platformSlotB then { c.platformB with marks := 0 } else c.platformB }
  let ev (s : State) (kind old new : Nat) : State :=
    if !(c.untried.contains (kind, c.slotB kind)) && (old == 0 || old == new) then s
    else s.event 0xA000 EV_FOUNDATION_UPDATED noDomain (leBytes 1 kind ++ zeros 3 ++ leBytes 4 old ++ leBytes 4 new)
  let s := ev (ev s 1 c.lastVendor v) 2 c.lastPlatform p
  { s with security := { c with lastVendor := v, lastPlatform := p, untried := c.untried.filter (fun x => x.2 != c.slotB x.1) } }

end Sys2Proof.Machine
end

