-- ==== Sys2Proof/Machine/Codec.lean ====
section
/-!
DEFINITION. The lossless codecs (R301 to R305): the code table of a part, exponent and base-plus-delta substreams, encoding and
decoding of a part.
-/
namespace Sys2Proof.Machine

/-- How a type's words split (R302): word bytes, lowest exponent bit, exponent bits. -/
structure Split where
  bytes : Nat
  lo : Nat
  width : Nat
deriving DecidableEq, Repr

/-- The types with an exponent field to code (R302). -/
def splitOf (ty : Nat) : Option Split :=
  match ty with
  | 0 => some ⟨4, 23, 8⟩
  | 1 => some ⟨2, 7, 8⟩
  | 2 => some ⟨2, 10, 5⟩
  | 3 => some ⟨1, 3, 4⟩
  | 4 => some ⟨1, 2, 5⟩
  | _ => none

/-- A substream's raw bytes. -/
def subBytes : Nat := 4096

/-- The exponent of a word, and its sign and mantissa with the sign highest (R302). -/
def Split.exp (p : Split) (w : Nat) : Nat := bitsOf w p.lo p.width
def Split.rest (p : Split) (w : Nat) : Nat := w % 2 ^ p.lo + bitsOf w (p.lo + p.width) 1 * 2 ^ p.lo
/-- The bits of the fields of one element. -/
def Split.restBits (p : Split) : Nat := p.lo + 1
/-- The word with this exponent and these fields. -/
def Split.word (p : Split) (e r : Nat) : Nat := r % 2 ^ p.lo + e * 2 ^ p.lo + r / 2 ^ p.lo * 2 ^ (p.lo + p.width)

/-- The words of raw bytes. -/
def wordsOf (n : Nat) (bs : Bytes) : List Nat := (List.range (bs.length / n)).map (fun i => fieldAt bs (i * n) n)
/-- The bytes of words. -/
def bytesOf (n : Nat) : List Nat → Bytes
  | [] => []
  | w :: ws => leBytes n w ++ bytesOf n ws

/-- Words XORed with the words at the same offsets of a base (R304). -/
def xorWords : List Nat → List Nat → List Nat
  | a :: as, b :: bs => (a ^^^ b) :: xorWords as bs
  | as, _ => as

/-! ## The code table (R303) -/

/-- The symbol of ESC. -/
def escSym : Nat := 256

/-- How often each value occurs. -/
def countsOf (vs : List Nat) : SMap Nat := vs.foldl (fun m v => smapIns m v ((smapFind m v).getD 0 + 1)) []

/-- A (value, count) pair inserted by descending count, the lower value first on a tie. -/
def insertCount (x : Nat × Nat) : List (Nat × Nat) → List (Nat × Nat)
  | [] => [x]
  | y :: ys => if y.2 < x.2 ∨ (y.2 = x.2 ∧ x.1 < y.1) then x :: y :: ys else y :: insertCount x ys

/-- The weights of a part (R303, steps 1 and 2): the 31 most frequent exponents, and ESC with the count of the others, or 1. -/
def weightsOf (exps : List Nat) : List (Nat × Nat) :=
  let sorted := (countsOf exps).foldr insertCount []
  sorted.take 31 ++ [(escSym, max 1 ((sorted.drop 31).map (·.2)).sum)]

/-- A tree of the Huffman construction: its weight, its lowest symbol, and its symbols with their lengths. -/
structure Huff where
  weight : Nat
  sym : Nat
  leaves : List (Nat × Nat)

/-- A tree inserted by ascending weight, the lower symbol first on a tie (R303, step 3). -/
def insertHuff (x : Huff) : List Huff → List Huff
  | [] => [x]
  | y :: ys => if x.weight < y.weight ∨ (x.weight = y.weight ∧ x.sym < y.sym) then x :: y :: ys else y :: insertHuff x ys

/-- The two smallest trees merged. -/
def mergeHuff (a b : Huff) : Huff :=
  ⟨a.weight + b.weight, min a.sym b.sym, (a.leaves ++ b.leaves).map (fun l => (l.1, l.2 + 1))⟩

/-- The trees merged to one; the number is a bound on the merges left. -/
def huffTree : Nat → List Huff → List (Nat × Nat)
  | n + 1, a :: b :: rest => huffTree n (insertHuff (mergeHuff a b) rest)
  | _, a :: _ => a.leaves
  | _, [] => []

/-- The Huffman lengths of weights. -/
def lengthsOf (ws : List (Nat × Nat)) : List (Nat × Nat) :=
  huffTree ws.length ((ws.map (fun w => Huff.mk w.2 w.1 [(w.1, 0)])).foldr insertHuff [])

/-- The lengths with none above 12 (R303, step 4): the counts are halved, rounding up, until it is so. -/
def lengths12 : Nat → List (Nat × Nat) → List (Nat × Nat)
  | 0, ws => lengthsOf ws
  | n + 1, ws =>
    let ls := lengthsOf ws
    if ls.any (fun l => decide (12 < l.2)) then lengths12 n (ws.map (fun w => (w.1, (w.2 + 1) / 2))) else ls

/-- A (symbol, length) pair inserted by ascending (length, symbol); ESC, the highest symbol, comes last of its length. -/
def insertLen (x : Nat × Nat) : List (Nat × Nat) → List (Nat × Nat)
  | [] => [x]
  | y :: ys => if x.2 < y.2 ∨ (x.2 = y.2 ∧ x.1 < y.1) then x :: y :: ys else y :: insertLen x ys

/-- One code: symbol, length, codeword. -/
structure Code where
  sym : Nat
  len : Nat
  bits : Nat
deriving DecidableEq, Repr

/-- Canonical codes of sorted lengths (R303, step 5), from the next free codeword at length `len`. -/
def canonical (len next : Nat) : List (Nat × Nat) → List Code
  | [] => []
  | (s, l) :: rest =>
    let c := next * 2 ^ (l - len)
    ⟨s, l, c⟩ :: canonical l (c + 1) rest

/-- The codes of (symbol, length) pairs. -/
def codesOf (ls : List (Nat × Nat)) : List Code := canonical 0 0 (ls.foldr insertLen [])

/-- The codes of a part with these sampled exponents. -/
def partCodes (exps : List Nat) : List Code := codesOf (lengths12 64 (weightsOf exps))

/-- Whether codes form a valid prefix code: no length above 12, each symbol once, and no codeword past its length. -/
def codesOk (cs : List Code) : Bool :=
  cs.all (fun c => decide (1 ≤ c.len ∧ c.len ≤ 12) && decide (c.bits < 2 ^ c.len) &&
    (cs.filter (fun x => x.sym == c.sym)).length == 1)

/-- The 64 bytes of a code table (Table STH-4). -/
def tableBytes (cs : List Code) : Bytes :=
  padTo 64 (cs.flatMap (fun c => if c.sym = escSym then leBytes 1 0 ++ leBytes 1 (c.len + 16) else leBytes 1 c.sym ++ leBytes 1 c.len))

/-- The (symbol, length) pairs of a code table. -/
def tableLengths (bs : Bytes) : List (Nat × Nat) :=
  ((List.range 32).map (fun i =>
    let b := fieldAt bs (2 * i + 1) 1
    (if bitOf b 4 then escSym else fieldAt bs (2 * i) 1, bitsOf b 0 4))).filter (fun e => e.2 != 0)

/-! ## Bitstreams (R302) -/

/-- The low `n` bits of `v`, least significant first. -/
def bitsUp (v : Nat) : Nat → List Bool
  | 0 => []
  | n + 1 => (v % 2 == 1) :: bitsUp (v / 2) n

/-- A codeword, most significant bit first. -/
def bitsDown (v n : Nat) : List Bool := (bitsUp v n).reverse

/-- The number of a bit list, first bit least significant. -/
def bitsNat : List Bool → Nat
  | [] => 0
  | b :: bs => (if b then 1 else 0) + 2 * bitsNat bs

/-- Bits packed from bit 0 of each byte upwards, padded to a whole byte. -/
def packBits (bs : List Bool) : Bytes := leBytes ((bs.length + 7) / 8) (bitsNat bs)

/-- The bits of bytes. -/
def unpackBits (bs : Bytes) : List Bool := bs.flatMap (fun b => bitsUp b.toNat 8)

/-- The bits of one exponent: its codeword, or ESC and the raw exponent. -/
def expBits (cs : List Code) (width e : Nat) : List Bool :=
  match cs.find? (fun c => c.sym == e) with
  | some c => bitsDown c.bits c.len
  | none =>
    match cs.find? (fun c => c.sym == escSym) with
    | some c => bitsDown c.bits c.len ++ bitsUp e width
    | none => []

/-- The exponent bitstream and the fields stream of coded words. -/
def codeWords (cs : List Code) (p : Split) (ws : List Nat) : Bytes × Bytes :=
  (packBits (ws.flatMap (fun w => expBits cs p.width (p.exp w))), packBits (ws.flatMap (fun w => bitsUp (p.rest w) p.restBits)))

/-- One codeword read from a bitstream: the symbol and the rest. -/
def readCode (cs : List Code) : Nat → Nat → List Bool → Option (Nat × List Bool)
  | _, _, [] => none
  | code, len, b :: bs =>
    let code := 2 * code + (if b then 1 else 0)
    match cs.find? (fun c => c.len == len + 1 && c.bits == code) with
    | some c => some (c.sym, bs)
    | none => readCode cs code (len + 1) bs

/-- `n` exponents read from a bitstream; none when it runs past its length. -/
def readExps (cs : List Code) (width : Nat) : Nat → List Bool → Option (List Nat)
  | 0, _ => some []
  | n + 1, bs =>
    match readCode cs 0 0 bs with
    | none => none
    | some (sym, rest) =>
      if sym = escSym then
        if rest.length < width then none
        else (readExps cs width n (rest.drop width)).map (bitsNat (rest.take width) :: ·)
      else (readExps cs width n rest).map (sym :: ·)

/-- `n` words read from an exponent bitstream and a fields stream. -/
def readWords (cs : List Code) (p : Split) (n : Nat) (es fs : Bytes) : Option (List Nat) :=
  match readExps cs p.width n (unpackBits es) with
  | none => none
  | some exps =>
    if fs.length * 8 < n * p.restBits then none
    else
      let v := leNat fs
      some ((List.range n).map (fun i => p.word (exps.getD i 0) (bitsOf v (i * p.restBits) p.restBits)))

/-! ## The run stream (R304) -/

/-- The length of the leading run of zero (`z`) or literal words. -/
def runLen (z : Bool) : List Nat → Nat
  | [] => 0
  | w :: ws => if (w == 0) == z then runLen z ws + 1 else 0

/-- The run stream of words; the first number bounds the runs left. -/
def runStream : Nat → List Nat → Bytes
  | 0, _ => []
  | _, [] => []
  | n + 1, w :: ws =>
    let z := w == 0
    let k := min 128 (runLen z (w :: ws))
    byte (if z then k - 1 else k + 127) :: runStream n ((w :: ws).drop k)

/-- Which words a run stream marks literal. -/
def runMarks (bs : Bytes) : List Bool :=
  bs.flatMap (fun b => if b.toNat < 128 then List.replicate (b.toNat + 1) false else List.replicate (b.toNat - 127) true)

/-- Literal words put back between zero words. -/
def spreadWords : List Bool → List Nat → List Nat
  | [], _ => []
  | false :: ms, ws => 0 :: spreadWords ms ws
  | true :: ms, [] => 0 :: spreadWords ms []
  | true :: ms, w :: ws => w :: spreadWords ms ws

/-! ## Substreams (Table STH-5, R305) -/

/-- SMODE of a substream, and its body with the lengths of its exponent bitstream and run stream. -/
structure Sub where
  mode : Nat
  expLen : Nat := 0
  runLen : Nat := 0
  body : Bytes := []

/-- The bytes of a substream, padded to 16. -/
def Sub.bytes (x : Sub) : Bytes :=
  let bs := leBytes 2 x.body.length ++ leBytes 1 x.mode ++ leBytes 1 0 ++ leBytes 2 x.expLen ++ leBytes 2 x.runLen ++ x.body
  padTo ((bs.length + 15) / 16 * 16) bs

/-- What the encoder writes for one substream (R305); `base` are the base's bytes in DELTA mode. -/
def encodeSub (ty mode : Nat) (cs : List Code) (raw base : Bytes) : Sub :=
  if allZero raw then { mode := 3 }
  else
    match splitOf ty with
    | none => { mode := 0, body := raw }
    | some p =>
      let ws := wordsOf p.bytes raw
      let x :=
        if mode = 1 then
          let (es, fs) := codeWords cs p ws
          Sub.mk 1 es.length 0 (es ++ fs)
        else
          let ds := xorWords ws (wordsOf p.bytes base)
          let rs := runStream ds.length ds
          let (es, fs) := codeWords cs p (ds.filter (· != 0))
          Sub.mk 2 es.length rs.length (rs ++ es ++ fs)
      if x.body.length < subBytes then x else { mode := 0, body := raw }

/-- Bytes cut into substreams. -/
def subsOf (bs : Bytes) : List Bytes := (List.range (bs.length / subBytes)).map (fun i => takeAt bs (i * subBytes) subBytes)

/-- The exponents that the code table of a part is built from (R303, R304). -/
def sampleExps (ty mode : Nat) (raw base : Bytes) : List Nat :=
  match splitOf ty with
  | none => []
  | some p =>
    let n := min (64 * subBytes) raw.length
    let ws := wordsOf p.bytes (raw.take n)
    (if mode = 1 then ws else xorWords ws (wordsOf p.bytes (base.take n))).map p.exp

/-- The index of substreams: their offsets in 16-byte units from `at'`. -/
def indexOf (at' : Nat) : List Bytes → Bytes
  | [] => []
  | b :: bs => leBytes 4 (at' / 16) ++ indexOf (at' + b.length) bs

/-- A part encoded (R301), and how many substreams of each SMODE it holds. -/
def encodePart (ty mode : Nat) (raw base : Bytes) : Bytes × List Nat :=
  let cs := if (splitOf ty).isSome then partCodes (sampleExps ty mode raw base) else []
  let rs := subsOf raw
  let xs := (List.range rs.length).map (fun i => encodeSub ty mode cs (rs.getD i []) (takeAt base (i * subBytes) subBytes))
  let bodies := xs.map Sub.bytes
  let s := rs.length
  let start := 128 + (4 * s + 15) / 16 * 16
  let total := start + (bodies.map List.length).sum
  (leBytes 4 0x4358444C ++ leBytes 1 1 ++ leBytes 1 mode ++ leBytes 1 ty ++ zeros 1 ++ leBytes 4 s ++ zeros 4 ++
      leBytes 8 (subBytes * s) ++ leBytes 8 total ++ zeros 32 ++ tableBytes cs ++
      padTo (start - 128) (indexOf start bodies) ++ bodies.flatten,
    (List.range 4).map (fun m => (xs.filter (fun x => x.mode == m)).length))

/-- One substream decoded (R305); none when it is corrupt. -/
def decodeSub (ty : Nat) (cs : List Code) (part base : Bytes) (stored at' : Nat) : Option Bytes :=
  if stored < at' + 8 then none
  else
    let n := fieldAt part at' 2
    let mode := fieldAt part (at' + 2) 1
    let el := fieldAt part (at' + 4) 2
    let rl := fieldAt part (at' + 6) 2
    if stored < at' + 8 + n then none
    else
      let body := takeAt part (at' + 8) n
      match mode, splitOf ty with
      | 3, _ => some (zeros subBytes)
      | 0, _ => if n = subBytes then some body else none
      | 1, some p =>
        if n < el ∨ codesOk cs = false then none
        else (readWords cs p (subBytes / p.bytes) (body.take el) (body.drop el)).map (bytesOf p.bytes)
      | 2, some p =>
        let marks := runMarks (body.take rl)
        if n < rl + el ∨ codesOk cs = false ∨ marks.length ≠ subBytes / p.bytes then none
        else
          (readWords cs p (marks.filter id).length ((body.drop rl).take el) (body.drop (rl + el))).map (fun ws =>
            bytesOf p.bytes (xorWords (spreadWords marks ws) (wordsOf p.bytes base)))
      | _, _ => none

/-- Whether a part's header is one the decoder knows (R305). -/
def headerOk (part : Bytes) : Bool := fieldAt part 0 4 == 0x4358444C && fieldAt part 4 1 == 1

/-- Substream `i` of a coded part decoded: none when it is corrupt; `base` is the whole base in DELTA mode. -/
def decodeAt (part base : Bytes) (i : Nat) : Option Bytes :=
  if headerOk part = false ∨ fieldAt part 8 4 ≤ i then none
  else
    decodeSub (fieldAt part 6 1) (codesOf (tableLengths (takeAt part 64 64))) part (takeAt base (i * subBytes) subBytes)
      (fieldAt part 24 8) (16 * fieldAt part (128 + 4 * i) 4)

/-- The most a coded part of `s` substreams takes (R301). -/
def codedMax (s : Nat) : Nat := 128 + (4 * s + 15) / 16 * 16 + 4112 * s

end Sys2Proof.Machine
end

