-- ==== Sys2Proof/Machine/Lines.lean ====
section
/-!
DEFINITION. Line ports, peers and Zwine's reliable delivery (R345 to R356, R371).
-/
namespace Sys2Proof.Config

/-- The payload of a frame whose layout the spec does not give (Tables LIN-3, R355, R351, R361, R397 to R407, R437), and the 12 bytes of
its TAG, which are "per TYPE" and given for COLL_DATA alone. -/
opaque framePayload (b : Body) : Bytes
opaque frameTag (b : Body) : Bytes

/-- A domain record in bytes, whose layout R392 leaves open. -/
opaque recordBytes (r : Machine.DomRecord) : Bytes

end Sys2Proof.Config

namespace Sys2Proof.Machine

/-! ## Ports (R347) -/

/-- Port `p` of link die `n` as the foundation image sets it; the shipped image: two 800G ports in every group, C2M. -/
def State.portCfg (s : State) (n p : Nat) : PortCfg :=
  if s.foundation.ports = [] then ⟨1, 2, 4 * p, Config.mac n p⟩ else s.foundation.ports.getD (12 * n + p) {}

/-- Whether link die `n` is in its LINE stage (R42). -/
def State.inLine (s : State) (n : Nat) : Bool :=
  s.inMode 2 && s.ascent.any (fun a => a.unit == 4 + n && a.stage == 6)

/-- Whether link die `n` carries line traffic: admitted, or in its LINE stage. -/
def State.lineDie (s : State) (n : Nat) : Bool := bitOf s.links n || s.inLine n

/-- Whether port `p` of link die `n` is configured, on a die that carries line traffic. -/
def State.portThere (s : State) (n p : Nat) : Bool :=
  (s.aloft || s.inMode 2) && s.lineDie n && (s.portCfg n p).speed != 0

/-- The lanes of a mask that belong to a port: eight of a 1.6T port, four of an 800G port, none of an unused one (R345). -/
def State.laneMask (s : State) (n p m : Nat) : Nat :=
  if (s.portCfg n p).speed = 2 then m % 256 else if (s.portCfg n p).speed = 1 then m % 16 else 0

/-- The highest Zwine minor supported (`LNK_ZWINE_CFG`.MAX_MINOR). -/
def zwineMinor : Nat := 2

/-- Whether a link die has a port up. -/
def State.lineUp (s : State) (n : Nat) : Bool := s.lineDie n && s.fld (LNK_STATUS_PORTS_UP n) != 0

/-- A port shown up or down. -/
def State.showPort (s : State) (n p : Nat) (up : Bool) : State :=
  let m := s.fld (LNK_STATUS_PORTS_UP n)
  (s.setFld (LNK_STATUS_PORTS_UP n) (if up then withBit m p else withoutBit m p)).setFld (LNK_PORT_STATUS_UP n p) (if up then 1 else 0)

/-- PORT_DOWN_TIMEOUT (R347): a port down for 10 ms raises PORT_DOWN. -/
def execPortDownTimeout (n : Fin 4) (p : Fin 12) (s : State) : Out :=
  if s.portThere n.val p.val ∧ s.fld (LNK_PORT_STATUS_UP n.val p.val) = 0 then
    .next (s.event (0x4100 + 12 * n.val + p.val) EV_PORT_DOWN noDomain
      (leBytes 4 ((smapFind s.retrains (16 * n.val + p.val)).getD 0)))
  else .next s

/-! ## Peers (R353, R355) -/

/-- The foundation image's entry of a rank. -/
def State.peer (s : State) (r : Nat) : Option Peer := s.foundation.peers[r]?

def State.peerState (s : State) (r : Nat) : PeerState := (smapFind s.peers r).getD {}

/-- Peers in STATE LIVE, shown by every admitted link die. -/
def State.showPeers (s : State) : State :=
  let live := (s.peers.filter (fun e => e.2.state == 2)).length
  (List.range 4).foldl (fun s n => if s.lineDie n then s.setFld (LNK_STATUS_PEERS_LIVE n) live else s) s

def State.setPeer (s : State) (r : Nat) (x : PeerState) : State :=
  { s with peers := smapPut (fun _ => some {}) s.peers r x }.showPeers

/-- Whether a peer is live: this module itself, or a peer in STATE LIVE. -/
def State.live (s : State) (r : Nat) : Bool := r == s.foundation.ownRank || (s.peerState r).state == 2

/-! ## Sending (R351, R352) -/

/-- The link die that carries a flow served by die `n`: itself, or another one with a port up (R28); the lowest-numbered, DESIGN CHOICE. -/
def State.carrier (s : State) (n : Nat) : Option Nat :=
  if s.lineUp n then some n else (List.range 4).find? s.lineUp

/-- The type code of what a frame carries (Table LIN-3). -/
def bodyType : Body → Nat
  | .hello .. => 1
  | .sack .. => 2
  | .collData .. => 3
  | .notice .. => 4
  | .verdict .. => 4
  | .message .. => 5
  | .messageEnd .. => 5
  | .mirrorBlock .. => 6
  | .mirrorCommit .. => 6
  | .mirrorPlan .. => 6
  | .snapOpen .. => 7
  | .snapBank .. => 7
  | .snapFront .. => 7
  | .snapCopy .. => 7
  | .snapDrop .. => 7
  | .snapClose .. => 7
  | .snapWhole .. => 7
  | .snapShort .. => 7
  | .basisAsk .. => 7
  | .snapReq .. => 7
  | .spool .. => 8
  | .time .. => 9
  | .fragment type .. => type
  | .fstepRequest .. => 10
  | .fstepApply .. => 10

/-- The domain whose traffic a body is (R471); 64 when it is no domain's. -/
def bodyDom : Body → Nat
  | .collData d .. => d
  | .notice d .. => d
  | .verdict d .. => d
  | .message bs => fieldAt bs 12 2
  | .messageEnd _ bs => fieldAt bs 12 2
  | .mirrorBlock d .. => d
  | .mirrorCommit d .. => d
  | .snapOpen d .. => d
  | .snapBank d .. => d
  | .snapFront d .. => d
  | .snapCopy d .. => d
  | .snapClose d .. => d
  | .snapDrop d .. => d
  | .snapWhole d .. => d
  | .snapShort d .. => d
  | .basisAsk d .. => d
  | .spool bs => fieldAt bs 6 1
  | .fragment _ _ _ d .. => d
  | _ => 64

/-- The data of a body that a link die's codecs code on the line, and the mode (R304, R306): collectives that ask for it, mirror blocks, as
deltas but for whole ones (R394), and the banks, front part and domain record of a snapshot (R398). -/
def codedData : Body → Option (Nat × Bytes)
  | .collData _ _ _ _ _ _ _ _ true _ bs => some (1, bs)
  | .mirrorBlock _ _ _ _ whole bs => some (if whole then 1 else 2, bs)
  | .snapBank _ _ _ bs => some (1, bs)
  | .snapFront _ _ r f => some (1, f.pieces.flatMap (·.2) ++ Config.recordBytes r)
  | _ => none

/-- Data as the link-die codecs store it (R303, R304, R306): coded as FP32, zero bytes filling the last 4 KiB substream. A delta is its own
XOR against a base of zeros. DESIGN CHOICE: the type and the filling. -/
def codedBytes (mode : Nat) (raw : Bytes) : Bytes :=
  let n := (raw.length + subBytes - 1) / subBytes * subBytes
  (encodePart 0 mode (padTo n raw) (zeros n)).1

/-- The payload of a body. -/
def payloadOf (b : Body) : Bytes :=
  match codedData b with
  | some (mode, raw) => codedBytes mode raw
  | none =>
    match b with
    | .collData _ _ _ _ _ _ _ _ _ _ bs => bs
    | .message bs => bs
    | .spool bs => bs
    | .fragment _ _ _ _ _ _ bs => bs
    | _ => Config.framePayload b

/-- Whether the length of a body's payload may pass PAYLOAD_MAX. -/
def longBody : Body → Bool
  | .collData .. => true
  | .mirrorBlock .. => true
  | .snapBank .. => true
  | .snapFront .. => true
  | .spool .. => true
  | _ => false

/-- FLAGS of a frame that is no retransmission (Table LIN-2). -/
def frameFlags (b : Body) : Nat :=
  let nf : Bool := match b with
    | .collData _ _ _ _ _ _ _ nf _ _ _ => nf
    | .notice _ _ _ _ _ nf => nf
    | .verdict _ _ _ v => v.nonfinite
    | _ => false
  match b with
  | .fragment _ _ _ _ flags _ _ => flags
  | _ => (if (codedData b).isSome then 2 else 0) + (if nf then 4 else 0)

/-- The TAG of a frame: of COLL_DATA as R350 gives it; the frames of one payload share it. -/
def tagOf (b : Body) : Bytes :=
  match b with
  | .collData _ id step member _ chunk _ _ _ _ _ => leBytes 2 id ++ leBytes 4 step ++ leBytes 2 member ++ leBytes 4 chunk
  | .fragment _ _ _ _ _ tag _ => tag
  | _ => padTo 12 ((Config.frameTag b).take 12)

/-- PAYLOAD_MAX in bytes (Table LIN-9). -/
def State.payloadMax (s : State) : Nat := 1024 * 2 ^ s.foundation.payloadMax

/-- The frames that a body takes: fragments of its payload, then the body itself with the rest of it (R350). -/
def State.framesFor (s : State) (b : Body) : List Body :=
  if longBody b then
    let p := payloadOf b
    let k := (p.length + s.payloadMax - 1) / s.payloadMax
    (List.range (k - 1)).map (fun i =>
      .fragment (bodyType b) i k (bodyDom b) (frameFlags b) (tagOf b) ((p.drop (i * s.payloadMax)).take s.payloadMax)) ++ [b]
  else [b]

/-- The payload of the frame that a body itself travels in. -/
def State.lastPayload (s : State) (b : Body) : Bytes :=
  let p := payloadOf b
  if longBody b then p.drop ((p.length + s.payloadMax - 1) / s.payloadMax * s.payloadMax - s.payloadMax) else p

/-- The Zwine frame of a body (Table LIN-2), with its CRC; the minor is the one agreed with a live peer. -/
def State.zwineBytes (s : State) (rank flow seq : Nat) (retx : Bool) (b : Body) : Bytes :=
  let x := s.peerState rank
  let p := s.lastPayload b
  let f := leBytes 1 ((if x.state = 2 then x.minor else zwineMinor) + 16) ++ leBytes 1 (bodyType b) ++
    leBytes 1 (frameFlags b + if retx then 1 else 0) ++ zeros 1 ++
    leBytes 2 s.foundation.ownRank ++ leBytes 2 rank ++ leBytes 4 flow ++ leBytes 4 seq ++ leBytes 2 p.length ++ zeros 2 ++ tagOf b ++ p
  f ++ leBytes 4 (crc32c f)

/-- The UDP source port of a flow (R350). -/
def State.flowPort (s : State) (rank flow : Nat) : Nat :=
  49152 + crc32c (leBytes 2 s.foundation.ownRank ++ leBytes 2 rank ++ leBytes 4 flow) % 16384

/-- The datagram of a frame (R350): ECT(0) is the ECN code 2. -/
def State.datagram (s : State) (rank flow seq : Nat) (retx : Bool) (b : Body) : Datagram :=
  let f := s.foundation
  let ip (r : Nat) := ((s.peer r).map (·.ip)).getD 0
  { ipv4 := f.ipv4, srcIp := ip f.ownRank, dstIp := ip rank, dscp := f.dscp, ecn := 2, dontFragment := f.ipv4,
    srcPort := s.flowPort rank flow, dstPort := f.udpPort, frame := s.zwineBytes rank flow seq retx b }

/-- The up port of link die `k` that carries a flow: flows are spread over the up ports by flow number (R352). -/
def State.portFor (s : State) (k flow : Nat) : Nat :=
  let ups := bitsSet (s.fld (LNK_STATUS_PORTS_UP k)) 12
  ups.getD (flow % max 1 ups.length) 12

/-- The link die and port by which a frame of a flow that die `n` serves leaves now. -/
def State.wayOut (s : State) (n flow : Nat) : Option (Nat × Nat) := (s.carrier n).map (fun k => (k, s.portFor k flow))

/-- Whether a peer may be sent a frame: one in STATE VERSION_REJECTED gets HELLO alone (R355). -/
def State.maySend (s : State) (rank : Nat) (b : Body) : Bool := (s.peerState rank).state != 4 || bodyType b == 1

/-- Whether the engine that requests the line for a body, on link die `k`, gets no grant since one of it was revoked (R327): the collective
engine, or the survival engine. -/
def State.barred (s : State) (k : Nat) (b : Body) : Bool :=
  match bodyType b with
  | 3 => s.revoked (0x4200 + k)
  | 4 => s.revoked (0x4200 + k)
  | 6 => s.revoked 0x8005
  | 7 => s.revoked 0x8005
  | 8 => s.revoked 0x8005
  | _ => false

/-- A frame put on the line, its payload counted by LINE_TX (R471). -/
def State.emit (s : State) (n rank flow seq : Nat) (retx : Bool) (b : Body) : State :=
  match s.wayOut n flow with
  | some (k, p) =>
    if s.maySend rank b && !(s.barred k b) then
      let out : LineOut := { port := p, die := k, rank := rank, flow := flow, seq := seq, retx := retx, body := b,
                             wire := s.datagram rank flow seq retx b }
      ({ s with outs := { s.outs with line := s.outs.line ++ [out] } }).count (bodyDom b) 11 (s.lastPayload b).length
    else s
  | none => s

/-- The retransmission timer of a frame newly sent to a peer, in ns: four median round trips, at least 20 µs (R351). -/
def State.firstTimer (s : State) (rank : Nat) : Nat := max 20000 (40 * (s.peerState rank).rtt)

/-- Frames that wait for the window of a flow leave, as far as it allows. -/
def State.pump (s : State) (w : OutFlow) : Nat → State × OutFlow
  | 0 => (s, w)
  | k + 1 =>
    match w.queue with
    | [] => (s, w)
    | b :: bs =>
      if w.window ≤ w.unacked.length then (s, w)
      else
        (s.emit w.die w.rank w.flow w.next false b).pump
          { w with next := (w.next + 1) % 2 ^ 32, queue := bs,
                   unacked := w.unacked ++ [{ seq := w.next, timer := s.firstTimer w.rank, via := s.wayOut w.die w.flow, body := b }] } k

/-- The place of a sending flow. -/
def State.outFlow (s : State) (rank flow : Nat) : Option Nat :=
  (List.range s.outFlows.length).find? (fun k => let w := s.outFlows.getD k {}; w.rank == rank && w.flow == flow)

/-- A sending flow set. -/
def State.putOut (s : State) (k : Option Nat) (w : OutFlow) : State :=
  { s with outFlows := match k with | some j => s.outFlows.set j w | none => s.outFlows ++ [w] }

/-- The flow number of a frame type on a link die. -/
def flowOf (type die : Nat) : Nat := 16 * type + die

/-- What the codecs of link die `n` count for data coded or decoded (R306, Table STH-9). -/
def State.countLink (s : State) (n : Nat) (b : Body) : State :=
  match codedData b with
  | some (mode, raw) =>
    (s.addScaled (CDC_LINK_BYTES_RAW n) (2 ^ 20) raw.length).addScaled (CDC_LINK_BYTES_STORED n) (2 ^ 20) (codedBytes mode raw).length
  | none => s

/-- What a body carries for a live peer, in the flow of its type on link die `n`; nothing leaves for a peer that is not live. -/
def State.sendFrame (s : State) (n rank type : Nat) (b : Body) : State :=
  if (s.peerState rank).state ≠ 2 then s
  else
    let flow := flowOf type n
    let k := s.outFlow rank flow
    let w := match k with | some j => s.outFlows.getD j {} | none => { die := n, rank := rank, flow := flow }
    let bs := s.framesFor b
    let (s, w) := (s.countLink ((s.carrier n).getD n) b).pump { w with queue := w.queue ++ bs } bs.length
    s.putOut k w

/-- Whether frames of a kind wait for acknowledgement at a peer. -/
def State.unackedAt (s : State) (rank : Nat) (p : Body → Bool) : Bool :=
  s.outFlows.any (fun w => w.rank == rank && (w.unacked.any (fun u => p u.body) || w.queue.any p))

/-! ## Buffer SRAM (R356) -/

/-- What reading a payload from the buffer SRAM of link die `n` finds: a corrected word is counted and recorded, an uncorrectable one
counted. `f.addr` is the word's place in the buffer, which has no physical address. -/
def State.sramRead (s : State) (n : Nat) (f : Found) : State :=
  match f.ecc with
  | .clean => s
  | .corrected => (s.addFld (LNK_SRAM_ECC_CORRECTED n) 1).correctedOnce (0x4210 + n) { foundInfo f ST_ECC_CORRECTED with addr := 0 }
  | .uncorrectable => s.addFld (LNK_SRAM_ECC_UNCORRECTABLE n) 1

/-- A received payload lost to an uncorrectable error of the buffer SRAM: counted, and recorded as DEFERRED. -/
def State.sramLost (s : State) (n : Nat) (f : Found) : State :=
  (s.sramRead n f).report (0x4210 + n) 1 { foundInfo f ST_ECC_UNCORRECTABLE with addr := 0 }

/-! ## Retransmission (R351) -/

/-- The unacknowledged frames of a flow that satisfy `p` sent again with RETX: what leaves is counted, and is then on its way by the port of
today. -/
def State.resendFrames (s : State) (w : OutFlow) (p : Sent → Bool) : State × OutFlow :=
  match s.wayOut w.die w.flow with
  | none => (s, w)
  | some v =>
    let fs := w.unacked.filter (fun f => p f && s.maySend w.rank f.body)
    let s := fs.foldl (fun s f => s.emit w.die w.rank w.flow f.seq true f.body) s
    let x := s.peerState w.rank
    ((s.addFld (LNK_FLOW_COUNTS_RETRANSMITS v.1) fs.length).setPeer w.rank { x with retx := satTo (2 ^ 32 - 1) (x.retx + fs.length) },
      { w with unacked := w.unacked.map (fun f => if p f then { f with via := some v } else f) })

/-- A frame's timer doubled, up to 2 ms; one that began above stays as it is. -/
def OutFlow.doubleTimer (w : OutFlow) (seq : Nat) : OutFlow :=
  { w with unacked := w.unacked.map (fun f => if f.seq = seq then { f with timer := max f.timer (min 2000000 (2 * f.timer)) } else f) }

/-- RETRANSMIT_TIMER (R351, R356): the timer of the frame `seq` of sending flow `k`, which link die `n` serves, runs out; it doubles up to
2 ms. `ecc` is what reading the payload from buffer SRAM finds; after an uncorrectable error the frame is read again from its source. -/
def execRetransmitTimer (n : Fin 4) (k seq : Nat) (ecc : Found) (s : State) : Out :=
  match s.outFlows[k]? with
  | none => .next s
  | some w =>
    if w.die ≠ n.val ∨ (s.peerState w.rank).state ≠ 2 ∨ w.unacked.any (fun f => f.seq == seq) = false then .next s
    else
      match (s.sramRead n.val ecc).resendFrames w (fun f => f.seq == seq) with
      | (s, w) => .next (s.putOut (some k) (w.doubleTimer seq))

/-- The frames of flow `k` on their way by a link die and port that satisfy `q` sent again. -/
def State.resendFlow (s : State) (q : Nat × Nat → Bool) (k : Nat) : State :=
  let w := s.outFlows.getD k {}
  let lost (f : Sent) : Bool := f.via.elim false q
  if (s.peerState w.rank).state ≠ 2 ∨ w.unacked.any lost = false then s
  else
    match s.resendFrames w lost with
    | (s, w) => s.putOut (some k) w

/-- The unacknowledged frames of every flow on their way by such a port sent again (R352). -/
def State.resendVia (s : State) (q : Nat × Nat → Bool) : State := (List.range s.outFlows.length).foldl (fun s k => s.resendFlow q k) s

/-- PORT_LINK_DOWN (R347, R352): the port retrains by itself, and the unacknowledged frames sent by it are sent again on another; `failed`
are the lanes found failed, `ecc` what reading the frames from buffer SRAM finds. -/
def execPortLinkDown (n : Fin 4) (p : Fin 12) (failed : BitVec 8) (ecc : Found) (s : State) : Out :=
  if s.portThere n.val p.val = false ∨ s.fld (LNK_PORT_STATUS_UP n.val p.val) = 0 then .next s
  else
    let s := { s with retrains := tally s.retrains (16 * n.val + p.val) 1 }.showPort n.val p.val false
    let s := s.setFld (LNK_PORT_STATUS_FAILED_LANES n.val p.val) (s.laneMask n.val p.val failed.toNat)
    let s := (s.addFld (LNK_PORT_STATUS_RETRAINS n.val p.val) 1).addRisk riskRetrain
    .next ((s.sramRead n.val ecc).resendVia (fun v => v == (n.val, p.val)))

/-! ## Acknowledgement (R351) -/

/-- Whether a SACK acknowledges SEQ `q`: below the cumulative SEQ, or set in the bitmap of the frames after it. -/
def sacked (cum : Nat) (bitmap : Word) (q : Nat) : Bool :=
  let d := (q + 2 ^ 32 - cum) % 2 ^ 32
  decide (2 ^ 31 ≤ d) || (decide (1 ≤ d ∧ d ≤ 64) && bitmap.getLsbD (d - 1))

/-- The later frames that a SACK shows as received after SEQ `q`. -/
def shownAfter (cum : Nat) (bitmap : Word) (q : Nat) : Nat :=
  let d := (q + 2 ^ 32 - cum) % 2 ^ 32
  ((List.range 64).filter (fun i => bitmap.getLsbD i && decide (d < i + 1))).length

/-- A window halved for each congestion mark, down to 8 frames. -/
def halveWindow : Nat → Nat → Nat
  | 0, w => w
  | m + 1, w => halveWindow m (max 8 (w / 2))

/-- Whether SEQ `a` lies at or after SEQ `b`. -/
def seqGe (a b : Nat) : Bool := decide ((a + 2 ^ 32 - b) % 2 ^ 32 < 2 ^ 31)

/-- The window of a flow after a SACK (R351): halved for each congestion mark; otherwise grown by one frame, up to 128, when the round trip
in progress ends: when all the frames sent before its start are acknowledged. -/
def OutFlow.afterSack (w : OutFlow) (cum marks : Nat) : OutFlow :=
  if marks ≠ 0 then { w with window := halveWindow marks w.window, turn := w.next }
  else if seqGe cum w.turn && cum != w.turn then { w with window := min 128 (w.window + 1), turn := w.next }
  else w

/-- A SACK from a peer for a flow: acknowledged frames leave, frames with three later ones received are sent again, and frames that
waited for the window follow. The first SEQ not acknowledged is `cum`; `resent` is what reading the frames sent again from buffer SRAM
finds. -/
def State.takeSack (s : State) (rank flow cum : Nat) (bitmap : Word) (marks rtt : Nat) (resent : Found) : State :=
  match s.outFlow rank flow with
  | none => s
  | some k =>
    let w := s.outFlows.getD k {}
    let left := w.unacked.filter (fun u => !(sacked cum bitmap u.seq))
    let s := s.setPeer rank { s.peerState rank with rtt := rtt }
    let again (u : Sent) : Bool := decide (3 ≤ shownAfter cum bitmap u.seq)
    let w := { w with unacked := left }
    let (s, w) := if left.any again then (s.sramRead w.die resent).resendFrames w again else (s, w)
    let (s, w) := s.pump (w.afterSack cum marks) w.queue.length
    s.putOut (some k) w

/-! ## Receiving (R351, R354) -/

/-- The state after a frame's checks, and whether it passed them (R348, R354): the port, the CRC, the source, the destination and
the type; the payload of one that passed is counted by LINE_RX (R471). How many FEC codewords a damaged frame leaves uncorrected is
open. -/
def State.checkFrame (s : State) (n : Nat) (f : Frame) (type : Nat) : State × Bool :=
  if s.portThere n f.port.val = false ∨ s.fld (LNK_PORT_STATUS_UP n f.port.val) = 0 then (s, false)
  else if f.crcOk = false then
    let (x, s) := s.freshWord
    ((s.addFld (LNK_PORT_STATUS_CRC_ERR n f.port.val) 1).addFld (LNK_PORT_STATUS_FEC_UNCORR n f.port.val) (x.toNat % 2 ^ 16), false)
  else
    let known := match s.peer f.srcRank with | some p => p.ip == f.srcIp | none => false
    if known && f.dstRank == s.foundation.ownRank && f.kind == type && bodyType f.body == type then
      ((if f.marked then s.addFld (LNK_FLOW_COUNTS_CE_MARKS n) 1 else s).count (bodyDom f.body) 12 (s.lastPayload f.body).length, true)
    else (s.addFld (LNK_FLOW_COUNTS_FOREIGN n) 1, false)

/-- A frame outside the flows: its checks, and whether its payload, read from buffer SRAM with outcome `ecc`, is there (R356). -/
def State.readFrame (s : State) (n : Nat) (f : Frame) (type : Nat) (ecc : Found) : State × Bool :=
  match s.checkFrame n f type with
  | (s, false) => (s, false)
  | (s, true) => if ecc.ecc = .uncorrectable then (s.sramLost n ecc, false) else (s.sramRead n ecc, true)

/-- The place of a receiving flow. -/
def State.inFlow (s : State) (rank flow : Nat) : Option Nat :=
  (List.range s.inFlows.length).find? (fun k => let w := s.inFlows.getD k {}; w.rank == rank && w.flow == flow)

def State.putIn (s : State) (k : Option Nat) (w : InFlow) : State :=
  { s with inFlows := match k with | some j => s.inFlows.set j w | none => s.inFlows ++ [w] }

/-- The bitmap of the frames held after the first SEQ not received. -/
def InFlow.bitmap (w : InFlow) : Word :=
  word ((List.range 64).foldl (fun m i => if w.held.any (fun h => h.1 == (w.next + 1 + i) % 2 ^ 32) then withBit m i else m) 0)

/-- The SACK of receiving flow `k`. -/
def State.sendSack (s : State) (k : Nat) : State :=
  let w := s.inFlows.getD k {}
  let s := s.emit w.die w.rank 0 0 false (.sack w.flow w.next w.bitmap w.marks 0)
  s.putIn (some k) { w with since := 0, marks := 0 }

/-- SACK_TIMER (R351): 2 µs after new frames of receiving flow `k` of link die `n`. -/
def execSackTimer (n : Fin 4) (k : Nat) (s : State) : Out :=
  match s.inFlows[k]? with
  | none => .next s
  | some w => if w.die = n.val ∧ w.since ≠ 0 ∧ (s.peerState w.rank).state = 2 then .next (s.sendSack k) else .next s

/-- The frames that follow the delivered ones, now that the gap is filled. -/
def InFlow.drain : Nat → InFlow → InFlow × List Body
  | 0, w => (w, [])
  | n + 1, w =>
    match w.held.find? (fun h => h.1 == w.next) with
    | none => (w, [])
    | some h =>
      let (w', bs) := drain n { w with next := (w.next + 1) % 2 ^ 32, held := w.held.filter (fun x => x.1 != h.1) }
      (w', h.2 :: bs)

/-- Whether a receiving flow has had the frame of a SEQ. -/
def InFlow.has (w : InFlow) (seq : Nat) : Bool := decide (2 ^ 31 ≤ (seq + 2 ^ 32 - w.next) % 2 ^ 32) || w.held.any (fun h => h.1 == seq)

/-- The receiving flow of a frame, a fresh one for the first. -/
def State.flowOfFrame (s : State) (f : Frame) : InFlow :=
  match s.inFlow f.srcRank f.flow with
  | some j => s.inFlows.getD j {}
  | none => { rank := f.srcRank, flow := f.flow }

/-- A data-carrying frame of a live peer that passed its checks: what is delivered now, in SEQ order; a duplicate is acknowledged
again. -/
def State.receive (s : State) (n : Nat) (f : Frame) : State × List Body :=
  if (s.peerState f.srcRank).state ≠ 2 then (s, [])
  else
    let w := s.flowOfFrame f
    let w := { w with die := n, since := w.since + 1, marks := w.marks + (if f.marked then 1 else 0),
                      held := if w.has f.seq then w.held else w.held ++ [(f.seq, f.body)] }
    let (w, bs) := InFlow.drain w.held.length w
    let s := s.putIn (s.inFlow f.srcRank f.flow) w
    match s.inFlow f.srcRank f.flow with
    | some j => (if 16 ≤ w.since then s.sendSack j else s, bs)
    | none => (s, bs)

/-- SACK: a frame of TYPE 0x02, read from buffer SRAM with outcome `ecc`. -/
def execSack (n : Fin 4) (f : Frame) (ecc resent : Found) (s : State) : Out :=
  match s.readFrame n.val f 2 ecc, f.body with
  | (s, true), .sack flow cum bitmap marks rtt =>
    if (s.peerState f.srcRank).state = 2 then .next (s.takeSack f.srcRank flow cum bitmap marks rtt resent) else .next s
  | (s, _), _ => .next s

/-! ## HELLO (R355) -/

/-- This module's HELLO to a peer. -/
def State.sendHello (s : State) (n rank : Nat) : State :=
  s.emit n rank 0 0 false (.hello (word ownModuleId) 1 0
    zwineMinor s.timeMaster)

/-- Flows with a peer begin afresh. -/
def State.dropFlows (s : State) (rank : Nat) : State :=
  { s with outFlows := s.outFlows.filter (fun w => w.rank != rank), inFlows := s.inFlows.filter (fun w => w.rank != rank) }

/-- The peers that the foundation image lists are greeted in the LINE stage (R42, R355). -/
def State.greetPeers (s : State) (n : Nat) : State :=
  (((List.range s.foundation.peers.length).filter (fun r => r != s.foundation.ownRank && (s.peerState r).state == 0)).foldl
    (fun s r => (s.sendHello n r).setPeer r { s.peerState r with state := 1, minor := 0xFF }) s).showPeers

/-- PORT_LINK_UP (R347): all lanes trained and the PCS aligned; a port with a failed lane stays down. In the LINE stage the listed peers
are greeted over it (R42). -/
def execPortLinkUp (n : Fin 4) (p : Fin 12) (s : State) : Out :=
  if s.portThere n.val p.val ∧ s.fld (LNK_PORT_STATUS_FAILED_LANES n.val p.val) = 0 then
    let s := { s with retrains := smapDel s.retrains (16 * n.val + p.val) }.showPort n.val p.val true
    .next (if s.inLine n.val then s.greetPeers n.val else s)
  else .next s

/-! ## Routes (Table STR-5) -/

/-- The link die that a domain's class uses from compute die `k`: the one ROUTES names, else the nearest admitted one of LINK_MASK, the
lowest on a tie; die 0 when LINK_MASK has lost its last admitted die (DESIGN CHOICE). -/
def State.route (s : State) (d cls k : Nat) : Nat :=
  match (s.entries secRoutes).find? (fun e => fieldAt e 0 1 == d && fieldAt e 1 1 == cls) with
  | some e => fieldAt e 3 1
  | none =>
    let mask := match s.domEntry d with | some e => fieldAt e 3 1 | none => 15
    let dies := (List.range 4).filter (fun n => bitOf mask n && bitOf s.links n)
    dies.foldl (fun m n => if hubHops (linkHost n) k < hubHops (linkHost m) k then n else m) (dies.headD 0)

end Sys2Proof.Machine
end

