-- ==== Sys2Proof/Machine/Time.lean ====
section
/-!
DEFINITION. The time base (R85 to R89): the offset measurement, its acceptance, slewing and the tick grid. TICK_BOUNDARY is in
Machine/Boundary.lean.
-/
namespace Sys2Proof.Machine

/-- A list with `x` inserted in ascending order. -/
def insertInt (x : Int) : List Int → List Int
  | [] => [x]
  | y :: ys => if x ≤ y then x :: y :: ys else y :: insertInt x ys

/-- A list in ascending order. -/
def sortInts : List Int → List Int
  | [] => []
  | x :: xs => insertInt x (sortInts xs)

/-- The mean of the `i`-th and the next element of an ascending list, rounded down. -/
def midOf (xs : List Int) (i : Nat) : Int := (xs.getD i 0 + xs.getD (i + 1) 0) / 2

/-- The median of 16 offsets (R86). -/
def medianOf (xs : List Int) : Int := midOf (sortInts xs) 7

/-- The interquartile spread of 16 offsets (R86): the distance of the medians of the upper and the lower eight. -/
def spreadOf (xs : List Int) : Nat := (midOf (sortInts xs) 11 - midOf (sortInts xs) 3).toNat

/-- Whether this module is the time master in force (R86): MASTER says so from Aloft entry on; before it, a module whose peer list is
empty or that follows itself. -/
def State.isTimeMaster (s : State) : Bool :=
  s.fld CTL_TIME_STATUS_MASTER == 1 || (!s.aloft && (s.foundation.peers.isEmpty || s.timeMaster == s.foundation.ownRank))

/-- The offset of aligned time set. -/
def State.setOffset (s : State) (o : Int) : State := s.setReg CTL_TIME_OFFSET (word (unsignedOf 64 o))

/-- The alignment step (R86, R89): the boundaries move with the base, and the next tick is lengthened by less than a period to
fall on the grid. -/
def State.stepOffset (s : State) (o : Int) : State :=
  let move (t : Nat) : Nat := unsignedOf 64 ((t : Int) + (o - s.offset))
  let s' := s.setOffset o
  { s' with lastBoundary := move s.lastBoundary, nextBoundary := roundUp (max 1 s.periodNs) (move s.nextBoundary) }

/-- The frequency correction after an error of `err` ns (R87): what the error holds beyond the phase still to be slewed has grown since
the last measured error; at most the slewing limit. -/
def State.newFreq (s : State) (err : Int) : Int :=
  if s.measure.errAt = 0 ∨ s.localNs ≤ s.measure.errAt then s.freq
  else
    let f := s.freq + Int.tdiv ((err - s.slew) * 1000000000) ((s.localNs - s.measure.errAt : Nat) : Int)
    max (-200000) (min 200000 f)

/-- The measured error against aligned time recorded (R87): ALIGNED while it is no more than 250 ns, otherwise cleared with event
TIME_ALIGN_POOR; phase and frequency are corrected by slewing. -/
def State.slewTo (s : State) (o : Int) (spread : Nat) : State :=
  let err := o - s.offset
  let s := { s with slew := err, slewAt := s.localNs, freq := s.newFreq err, measure := { s.measure with errAt := s.localNs } }
  if err.natAbs ≤ 250 then s.setFld CTL_TIME_STATUS_ALIGNED 1
  else
    ((s.setFld CTL_TIME_STATUS_ALIGNED 0).setFld CTL_TIME_STATUS_POOR 1).event 0x8000 EV_TIME_ALIGN_POOR noDomain
      (leBytes 8 (unsignedOf 64 err) ++ leBytes 2 (satTo 0xFFFF spread) ++ leBytes 2 s.timeMaster)

/-- What the frequency correction adds to the phase to be slewed, up to local time `t`. -/
def State.driftBy (s : State) (t : Nat) : Int := Int.tdiv (s.freq * ((t - s.slewAt : Nat) : Int)) 1000000000

/-- What slewing adds to aligned time while it runs on by `dt` ns: no more than 200 ns per ms of local time (R87). -/
def State.slewPart (s : State) (dt : Nat) : Int :=
  let room : Int := (dt / 5001 : Nat)
  max (-room) (min room (s.slew + s.driftBy (s.localNs + dt)))

/-- Aligned time runs on by `dt` ns, slewed on the way (R87). -/
def State.runAligned (s : State) (dt : Nat) : State :=
  let part := s.slewPart dt
  let drift := s.driftBy (s.localNs + dt)
  let t := ((s.localNs + dt : Nat) - part).toNat
  { (s.setOffset (s.offset + part)) with
    localNs := t, slew := s.slew + drift - part, slewAt := if drift = 0 then s.slewAt else t }

/-- The TIME_MEASURE commands that wait for this measurement complete with its spread (Table CMD-7). -/
def State.endMeasures (s : State) (spread : Nat) : State :=
  let hs := s.measureBy
  hs.foldl (fun s h => s.finishOk h spread) { s with measureBy := [] }

/-! ## Round trips (R86, R87) -/

/-- A TIME request with the local time of its sending leaves for the time master, if that is live. -/
def State.askTime (s : State) : State :=
  if (s.peerState s.timeMaster).state = 2 then
    let t := word s.localNs
    { s with measure := { s.measure with sent := some t } }.emit 0 s.timeMaster 0 0 false (.time false t 0#64 0#64)
  else { s with measure := { s.measure with sent := none } }

/-- A 16-trip measurement begins (R86). -/
def State.startMeasure (s : State) : State :=
  ({ s with measure := { s.measure with trips := [], single := false, due := false } }.setFld CTL_TIME_STATUS_MEASURING 1).askTime

/-- This module is its own time master (R86): it does not measure, and what waits for a measurement completes with RESULT 0. -/
def State.becomeMaster (s : State) : State :=
  let s := { s with timeMaster := s.foundation.ownRank, aligned := true, measure := {}, slew := 0, freq := 0 }
  let s := (s.setFld CTL_TIME_STATUS_MASTER 1).setFld CTL_TIME_STATUS_ALIGNED 1
  ((s.setFld CTL_TIME_STATUS_MEASURING 0).setFld CTL_TIME_STATUS_SPREAD 0).endMeasures 0

/-- This module follows `r` (R86, R88): its offset is measured afresh. -/
def State.followMaster (s : State) (r : Nat) : State :=
  ({ s with timeMaster := r, measure := {} }.setFld CTL_TIME_STATUS_MASTER 0).startMeasure

/-- The offset that one round trip yields (R86): ((t2 - t1) + (t3 - t4)) / 2. -/
def tripOffset (t1 t2 t3 t4 : Nat) : Int := (((t2 : Int) - t1) + ((t3 : Int) - t4)) / 2

/-- A round trip ends: the single one of R87 is corrected by slewing; one of a measurement is kept, and the next begins. -/
def State.takeTrip (s : State) (o : Int) : State :=
  let m := s.measure
  if m.single then { s with measure := { m with sent := none, single := false } }.slewTo o 0
  else
    let s := { s with measure := { m with sent := none, trips := m.trips ++ [o] } }
    if m.trips.length + 1 < 16 then s.askTime else s

/-- A 16-trip measurement ends (R86, R88): accepted with a spread of no more than 100 ns. The first acceptance steps the aligned
time once; later ones slew it. A rejected one raises TIME_ALIGN_POOR and is to be repeated. -/
def execTimeMeasurementEnd (s : State) : Out :=
  let m := s.measure
  if s.fld CTL_TIME_STATUS_MEASURING = 1 ∧ m.trips.length = 16 then
    let o := medianOf m.trips
    let spread := spreadOf m.trips
    let s := { s with measure := { m with trips := [], sent := none, due := !decide (spread ≤ 100), tripTick := s.tick } }
    let s := (s.setFld CTL_TIME_STATUS_MEASURING 0).setFld CTL_TIME_STATUS_SPREAD (satTo 0xFFFF spread)
    if spread ≤ 100 then
      if s.aligned then .next ((s.slewTo o spread).endMeasures spread)
      else
        let old := s.offset
        let s := { (s.stepOffset o) with
          aligned := true, slew := 0, slewAt := s.localNs, measure := { s.measure with errAt := s.localNs } }
        let s := s.setFld CTL_TIME_STATUS_ALIGNED 1
        .next ((s.event 0x8000 EV_TIME_ALIGNED noDomain
          (leBytes 8 (unsignedOf 64 old) ++ leBytes 8 (unsignedOf 64 o) ++ leBytes 2 (satTo 0xFFFF spread) ++
            leBytes 2 s.timeMaster)).endMeasures spread)
    else
      let err := o - s.offset
      let s := (s.setFld CTL_TIME_STATUS_POOR 1).event 0x8000 EV_TIME_ALIGN_POOR noDomain
        (leBytes 8 (unsignedOf 64 err) ++ leBytes 2 (satTo 0xFFFF spread) ++ leBytes 2 s.timeMaster)
      .next (s.endMeasures spread)
  else .next s

/-- Every second a rejected measurement is repeated (R86); a round trip of a running one that got no answer is sent again. -/
def execTimeMeasureRetry (s : State) : Out :=
  if s.aloft = false ∨ s.isTimeMaster = true then .next s
  else if s.fld CTL_TIME_STATUS_MEASURING = 1 then .next (if s.measure.trips.length < 16 then s.askTime else s)
  else if s.measure.due then .next s.startMeasure
  else .next s

/-- The round trip of every 1,000 ticks (R87). -/
def execTimeRoundTripPeriod (s : State) : Out :=
  if s.aloft ∧ s.isTimeMaster = false ∧ s.aligned = true ∧ s.fld CTL_TIME_STATUS_MEASURING = 0 ∧
      s.measure.tripTick + 1000 ≤ s.tick then
    .next { s with measure := { s.measure with single := true, tripTick := s.tick } }.askTime
  else .next s

end Sys2Proof.Machine
end

