-- ==== Sys2Proof/Machine/Start.lean ====
section
/-!
DEFINITION. The commands of chapters 02 and 23: pins, boot, the Management Port's mode requests, the stages of Ascent, rails and
the host-die ports.
-/
namespace Sys2Proof.Machine

/-! ## Management Port answers (R464, R469) -/

/-- A request of Table SEC-4 answered: the status and data returned, and the counts of the MGT block. -/
def State.answer (s : State) (request status : Nat) (data : Bytes) : State :=
  let s := (s.addFld MGT_COUNTS_REQUESTS 1).setFld MGT_LAST_REQUEST request
  let s := s.setFld MGT_LAST_STATUS status
  let s := if status = 0 then s else s.addFld MGT_COUNTS_REJECTED 1
  { s with outs := { s.outs with mgmtStatus := status, mgmtData := data } }

/-- A request of Table SEC-4 (R456): they are executed one at a time, and one that arrives while four wait is answered REJECTED_FULL and does
nothing else. -/
def State.manage (s : State) (request : Nat) (full : Bool) (out : Out) : Out :=
  if full && s.phase == .running then .next (s.answer request ST_REJECTED_FULL []) else out

/-! ## Power and reset pins (R488, R490) -/

/-- The end of a cold reset (R459, R490): the straps are sampled and the boot ROM starts. -/
def State.endColdReset (s : State) (bootSrc mgmtAddr : Nat) (pufOk : Bool) : State :=
  ({ s with security := { s.security with bootSrc := bootSrc, mgmtAddr := mgmtAddr } }).bootRom pufOk

/-- PWRGOOD rises (R490): from off it is a power-on. Cold reset ends when RST_N is high. -/
def execPwrgoodRise (bootSrc : BitVec 2) (mgmtAddr : BitVec 3) (pufOk : Bool) (s : State) : Out :=
  if s.pwrgood then .next s
  else
    let s := ({ s with pwrgood := true }).coldReset true 1
    .next (if s.rstN then s.endColdReset bootSrc.toNat mgmtAddr.toNat pufOk else s)

/-- PWRGOOD falls (R488): a cold reset that keeps no state, every RAIL_EN low. -/
def execPwrgoodFall (s : State) : Out :=
  .next { (({ s with pwrgood := false }).coldReset true 1) with phase := .off }

/-- RST_N low for `ns` (R490): a pulse shorter than 1 µs is ignored; otherwise a cold reset begins. -/
def execRstNAssert (ns : Nat) (s : State) : Out :=
  if ns < 1000 then .next s
  else if s.pwrgood then .next (({ s with rstN := false }).coldReset false 2)
  else .next { s with rstN := false }

/-- RST_N rises (R490): cold reset ends when PWRGOOD is high; EXTEST and CLAMP act as BYPASS from then on (R468). -/
def execRstNDeassert (bootSrc : BitVec 2) (mgmtAddr : BitVec 3) (pufOk : Bool) (s : State) : Out :=
  if s.rstN then .next s
  else
    let s := { s with rstN := true, dbg := { s.dbg with driven := [] } }
    .next (if s.pwrgood then s.endColdReset bootSrc.toNat mgmtAddr.toNat pufOk else s)

/-- LIMIT shows the foundation image's START_LIMIT, and EXHAUSTED is set once FAILED has reached it (R45, Table MOD-13). -/
def State.showLimit (s : State) : State :=
  let s := s.setFld CTL_START_COUNT_LIMIT s.foundation.startLimit
  if s.fld CTL_START_COUNT_LIMIT ≤ s.fld CTL_START_COUNT_FAILED then s.setFld CTL_START_COUNT_EXHAUSTED 1 else s

/-- The host complex reaches Tethered (R29, R30, R35): try marks clear, floors rise, LIMIT and the tether's tick are shown, and
Ascent begins under AUTO_ASCENT. A DDR5 population outside the rules stops the host complex before that (R92). -/
def execTetheredEntry (s : State) : Out :=
  if s.phase = .booting ∧ s.board.populationOk = true then
    let cold := s.coldBoot
    let s := ({ s with phase := .running, coldBoot := false }).showLimit
    let s := s.tetherTick
    let s := if cold then s.firstTethered s.coldCause else s
    .next s.imagesReached.autoAscent
  else .next s

/-- The host-die watchdog expires (R33): a cold reset with WATCHDOG set, and the boot ROM starts with the straps as sampled. -/
def execHostWatchdogExpiry (pufOk : Bool) (s : State) : Out :=
  if s.phase = .off ∨ s.phase = .coldReset then .next s
  else .next ((s.coldReset false 0x80).bootRom pufOk)

/-! ## Mode requests (R34 to R36) -/

/-- ASCEND (R34): starts Ascent in Tethered unless the start limit is reached. DESIGN CHOICE: while the host complex boots, no request of
Table MOD-3 is answered. -/
def execAscend (full : Bool) (s : State) : Out :=
  s.manage 0x01 full <|
  if s.phase ≠ .running then .next s
  else if s.mode = 1 ∧ s.fld CTL_START_COUNT_EXHAUSTED = 0 then .next (s.answer 0x01 ST_OK []).startAscent
  else .next (s.answer 0x01 ST_REJECTED_MODE [])

/-- An Ascent aborted by a reset request writes its report first, with RESULT 4 (R46). -/
def State.abortAscent (s : State) : State :=
  match s.ascent with
  | some a => s.writeReport (a.cut s.localNs) 4 0
  | none => s

/-- The stacks held and the report of an Ascent that a reset request ends: the held set is taken before the report closes it. -/
def State.resetByRequest (s : State) (causes : Nat) (hold : Bool) : State :=
  let held := s.heldStacks hold
  let bits := s.resetBits causes
  (((((s.abortAscent).abortHandles true).newIncarnation).endImage).dropDies held hold |>.addCause bits).toTethered bits

/-- DEVICE_RESET (R34, R49, R51): OK without effect in Tethered; rejected in a Halted that ends only by a cold reset (R33). The entry
into Tethered begins an Ascent under AUTO_ASCENT at once, after a start that failed into Halted too (R35, DEDUCED). -/
def execDeviceReset (holdHbm : Bool) (full : Bool) (s : State) : Out :=
  s.manage 0x02 full <|
  if s.phase ≠ .running then .next s
  else if s.mode = 1 then .next (s.answer 0x02 ST_OK [])
  else if s.mode = 0xF ∧ s.haltCold = true then .next (s.answer 0x02 ST_REJECTED_MODE [])
  else .next ((s.answer 0x02 ST_OK []).resetByRequest 4 holdHbm).autoAscent

/-- The registers that a host-complex reset returns to their reset values: Table CMD-9 (R131) and the INT block (R342). -/
def State.resetQueues (s : State) : State :=
  let s := { s with queues := [], cmds := [] }
  ((s.resetRegRange HST_PROTO 16).resetRegRange (HST_Q_SQ_BASE 0) (256 * 0x80)).resetRegRange INT_CTRL 0x200

/-- What was begun under the scopes of a grant stops at its end (R467, R473, R475, R468): trace, halts, and the instrument network. -/
def State.stopScopes (s : State) : State :=
  let s := s.setFld DBG_TRACE_CTRL_ENABLE 0
  { s with tiles := s.tiles.map (fun e => (e.1, e.2.resumed)), dbg := { s.dbg with segments := [] } }

/-- A debug grant in force ends, with event DEBUG_ENDED and its cause (R467). -/
def State.endGrant (s : State) (cause : Nat) : State :=
  match s.security.grant with
  | none => s
  | some g =>
    let s := { s with security := { s.security with grant := none } }
    (s.stopScopes).event 0xA000 EV_DEBUG_ENDED noDomain (leBytes 1 g.scope ++ leBytes 1 cause)

/-- HOST_RESET (R34, R50, R109, R131): the dies device-reset without HOLD_HBM, every handle ends without a record, queues and
protocol return to reset, a grant ends, DDR and CXL contents become unpredictable, and the host complex boots again. -/
def execHostReset (full : Bool) (s : State) : Out :=
  s.manage 0x03 full <|
  if s.phase ≠ .running then .next s
  else if s.mode = 0xF ∧ s.haltCold = true then .next (s.answer 0x03 ST_REJECTED_MODE [])
  else
    let s := s.answer 0x03 ST_OK []
    let bits := s.resetBits 0x10
    let s := (s.abortAscent).resetQueues
    let s := (s.scramble ddrBase (3 * 2 ^ 40)).scramble cxlBase (4 * 2 ^ 40)
    let s := (((s.newIncarnation).endImage).dropDies 0 false).addCause bits
    let s := (s.toTethered bits).endGrant 3
    .next (s.bootRom true)

/-- START_CLEAR (R34, R45): clears FAILED and EXHAUSTED; rejected during Ascent. -/
def execStartClear (full : Bool) (s : State) : Out :=
  s.manage 0x04 full <|
  if s.phase ≠ .running then .next s
  else if s.mode = 2 then .next (s.answer 0x04 ST_REJECTED_MODE [])
  else .next (((s.answer 0x04 ST_OK []).setFld CTL_START_COUNT_FAILED 0).setFld CTL_START_COUNT_EXHAUSTED 0)

/-- POWER_DOWN (R53, R488): quiesces like a device reset without HOLD_HBM, drives every RAIL_EN low and asserts PWR_OFF_REQ_N. -/
def execPowerDown (full : Bool) (s : State) : Out :=
  s.manage 0x05 full <|
  if s.phase ≠ .running then .next s
  else
    let s := (s.answer 0x05 ST_OK []).resetByRequest 4 false
    let s := s.setRails 0
    .next { s with outs := { s.outs with pwrOffReqN := false } }

/-- RETRY_DELAY has passed since a failed start (R35): under AUTO_ASCENT a new Ascent begins in Tethered. -/
def execRetryDelayExpiry (s : State) : Out :=
  if s.retryPending = true ∧ s.foundation.autoAscent = true ∧ s.inMode 1 = true ∧ s.fld CTL_START_COUNT_EXHAUSTED = 0 then .next s.startAscent
  else .next { s with retryPending := false }

/-! ## Ascent (R38 to R47) -/

/-- The maximum time of a stage (ms, Table MOD-5); HBM per stack. -/
def stageMax (stage : Nat) : Nat :=
  if stage = 1 then 1000 else if stage = 2 then 3000 else if stage = 3 then 8000 else if stage = 4 then 1500
  else if stage = 5 then 1000 else if stage = 6 then 4500 else 1000

/-- The reason of a stage that has run `ms`: STAGE_TIMEOUT past its maximum (R38, R47); 0 when it passed. -/
def stageReason (stage : Nat) (reason : BitVec 12) (ms : Nat) : Nat :=
  if ms > stageMax stage then stage * 0x1000 + 0xFFF
  else if reason = 0#12 then 0 else stage * 0x1000 + reason.toNat

/-- The first fitted stack site of compute die `k` from site `x` on. -/
def nextSite (p : Part) (k x : Nat) : Option Nat := (List.range 4).find? (fun i => decide (x ≤ i) && p.stackFitted (4 * k + i))

/-- The unit after unit `u` (R38): compute dies 0–3, then the fitted link dies whose compute die is admitted, then ENTRY. -/
def nextUnit (p : Part) (dies u : Nat) : Nat :=
  ((fromTo (u + 1) (8 - u)).find? (fun v => decide (v < 4) || v == 8 ||
    (decide (v - 4 < p.links) && bitOf dies (linkHost (v - 4))))).getD 8

/-- The Ascent of this state shown in CTL_MODE. -/
def State.showAscent (s : State) (a : Ascent) : State :=
  let s := { s with ascent := some { a with since := s.localNs } }
  let s := s.setFld CTL_MODE_STAGE a.stage
  let s := s.setFld CTL_MODE_UNIT_KIND (if a.unit < 4 then 1 else if a.unit < 8 then 3 else 0)
  s.setFld CTL_MODE_UNIT_INDEX (if a.unit < 8 then a.unit % 4 else 0)

/-- The next unit's first stage begins, or ENTRY. -/
def State.beginUnit (s : State) (a : Ascent) (u : Nat) : State :=
  let a := { a with unit := u, stage := if u = 8 then 7 else 1, site := 0, stageMs := 0, holes := 0 }
  (s.showAscent a).enableRails a

/-- The next stage of the unit begins. -/
def State.nextStage (s : State) (a : Ascent) (stage : Nat) : State := s.showAscent { a with stage := stage, stageMs := 0 }

/-- The unit in progress is left out (R38): its entry shows the stage and the reason; a compute die takes its stacks and its link
die with it (R27, R47). -/
def State.leaveOut (s : State) (a : Ascent) (reason : Nat) : State :=
  let e : ReportEntry := { stage := a.stage, outcome := 1, holes := a.holes, reason := reason, ms := a.stageMs }
  let es := a.entries.set (dieSlot a.unit) e
  let lost (es : List ReportEntry) (i : Nat) :=
    let x := es.getD i {}
    if x.outcome = 2 then es else es.set i { x with outcome := 3, reason := reason }
  if a.unit < 4 then
    let es := (List.range 4).foldl (fun es i => lost es (4 + 4 * a.unit + i)) es
    let es := (List.range 4).foldl (fun es n => if linkHost n = a.unit then lost es (20 + n) else es) es
    let s := { s with
      hbmStacks := (List.range 4).foldl (fun m i => withoutBit m (4 * a.unit + i)) s.hbmStacks,
      unusable := s.unusable.filter (fun t => dieOf t != a.unit) }
    let s := s.setFld HST_LINK_STATUS_UP (withoutBit (s.fld HST_LINK_STATUS_UP) a.unit)
    let s := (List.range 4).foldl (fun s i => s.resetStack (4 * a.unit + i)) s
    let s := ((List.range 384).filter (fun t => dieOf t == a.unit)).foldl (fun s t => s.resetRegRange (TIL_ID t) 0x1_0000) s
    s.beginUnit { a with entries := es } (nextUnit s.part s.dies a.unit)
  else s.beginUnit { a with entries := es } (nextUnit s.part s.dies a.unit)

/-- The unit in progress is admitted: its entry shows REASON 0 and its holes or ports. -/
def State.admitUnit (s : State) (a : Ascent) (holes : Nat) : State :=
  let es := a.entries.set (dieSlot a.unit) { stage := a.stage, outcome := 0, holes := holes, reason := 0, ms := a.stageMs }
  let s := if a.unit < 4 then { s with dies := withBit s.dies a.unit }
    else { s with links := withBit s.links (a.unit - 4) }
  s.beginUnit { a with entries := es } (nextUnit s.part s.dies a.unit)

/-- The Ascent in its stage `stage`, with the time taken. -/
def State.inStage (s : State) (stage : Nat) : Option Ascent :=
  if s.inMode 2 then s.ascent.bind (fun a => if a.stage = stage then some a else none) else none

/-- The rails of the unit in its POWER stage are good (Table MOD-5). -/
def State.railsGood (s : State) (a : Ascent) : Bool :=
  bitOf s.railPg 9 && bitOf s.railPg 14 && (decide (a.unit < 4) || bitOf s.railPg 12) && bitOf s.railPg a.rail

/-- The POWER stage of a die ends (R38, R50): a compute die's host-die port exists from here on, and its voltage offset is measured (R431). -/
def execAscentPowerStage (reason : BitVec 12) (ms : Nat) (s : State) : Out :=
  match s.inStage 1 with
  | none => .next s
  | some a =>
    let r := stageReason 1 reason ms
    if r = 0 ∧ s.railsGood a = false then .next s
    else
      let s := s.stageEnds a ms
      let a := a.spend ms
      if r ≠ 0 then .next (s.leaveOut a r)
      else if a.unit < 4 then
        let s := s.setFld HST_LINK_STATUS_UP (withBit (s.fld HST_LINK_STATUS_UP) a.unit)
        let site := (nextSite s.part a.unit 0).getD 0
        .next ((s.measureOffset a.unit).showAscent { a with stage := 2, stageMs := 0, site := site })
      else .next (s.nextStage a 6)

/-- A stack of the HBM stage is admitted or left out with `reason` (R40); the stage ends after the last fitted site, and a die
with no admitted stack is left out with NO_STACK. -/
def State.endStack (s : State) (a : Ascent) (reason retries ms : Nat) : State :=
  let x := 4 * a.unit + a.site
  let e : ReportEntry := { stage := 2, outcome := if reason = 0 then 0 else 1, holes := satTo 255 retries, reason := reason, ms := ms }
  let a := { a with entries := a.entries.set (4 + x) e }
  let s := if reason = 0 then
      let s := { s with hbmStacks := withBit s.hbmStacks x }
      let s := s.setFld (HBM_STATUS_STATE x) 1
      let s := s.setFld (HBM_STATUS_SITE x) a.site
      let s := s.setFld (HBM_STATUS_DIE x) a.unit
      s.setFld (HBM_STATUS_PCS x) 64
    else s.resetStack x
  let s := { s with selfRefresh := withoutBit s.selfRefresh x }
  match nextSite s.part a.unit (a.site + 1) with
  | some y => s.showAscent { a with site := y }
  | none =>
    if (List.range 4).any (fun i => bitOf s.hbmStacks (4 * a.unit + i)) then s.nextStage a 3
    else s.leaveOut a RS_NO_STACK

/-- The training of one stack ends (R40). A stack in self-refresh is first retrained without leaving it (`warmOk`); when that
fails its contents are lost, its PRESERVED bit clears, and `reason` is the outcome of the cold training. -/
def execAscentHbmStack (warmOk : Bool) (reason : BitVec 12) (retries : BitVec 8) (ms : Nat) (s : State) : Out :=
  match s.inStage 2 with
  | none => .next s
  | some a =>
    let x := 4 * a.unit + a.site
    let held := bitOf s.selfRefresh x
    let s := s.stageEnds a ms
    let a := a.spend ms
    let late := decide (ms > 3000)
    let lost := held && (late || !warmOk)
    let s := if lost then
        let s := s.setFld CTL_HBM_PRESERVED_PRESERVED (withoutBit (s.fld CTL_HBM_PRESERVED_PRESERVED) x)
        { s with hbmSet := withoutBit s.hbmSet x }
      else s
    let r := if late then 0x2FFF else if held && warmOk then 0 else if reason = 0#12 then 0 else 0x2000 + reason.toNat
    .next (s.endStack a r retries.toNat ms)

/-- The usable width of an array whose bad columns are `mask` (Table ARR-10). -/
def usableWidth (mask : Word) : Nat := 64 - ((List.range 64).filter (fun i => mask.getLsbD i)).length

/-- The bad-column mask of an array of a tile. -/
def badMask (bad : List BadColumns) (t a : Nat) : Word :=
  match bad.find? (fun b => b.tile.val == t && b.array.val == a) with
  | some b => b.mask
  | none => 0#64

/-- The tiles of compute die `k`. -/
def tilesOfDie (k : Nat) : List Nat := (List.range 384).filter (fun t => dieOf t == k)

/-- A tile's registers after its self-test (R41, R207, Table ARR-10): bypass masks and widths of its arrays, and whether it is usable. -/
def State.showTile (s : State) (bad : List BadColumns) (t : Nat) (ok : Bool) : State :=
  let m (a : Nat) := badMask bad t a
  let s := s.setReg (ARR_BYPASS_F t) (m 0)
  let s := s.setReg (ARR_BYPASS_B0 t) (m 1)
  let s := s.setReg (ARR_BYPASS_B1 t) (m 2)
  let s := s.setFld (ARR_SHAPE_F_WIDTH t) (usableWidth (m 0))
  let s := s.setFld (ARR_SHAPE_B0_WIDTH t) (usableWidth (m 1))
  let s := s.setFld (ARR_SHAPE_B1_WIDTH t) (usableWidth (m 2))
  if ok then s.setFld (TIL_ID_USABLE t) 1 else s.setFld (TIL_STATE_STATE t) 7

/-- The ARRAY self-test of a compute die ends (R41): a tile is unusable when its own test failed or one of its arrays has more
than eight bad columns; more than MAX_TILE_HOLES of them leave the die out with TILE_HOLES. -/
def execAscentArrayStage (unusable : List (Fin 384)) (bad : List BadColumns) (reason : BitVec 12) (ms : Nat) (s : State) : Out :=
  match s.inStage 3 with
  | none => .next s
  | some a =>
    let tiles := tilesOfDie a.unit
    let out := tiles.filter (fun t => unusable.any (fun u => u.val == t) ||
      [0, 1, 2].any (fun x => decide (usableWidth (badMask bad t x) < 56)))
    let r := stageReason 3 reason ms
    let r := if r = 0 ∧ out.length > s.foundation.maxTileHoles then RS_TILE_HOLES else r
    let s := s.stageEnds a ms
    let a := { a.spend ms with holes := out.length }
    if r ≠ 0 then .next (s.leaveOut a r)
    else
      let s := { s with unusable := s.unusable ++ out }
      let s := tiles.foldl (fun s t => s.showTile bad t (!out.contains t)) s
      .next (s.nextStage a 4)

/-- The MESH test of a compute die ends (R38). -/
def execAscentMeshStage (reason : BitVec 12) (ms : Nat) (s : State) : Out :=
  match s.inStage 4 with
  | none => .next s
  | some a =>
    let r := stageReason 4 reason ms
    let s := s.stageEnds a ms
    let a := a.spend ms
    .next (if r ≠ 0 then s.leaveOut a r else s.nextStage a 5)

/-- The ports of compute die `k` to admitted adjacent dies (R18, R39). -/
def portsOf (dies k : Nat) : List Nat :=
  (List.range 4).filter (fun p =>
    let (x, y) := portDies p
    (x == k && bitOf dies y) || (y == k && bitOf dies x))

/-- The UCIE stage of a compute die ends (R39): the ports of `failed` to admitted neighbours did not train; with none trained the
die is left out as ISOLATED, otherwise each failure is a CORRECTED record of the port. A die without an admitted neighbour is never left
out here. -/
def execAscentUcieStage (failed : List (Fin 4 × BitVec 12)) (ms : Nat) (s : State) : Out :=
  match s.inStage 5 with
  | none => .next s
  | some a =>
    let ports := portsOf s.dies a.unit
    let bad (p : Nat) := (failed.find? (fun f => f.1.val == p)).map (fun f => f.2.toNat)
    let good := ports.filter (fun p => (bad p).isNone)
    let s := s.stageEnds a ms
    let a := a.spend ms
    if ms > 1000 ∧ ports ≠ [] then .next (s.leaveOut a 0x5FFF)
    else if !ports.isEmpty && good.isEmpty then .next (s.leaveOut a RS_ISOLATED)
    else
      let s := ports.foldl (fun s p =>
        match bad p with
        | some r => s.report (0x8030 + p) 0 { code := 0x5000 + r }
        | none => s) s
      let s := { s with d2dUp := good.foldl withBit s.d2dUp }
      .next (s.admitUnit a a.holes)

/-- The ports of link die `n` that came up (R345, R347): those of `ports` that are configured and have no failed lane. -/
def State.portsTrained (s : State) (n : Nat) (ports : Nat) (failedLanes : List (Fin 12 × BitVec 8)) : Nat :=
  (bitsSet ports 12).foldl (fun m p =>
    if (s.portCfg n p).speed ≠ 0 ∧ failedLanes.all (fun f => f.1.val != p || s.laneMask n p f.2.toNat == 0) then withBit m p else m) 0

/-- The ports of link die `n` shown as they stand at the end of its LINE stage (R42). -/
def State.showPorts (s : State) (n up : Nat) (failedLanes : List (Fin 12 × BitVec 8)) : State :=
  let s := (List.range 12).foldl (fun (s : State) p => s.showPort n p (bitOf up p)) s
  failedLanes.foldl (fun (s : State) f =>
    s.setFld (LNK_PORT_STATUS_FAILED_LANES n f.1.val) (s.laneMask n f.1.val f.2.toNat)) s

/-- Whether a peer of the foundation image's list shares no Zwine major version (R42, R355, Table MOD-9). -/
def State.peerRejected (s : State) : Bool :=
  (List.range s.foundation.peers.length).any (fun r => r != s.foundation.ownRank && (s.peerState r).state == 4)

/-- The LINE stage of a link die ends (R42): left out when its buffer SRAM fails, when no port comes up, or when a listed peer shares no
Zwine major version; listed peers not yet greeted are greeted over the ports that are up. -/
def execAscentLineStage (sramOk : Bool) (ports : BitVec 12) (failedLanes : List (Fin 12 × BitVec 8)) (ms : Nat) (s : State) : Out :=
  match s.inStage 6 with
  | none => .next s
  | some a =>
    let n := a.unit - 4
    let up := s.portsTrained n ports.toNat failedLanes
    let r := if ms > 4500 then 0x6FFF else if !sramOk then RS_SRAM_BIST
      else if up = 0 then RS_NO_PORT_UP else if s.peerRejected then RS_ZWINE_VERSION else 0
    let s := s.stageEnds a ms
    let a := { a.spend ms with holes := popcount up }
    if r ≠ 0 then .next (s.leaveOut a r)
    else
      let s := (s.showPorts n up failedLanes).setFld (LNK_STATUS_ADMITTED n) 1
      .next ((s.admitUnit a a.holes).greetPeers n)

/-- The admitted dies reached from `seen` over trained ports in `n` rounds (R27, R43). -/
def reachDies (up : Nat) : Nat → Nat → Nat
  | 0, seen => seen
  | n + 1, seen => reachDies up n ((List.range 4).foldl (fun m p =>
      let (x, y) := portDies p
      if bitOf up p then (if bitOf m x then withBit m y else if bitOf m y then withBit m x else m) else m) seen)

/-- Whether the admitted compute dies are joined by trained ports; no admitted die counts as not joined (DESIGN CHOICE). -/
def State.diesJoined (s : State) : Bool :=
  match (List.range 4).find? (bitOf s.dies) with
  | none => false
  | some k => (List.range 4).all (fun j => !bitOf s.dies j || bitOf (reachDies s.d2dUp 4 (withBit 0 k)) j)

/-- The reason of the first failing check of the ENTRY stage (R43); 0 when all pass. -/
def State.entryReason (s : State) : Nat :=
  let f := s.foundation
  let minLinks := min f.minLinkDies s.part.links
  let line := (List.range 4).any (fun n => bitOf s.links n && bitOf s.dies (linkHost n))
  let whole := popcount s.dies == 4 && popcount s.hbmStacks == s.part.hbmStacks && popcount s.links == s.part.links
  if !line && minLinks != 0 then RS_NO_LINE
  else if !s.diesJoined then RS_NO_PATH
  else if popcount s.dies < f.minComputeDies ∨ popcount s.links < minLinks ∨ popcount s.hbmStacks < min f.minStacks s.part.hbmStacks
  then RS_BELOW_MINIMUM
  else if !whole && !f.holesAllowed then RS_HOLES_FORBIDDEN
  else 0

/-- An Ascent that fails other than by a FATAL error (R45): the report, START_FAILED, a device reset, and in Tethered the retry
delay under AUTO_ASCENT (R35). -/
def State.ascentFails (s : State) (a : Ascent) (reason : Nat) (hostLink : Bool) : State :=
  let s := s.failStart a reason false hostLink
  let s := s.deviceReset (if hostLink then 0x28 else 0x20) false (!hostLink)
  { s with retryPending := s.foundation.autoAscent && s.fld CTL_START_COUNT_EXHAUSTED == 0 }

/-- Aloft entry (R32, R43, R86, R88): a module whose peer list is empty is its own time master, and so is the one that stands first in it
unless a HELLO has named another; otherwise the measurement of the offset starts. HBM holds what was preserved only when the same stacks are back. -/
def State.enterAloft (s : State) (a : Ascent) : State :=
  let holes := !(popcount s.dies == 4 && popcount s.hbmStacks == s.part.hbmStacks && popcount s.links == s.part.links)
  let s := s.writeReport a (if holes then 1 else 0) 0
  let s := s.setFld CTL_MODE_HOLES (if holes then 1 else 0)
  let s := s.setMode 3 0
  let s := if s.hbmSet = s.hbmStacks ∧ s.fld CTL_HBM_PRESERVED_PRESERVED = s.hbmStacks then
      { s with hbmMap := plainMap s.hbmStacks }
    else (s.scramble hbmBase hbmSpan).plainLayout
  let s := { s with hbmSet := s.hbmStacks }
  if s.foundation.peers.isEmpty || s.timeMaster == s.foundation.ownRank then s.becomeMaster else s.followMaster s.timeMaster

/-- The ENTRY stage (R43): Aloft, Aloft with holes, or a failed start with the reason of the first failing check. -/
def execAscentEntryStage (ms : Nat) (s : State) : Out :=
  match s.inStage 7 with
  | none => .next s
  | some a =>
    let s := s.stageEnds a ms
    let a := a.spend ms
    let r := if ms > 1000 then 0x7FFF else s.entryReason
    if r = 0 then .next (s.enterAloft a) else .next (s.ascentFails a r false)

/-- The stage in progress exceeds its maximum time (R38): it ends with STAGE_TIMEOUT; in the HBM stage the stack ends so, after `retries`
training retries, and a held stack's contents are lost. A die without an admitted neighbour passes its UCIE stage even so (R39). -/
def execStageTimeout (retries : BitVec 8) (s : State) : Out :=
  match s.ascent with
  | none => .next s
  | some a =>
    if s.inMode 2 = false then .next s
    else
      let ms := stageMax a.stage
      let s := s.stageEnds a ms
      let b := a.spend ms
      let r := a.stage * 0x1000 + 0xFFF
      if a.stage = 7 then .next (s.ascentFails b r false)
      else if a.stage = 2 then
        let x := 4 * a.unit + a.site
        let s := if bitOf s.selfRefresh x then
            ({ s with hbmSet := withoutBit s.hbmSet x }).setFld CTL_HBM_PRESERVED_PRESERVED
              (withoutBit (s.fld CTL_HBM_PRESERVED_PRESERVED) x)
          else s
        .next (s.endStack b r retries.toNat ms)
      else if a.stage = 5 ∧ portsOf s.dies a.unit = [] then .next (s.admitUnit b b.holes)
      else if a.stage = 6 then .next (s.leaveOut { b with holes := popcount (s.fld (LNK_STATUS_PORTS_UP (a.unit - 4))) } r)
      else .next (s.leaveOut b r)

/-! ## Rails (R487) -/

/-- RAIL_PG of an enabled rail rises (R487): the sequence that waits on it proceeds. -/
def execRailPgRise (r : Fin 15) (s : State) : Out :=
  if bitOf s.outs.railEn r.val then
    let s := { s with railPg := withBit s.railPg r.val }
    match s.inStage 1 with
    | some a => .next (s.enableRails a)
    | none => .next s
  else .next s

/-- A RAIL_PG that has not risen 20 ms after its enable ends the POWER stage with RAIL_TIMEOUT (R487). -/
def execRailPgTimeout (r : Fin 15) (s : State) : Out :=
  match s.inStage 1 with
  | none => .next s
  | some a =>
    if bitOf s.outs.railEn r.val && !bitOf s.railPg r.val then
      .next ((s.stageEnds a 20).leaveOut (a.spend 20) RS_RAIL_TIMEOUT)
    else .next s

/-- A RAIL_PG falls (R487): outside Tethered and Ascent a FATAL record of unit class 9 with the rail's number (9 for both
supplies of rail 9), and the module enters Halted; the rail stays off until the next device reset and its dies' contents are
unpredictable. -/
def execRailPgFall (r : Fin 15) (s : State) : Out :=
  if !bitOf s.railPg r.val then .next s
  else
    let rail := if r.val = 14 then 9 else r.val
    let s := { s with railPg := withoutBit s.railPg r.val }
    if s.inMode 3 || s.inMode 0xF then
      let s := s.setRails (withoutBit s.outs.railEn r.val)
      let s := s.fault (0x9000 + rail) 3 { code := ST_UNIT_FAULT }
      .next (if rail = 9 then s.scramble hbmBase hbmSpan
        else if rail < 4 then (tilesOfDie rail).foldl (fun s t => s.scramble (padAddr t) padSize) s else s)
    else .next s

/-! ## Host-die ports (R50, R108) -/

/-- Flits replayed, or a retrain of 1 ms or less, at the host-die port of compute die `k` (R108, R421). -/
def execHostPortRetrain (k : Fin 4) (replays : Nat) (retrain : Bool) (s : State) : Out :=
  if bitOf (s.fld HST_LINK_STATUS_UP) k.val then
    .next ((if retrain then s.addFld HST_LINK_STATUS_RETRAINS 1 else s).portReplay (0x7300 + k.val) replays retrain)
  else .next s

/-- The compute die behind whose host-die port an address lies (R97, R99, R108): the die of a pseudo-channel of HBM, of a scratchpad, or
of a register block of a die's units; push windows reach the die of their target. -/
def State.dieBehind (s : State) (a : Nat) : Option Nat :=
  if s.isHbm a then some (s.channelOf a / 256)
  else if s.isPad a then some (dieOf ((a - padBase) / 0x40_0000))
  else if blockBase + 0x100_0000 ≤ a ∧ a < blockBase + 0x140_0000 then some (linkHost ((a - blockBase - 0x100_0000) / 0x10_0000))
  else if blockBase + 0x200_0000 ≤ a ∧ a < blockBase + 0x210_0000 then some ((a - blockBase - 0x200_0000) / 0x1_0000 / 4)
  else if blockBase + 0x1000_0000 ≤ a ∧ a < blockBase + 0x1180_0000 then some (dieOf ((a - blockBase - 0x1000_0000) / 0x1_0000))
  else if 0xF000_8000_0000 ≤ a ∧ a < 0xF000_C000_0000 then
    let n := (a - 0xF000_8000_0000) / 2 ^ 24
    let o := a % 2 ^ 24
    let target := s.fld (HST_PUSH_CFG_TARGET n)
    if s.fld (HST_PUSH_CFG_TYPE n) = 3 then some (dieOf (target + o / 0x40_0000))
    else if s.isHbm (hbmBase + target * 2 ^ 24 + o) then some (s.channelOf (hbmBase + target * 2 ^ 24 + o) / 256)
    else none
  else none

/-- A host-core access to a retraining port has waited 2 ms (R108): it takes an access fault, and HST_FAULT_ADDR names it. An address
behind no compute die's port waits for none. -/
def execHostAccessTimeout (addr : BitVec 48) (s : State) : Out :=
  if s.phase = .running ∧ ((s.dieBehind addr.toNat).any (fun k => bitOf (s.fld HST_LINK_STATUS_UP) k)) = true then
    let s := (s.setFld HST_FAULT_ADDR_ADDR addr.toNat).setFld HST_FAULT_ADDR_SOURCE 0
    .next { s with outs := { s.outs with hostFault := true, hostData := [] } }
  else .next s

end Sys2Proof.Machine
end

