-- ==== Sys2Proof/Machine/Debug.lean ====
section
/-!
DEFINITION. The Debug Port, halts, trace control and the global counters (R468, R471 to R476, R479).
-/
namespace Sys2Proof.Config

/-- The code of an instruction of the Debug Port, which the spec leaves to the BSDL description (R479). -/
opaque jtagCode (i : Machine.JtagInstr) : BitVec 8

end Sys2Proof.Config

namespace Sys2Proof.Machine

/-! ## Boundary scan (R468, R479) -/

/-- The 8 bits of the instruction register (R479): the codes are in the BSDL description, but for BYPASS, all ones. -/
def State.instructionRegister (s : State) : BitVec 8 := if s.dbg.ir = .bypass then 0xFF#8 else Config.jtagCode s.dbg.ir

/-- The 32 bits of IDCODE 0x1D8A_04B7, least significant first. -/
def idcode : List Bool := (List.range 32).map (bitOf 0x1D8A04B7)

/-- Bits shifted through a register that captured `cells`: what leaves it, and what it then holds. -/
def shifted (cells tdi : List Bool) : List Bool × List Bool :=
  ((cells ++ tdi).take tdi.length, (cells ++ tdi).drop tdi.length)

/-- The Debug Port with instruction `i` in its register, shifting `out` out and driving no pin. -/
def State.jtagOut (s : State) (i : JtagInstr) (out : List Bool) : State :=
  { s with outs := { s.outs with jtag := out }, dbg := { s.dbg with ir := i, driven := [] } }

/-- Whether the Debug Port has its supplies. -/
def State.jtagOn (s : State) : Bool := s.phase != .off

/-- An instruction acts as BYPASS: a one-bit register that captured 0. -/
def State.jtagPass (s : State) (i : JtagInstr) (tdi : List Bool) : State := s.jtagOut i (shifted [false] tdi).1

/-- JTAG_BYPASS. -/
def execJtagBypass (tdi : List Bool) (s : State) : Out := if s.jtagOn then .next (s.jtagPass .bypass tdi) else .next s

/-- JTAG_IDCODE. -/
def execJtagIdcode (tdi : List Bool) (s : State) : Out := if s.jtagOn then .next (s.jtagOut .idcode (shifted idcode tdi).1) else .next s

/-- JTAG_SAMPLE_PRELOAD: the boundary cells capture the pins, and hold what is shifted in. -/
def execJtagSamplePreload (tdi pins : List Bool) (s : State) : Out :=
  if s.jtagOn then
    let r := shifted pins tdi
    .next ({ s with dbg := { s.dbg with cells := r.2 } }.jtagOut .samplePreload r.1)
  else .next s

/-- JTAG_EXTEST (R468): acted on only while RST_N is asserted, when the cells drive the pins; otherwise as BYPASS. -/
def execJtagExtest (tdi pins : List Bool) (s : State) : Out :=
  if s.jtagOn = false then .next s
  else if s.rstN then .next (s.jtagPass .extest tdi)
  else
    let r := shifted pins tdi
    .next { s with dbg := { s.dbg with ir := .extest, cells := r.2, driven := r.2 }, outs := { s.outs with jtag := r.1 } }

/-- JTAG_CLAMP (R468): acted on only while RST_N is asserted, when the preloaded cells drive the pins; the data register is BYPASS. -/
def execJtagClamp (tdi : List Bool) (s : State) : Out :=
  if s.jtagOn = false then .next s
  else if s.rstN then .next (s.jtagPass .clamp tdi)
  else .next { s with dbg := { s.dbg with ir := .clamp, driven := s.dbg.cells }, outs := { s.outs with jtag := (shifted [false] tdi).1 } }

/-- INSTRUMENT_ACCESS (R468, R479): under INSTRUMENTS the segment bits take what is shifted in and the instruments' values `capture` are
shifted out; without it the segment bits read as zero and take no writes. -/
def execInstrumentAccess (tdi capture : List Bool) (s : State) : Out :=
  if s.jtagOn = false then .next s
  else if bitOf s.scope 0 then
    let r := shifted (s.dbg.segments ++ capture) tdi
    .next ({ s with dbg := { s.dbg with segments := tdi } }.jtagOut .instrument r.1)
  else .next (s.jtagOut .instrument (List.replicate tdi.length false))

/-! ## Halt and trace control (R473, R475, R480) -/

/-- A write that needs a scope not in force is ignored and counted (R480). -/
def State.deny (s : State) : State := s.addFld DBG_STATUS_DENIED 1

/-- Cores halted now. -/
def State.halted (s : State) : Nat := (s.tiles.filter (fun e => e.2.run == .halted)).length

/-- HALT_RESUME (R475): a write of DBG_HALT restarts the halted core of the tile it names. -/
def execHaltResume (value : Word) (s : State) : Out :=
  if s.phase ≠ .running then .next s
  else if !(bitOf s.scope 1) then .next s.deny
  else
    let t := bitsOf value.toNat 0 9
    if (s.tile t).run = .halted then .next (s.setTile t (s.tile t).resumed) else .next s

/-- TRACE_ENABLE (R473): a write of DBG_TRACE_CTRL, under TRACE. -/
def execTraceEnable (value : Word) (s : State) : Out :=
  if s.phase ≠ .running then .next s
  else if !(bitOf s.scope 2) then .next s.deny
  else .next (s.setReg DBG_TRACE_CTRL (word (value.toNat &&& 0x7FFFFF03)))

/-! ## Global counters (R471) -/

/-- The 14 counters of a set shown; ENERGY is kept in µJ. -/
def State.showCounts (s : State) (set : Nat) (reg : Nat → Nat) : State :=
  (List.range 14).foldl (fun s i =>
    let n := (smapFind s.counts (16 * set + i)).getD 0
    s.setReg (reg i) (word (if i = 13 then n / 1000 else n))) s

/-- DEBUG_COUNTER_UPDATE (R471), every 1 µs: the dies send their counts to the DBG block. -/
def execDebugCounterUpdate (s : State) : Out :=
  if s.phase ≠ .running then .next s
  else .next ((List.range 64).foldl (fun (s : State) d => if (s.domEntry d).isSome then s.showCounts d (DBG_GCNT d) else s)
    (s.showCounts 64 DBG_PCNT))

end Sys2Proof.Machine
end

