-- ==== Sys2Proof/Machine/Numbers.lean ====
section
/-!
DEFINITION. Numbers: the element and stream types (Table NUM-1, R167), their encodings, rounding, exact sums and products,
and Philox4x32-10 (chapters 08 to 11).
-/
namespace Sys2Proof.Machine

/-! ## Encodings -/

/-- Which encodings with an all-ones exponent are no finite number. -/
inductive Specials where
  /-- Inf and NaN -/
  | ieee
  /-- NaN at an all-ones mantissa only -/
  | nanOnly
  | none
deriving DecidableEq, Repr

/-- A binary floating-point encoding: exponent and mantissa widths, bias and specials. -/
structure FloatFmt where
  ebits : Nat
  mbits : Nat
  bias : Nat
  sp : Specials
deriving DecidableEq, Repr

def fp64 : FloatFmt := ⟨11, 52, 1023, .ieee⟩
def fp32 : FloatFmt := ⟨8, 23, 127, .ieee⟩
def bf16 : FloatFmt := ⟨8, 7, 127, .ieee⟩
def fp16 : FloatFmt := ⟨5, 10, 15, .ieee⟩

/-- The encoding of element type `ty` (Table NUM-1); INT8 has none. -/
def elemFmt (ty : Nat) : Option FloatFmt :=
  match ty with
  | 0 => some fp32
  | 1 => some bf16
  | 2 => some fp16
  | 3 => some ⟨4, 3, 7, .nanOnly⟩
  | 4 => some ⟨5, 2, 15, .ieee⟩
  | 5 => some ⟨3, 2, 3, .none⟩
  | 6 => some ⟨2, 3, 1, .none⟩
  | 7 => some ⟨2, 1, 1, .none⟩
  | _ => none

/-- The width in bits of element type `ty`. -/
def elemBits (ty : Nat) : Nat :=
  match ty with
  | 0 => 32 | 1 => 16 | 2 => 16 | 3 => 8 | 4 => 8 | 5 => 6 | 6 => 6 | 7 => 4 | _ => 8

/-- A number that an encoding holds: NaN, an infinity, or (−1)^neg · m · 2^e. -/
inductive Num where
  | nan
  | inf (neg : Bool)
  | fin (neg : Bool) (m : Nat) (e : Int)
deriving DecidableEq, Repr

def Num.zero : Num := .fin false 0 0

/-- 2^e for e ≥ 0, and 1 below. -/
def pow2 (e : Int) : Nat := 2 ^ e.toNat

/-- Whether m · 2^e > n · 2^f. -/
def magGt (m : Nat) (e : Int) (n : Nat) (f : Int) : Bool := decide (n * pow2 (f - e) < m * pow2 (e - f))

/-- The exponent of the smallest unit of an encoding. -/
def FloatFmt.qmin (f : FloatFmt) : Int := 1 - (f.bias : Int) - f.mbits

/-- The significand and exponent of the largest finite number. -/
def FloatFmt.maxM (f : FloatFmt) : Nat := if f.sp = .nanOnly then 2 ^ (f.mbits + 1) - 2 else 2 ^ (f.mbits + 1) - 1
def FloatFmt.maxE (f : FloatFmt) : Int :=
  (2 ^ f.ebits : Nat) - (if f.sp = .ieee then 2 else 1) - (f.bias : Int) - f.mbits

/-- The number that a bit pattern holds. -/
def FloatFmt.decode (f : FloatFmt) (raw : Nat) : Num :=
  let neg := bitOf raw (f.ebits + f.mbits)
  let e := bitsOf raw f.mbits f.ebits
  let m := bitsOf raw 0 f.mbits
  let top := e == 2 ^ f.ebits - 1
  if f.sp = .ieee && top then (if m = 0 then .inf neg else .nan)
  else if f.sp = .nanOnly && top && m == 2 ^ f.mbits - 1 then .nan
  else if e = 0 then .fin neg m f.qmin
  else .fin neg (2 ^ f.mbits + m) (f.qmin + (e - 1 : Nat))

/-- The sign bit of an encoding. -/
def FloatFmt.signBit (f : FloatFmt) (neg : Bool) : Nat := if neg then 2 ^ (f.ebits + f.mbits) else 0

/-- The bit pattern of a magnitude that the encoding holds exactly: k · 2^q. -/
def FloatFmt.packMag (f : FloatFmt) (k : Nat) (q : Int) : Nat :=
  if k = 0 then 0
  else
    let e := (Nat.log2 k : Int) + q
    if e < f.qmin + f.mbits then k * pow2 (q - f.qmin) / pow2 (f.qmin - q)
    else (e + f.bias).toNat * 2 ^ f.mbits + (k * pow2 (q - (e - f.mbits)) / pow2 (e - f.mbits - q)) % 2 ^ f.mbits

/-- The canonical NaN, the infinities and the largest finite number of an encoding with specials (R184, R237). -/
def FloatFmt.nanBits (f : FloatFmt) : Nat := (2 ^ f.ebits - 1) * 2 ^ f.mbits + 2 ^ (f.mbits - 1)
def FloatFmt.infBits (f : FloatFmt) : Nat := (2 ^ f.ebits - 1) * 2 ^ f.mbits
def FloatFmt.maxBits (f : FloatFmt) : Nat := f.packMag f.maxM f.maxE

/-! ## Rounding -/

/-- m · 2^e as a multiple of 2^q, rounded to nearest with ties to even. -/
def rneAt (m : Nat) (e q : Int) : Nat :=
  if q ≤ e then m * pow2 (e - q)
  else
    let d := pow2 (q - e)
    let k := m / d
    let r := m % d
    if d < 2 * r ∨ (2 * r = d ∧ k % 2 = 1) then k + 1 else k

/-- The unit in the last place of m · 2^e at `p` mantissa bits, no smaller than `lo`. -/
def ulpOf (p : Nat) (lo : Int) (m : Nat) (e : Int) : Int := max ((Nat.log2 m : Int) + e - p) lo

/-- A magnitude rounded to an encoding with subnormals kept: an overflow gives the infinity. -/
def FloatFmt.round (f : FloatFmt) (neg : Bool) (m : Nat) (e : Int) : Num :=
  if m = 0 then .fin neg 0 0
  else
    let q := ulpOf f.mbits f.qmin m e
    let k := rneAt m e q
    if magGt k q f.maxM f.maxE then .inf neg else .fin neg k q

/-- The bit pattern of a number that the encoding holds. -/
def FloatFmt.encode (f : FloatFmt) : Num → Nat
  | .nan => f.nanBits
  | .inf neg => f.signBit neg + f.infBits
  | .fin neg m e => f.signBit neg + f.packMag m e

/-! ## Arithmetic: exact, then rounded once -/

/-- The signed significand of a finite number at exponent `q`, no larger than its own. -/
def signedAt (neg : Bool) (m : Nat) (e q : Int) : Int :=
  if neg then -((m * pow2 (e - q) : Nat) : Int) else (m * pow2 (e - q) : Nat)

/-- The exact sum of two finite numbers; −0 only from two negative zeros. -/
def exactAdd (n1 : Bool) (m1 : Nat) (e1 : Int) (n2 : Bool) (m2 : Nat) (e2 : Int) : Num :=
  let q := min e1 e2
  let v := signedAt n1 m1 e1 q + signedAt n2 m2 e2 q
  if v = 0 then .fin (n1 && n2 && decide (m1 = 0 ∧ m2 = 0)) 0 0 else .fin (decide (v < 0)) v.natAbs q

/-- A number rounded to an encoding. -/
def FloatFmt.fit (f : FloatFmt) : Num → Num
  | .fin neg m e => f.round neg m e
  | x => x

/-- a + b without rounding. -/
def Num.add : Num → Num → Num
  | .nan, _ => .nan
  | _, .nan => .nan
  | .inf a, .inf b => if a = b then .inf a else .nan
  | .inf a, _ => .inf a
  | _, .inf b => .inf b
  | .fin n1 m1 e1, .fin n2 m2 e2 => exactAdd n1 m1 e1 n2 m2 e2

def Num.neg : Num → Num
  | .nan => .nan
  | .inf a => .inf (!a)
  | .fin n m e => .fin (!n) m e

def Num.abs : Num → Num
  | .nan => .nan
  | .inf _ => .inf false
  | .fin _ m e => .fin false m e

/-- a × b without rounding. -/
def Num.mul : Num → Num → Num
  | .nan, _ => .nan
  | _, .nan => .nan
  | .inf a, .inf b => .inf (a != b)
  | .inf a, .fin b m _ => if m = 0 then .nan else .inf (a != b)
  | .fin a m _, .inf b => if m = 0 then .nan else .inf (a != b)
  | .fin n1 m1 e1, .fin n2 m2 e2 => .fin (n1 != n2) (m1 * m2) (e1 + e2)

/-- m1 · 2^e1 / (m2 · 2^e2) to 128 more bits than m2 has, the last one sticky: enough for one correct rounding. -/
def divMag (m1 : Nat) (e1 : Int) (m2 : Nat) (e2 : Int) : Nat × Int :=
  let sh := 128 + Nat.log2 m2
  let n := m1 * 2 ^ sh
  (2 * (n / m2) + (if n % m2 = 0 then 0 else 1), e1 - e2 - sh - 1)

/-- a / b, sticky. -/
def Num.div : Num → Num → Num
  | .nan, _ => .nan
  | _, .nan => .nan
  | .inf _, .inf _ => .nan
  | .inf a, .fin b _ _ => .inf (a != b)
  | .fin a _ _, .inf b => .fin (a != b) 0 0
  | .fin n1 m1 e1, .fin n2 m2 e2 =>
    if m2 = 0 then (if m1 = 0 then .nan else .inf (n1 != n2))
    else
      let (k, q) := divMag m1 e1 m2 e2
      .fin (n1 != n2) k q

/-- The integer square root by bits, from bit `n` down. -/
def sqrtFrom : Nat → Nat → Nat → Nat
  | 0, v, r => if (r + 1) * (r + 1) ≤ v then r + 1 else r
  | n + 1, v, r =>
    let c := r + 2 ^ (n + 1)
    sqrtFrom n v (if c * c ≤ v then c else r)

/-- √(m · 2^e), the last bit sticky. -/
def sqrtMag (m : Nat) (e : Int) : Nat × Int :=
  let sh : Nat := 128 + (if e % 2 = 0 then 0 else 1)
  let v := m * 2 ^ sh
  let r := sqrtFrom (Nat.log2 v / 2 + 1) v 0
  (2 * r + (if r * r = v then 0 else 1), (e - sh) / 2 - 1)

/-- √a, sticky. -/
def Num.sqrt : Num → Num
  | .nan => .nan
  | .inf neg => if neg then .nan else .inf false
  | .fin neg m e =>
    if m = 0 then .fin neg 0 0
    else if neg then .nan
    else
      let (k, q) := sqrtMag m e
      .fin false k q

/-- Whether a < b; false with a NaN. -/
def Num.lt : Num → Num → Bool
  | .nan, _ => false
  | _, .nan => false
  | .inf a, .inf b => a && !b
  | .inf a, .fin _ _ _ => a
  | .fin _ _ _, .inf b => !b
  | .fin n1 m1 e1, .fin n2 m2 e2 =>
    let q := min e1 e2
    decide (signedAt n1 m1 e1 q < signedAt n2 m2 e2 q)

/-- Whether a = b as numbers; false with a NaN. -/
def Num.eq (a b : Num) : Bool := decide (a ≠ .nan ∧ b ≠ .nan) && !(a.lt b) && !(b.lt a)

def Num.isNan : Num → Bool
  | .nan => true
  | _ => false

def Num.isFin : Num → Bool
  | .fin _ _ _ => true
  | _ => false

def Num.isZero : Num → Bool
  | .fin _ m _ => m == 0
  | _ => false

/-- An integer as a number. -/
def numOfInt (v : Int) : Num := .fin (decide (v < 0)) v.natAbs 0

/-- A finite number rounded with RNE to an integer. -/
def rneInt (neg : Bool) (m : Nat) (e : Int) : Int :=
  let k := rneAt m e 0
  if neg then -(k : Int) else k

/-- FP64 arithmetic on bit patterns, with RNE. -/
def f64add (a b : Nat) : Nat := fp64.encode (fp64.fit ((fp64.decode a).add (fp64.decode b)))
def f64sub (a b : Nat) : Nat := fp64.encode (fp64.fit ((fp64.decode a).add (fp64.decode b).neg))
def f64mul (a b : Nat) : Nat := fp64.encode (fp64.fit ((fp64.decode a).mul (fp64.decode b)))
def f64lt (a b : Nat) : Bool := (fp64.decode a).lt (fp64.decode b)
def f64finite (a : Nat) : Bool := (fp64.decode a).isFin

/-! ## Elements (R163 to R166) -/

/-- The value of an element as the arrays read it (R165, R166): an infinity counts as NaN. -/
def elemValue (ty raw : Nat) : Num :=
  match elemFmt ty with
  | some f =>
    match f.decode raw with
    | .inf _ => .nan
    | x => x
  | none =>
    let v := signedOf 8 raw
    .fin (decide (v < 0)) v.natAbs 0

/-- MAXF of Table NUM-1 as significand and exponent. -/
def maxfM (ty : Nat) : Nat := match elemFmt ty with | some f => f.maxM | none => 127
def maxfE (ty : Nat) : Int := match elemFmt ty with | some f => f.maxE | none => 0

/-- emax of Table NUM-1: ⌊log₂ MAXF⌋. -/
def emaxOf (ty : Nat) : Int := (Nat.log2 (maxfM ty) : Int) + maxfE ty

/-- Whether m · 2^e exceeds MAXF. -/
def aboveMaxf (ty m : Nat) (e : Int) : Bool := magGt m e (maxfM ty) (maxfE ty)

/-- The unit in the last place of an element type at m · 2^e. -/
def elemUlp (ty m : Nat) (e : Int) : Int :=
  match elemFmt ty with
  | some f => ulpOf f.mbits f.qmin m e
  | none => 0

/-- The element encoding of the signed value k · 2^q, which the type holds; −0 is written as +0 (R180). -/
def elemEncode (ty : Nat) (neg : Bool) (k : Nat) (q : Int) : Nat :=
  if k = 0 then 0
  else
    match elemFmt ty with
    | some f => f.signBit neg + f.packMag k q
    | none => unsignedOf 8 (rneInt neg k q)

/-- A magnitude rounded into an element type with RNE: its multiple of the unit, and the unit. -/
def elemRne (ty m : Nat) (e : Int) : Nat × Int :=
  let q := elemUlp ty m e
  (rneAt m e q, q)

/-- A magnitude rounded stochastically (R179) with word `u`: away from zero when the truncated fraction T exceeds it. -/
def elemStochastic (ty u m : Nat) (e : Int) : Nat × Int :=
  let q := elemUlp ty m e
  if q ≤ e then (m * pow2 (e - q), q)
  else
    let d := pow2 (q - e)
    let t := m % d * 2 ^ 32 / d
    (m / d + (if u < t then 1 else 0), q)

/-- LO_SHIFT of R177. -/
def loShift (ty : Nat) : Int :=
  match ty with | 3 => 4 | 6 => 4 | 4 => 3 | 5 => 3 | 7 => 2 | 8 => 7 | _ => 0

/-! ## Scale selection (R174) -/

/-- A magnitude put into a list in descending order. -/
def insertDesc (x : Nat) : List Nat → List Nat
  | [] => [x]
  | y :: ys => if y ≤ x then x :: y :: ys else y :: insertDesc x ys

/-- The k-th largest of a list of magnitudes (k from 1), 0 when there are fewer. -/
def kthLargest (xs : List Nat) (k : Nat) : Nat := (xs.foldr insertDesc []).getD (k - 1) 0

/-- A list cut into slices of 64 (R169). -/
def slices : Nat → List α → List (List α)
  | 0, _ => []
  | n + 1, xs => if xs.isEmpty then [] else xs.take 64 :: slices n (xs.drop 64)

/-- Magnitudes of FP32, BF16 and FP16 numbers are kept as multiples of 2^−149. -/
def grain : Int := -149

/-- The scale exponent that the magnitude `m` (in grains) selects (R174). -/
def scaleFor (ty m : Nat) : Int :=
  if m = 0 then -127
  else
    let es := (Nat.log2 m : Int) + grain - emaxOf ty
    let es := if aboveMaxf ty m (grain - es) then es + 1 else es
    max es (-127)

/-- The scale exponent of a unit (R174). -/
def selectScale (ty escapes : Nat) (unit : List Nat) : Int :=
  scaleFor ty ((slices unit.length unit).foldl (fun m sl => max m (kthLargest sl (escapes + 1))) 0)

/-! ## Accumulation (R181 to R183) -/

/-- The exact product of two finite elements, zero otherwise. -/
def product (a b : Num) : Bool × Nat × Int :=
  match a, b with
  | .fin n1 m1 e1, .fin n2 m2 e2 => (n1 != n2, m1 * m2, e1 + e2)
  | _, _ => (false, 0, 0)

/-- A finite value v · 2^e added to an FP32 accumulator with one RNE; an accumulator at an infinity stays there (R184). -/
def accAdd (acc : Num) (v : Int) (e : Int) : Num :=
  match acc with
  | .fin _ _ _ => if v = 0 then acc else fp32.fit (acc.add (.fin (decide (v < 0)) v.natAbs e))
  | x => x

/-- The leading-bit weight of a group's largest product. -/
def groupTop : List (Bool × Nat × Int) → Option Int
  | [] => none
  | (_, m, e) :: ps =>
    let r := groupTop ps
    if m = 0 then r
    else
      let w := (Nat.log2 m : Int) + e
      match r with
      | some x => some (max x w)
      | none => some w

/-- One group of products added (R182): a 27-bit field whose bit 0 has weight 2^(emax − 26), the bits below dropped. -/
def groupAdd (acc : Num) (ps : List (Bool × Nat × Int)) : Num :=
  match groupTop ps with
  | none => acc
  | some top =>
    let q := top - 26
    let sum := ps.foldl (fun (t : Int) p =>
      let mag : Nat := p.2.1 * pow2 (p.2.2 - q) / pow2 (q - p.2.2)
      if p.1 then t - (mag : Int) else t + mag) 0
    accAdd acc sum q

/-- What the column foot writes for one output: its bits and the counter it raises (0 none, 1 NONFINITE, 2 OVERFLOW, 3 UNDERFLOW). -/
def foot (acc : Num) (sa sw : Nat) (out : FloatFmt) (ieee : Bool) : Nat × Nat :=
  let limit (neg : Bool) := out.signBit neg + (if ieee then out.infBits else out.maxBits)
  match acc with
  | .nan => (out.nanBits, 1)
  | .inf neg => (limit neg, 2)
  | .fin neg m e =>
    if m = 0 then (0, 0)
    else
      let e := e + sa + sw - 254
      if magGt m e fp32.maxM fp32.maxE then (limit neg, 2)
      else if magGt 1 (-126) m e then (0, 3)
      else
        let q := (Nat.log2 m : Int) + e - out.mbits
        let k := rneAt m e q
        if magGt k q out.maxM out.maxE then (limit neg, 2)
        else if magGt 1 (1 - out.bias) k q then (0, 3)
        else (out.signBit neg + out.packMag k q, 0)

/-! ## Philox4x32-10 (R179, R217) -/

/-- One round. -/
def philoxRound (k : Nat × Nat) (c : Nat × Nat × Nat × Nat) : Nat × Nat × Nat × Nat :=
  let (c0, c1, c2, c3) := c
  let p0 := 0xD2511F53 * c0
  let p1 := 0xCD9E8D57 * c2
  ((p1 / 2 ^ 32) ^^^ c1 ^^^ k.1, p1 % 2 ^ 32, (p0 / 2 ^ 32) ^^^ c3 ^^^ k.2, p0 % 2 ^ 32)

/-- `n` rounds, the key bumped between them. -/
def philoxRounds : Nat → Nat × Nat → Nat × Nat × Nat × Nat → Nat × Nat × Nat × Nat
  | 0, _, c => c
  | n + 1, k, c => philoxRounds n ((k.1 + 0x9E3779B9) % 2 ^ 32, (k.2 + 0xBB67AE85) % 2 ^ 32) (philoxRound k c)

/-- Output word `i` mod 4 of the block of index ⌊i/4⌋, under key k0, k1 and counter words c2, c3. -/
def philoxWord (k0 k1 i c2 c3 : Nat) : Nat :=
  let b := i / 4
  let (w0, w1, w2, w3) := philoxRounds 10 (k0, k1) (b % 2 ^ 32, b / 2 ^ 32 % 2 ^ 32, c2 % 2 ^ 32, c3 % 2 ^ 32)
  match i % 4 with | 0 => w0 | 1 => w1 | 2 => w2 | _ => w3

end Sys2Proof.Machine
end

