-- ==== Sys2Proof/Machine/Queues.lean ====
section
/-!
DEFINITION. Queue pairs, acceptance of command entries and protocol negotiation (chapter 06).
-/
namespace Sys2Proof.Config

/-- The status of an entry with a payload field outside the range of its table, which the spec does not give. -/
opaque rangeStatus (entry : Bytes) : BitVec 16

end Sys2Proof.Config

namespace Sys2Proof.Machine

/-! ## Layouts of the payloads (Tables CMD-4 to CMD-7, STR-6) -/

/-- An operation of a class: its minor, and the payload bytes it names (offset, length, width in bits that may be set). -/
structure OpLayout where
  cls : Nat
  op : Nat
  minor : Nat
  named : List (Nat × Nat × Nat)
deriving DecidableEq, Repr

/-- Every defined operation of the Host Command Port (Tables CMD-3 to CMD-7, STR-6); addresses are 48 bits in 8 bytes (R125). -/
def opLayouts : List OpLayout := [
  ⟨1, 1, 0, [(16, 8, 48), (24, 4, 32), (28, 4, 32)]⟩,
  ⟨1, 2, 0, []⟩,
  ⟨1, 3, 0, [(16, 2, 16), (18, 1, 8), (20, 2, 16), (24, 8, 64), (32, 8, 64), (40, 8, 64), (48, 8, 64)]⟩,
  ⟨2, 1, 0, [(16, 8, 48), (24, 8, 48), (32, 8, 64), (40, 1, 8), (41, 1, 8), (48, 8, 48)]⟩,
  ⟨2, 2, 0, [(16, 8, 48), (24, 8, 64), (32, 8, 64)]⟩,
  ⟨3, 1, 0, [(16, 8, 48), (24, 4, 32), (28, 1, 1)]⟩,
  ⟨3, 2, 0, []⟩,
  ⟨3, 3, 0, [(16, 2, 16)]⟩,
  ⟨3, 4, 0, []⟩,
  ⟨3, 5, 0, [(16, 1, 8), (17, 1, 8), (20, 4, 32), (24, 4, 32), (32, 8, 64)]⟩,
  ⟨4, 1, 0, [(16, 8, 64)]⟩,
  ⟨4, 2, 0, [(16, 8, 64), (24, 4, 32)]⟩,
  ⟨4, 3, 0, []⟩,
  ⟨4, 4, 0, []⟩,
  ⟨4, 5, 0, [(16, 8, 48), (24, 8, 48)]⟩,
  ⟨5, 1, 0, [(16, 8, 48), (24, 4, 32)]⟩,
  ⟨5, 2, 0, [(16, 8, 48), (24, 8, 48), (32, 4, 32)]⟩,
  ⟨6, 1, 0, [(16, 1, 8), (24, 8, 48)]⟩,
  ⟨6, 2, 0, [(16, 1, 8)]⟩,
  ⟨7, 1, 0, [(16, 8, 48)]⟩,
  ⟨7, 2, 1, []⟩,
  ⟨7, 3, 2, [(16, 8, 64)]⟩]

/-- The layout of an entry's operation. -/
def layoutOf (cls op : Nat) : Option OpLayout := opLayouts.find? (fun l => l.cls == cls && l.op == op)

/-- Whether payload byte `i` of an entry lies in a named field. -/
def OpLayout.names (l : OpLayout) (i : Nat) : Bool := l.named.any (fun f => decide (f.1 ≤ i ∧ i < f.1 + f.2.1))

/-- Check 1 of Table CMD-8: the reserved fields of the entry are zero (R3, R114, R125). -/
def reservedZero (e : Bytes) : Bool :=
  let head := bitsOf (fieldAt e 2 1) 4 4 == 0 && fieldAt e 12 4 == 0
  match layoutOf (bitsOf (fieldAt e 0 2) 12 4) (bitsOf (fieldAt e 0 2) 0 12) with
  | none => head
  | some l =>
    head && l.named.all (fun f => decide (fieldAt e f.1 f.2.1 < 2 ^ f.2.2)) &&
      (fromTo 16 48).all (fun i => l.names i || e.getD i 0#8 == 0#8)

/-- Whether the payload fields whose range the tables give, and which have no status of their own, lie in it (Tables CMD-4 and
CMD-5). -/
def payloadRanges (e : Bytes) : Bool :=
  let cls := bitsOf (fieldAt e 0 2) 12 4
  let op := bitsOf (fieldAt e 0 2) 0 12
  let v (o n : Nat) := fieldAt e o n
  match cls, op with
  | 1, 1 => decide (v 24 4 ≤ 65536)
  | 1, 3 => decide (v 16 2 ≤ 383 ∧ v 18 1 ≤ 15 ∧ 1 ≤ v 20 2 ∧ v 20 2 ≤ 32)
  | 2, 1 => decide (1 ≤ v 32 8 ∧ v 32 8 ≤ 2 ^ 40 ∧ v 40 1 ≤ 4)
  | 2, 2 => v 32 8 % 8 == 0
  | _, _ => true

/-- The status with which a command ends whose payload lies outside a range that has no status of its own: the spec gives none, so it is
free, and not OK (DESIGN CHOICE). -/
def rangeFlaw (e : Bytes) : Option Nat := if payloadRanges e then none else some (1 + (Config.rangeStatus e).toNat % 65535)

/-- Whether a range of a MOVE lies in host DDR or CXL memory only. -/
def State.hostOnly (s : State) (a n : Nat) : Bool :=
  let last := a + (max n 1) - 1
  (s.isDdr a && s.isDdr last) || (s.isCxl a && s.isCxl last)

/-- Whether a MOVE touches host DDR and CXL memory only (Table MOD-2). -/
def State.moveHostOnly (s : State) (e : Bytes) : Bool :=
  if bitsOf (fieldAt e 0 2) 0 12 = 1 then
    s.hostOnly (fieldAt e 16 8) (fieldAt e 32 8) && s.hostOnly (fieldAt e 24 8) (fieldAt e 32 8) && fieldAt e 40 1 == 0
  else s.hostOnly (fieldAt e 16 8) (fieldAt e 32 8)

/-- Whether an address lies in the HBM or scratchpad ranges of the map (Table HST-3), whatever the mode. -/
def devRange (a : Nat) : Bool :=
  decide (hbmBase ≤ a ∧ a < hbmBase + 768 * 2 ^ 30) || decide (padBase ≤ a ∧ a < padBase + 384 * 0x40_0000)

/-- Whether a MOVE touches HBM or scratchpads (R69, R127): with its source, its destination, or the base of a delta codec. -/
def moveTouchesDevice (e : Bytes) : Bool :=
  if bitsOf (fieldAt e 0 2) 0 12 = 1 then
    devRange (fieldAt e 16 8) || devRange (fieldAt e 24 8) || (decide (3 ≤ fieldAt e 40 1) && devRange (fieldAt e 48 8))
  else devRange (fieldAt e 16 8)

/-- Whether a COPY with a codec keeps the alignment of R127. -/
def codecAligned (e : Bytes) : Bool :=
  bitsOf (fieldAt e 0 2) 0 12 != 1 || fieldAt e 40 1 == 0 ||
    (fieldAt e 16 8 % 4096 == 0 && fieldAt e 24 8 % 4096 == 0 && fieldAt e 48 8 % 4096 == 0 && fieldAt e 32 8 % 4096 == 0)

/-- Whether the FORMATS index of a COPY with a codec is in force (R127). -/
def State.codecFormat (s : State) (e : Bytes) : Bool :=
  bitsOf (fieldAt e 0 2) 0 12 != 1 || fieldAt e 40 1 == 0 || (s.formatEntry (fieldAt e 41 1)).isSome

/-- Whether R32 lets the commands that need a job image pass check 5: one is in force, or a COMMIT that began with one is in
progress (R69: such commands get COMMIT_PENDING there). -/
def State.imageOrCommit (s : State) : Bool := s.image.isSome || s.commit.any (fun c => c.had)

/-- Check 5 of Table CMD-8 (Table MOD-2, R32, R127, R498). -/
def State.modeAllows (s : State) (cls op : Nat) (e : Bytes) : Bool :=
  let m := s.mode
  if cls = 5 ∨ cls = 7 then true
  else if cls = 3 then
    if op = 3 then m == 3 else if op = 5 then m == 3 && s.image.isSome else m != 0xF
  else if cls = 2 then (m == 3 && s.codecFormat e) || s.moveHostOnly e
  else m == 3 && s.imageOrCommit

/-- Whether a command is of the classes that a COMMIT in progress blocks (R69). -/
def blockedByCommit (cls : Nat) (e : Bytes) : Bool :=
  cls == 1 || cls == 4 || cls == 6 || (cls == 2 && moveTouchesDevice e)

/-- Check 6 of Table CMD-8. -/
def State.domainAllows (s : State) (cls dom : Nat) : Bool :=
  let inForce := decide (dom < 64) && (s.domEntry dom).isSome
  if cls = 1 ∨ cls = 4 ∨ cls = 6 then inForce
  else if cls = 2 then inForce || dom == 0xFFFF
  else dom == 0xFFFF

/-- The free completion slots of a queue (R120). -/
def State.freeSlots (s : State) (q : Nat) : Nat := 2 ^ s.fld (HST_Q_CONFIG_CQ_LOG2 q) - (s.queue q).unread

/-- Whether the queue has room for one more outstanding command (R120). -/
def State.hasRoom (s : State) (q : Nat) : Bool :=
  decide (s.fld (HST_Q_STATUS_OUTSTANDING q) < s.freeSlots q) && decide (s.cmds.length < 65536)

/-- The acceptance checks of Table CMD-8, in order, stopping at the first that fails (R119); OK when all pass. -/
def State.accept (s : State) (q : Nat) (window : Bool) (e : Bytes) : Nat :=
  let cls := bitsOf (fieldAt e 0 2) 12 4
  let op := bitsOf (fieldAt e 0 2) 0 12
  let minor := fieldAt e 3 1
  let dom := fieldAt e 10 2
  if !reservedZero e then ST_REJECTED_RESERVED
  else if minor > s.fld HST_PROTO_CHOSEN_MINOR then ST_REJECTED_VERSION
  else
    match layoutOf cls op with
    | none => ST_REJECTED_OPERATION
    | some l =>
      if l.minor > minor then ST_REJECTED_VERSION
      else if cls = 2 ∧ codecAligned e = false then ST_CODEC_ALIGN
      else if !s.modeAllows cls op e then ST_REJECTED_MODE
      else
        let pending := s.commit.isSome && blockedByCommit cls e
        if !pending && !s.domainAllows cls dom then ST_DOMAIN_INVALID
        else if pending then ST_COMMIT_PENDING
        else if window && !s.hasRoom q then ST_REJECTED_FULL
        else ST_OK

/-! ## Taking an entry -/

/-- The next sequence of a queue (R113). -/
def State.nextSequence (s : State) (q : Nat) : Nat := ((s.queue q).firstSeq + (s.queue q).seqs) % 2 ^ 32

/-- A sequence taken, and the queue's outstanding count with it. -/
def State.takeSequence (s : State) (q : Nat) : State :=
  s.setQueue q { s.queue q with seqs := (s.queue q).seqs + 1 }

/-- An entry becomes outstanding (R115, R119). -/
def State.pend (s : State) (q : Nat) (e : Bytes) : State :=
  let seq := s.nextSequence q
  let h := mkHandle q seq (s.fld CTL_INCARNATION_INCARNATION)
  let s := (s.takeSequence q).addFld (HST_Q_STATUS_OUTSTANDING q) 1
  let p : Pending := { handle := h, queue := q, seq := seq, entry := e }
  { s with cmds := s.cmds ++ [p] }.trace 0x7400 3 p.domain 0 (leBytes 8 h.toNat)

/-- A fetched ring entry is accepted, or completed by its record with the failing status (R119). -/
def State.takeRing (s : State) (q : Nat) (e : Bytes) : State :=
  let st := s.accept q false e
  if st = ST_OK then s.pend q e
  else
    let seq := s.nextSequence q
    let h := mkHandle q seq (s.fld CTL_INCARNATION_INCARNATION)
    let s := (s.takeSequence q).addFld (HST_Q_STATUS_OUTSTANDING q) 1
    let p : Pending := { handle := h, queue := q, seq := seq, entry := e }
    (s.trace 0x7400 4 p.domain 0 (leBytes 8 h.toNat ++ leBytes 2 st)).writeRecord p { status := st }

/-- The ring slot and pass of the next entry a queue fetches (R113). -/
def State.headSlot (s : State) (q : Nat) : Nat := (s.queue q).fetched % 2 ^ s.fld (HST_Q_CONFIG_SQ_LOG2 q)
def State.headPass (s : State) (q : Nat) : Nat := (s.queue q).fetched / 2 ^ s.fld (HST_Q_CONFIG_SQ_LOG2 q) % 65536

/-- The 64 bytes at the head of a submission ring. -/
def State.headEntry (s : State) (q : Nat) : Bytes := s.bytesAt (s.fld (HST_Q_SQ_BASE_BASE q) * 4096 + 64 * s.headSlot q) 64

/-- Whether the head slot holds the expected SEQUENCE and PASS (R117). -/
def State.headFresh (s : State) (q : Nat) : Bool :=
  fieldAt (s.headEntry q) 4 4 == s.nextSequence q && fieldAt (s.headEntry q) 8 2 == s.headPass q

/-- The head slot's entry is taken and the head moves on. -/
def State.takeHead (s : State) (q : Nat) : State :=
  let e := s.headEntry q
  let s := s.setQueue q { s.queue q with fetched := (s.queue q).fetched + 1, stale := false, rereads := 0 }
  let s := (s.setFld (HST_Q_SQ_HEAD_HEAD q) (s.headSlot q)).setFld (HST_Q_SQ_HEAD_PASS q) (s.headPass q)
  s.takeRing q e

/-- Whether a RING queue may fetch: ENABLED, entries below the tail, room (R116, R120). -/
def State.mayFetch (s : State) (q : Nat) : Bool :=
  s.phase == .running && s.fld (HST_Q_STATUS_STATE q) == 1 && s.fld (HST_Q_CONFIG_MODE q) == 0 &&
    s.headSlot q != (s.queue q).tail && s.hasRoom q

/-- The next ring entry is fetched (R116, R117): taken when fresh; otherwise the slot is stale and will be re-read. -/
def execRingEntryFetch (q : Fin 256) (s : State) : Out :=
  if s.mayFetch q.val ∧ (s.queue q.val).stale = false then
    if s.headFresh q.val then .next (s.takeHead q.val)
    else .next (s.setQueue q.val { s.queue q.val with stale := true, rereads := 0 })
  else .next s

/-- A stale slot is re-read (R117): a valid one is fetched as soon as there is room (R120); after the eighth failed re-read the queue
becomes STALE. -/
def execStaleSlotReread (q : Fin 256) (s : State) : Out :=
  let qs := s.queue q.val
  if qs.stale = true ∧ s.fld (HST_Q_STATUS_STATE q.val) = 1 then
    if s.headFresh q.val then
      .next (if s.hasRoom q.val then s.takeHead q.val else s.setQueue q.val { qs with stale := false, rereads := 0 })
    else if qs.rereads < 7 then .next (s.setQueue q.val { qs with rereads := qs.rereads + 1 })
    else
      let slot := s.headSlot q.val
      let s := s.setQueue q.val { qs with stale := false, rereads := 0 }
      let s := (s.setFld (HST_Q_STATUS_STATE q.val) 3).setFld (HST_Q_STATUS_STALE_SLOT q.val) slot
      .next (s.event 0x7400 EV_QUEUE_STALE noDomain
        (leBytes 1 q.val ++ zeros 1 ++ leBytes 2 slot ++ leBytes 4 (s.nextSequence q.val) ++ leBytes 2 (s.headPass q.val)))
  else .next s

/-- A doorbell (R116) of a RING queue: a new tail; out of range it is ignored and counted; on a queue that does not fetch, or equal to the
head, it changes nothing. -/
def execDoorbell (q : Fin 256) (tail : BitVec 32) (s : State) : Out :=
  let st := s.fld (HST_Q_STATUS_STATE q.val)
  if s.phase ≠ .running ∨ s.fld (HST_Q_CONFIG_MODE q.val) = 1 then .next s
  else if tail.toNat ≥ 2 ^ s.fld (HST_Q_CONFIG_SQ_LOG2 q.val) then .next (s.addFld (HST_Q_STATUS_BAD_DOORBELL q.val) 1)
  else if st ≠ 1 ∧ st ≠ 3 then .next s
  else if tail.toNat = s.headSlot q.val then .next s
  else .next (s.setQueue q.val { s.queue q.val with tail := tail.toNat })

/-- A submit-window entry rejected (R118): zero handle, LAST_REJECT. -/
def State.rejectWindow (s : State) (q st : Nat) : State :=
  (s.setQueue q { s.queue q with submitHandle := 0#64 }).setFld (HST_Q_STATUS_LAST_REJECT q) st

/-- The entry of a submit window taken (R118): bytes 4–9 are ignored. -/
def State.takeWindow (s : State) (q : Nat) : State :=
  let e := putAt (s.queue q).submit 4 (zeros 6)
  if s.fld (HST_Q_STATUS_STATE q) ≠ 1 then s.rejectWindow q ST_QUEUE_NOT_ENABLED
  else if s.fld (HST_Q_CONFIG_MODE q) = 0 then s.rejectWindow q ST_WRONG_PATH
  else
    let st := s.accept q true e
    if st = ST_OK then
      let h := mkHandle q (s.nextSequence q) (s.fld CTL_INCARNATION_INCARNATION)
      let s := s.pend q e
      s.setQueue q { s.queue q with submitHandle := h }
    else s.rejectWindow q st

/-- A write into a submit window (R118): the entry is taken when the word at bytes 56–63 is written. -/
def execWindowSubmit (q : Fin 256) (off : BitVec 6) (data : Bytes) (s : State) : Out :=
  if s.phase ≠ .running then .next s
  else
    let qs := s.queue q.val
    let s := s.setQueue q.val { qs with submit := putAt (padTo 64 qs.submit) off.toNat data }
    if off.toNat ≤ 56 ∧ 64 ≤ off.toNat + data.length then .next (s.takeWindow q.val) else .next s

/-- Whether a queue's configuration may be enabled (R111, R112). -/
def State.queueOk (s : State) (q : Nat) : Bool :=
  let n := s.fld (HST_Q_CONFIG_SQ_LOG2 q)
  let m := s.fld (HST_Q_CONFIG_CQ_LOG2 q)
  let sq := s.fld (HST_Q_SQ_BASE_BASE q) * 4096
  let cq := s.fld (HST_Q_CQ_BASE_BASE q) * 4096
  decide (6 ≤ n ∧ n ≤ 12) && decide (6 ≤ m ∧ m ≤ 16) && sq != 0 && cq != 0 &&
    decide (sq + 64 * 2 ^ n ≤ s.ddrSize) && decide (cq + 32 * 2 ^ m ≤ s.ddrSize) && s.fld HST_PROTO_CHOSEN_MINOR != 0xFF

/-- Setting HST_Q_CTRL.ENABLE (R112): the queue is enabled at START_SEQ, or refused with QUEUE_CONFIG. -/
def execQueueEnable (q : Fin 256) (s : State) : Out :=
  if s.phase ≠ .running ∨ s.fld (HST_Q_STATUS_STATE q.val) ≠ 0 then .next s
  else if !s.queueOk q.val then .next (s.setFld (HST_Q_STATUS_LAST_REJECT q.val) ST_QUEUE_CONFIG)
  else
    let s := s.setQueue q.val { firstSeq := s.fld (HST_Q_CONFIG_START_SEQ q.val) }
    let s := (s.setFld (HST_Q_CTRL_ENABLE q.val) 1).setFld (HST_Q_STATUS_STATE q.val) 1
    .next (((s.setReg (HST_Q_SQ_HEAD q.val) 0#64).setReg (HST_Q_CQ_HEAD q.val) 0#64))

/-- Clearing HST_Q_CTRL.ENABLE (R112): DRAINING until the last handle has completed. -/
def execQueueDrain (q : Fin 256) (s : State) : Out :=
  let st := s.fld (HST_Q_STATUS_STATE q.val)
  if s.phase ≠ .running then .next s
  else if st = 1 ∨ st = 3 then
    let s := s.setFld (HST_Q_CTRL_ENABLE q.val) 0
    let s := s.setQueue q.val { s.queue q.val with stale := false, rereads := 0 }
    .next (s.setFld (HST_Q_STATUS_STATE q.val) (if s.fld (HST_Q_STATUS_OUTSTANDING q.val) = 0 then 0 else 2))
  else .next (s.setFld (HST_Q_CTRL_ENABLE q.val) 0)

/-- Writing HST_Q_CTRL.RESUME (R117): in STALE the slot is re-read at once, and fetching goes on when it is valid, with room (R120). -/
def execQueueResume (q : Fin 256) (s : State) : Out :=
  if s.phase = .running ∧ s.fld (HST_Q_STATUS_STATE q.val) = 3 ∧ s.headFresh q.val = true then
    let s := s.setFld (HST_Q_STATUS_STATE q.val) 1
    .next (if s.hasRoom q.val then s.takeHead q.val else s)
  else .next s

/-- A write to HST_Q_CQ_HEAD (R123): returns completion slots; a value of 2^m or above is ignored, and the index in force changes
nothing. -/
def execCqHeadWrite (q : Fin 256) (value : Word) (s : State) : Out :=
  let v := bitsOf value.toNat 0 16
  let cap := 2 ^ s.fld (HST_Q_CONFIG_CQ_LOG2 q.val)
  if s.phase ≠ .running ∨ v ≥ cap ∨ v = s.fld (HST_Q_CQ_HEAD_HEAD q.val) then .next s
  else
    let qs := s.queue q.val
    let s := s.setFld (HST_Q_CQ_HEAD_HEAD q.val) v
    .next (s.setQueue q.val { qs with unread := (qs.written + cap - v) % cap })

/-- A write to HST_PROTO (R61, R129): the highest common minor within major 1, 0 to 2; rejected while a queue is not DISABLED. -/
def execProtoNegotiate (value : Word) (s : State) : Out :=
  if s.phase ≠ .running then .next s
  else if (List.range 256).any (fun q => s.fld (HST_Q_STATUS_STATE q) != 0) then
    .next { s with outs := { s.outs with hostStatus := ST_REJECTED_STATIC } }
  else
    let major := bitsOf value.toNat 0 8
    let lo := bitsOf value.toNat 8 8
    let hi := min 2 (bitsOf value.toNat 16 8)
    let ok := decide (major = 1) && decide (lo ≤ hi)
    let s := (s.setFld HST_PROTO_MAJOR major).setFld HST_PROTO_MIN_MINOR lo
    let s := s.setFld HST_PROTO_MAX_MINOR (bitsOf value.toNat 16 8)
    let s := s.setFld HST_PROTO_CHOSEN_MINOR (if ok then hi else 0xFF)
    .next (s.setFld HST_PROTO_STATUS (if ok then ST_OK else ST_REJECTED_VERSION))

/-- COALESCE_US has passed since the first unsignalled record (R124). -/
def execCoalesceTimerExpiry (q : Fin 256) (s : State) : Out :=
  if s.phase = .running ∧ (s.queue q.val).unsignalled ≠ 0 ∧ s.fld (HST_Q_IRQ_COALESCE_US q.val) ≠ 0 then
    .next (s.interrupt q.val)
  else .next s

/-! ## Starting a command (R121) -/

/-- The commands of the same queue before the one with handle `h`. -/
def earlier (h : Word) (q : Nat) : List Pending → List Pending
  | [] => []
  | p :: ps => if p.handle = h then [] else if p.queue = q then p :: earlier h q ps else earlier h q ps

/-- Whether a command may start (R121): every earlier command of its queue has started, and for FENCE has completed. -/
def State.canStart (s : State) (p : Pending) : Bool :=
  let before := earlier p.handle p.queue s.cmds
  !p.started && p.done.isNone && before.all (fun x => x.started || x.done.isSome) && (!p.fence || before.isEmpty)

/-- The accepted command with this handle, of this class and operation, if it may start now. -/
def State.ready (s : State) (h : Word) (cls op : Nat) : Option Pending :=
  if s.phase = .running then
    match s.cmd h with
    | some p => if p.cls = cls ∧ p.op = op ∧ s.canStart p = true then some p else none
    | none => none
  else none

/-- The place of the next command to start among those outstanding. -/
def State.nextBegun (s : State) : Nat := s.cmds.foldl (fun m q => max m (q.begun + 1)) 1

/-- A command starts: with COUNTERS set its start latch is taken (R472). -/
def State.begin (s : State) (p : Pending) : State :=
  s.setCmd { p with started := true, begun := s.nextBegun, counters := if p.wantsCounters then s.now :: s.counterSet p.domain else [] }

/-- A command starts and does `f`, or ends at once where its payload lies outside a range that has no status of its own. -/
def State.beginWith (s : State) (p : Pending) (f : State → State) : State :=
  match rangeFlaw p.entry with
  | some st => (s.begin p).finishWith p.handle st
  | none => f (s.begin p)

end Sys2Proof.Machine
end

