-- ==== Sys2Proof/Machine/Push.lean ====
section
/-!
DEFINITION. Push windows and their seals (R101 to R106), and the delivery of host messages to PERSIST channels (R149, R154).
-/
namespace Sys2Proof.Machine

/-! ## Host messages -/

/-- The 64 bytes of a message as delivered (Table TIL-8). -/
def messageBytes (src dst chan kind len seq epoch dom module slot : Nat) (payload : Bytes) : Bytes :=
  padTo 64 (leBytes 2 src ++ leBytes 2 dst ++ leBytes 1 (chan + 16 * kind) ++ leBytes 1 len ++ leBytes 2 seq ++ leBytes 4 epoch ++
    leBytes 2 dom ++ leBytes 2 module ++ leBytes 8 slot ++ padTo 32 (payload.take len))

/-- The messages held in channel `c` of tile `t`, oldest first. -/
def State.chan (s : State) (t c : Nat) : List Bytes := (smapFind (s.tile t).chans c).getD []

/-- Channel `c` of tile `t` holding these messages; COUNT shows their number. -/
def State.setChan (s : State) (t c : Nat) (ms : List Bytes) : State :=
  let x := s.tile t
  (s.setTile t { x with chans := smapPut (fun _ => some []) x.chans c ms }).setFld (TIL_MSG_CHAN_COUNT t c) ms.length

/-- A host message offered to a channel (R149, R154): UNDELIVERABLE on a SLOT-scoped channel or a tile that is not mapped, held
while the channel is full, accepted otherwise. -/
def State.offerHost (s : State) (m : HostMsg) : State :=
  if s.tileUsable m.tile = false ∨ s.fld (TIL_MSG_CHAN_PERSIST m.tile m.chan) = 0 then
    s.finishWith m.handle ST_UNDELIVERABLE
  else
    let held := s.chan m.tile m.chan
    if held.length < 16 then (s.setChan m.tile m.chan (held ++ [m.bytes])).finishOk m.handle 0
    else { s with hostMsgs := s.hostMsgs ++ [m] }

/-- A SIGNAL's message goes to the physical tile that runs its logical tile now; a NOTIFY keeps its physical tile (R154). -/
def State.redirect (s : State) (m : HostMsg) : HostMsg :=
  match m.logical with
  | some (d, l) => { m with tile := s.phys d l }
  | none => m

/-- The held messages of a SIGNAL (0: the NOTIFYs) are offered again (R154). -/
def State.retryHost (s : State) (h : Word) : State :=
  let mine := s.hostMsgs.filter (fun m => m.handle == h)
  mine.foldl (fun s m => s.offerHost (s.redirect m)) { s with hostMsgs := s.hostMsgs.filter (fun m => m.handle != h) }

/-! ## Push windows -/

/-- Where offset `o` of push window `n` lies (Table HST-6): its target address, none for type OFF. -/
def State.pushTarget (s : State) (n o : Nat) : Option Nat :=
  let t := s.fld (HST_PUSH_CFG_TARGET n)
  let ty := s.fld (HST_PUSH_CFG_TYPE n)
  if ty = 0 then none
  else if ty = 3 then some (padAddr (t + o / 0x40_0000) + o % 0x40_0000)
  else some (hbmBase + t * 2 ^ 24 + o)

/-- Whether a tile has been reset and not started since (R106): stopped, faulted, or of a domain that waits for its replay. -/
def State.resetSince (s : State) (t : Nat) : Bool :=
  s.tileState t == 4 || s.tileState t == 6 ||
    (match s.domOf t with | some d => !((s.dom d).recovering.isEmpty) || (s.dom d).replayDue | none => false)

/-- Whether a target address lies in the scratchpad of a tile that was reset or migrated away (R106). -/
def State.pushStale (s : State) (a : Nat) : Bool := decide (padBase ≤ a) && s.resetSince ((a - padBase) / 0x40_0000)

/-- Bytes pushed to `a`: those that a tile engine has touched in the slot, or will by an operation in flight, are unpredictable (R106). -/
def State.pushBytes (s : State) (a : Nat) (data : Bytes) : State :=
  let s := s.devWrite a data
  if padBase ≤ a then
    let t := (a - padBase) / 0x40_0000
    let x := s.tile t
    let w : Span := ⟨a, data.length, true⟩
    let ops := x.ops.map (fun e => (e.1, { e.2 with races := e.2.races ++ meets [w] e.2.spans }))
    (s.setTile t { x with ops := ops, pushed := w :: x.pushed }).scrambleAll (meets [w] x.touched)
  else s

/-- A host write to push window `n` (R101, R106): forwarded with its byte enables, or dropped and counted, with a CORRECTED record
naming the window when it lands outside the target's mapped range. -/
def execPushWindowWrite (n : Fin 64) (off : BitVec 24) (data : Bytes) (s : State) : Out :=
  if s.phase ≠ .running then .next s
  else
    match s.pushTarget n.val off.toNat with
    | none => .next s
    | some a =>
      if !s.mappedAll a data.length || decide (off.toNat + data.length > 2 ^ 24) then
        .next ((s.addFld (HST_PUSH_STATUS_DROPPED n.val) 1).report 0x7400 0
          { code := ST_ADDRESS_UNMAPPED, addr := a, aux := n.val })
      else if s.pushStale a then .next (s.addFld (HST_PUSH_STATUS_DROPPED n.val) 1)
      else .next ((s.pushBytes a data).addFld (HST_PUSH_STATUS_COUNT n.val) data.length)

/-- A write to HST_PUSH_CFG (R104): retargets the window, or is rejected with PUSH_BUSY while its byte count is non-zero. -/
def execPushCfgWrite (n : Fin 64) (value : Word) (s : State) : Out :=
  if s.phase ≠ .running then .next s
  else if s.fld (HST_PUSH_STATUS_COUNT n.val) ≠ 0 then
    .next { s with outs := { s.outs with hostStatus := ST_PUSH_BUSY } }
  else
    let v := value.toNat
    let s := s.setFld (HST_PUSH_CFG_TYPE n.val) (bitsOf v 0 2)
    let s := s.setFld (HST_PUSH_CFG_NOTIFY n.val) (bitsOf v 2 1)
    let s := s.setFld (HST_PUSH_CFG_CHANNEL n.val) (bitsOf v 4 4)
    .next (s.setFld (HST_PUSH_CFG_TARGET n.val) (bitsOf v 16 16))

/-- A write to HST_PUSH_SEAL (R104): a seal is requested; one requested already is not requested again. -/
def execPushSeal (n : Fin 64) (s : State) : Out :=
  if s.phase ≠ .running ∨ s.sealing.contains n.val = true then .next s
  else .next { s with sealing := s.sealing ++ [n.val] }

/-- The NOTIFY of a sealed window to physical tile `t`, whose logical id it names (R104, Table TIL-8). -/
def State.notifyMsg (s : State) (n t : Nat) : HostMsg :=
  let payload := leBytes 1 n ++ zeros 3 ++ leBytes 4 (s.fld (HST_PUSH_STATUS_COUNT n))
  let c := s.fld (HST_PUSH_CFG_CHANNEL n)
  { tile := t, chan := c, handle := 0#64, bytes := messageBytes 0xFFFF (s.fld (TIL_STATE_LOGICAL t)) c 4 8 0 0 0xFFFF 0xFFFF 0 payload }

/-- Every earlier write of a sealed window has been applied (R104): SEALED is set, the NOTIFY messages are sent, the count resets. -/
def execPushSealApplied (n : Fin 64) (s : State) : Out :=
  if s.sealing.contains n.val = false then .next s
  else
    let s := { s with sealing := s.sealing.filter (· != n.val) }
    let s := s.setFld (HST_PUSH_STATUS_SEALED n.val) 1
    let notify := s.fld (HST_PUSH_CFG_TYPE n.val) == 3 && s.fld (HST_PUSH_CFG_NOTIFY n.val) == 1
    let s := if notify then
        (List.range 4).foldl (fun s i => s.offerHost (s.notifyMsg n.val (s.fld (HST_PUSH_CFG_TARGET n.val) + i))) s
      else s
    .next (s.setFld (HST_PUSH_STATUS_COUNT n.val) 0)

/-- Every 1 µs the front end retries a held host message (R154); handle 0 names the NOTIFY messages. -/
def execSignalRetry (h : Word) (s : State) : Out :=
  if s.phase = .running then .next (s.retryHost h) else .next s

end Sys2Proof.Machine
end

