-- ==== Sys2Proof/Machine/Spool.lean ====
section
/-!
DEFINITION. Spool records (R60, R401, R402).
-/
namespace Sys2Proof.Machine

/-- An 8-byte item of a record. -/
def items : List Nat → Bytes
  | [] => []
  | v :: vs => leBytes 8 v ++ items vs

/-- The IMAGE_ID of the job image in force. -/
def State.imageId (s : State) : Nat := s.fld CTL_STRUCT_ID_IMAGE_ID

/-- A spool record of domain `d` (Table SRV-2), its CRC over the record with the CRC field zero. -/
def State.spoolRecord (s : State) (d step kind flags : Nat) (aux : Bytes) (vals : List Nat) : Bytes :=
  let n := 64 + 8 * vals.length
  let bs := padTo ((n + 63) / 64 * 64)
    (leBytes 4 0x5058444C ++ leBytes 1 kind ++ leBytes 1 1 ++ leBytes 1 d ++ leBytes 1 flags ++ leBytes 8 step ++
      leBytes 4 vals.length ++ leBytes 4 0 ++ leBytes 8 s.imageId ++ leBytes 8 s.tick ++ leBytes 8 (s.dom d).spoolSeq ++
      padTo 16 aux ++ items vals)
  putAt bs 20 (leBytes 4 (crc32c bs))

/-- The bytes of the host spool ring. -/
def State.spoolSize (s : State) : Nat := s.fld CTL_SRV_SPOOL_SIZE * 2 ^ 20

/-- Whether a record of the ring is of a step after its domain's latest whole snapshot (R402). -/
def State.spoolNeeded (s : State) (r : SpoolRec) : Bool :=
  match (s.dom r.dom).wholeStep with
  | some w => decide (w < r.step)
  | none => true

/-- Whether bytes [off, off + len) of the ring, taken modulo its size, touch a record. -/
def touches (size off len : Nat) (r : SpoolRec) : Bool :=
  decide ((r.off + size - off) % size < len) || decide ((off + size - r.off) % size < r.len)

/-- A byte string written into the ring at byte offset `off`, modulo the ring. -/
def State.ringBytes (s : State) (base size : Nat) : Nat → Bytes → State
  | _, [] => s
  | off, b :: bs => (s.store (base + off % size) [b]).ringBytes base size (off + 1) bs

/-! ## Steps and requests (R397, R407) -/

/-- The spool records from which a RESTORE replays step `n` of domain `d`; none when it does not. -/
def State.replaying (s : State) (d n : Nat) : Option (List Bytes) :=
  match (s.dom d).restore with
  | some r => if r.loaded && decide (n ≤ r.last) then some r.spool else none
  | none => none

/-- The spool record of a kind of step `n`, among those replayed. -/
def spooled (rs : List Bytes) (kind n : Nat) : Option Bytes := rs.find? (fun r => fieldAt r 4 1 == kind && fieldAt r 8 8 == n)

/-- The link die by which survival frames leave, which ROUTES does not name: the first with a port up, die 0 without one (DESIGN CHOICE). -/
def State.survivalDie (s : State) : Nat := ((List.range 4).find? s.lineUp).getD 0

/-- A survival frame for a module. -/
def State.sendTo (s : State) (rank type : Nat) (b : Body) : State := s.sendFrame s.survivalDie rank type b

/-- A survival frame for the partner, if there is one. -/
def State.toPartner (s : State) (type : Nat) (b : Body) : State :=
  match s.survival.partner with
  | some r => s.sendTo r type b
  | none => s

/-- The peers of this module, in list order. -/
def State.otherRanks (s : State) : List Nat :=
  (List.range s.foundation.peers.length).filter (fun r => r != s.foundation.ownRank)

/-- The step that the module opens next. -/
def State.nextStep (s : State) : Nat := s.domIds.foldl (fun m d => max m ((s.dom d).step + 1)) 1

/-- Every domain takes a snapshot at the first boundary at which it opens step `t` + 2 or a later one. -/
def State.wantSnapshots (s : State) (t : Nat) : State :=
  s.domIds.foldl (fun s d => s.setDom d { s.dom d with snapAt := unionAsc (s.dom d).snapAt [t + 2] }) s

/-- A snapshot request arises on this module (R397): it tells every peer the step it opens next. -/
def State.requestSnapshots (s : State) : State :=
  let t := s.nextStep
  s.otherRanks.foldl (fun s r => s.sendTo r 7 (.snapReq t)) (s.wantSnapshots t)

/-- A record into the host spool ring: when it would overwrite a record still needed it is not written, GAP is set with event
SPOOL_FULL, and a snapshot is requested (R402). -/
def State.spoolWrite (s : State) (d step : Nat) (bs : Bytes) : State :=
  let size := s.spoolSize
  if size = 0 then s
  else
    let tail := s.fld CTL_SRV_SPOOL_PTR_TAIL
    let hit := s.spoolRing.filter (touches size tail bs.length)
    if bs.length > size ∨ hit.any s.spoolNeeded = true then
      ((s.setFld CTL_SRV_SPOOL_GAP 1).requestSnapshots).event 0x8005 EV_SPOOL_FULL d
        (leBytes 8 step ++ leBytes 8 (s.dom d).spoolSeq)
    else
      let s := s.ringBytes (s.fld CTL_SRV_SPOOL_BASE * 4096) size tail bs
      let ring := s.spoolRing.filter (fun r => !(touches size tail bs.length r)) ++ [⟨tail, bs.length, d, step⟩]
      let s := { s with spoolRing := ring }
      let s := s.setFld CTL_SRV_SPOOL_PTR_TAIL ((tail + bs.length) % size)
      s.setFld CTL_SRV_SPOOL_PTR_HEAD ((ring.head?.map (·.off)).getD 0)

/-- One spool record of step `n` of a domain (R401): written to the host ring, and sent to the partner, or held for the one being
sought; SEQ runs on by one. A step that a
RESTORE replays keeps the records it has (R407). -/
def State.spoolFor (s : State) (d n kind flags : Nat) (aux : Bytes) (vals : List Nat) : State :=
  if (s.replaying d n).isSome then s else
  let bs := s.spoolRecord d n kind flags aux vals
  let s := (s.spoolWrite d n bs).toPartner 8 (.spool bs)
  let s := if s.survival.partner.isNone ∧ s.fld CTL_SRV_PARTNER_NONE = 0 then
      { s with survival := { s.survival with unsent := s.survival.unsent ++ [bs] } }
    else s
  s.setDom d { s.dom d with spoolSeq := (s.dom d).spoolSeq + 1 }

/-- A spool record of the step in progress. -/
def State.spool (s : State) (d kind flags : Nat) (aux : Bytes) (vals : List Nat) : State :=
  s.spoolFor d (s.dom d).step kind flags aux vals

/-- The CHANGE record of an applied tick or live change (R60), in the spool of its domain, or of every domain when the field
belongs to none. -/
def State.spoolChange (s : State) (dom : Option Nat) (sec width entry off value : Nat) : State :=
  let ds := match dom with
    | some d => if (s.domEntry d).isSome then [d] else []
    | none => s.domIds
  ds.foldl (fun s d => s.spool d 6 0 (leBytes 1 sec ++ leBytes 1 width ++ zeros 2 ++ leBytes 4 entry ++ leBytes 4 off) [value]) s

end Sys2Proof.Machine
end

