-- ==== Sys2Proof/Machine/Steps.lean ====
section
/-!
DEFINITION. What the first pass 2 of a step ends: an unfinished snapshot (R399) and unfinished readings of watch points (R477).
-/
namespace Sys2Proof.Machine

/-- The module id of a rank. -/
def State.moduleId (s : State) (r : Nat) : Nat := ((s.peer r).map (·.moduleId)).getD 0

/-- The module id of the partner; 0 without one. -/
def State.partnerId (s : State) : Nat := (s.survival.partner.map s.moduleId).getD 0

/-- The snapshot in progress of a domain is given up (R399, R400): its partner slot empties, the event names it, and the STEP SNAPSHOTs
that wait for it complete with `status`. -/
def State.dropSnapshot (s : State) (d status : Nat) : State :=
  match (s.dom d).snap with
  | none => s
  | some p =>
    let s := (s.setDom d { s.dom d with snap := none }).toPartner 7 (.snapDrop d p.step)
    let s := (s.addFld (CTL_SRV_DOM_COUNTS_ABANDONED d) 1).event 0x8005 EV_SNAPSHOT_ABANDONED d
      (leBytes 8 p.step ++ leBytes 1 p.slot ++ leBytes 1 (if status = ST_RESERVE_SHORT then 1 else 0))
    p.handles.foldl (fun s h => s.finishWith h status) s

/-- A record of a watch point kept (R478): the last eight. -/
def State.keepWatch (s : State) (point : Nat) (rec' : Bytes) : State :=
  let all := (smapFind s.dbg.points point).getD [] ++ [rec']
  { s with dbg := { s.dbg with points := smapIns s.dbg.points point (all.drop (all.length - 8)) } }

/-- The head and the tail of a watch record (Table DBG-8), with the statistics in bytes 16 to 55. -/
def State.watchRecord (s : State) (point : Nat) (r : Reading) (abandoned : Bool) (stats : Bytes) : Bytes :=
  leBytes 8 r.step ++ leBytes 1 point ++ leBytes 1 ((if abandoned then 1 else 0) + (if r.replay then 2 else 0)) ++
    leBytes 2 r.stats ++ leBytes 4 r.tensor ++ stats ++ leBytes 8 s.now

/-- The readings of a point in progress, oldest first. -/
def State.readingsOf (s : State) (point : Nat) : List Reading := (smapFind s.dbg.readings point).getD []

/-- An unfinished reading is given up (R477); the spec does not say what its statistics then hold. -/
def State.dropReading (s : State) (point : Nat) (r : Reading) : State :=
  let stats := (List.range 40).map (Config.freeByte s.fresh)
  let rs := (s.readingsOf point).filter (· != r)
  let s := { s with fresh := s.fresh + 1, dbg := { s.dbg with readings := smapPut (fun _ => some []) s.dbg.readings point rs } }
  s.keepWatch point (s.watchRecord point r true stats)

/-- A pass-2 operation of domain `d` starts (R399, R477): what was to be finished before it and is not, is given up, and a new snapshot
is requested for the next boundary. -/
def State.pass2Starts (s : State) (d : Nat) : State :=
  let n := (s.dom d).step
  let s := match (s.dom d).snap with
    | some p =>
      if p.step + 2 ≤ n then
        let s := (s.dropSnapshot d ST_SNAPSHOT_ABANDONED).requestSnapshots
        s.setDom d { s.dom d with snapWanted := true }
      else s
    | none => s
  s.dbg.readings.foldl (fun s e =>
    (e.2.filter (fun r => r.dom == d && decide (r.step + 2 ≤ n))).foldl (fun s r => s.dropReading e.1 r) s) s

end Sys2Proof.Machine
end

