-- ==== Sys2Proof/Machine/Image.lean ====
section
/-!
DEFINITION. The layout of a structure image (Tables STR-1 to STR-5) and the validation checks of Table STR-7.
-/
namespace Sys2Proof.Machine

/-! ## Layout (Tables STR-3 and STR-5) -/

/-- A section kind: id, entry size, most entries, and whether it is required. -/
structure SecSpec where
  id : Nat
  size : Nat
  most : Nat
  required : Bool
deriving DecidableEq, Repr

/-- Table STR-3. -/
def secSpecs : List SecSpec := [
  ⟨0x01, 128, 64, true⟩, ⟨0x02, 8, 1024, false⟩, ⟨0x03, 32, 16384, true⟩, ⟨0x04, 8, 64, true⟩, ⟨0x05, 16, 4096, false⟩,
  ⟨0x06, 8, 4096, false⟩, ⟨0x07, 0, 0, true⟩, ⟨0x08, 8, 4, false⟩, ⟨0x09, 8, 64, false⟩, ⟨0x0A, 16, 64, false⟩,
  ⟨0x0B, 16, 256, false⟩, ⟨0x0C, 80, 4096, true⟩, ⟨0x0D, 0, 0, false⟩]

/-- The change classes (R58). -/
inductive ChangeClass where
  | static | tick | live
deriving DecidableEq, Repr

/-- A field, or a byte of sub-byte fields (R498): its section, whether it lies in the preamble, its offset and width in bytes, the
bits of it that are not reserved, and its change class. -/
structure FieldSpec where
  sec : Nat
  pre : Bool
  off : Nat
  width : Nat
  mask : Nat
  cls : ChangeClass
deriving DecidableEq, Repr

/-- A field of whole bytes. -/
def whole (sec : Nat) (pre : Bool) (off width : Nat) (cls : ChangeClass) : FieldSpec :=
  ⟨sec, pre, off, width, 256 ^ width - 1, cls⟩

/-- Table STR-5: sections 0x01 to 0x06. -/
def fieldsA : List FieldSpec := [
  whole 0x01 false 0 1 .static, ⟨0x01, false, 1, 1, 3, .static⟩, whole 0x01 false 2 1 .static, whole 0x01 false 3 1 .static,
  whole 0x01 false 8 48 .static, whole 0x01 false 56 48 .static,
  whole 0x02 false 0 1 .static, whole 0x02 false 1 1 .static, whole 0x02 false 2 1 .static, whole 0x02 false 3 1 .static,
  whole 0x03 true 0 16 .static, whole 0x03 true 16 1 .tick, whole 0x03 true 18 2 .tick,
  whole 0x03 false 0 1 .static, whole 0x03 false 1 1 .static, whole 0x03 false 2 1 .static, whole 0x03 false 3 1 .static,
  ⟨0x03, false, 4, 1, 1, .static⟩, whole 0x03 false 8 8 .static, whole 0x03 false 16 8 .static,
  whole 0x03 false 24 4 .static, whole 0x03 false 28 2 .static,
  ⟨0x04, false, 0, 1, 0x3F, .static⟩, ⟨0x04, false, 1, 1, 0x0F, .static⟩, ⟨0x04, false, 2, 1, 0x7F, .static⟩,
  whole 0x05 true 0 1 .tick, whole 0x05 false 0 2 .static, whole 0x05 false 2 1 .static, ⟨0x05, false, 3, 1, 3, .static⟩,
  whole 0x05 false 4 1 .tick, whole 0x05 false 5 1 .static, whole 0x05 false 6 2 .static,
  whole 0x06 true 0 4 .static, whole 0x06 true 4 2 .static, whole 0x06 true 6 2 .tick, whole 0x06 true 8 2 .live,
  ⟨0x06, true, 10, 1, 1, .static⟩, whole 0x06 true 12 4 .static, whole 0x06 true 16 32 .static,
  whole 0x06 false 0 2 .static, whole 0x06 false 2 1 .static]

/-- Table STR-5: sections 0x07 to 0x0D. -/
def fieldsB : List FieldSpec := [
  whole 0x07 true 0 2 .static, whole 0x07 true 2 1 .static,
  whole 0x08 false 0 1 .static, whole 0x08 false 2 2 .tick, whole 0x08 false 4 2 .tick, whole 0x08 false 6 2 .static,
  whole 0x09 false 0 1 .static, whole 0x09 false 2 2 .tick,
  whole 0x0A true 0 1 .static, whole 0x0A true 2 2 .tick, whole 0x0A true 4 2 .tick,
  whole 0x0A false 0 1 .static, whole 0x0A false 1 1 .static, whole 0x0A false 2 14 .static,
  whole 0x0B true 0 4 .tick, whole 0x0B true 4 4 .tick, whole 0x0B false 0 2 .static, whole 0x0B false 2 1 .live,
  ⟨0x0B, false, 3, 1, 0x1F, .static⟩, whole 0x0B false 4 4 .static, whole 0x0B false 8 4 .static,
  whole 0x0C false 0 2 .static, whole 0x0C false 2 1 .static, whole 0x0C false 4 4 .static, whole 0x0C false 8 4 .static,
  whole 0x0C false 12 4 .static, whole 0x0C false 16 4 .static, whole 0x0C false 20 4 .static, whole 0x0C false 24 2 .static,
  whole 0x0C false 32 48 .static,
  whole 0x0D true 0 1 .static, whole 0x0D true 8 8 .static]

/-- The fields of a section's preamble or of its entries. -/
def fieldsOf (sec : Nat) (pre : Bool) : List FieldSpec :=
  (fieldsA ++ fieldsB).filter (fun f => f.sec == sec && f.pre == pre)

/-! ## Ranges (Table STR-5) -/

/-- Whether a binary32 pattern is finite and above zero (R226). -/
def f32Positive (v : Nat) : Bool := decide (0 < v ∧ v < 0x7F800000)

/-- Whether a binary32 pattern lies strictly between 0 and 1 (R226). -/
def f32Fraction (v : Nat) : Bool := decide (0 < v ∧ v < 0x3F800000)

/-- Whether the preamble field at `off` lies in its range; `e` is the preamble. -/
def preRange (sec off : Nat) (e : Bytes) : Bool :=
  let v (o n : Nat) := fieldAt e o n
  match sec, off with
  | 0x03, 16 => v 16 1 == 0 || decide (10 ≤ v 16 1)
  | 0x03, 18 => v 16 1 == 0 || decide (1 ≤ v 18 2)
  | 0x05, 0 => decide (1 ≤ v 0 1 ∧ v 0 1 ≤ 64)
  | 0x06, 6 => decide (60 ≤ v 6 2 ∧ v 6 2 ≤ 3600)
  | 0x06, 8 => decide (v 8 2 ≤ 1023)
  | 0x07, 0 => decide (10 ≤ v 0 2 ∧ v 0 2 ≤ 400) && v 0 2 % 10 == 0
  | 0x07, 2 => decide (v 2 1 ≤ 1)
  | 0x0A, 0 => decide (v 0 1 ≤ 1)
  | 0x0B, 0 => f32Positive (v 0 4)
  | 0x0B, 4 => f32Fraction (v 4 4)
  | 0x0D, 0 => decide (v 0 1 ≤ 1)
  | _, _ => true

/-- Whether the field at `off` of an entry lies in its range; `e` is the entry. -/
def entryRange (sec off : Nat) (e : Bytes) : Bool :=
  let v (o n : Nat) := fieldAt e o n
  match sec, off with
  | 0x01, 0 => decide (v 0 1 ≤ 63)
  | 0x01, 2 => if bitOf (v 1 1) 0 then decide (56 ≤ v 2 1 ∧ v 2 1 ≤ 64) else v 2 1 == 0
  | 0x01, 3 => decide (v 3 1 ≤ 15)
  | 0x02, 0 => decide (v 0 1 ≤ 63)
  | 0x02, 1 => decide (v 1 1 ≤ 15)
  | 0x02, 2 => decide (v 2 1 ≤ 1)
  | 0x02, 3 => decide (v 3 1 ≤ 3)
  | 0x03, 0 => decide (1 ≤ v 0 1 ∧ v 0 1 ≤ 7)
  | 0x03, 1 => decide (v 1 1 ≤ 1)
  | 0x03, 2 => decide (v 2 1 ≤ 3)
  | 0x03, 3 => decide (v 3 1 ≤ 63)
  | 0x03, 8 => v 8 8 % 2 ^ 21 == 0
  | 0x03, 16 => v 16 8 % 2 ^ 21 == 0 && v 16 8 != 0
  | 0x04, 1 => decide (v 1 1 ≤ 8)
  | 0x04, 2 => decide (bitsOf (v 2 1) 0 2 ≤ 2) && decide (bitsOf (v 2 1) 2 2 ≤ 2)
  | 0x05, 2 => decide (v 2 1 ≤ 3)
  | 0x05, 4 => decide (v 4 1 ≤ 64)
  | 0x05, 5 => decide (v 5 1 ≤ 63)
  | 0x05, 6 => decide (v 6 2 ≤ 63)
  | 0x06, 2 => decide (v 2 1 ≤ 2)
  | 0x08, 0 => decide (v 0 1 ≤ 3)
  | 0x08, 2 => decide (1 ≤ v 2 2 ∧ v 2 2 ≤ 255)
  | 0x08, 4 => decide (16 ≤ v 4 2)
  | 0x08, 6 => decide (256 ≤ v 6 2)
  | 0x09, 0 => decide (v 0 1 ≤ 63)
  | 0x0A, 0 => decide (v 0 1 ≤ 63)
  | 0x0A, 1 => decide (v 1 1 ≤ 5)
  | 0x0B, 0 => decide (v 0 2 ≤ 255)
  | 0x0B, 2 => decide (v 2 1 ≤ 1)
  | 0x0B, 8 => v 8 4 != 0
  | 0x0C, 2 => decide (v 2 1 ≤ 63)
  | 0x0C, 8 => decide (v 8 4 ≤ 131072)
  | 0x0C, 16 => decide (v 16 4 ≤ 65536)
  | 0x0C, 20 => v 20 4 % 2 == 0 && decide (v 20 4 < v 8 4)
  | 0x0C, 24 => decide (v 24 2 ≤ 256) && v 24 2 % 4 == 0
  | _, _ => true

/-- Whether a field of a preamble or an entry lies in its range. -/
def inRange (f : FieldSpec) (e : Bytes) : Bool := if f.pre then preRange f.sec f.off e else entryRange f.sec f.off e

/-! ## The section table -/

/-- A section header (Table STR-4), with the offset at which it stands. -/
structure SecHead where
  at' : Nat := 0
  id : Nat := 0
  minor : Nat := 0
  flags : Nat := 0
  off : Nat := 0
  len : Nat := 0
  size : Nat := 0
  count : Nat := 0
deriving DecidableEq, Repr

/-- The section headers of an image. -/
def secHeads (img : Bytes) : List SecHead :=
  (List.range (fieldAt img 14 2)).map (fun i =>
    let b := 128 + 32 * i
    { at' := b, id := fieldAt img b 2, minor := fieldAt img (b + 2) 1, flags := fieldAt img (b + 3) 1,
      off := fieldAt img (b + 4) 4, len := fieldAt img (b + 8) 4, size := fieldAt img (b + 12) 2,
      count := fieldAt img (b + 16) 4 })

/-- Why an image fails: the status and DETAIL, the offset of the field at fault (R65). -/
abbrev Flaw := Option (Nat × Nat)

/-- The flaw at the lowest of a list of offsets (R65). -/
def lowest (status : Nat) : List Nat → Flaw
  | [] => none
  | a :: as => some (status, as.foldl min a % 2 ^ 28)

/-- The first flaw of two checks. -/
def Flaw.or (a b : Flaw) : Flaw := match a with | some x => some x | none => b

/-- The highest minor supported (R61). -/
def maxMinor : Nat := 2

/-- The chosen minor of an image (R62). -/
def chosenMinor (img : Bytes) : Nat := min (fieldAt img 4 1) maxMinor

/-- Check 1: the header (R62, R64). -/
def check1 (raw : Bytes) : Flaw :=
  let n := fieldAt raw 8 4
  if fieldAt raw 0 4 ≠ 0x5358444C then some (ST_BAD_HEADER, 0)
  else if fieldAt raw 5 1 ≠ 1 then some (ST_REJECTED_VERSION, 5)
  else if fieldAt raw 6 1 > maxMinor then some (ST_REJECTED_VERSION, 6)
  else if n < 128 ∨ n > raw.length ∨ n > 2 ^ 28 ∨ n % 64 ≠ 0 then some (ST_BAD_HEADER, 8)
  else none

/-- Check 2: the digest (Table STR-1). -/
def check2 (img : Bytes) : Flaw :=
  if takeAt img 64 64 = sha512 (img.take 64 ++ img.drop 128) then none else some (ST_DIGEST_MISMATCH, 64)

/-- The VARIANT_MASK bits of a part (Table STR-2). -/
def Part.variantBits (p : Part) : List Nat :=
  [match p.variant with
   | .s08l2 => 0
   | .s12l2 => 1
   | .s12l3 => 2
   | .s16l3 => 3
   | .s16l4 => 4,
   if p.bin22 then 6 else 5]

/-- Check 3: the part's assembly and bin. -/
def check3 (p : Part) (img : Bytes) : Flaw :=
  if p.variantBits.all (bitOf (fieldAt img 12 2)) then none else some (ST_VARIANT_MISMATCH, 12)

/-- Whether a section id is required (R57). -/
def isRequired (id : Nat) : Bool := secSpecs.any (fun x => x.id == id && x.required)

/-- Whether a section is ignored: optional, not required, and of a minor above the chosen one (R62). -/
def SecHead.ignored (img : Bytes) (h : SecHead) : Bool :=
  decide (h.minor > chosenMinor img) && bitOf h.flags 0 && !(isRequired h.id)

/-- The faults of one section header after the headers `before` (R57). A SECTION_ID outside Table STR-3 is a fault, but for a section that
R62 ignores, which has no entry size or count to hold it to. -/
def headFaults (img : Bytes) (before : List SecHead) (h : SecHead) : List Nat :=
  let table := 128 + 32 * fieldAt img 14 2
  (if before.any (fun b => decide (h.id ≤ b.id)) then [h.at'] else []) ++
    (if h.off % 64 ≠ 0 ∨ h.off < table ∨
        before.any (fun b => decide (h.off < b.off + b.len ∧ b.off < h.off + h.len)) = true then [h.at' + 4] else []) ++
    (if h.len < 64 ∨ h.off + h.len > img.length then [h.at' + 8] else []) ++
    match secSpecs.find? (fun x => x.id == h.id) with
    | none => if h.ignored img then [] else [h.at']
    | some x =>
      (if h.size ≠ x.size then [h.at' + 12] else []) ++
        (if h.count > x.most ∨ h.len < 64 + h.count * x.size then [h.at' + 16] else [])

/-- The faults of the section headers of a list, those of `before` preceding it. -/
def tableFaults (img : Bytes) : List SecHead → List SecHead → List Nat
  | _, [] => []
  | before, h :: hs => headFaults img before h ++ tableFaults img (before ++ [h]) hs

/-- Check 4: the section table (R57). -/
def check4 (img : Bytes) : Flaw :=
  let n := fieldAt img 14 2
  if n < 5 ∨ n > 13 ∨ 128 + 32 * n > img.length then some (ST_SECTION_LAYOUT, 14)
  else lowest ST_SECTION_LAYOUT (tableFaults img [] (secHeads img))

/-- Check 5: required sections present, and the SECTION_MINOR rule (R62). -/
def check5 (img : Bytes) : Flaw :=
  let hs := secHeads img
  if secSpecs.any (fun x => x.required && !(hs.any (fun h => h.id == x.id))) then some (ST_SECTION_MISSING, 128)
  else lowest ST_REJECTED_VERSION
    ((hs.filter (fun h => decide (h.minor > chosenMinor img) && !(h.ignored img))).map (fun h => h.at' + 2))

/-- The sections that a validated image carries. -/
def sectionsOf (img : Bytes) : List Section :=
  ((secHeads img).filter (fun h => !(h.ignored img))).map (fun h =>
    { id := h.id, minor := h.minor, pre := takeAt img h.off 64,
      entries := (List.range h.count).map (fun j => takeAt img (h.off + 64 + j * h.size) h.size),
      body := takeAt img h.off h.len })

/-! ## Check 6: reserved fields -/

/-- The offsets at which a structure sets a bit outside the fields of the list. -/
def strayBits (fs : List FieldSpec) (e : Bytes) : List Nat :=
  (List.range e.length).filter (fun i =>
    let free := fs.foldl (fun m f => if f.off ≤ i ∧ i < f.off + f.width then m ||| bitsOf f.mask (8 * (i - f.off)) 8 else m) 0
    (e.getD i 0#8).toNat &&& (255 - free) != 0)

/-- The bytes of a section that declared instruction and data segments cover, as (offset, length): of PROGRAMS alone (R56). -/
def SecHead.segments (img : Bytes) (h : SecHead) : List (Nat × Nat) :=
  if h.id = secPrograms then (List.range h.count).flatMap (fun j =>
    let e := takeAt img (h.off + 64 + j * h.size) h.size
    let within (o n : Nat) := (h.off + o, min n (h.len - o))
    [within (fieldAt e 4 4) (fieldAt e 8 4), within (fieldAt e 12 4) (fieldAt e 16 4)])
  else []

/-- Whether a range of a list holds offset `i`. -/
def inRanges (rs : List (Nat × Nat)) (i : Nat) : Bool := rs.any (fun c => decide (c.1 ≤ i ∧ i < c.1 + c.2))

/-- The bytes of an image that the parts of Table STR-1 and, within PROGRAMS, its segments cover, as (offset, length) (R56). -/
def covered (img : Bytes) : List (Nat × Nat) :=
  (0, 128 + 32 * fieldAt img 14 2) :: (secHeads img).flatMap (fun h =>
    if h.ignored img then [(h.off, h.len)] else (h.off, 64 + h.count * h.size) :: h.segments img)

/-- The offsets of non-zero bytes that no range covers. -/
def strays (cov : List (Nat × Nat)) : Nat → Bytes → List Nat
  | _, [] => []
  | i, b :: bs =>
    if b ≠ 0#8 ∧ inRanges cov i = false then i :: strays cov (i + 1) bs
    else strays cov (i + 1) bs

/-- Check 6: reserved bytes and bits are zero (R3, R56). -/
def check6 (img : Bytes) : Flaw :=
  let head := (if fieldAt img 7 1 ≠ 0 then [7] else []) ++ (if bitsOf (fieldAt img 12 2) 7 9 ≠ 0 then
      [if bitsOf (fieldAt img 12 1) 7 1 ≠ 0 then 12 else 13] else []) ++
    ((fromTo 24 40).filter (fun i => img.getD i 0#8 != 0#8))
  let table := (secHeads img).flatMap (fun h =>
    (if h.flags ≥ 2 then [h.at' + 3] else []) ++
      (([14, 15] ++ fromTo 20 12).filter (fun i => img.getD (h.at' + i) 0#8 != 0#8)).map (h.at' + ·))
  let bodies := ((secHeads img).filter (fun h => !(h.ignored img))).flatMap (fun h =>
    ((strayBits (fieldsOf h.id true) (takeAt img h.off 64)).map (h.off + ·) ++
      (List.range h.count).flatMap (fun j =>
        let o := h.off + 64 + j * h.size
        (strayBits (fieldsOf h.id false) (takeAt img o h.size)).map (o + ·))).filter (fun i => !(inRanges (h.segments img) i)))
  lowest ST_RESERVED_SET (head ++ table ++ bodies ++ strays (covered img) 0 img)

/-! ## Checks 7 and 8 -/

/-- The offset of entry `j` of section `id` within the image. -/
def entryAt (img : Bytes) (id j : Nat) : Nat :=
  match (secHeads img).find? (fun h => h.id == id) with
  | some h => h.off + 64 + j * h.size
  | none => 0

/-- The entries of section `id` of an image, numbered. -/
def numbered (img : Bytes) (id : Nat) : List (Nat × Bytes) :=
  match (sectionsOf img).find? (fun x => x.id == id) with
  | some x => (List.range x.entries.length).zip x.entries
  | none => []

/-- Check 7: every field within its range. -/
def check7 (img : Bytes) : Flaw :=
  lowest ST_FIELD_RANGE (((secHeads img).filter (fun h => !(h.ignored img))).flatMap (fun h =>
    let pre := takeAt img h.off 64
    ((fieldsOf h.id true).filter (fun f => !(inRange f pre))).map (fun f => h.off + f.off) ++
      (numbered img h.id).flatMap (fun p =>
        ((fieldsOf h.id false).filter (fun f => !(inRange f p.2))).map (fun f => entryAt img h.id p.1 + f.off))))

/-- The offsets of the entries whose key repeats an earlier one: the key is the bytes that `key` takes. -/
def repeats (img : Bytes) (id off : Nat) (key : Bytes → Nat) : List Nat :=
  let es := numbered img id
  (es.filter (fun p => es.any (fun q => decide (q.1 < p.1) && key q.2 == key p.2))).map (fun p => entryAt img id p.1 + off)

/-- The offsets of field `off` in the entries of section `id` that satisfy `bad`. -/
def faulty (img : Bytes) (id off : Nat) (bad : Bytes → Bool) : List Nat :=
  ((numbered img id).filter (fun p => bad p.2)).map (fun p => entryAt img id p.1 + off)

/-- The DOMAINS entry of domain `d` in an image. -/
def imageDomain (img : Bytes) (d : Nat) : Option Bytes :=
  ((numbered img secDomains).find? (fun p => fieldAt p.2 0 1 == d)).map (·.2)

/-- Whether a reference of field (sec, off) resolves, for the entry `e` of an image with these sections (check 8, R477). -/
def resolves (secs : Nat → List Bytes) (progLen sec off : Nat) (e : Bytes) : Bool :=
  let hasDom (d : Nat) := (secs secDomains).any (fun x => fieldAt x 0 1 == d)
  match sec, off with
  | 0x02, 0 => hasDom (fieldAt e 0 1)
  | 0x02, 3 => ((secs secDomains).filter (fun x => fieldAt x 0 1 == fieldAt e 0 1)).all
      (fun x => bitOf (fieldAt x 3 1) (fieldAt e 3 1))
  | 0x03, 3 => hasDom (fieldAt e 3 1)
  | 0x05, 5 => !(bitOf (fieldAt e 3 1) 0) || (secs secFormats).any (fun x => fieldAt x 0 1 == fieldAt e 5 1)
  | 0x05, 6 => hasDom (fieldAt e 6 2)
  | 0x09, 0 => hasDom (fieldAt e 0 1)
  | 0x0B, 4 => (secs secMemory).any (fun x => fieldAt x 0 1 == 7 && fieldAt x 24 4 == fieldAt e 4 4)
  | 0x0C, 2 => hasDom (fieldAt e 2 1)
  | 0x0C, 8 => decide (fieldAt e 4 4 + fieldAt e 8 4 ≤ progLen)
  | 0x0C, 16 => decide (fieldAt e 12 4 + fieldAt e 16 4 ≤ progLen)
  | _, _ => true

/-- The length of the PROGRAMS body of an image. -/
def programsLen (img : Bytes) : Nat := (((secHeads img).find? (fun h => h.id == secPrograms)).map (·.len)).getD 0

/-- Check 8: keys unique, references resolve. -/
def check8 (img : Bytes) : Flaw :=
  let secs (id : Nat) := (numbered img id).map (·.2)
  let refs := (fieldsA ++ fieldsB).flatMap (fun f =>
    if f.pre then [] else faulty img f.sec f.off (fun e => !(resolves secs (programsLen img) f.sec f.off e)))
  lowest ST_REFERENCE_INVALID (refs ++
    repeats img secDomains 0 (fun e => fieldAt e 0 1) ++ repeats img secFormats 0 (fun e => fieldAt e 0 1) ++
    repeats img secRoutes 0 (fun e => fieldAt e 0 2) ++ repeats img secStash 0 (fun e => fieldAt e 0 2) ++
    repeats img secSurvival 0 (fun e => fieldAt e 0 2) ++ repeats img secArbitration 0 (fun e => fieldAt e 0 1) ++
    repeats img secPower 0 (fun e => fieldAt e 0 1) ++ repeats img secIntake 0 (fun e => fieldAt e 0 1) ++
    repeats img secWatch 0 (fun e => fieldAt e 0 2) ++ repeats img secPrograms 0 (fun e => fieldAt e 0 2))

/-! ## Checks 9 to 11: the units -/

/-- The units that checks 9 to 11 hold an image against (R65): the fitted ones outside Aloft, the admitted ones in Aloft. -/
structure Units where
  dies : Nat
  hbmStacks : Nat
  links : Nat
  ports : Nat
  lost : List Nat
  width : Nat → Nat
  cap : Nat

/-- The units in use now (R41, R65). -/
def State.units (s : State) : Units :=
  if s.aloft then
    { dies := s.dies, hbmStacks := s.hbmStacks, links := s.links, ports := s.d2dUp,
      lost := (List.range 384).filter (fun t => s.unusable.contains t || s.tileState t == 6),
      width := fun t => min (s.fld (ARR_SHAPE_F_WIDTH t)) (min (s.fld (ARR_SHAPE_B0_WIDTH t)) (s.fld (ARR_SHAPE_B1_WIDTH t))),
      cap := s.fld PWR_CAP_CAP_W }
  else
    { dies := 15, hbmStacks := s.part.stackMask, links := 2 ^ s.part.links - 1, ports := 15, lost := [], width := fun _ => 64,
      cap := s.fld PWR_CAP_CAP_W }

/-- The link die nearest to compute die `k` within a mask, lowest number on a tie (Table STR-3). -/
def nearestLink (mask k : Nat) : Option Nat :=
  (bitsSet mask 4).foldl (fun m n =>
    match m with
    | none => some n
    | some b => if hubHops k (linkHost n) < hubHops k (linkHost b) then some n else some b) none

/-- The port between two adjacent compute dies (Table ERR-4). -/
def portBetween (a b : Nat) : Nat :=
  ((List.range 4).find? (fun p => portDies p == (min a b, max a b))).getD 0

/-- Whether the path between two compute dies of a domain is there (check 9). -/
def Units.path (u : Units) (a b : Nat) : Bool :=
  if hubHops a b ≤ 1 then a == b || bitOf u.ports (portBetween a b)
  else u.dies == 15 && bitsOf u.ports 0 4 == 15

/-- The compute dies of a list of tiles. -/
def diesOf (ts : List Nat) : List Nat := (List.range 4).filter (fun k => ts.any (fun t => dieOf t == k))

/-- Whether the hubs of two compute dies reach each other (R19, R39): at once, over the port between them, or through either of
their common neighbours. -/
def Units.hubPath (u : Units) (a b : Nat) : Bool :=
  if hubHops a b ≤ 1 then u.path a b
  else [a ^^^ 1, a ^^^ 2].any (fun m => bitOf u.dies m && u.path a m && u.path m b)

/-- Whether compute die `k` reaches link die `n` over trained ports (R27, R39): by the hubs, to the compute die that carries it. -/
def Units.reaches (u : Units) (k n : Nat) : Bool := !(bitOf u.dies k) || u.hubPath k (linkHost n)

/-- The compute dies that a domain of an image uses. -/
def imageDies (img : Bytes) (d : Nat) : List Nat :=
  match imageDomain img d with
  | some e => diesOf (bitmapOf (takeAt e 8 48) ++ bitmapOf (takeAt e 56 48))
  | none => []

/-- The faults of one DOMAINS entry under check 9. -/
def placeFaults (u : Units) (img : Bytes) (j : Nat) (e : Bytes) : List Nat :=
  let at' := entryAt img secDomains j
  let tiles := bitmapOf (takeAt e 8 48)
  let spares := bitmapOf (takeAt e 56 48)
  let gone (t : Nat) := !(bitOf u.dies (dieOf t)) || u.lost.contains t
  let ds := diesOf (tiles ++ spares)
  let routed := ((numbered img secRoutes).filter (fun p => fieldAt p.2 0 1 == fieldAt e 0 1)).length
  let dflt := if routed ≥ 16 then [] else ds.filterMap (fun k => (nearestLink (fieldAt e 3 1) k).map (fun n => (k, n)))
  (tiles.filter gone).map (fun t => at' + 8 + t / 8) ++ (spares.filter gone).map (fun t => at' + 56 + t / 8) ++
    (if ds.any (fun a => ds.any (fun b => bitOf u.dies a && bitOf u.dies b && !(u.path a b))) then [at' + 8] else []) ++
    (if dflt.all (fun x => bitOf u.links x.2 && u.reaches x.1 x.2) then [] else [at' + 3]) ++
    (if bitOf (fieldAt e 1 1) 0 && (tiles ++ spares).any (fun t => decide (fieldAt e 2 1 > u.width t)) then [at' + 2] else [])

/-- Check 9: placement. -/
def check9 (u : Units) (img : Bytes) : Flaw :=
  lowest ST_PLACEMENT_ABSENT ((numbered img secDomains).flatMap (fun p => placeFaults u img p.1 p.2) ++
    faulty img secRoutes 3 (fun e => !(bitOf u.links (fieldAt e 3 1) &&
      (imageDies img (fieldAt e 0 1)).all (fun k => u.reaches k (fieldAt e 3 1)))))

/-- The stride of a domain in an image (R81). -/
def imageStride (img : Bytes) (d : Nat) : Nat :=
  (numbered img secPrograms).foldl (fun c p => if fieldAt p.2 2 1 = d then max c (fieldAt p.2 24 2 * 1024) else c) 0

/-- The faults of the regions against the stacks (check 10): a local region without stacks on its die, a region outside present
HBM, a region that overlaps an earlier one, and storage beyond a pseudo-channel (R313). -/
def regionFaults (u : Units) (img : Bytes) : List Nat :=
  let es := numbered img secMemory
  let top := popcount u.hbmStacks * 48 * 2 ^ 30
  let noDie := faulty img secMemory 2 (fun e => fieldAt e 1 1 == 1 && stacksOn (fieldAt e 2 1) u.hbmStacks == 0)
  let outside := faulty img secMemory 16 (fun e => decide (fieldAt e 8 8 + fieldAt e 16 8 > top))
  let overlap := (es.filter (fun p => es.any (fun q => decide (q.1 < p.1 ∧
      fieldAt q.2 8 8 < fieldAt p.2 8 8 + fieldAt p.2 16 8 ∧ fieldAt p.2 8 8 < fieldAt q.2 8 8 + fieldAt q.2 16 8)))).map
    (fun p => entryAt img secMemory p.1 + 8)
  let isOver := if noDie ≠ [] then [] else
    ((mapOf u.hbmStacks 0 (es.map (·.2))).regions.filter (fun r =>
      r.dies.any (fun k => decide (r.bases.getD k 0 + r.depth > pcGranules)))).map (fun r => entryAt img secMemory r.index + 16)
  noDie ++ outside ++ overlap ++ isOver

/-- The faults of the slot shadow of one domain (check 10, R81). -/
def shadowFaults (img : Bytes) (j : Nat) (e : Bytes) : List Nat :=
  let d := fieldAt e 0 1
  let n := (bitmapOf (takeAt e 8 48)).length + (bitmapOf (takeAt e 56 48)).length
  match (numbered img secMemory).filter (fun p => fieldAt p.2 0 1 == 4 && fieldAt p.2 3 1 == d) with
  | [] => [entryAt img secDomains j]
  | r :: rs =>
    (rs.take 1).map (fun p => entryAt img secMemory p.1) ++
      (if fieldAt r.2 16 8 < 2 * imageStride img d * n + 65536 then [entryAt img secMemory r.1 + 16] else [])

/-- Check 10: the layout of HBM. -/
def check10 (u : Units) (img : Bytes) : Flaw :=
  lowest ST_MEMORY_LAYOUT (regionFaults u img ++ (numbered img secDomains).flatMap (fun p => shadowFaults img p.1 p.2))

/-- The sum of the envelopes of a list of POWER entries. -/
def envelopeSum (es : List Bytes) : Nat := es.foldl (fun n e => n + fieldAt e 2 2) 0

/-- Check 11: the envelopes against the cap (R72). -/
def check11 (u : Units) (img : Bytes) : Flaw :=
  let es := (numbered img secPower).map (·.2)
  if envelopeSum es > u.cap then some (ST_POWER_ABOVE_CAP, entryAt img secPower (es.length - 1) + 2) else none

/-! ## Checks 12 to 15 -/

/-- The tiles of all DOMAINS entries in image order, as (offset of the byte, tile). -/
def claims (img : Bytes) : List (Nat × Nat) :=
  (numbered img secDomains).flatMap (fun p =>
    let at' := entryAt img secDomains p.1
    (bitmapOf (takeAt p.2 8 48)).map (fun t => (at' + 8 + t / 8, t)) ++
      (bitmapOf (takeAt p.2 56 48)).map (fun t => (at' + 56 + t / 8, t)))

/-- The tiles of all PROGRAMS entries in image order, as (offset of the byte, tile). -/
def runs (img : Bytes) : List (Nat × Nat) :=
  (numbered img secPrograms).flatMap (fun p =>
    (bitmapOf (takeAt p.2 32 48)).map (fun t => (entryAt img secPrograms p.1 + 32 + t / 8, t)))

/-- The offsets of the claims that repeat an earlier tile. -/
def reclaims : List Nat → List (Nat × Nat) → List Nat
  | _, [] => []
  | seen, (o, t) :: xs => if seen.contains t then o :: reclaims seen xs else reclaims (t :: seen) xs

/-- Check 12: domains and spares disjoint, domains non-empty, programs within their domain, one program per tile. -/
def check12 (img : Bytes) : Flaw :=
  let empty := faulty img secDomains 8 (fun e => allZero (takeAt e 8 48))
  let stray := (numbered img secPrograms).flatMap (fun p =>
    let own := match imageDomain img (fieldAt p.2 2 1) with | some e => bitmapOf (takeAt e 8 48) | none => []
    ((bitmapOf (takeAt p.2 32 48)).filter (fun t => !(own.contains t))).map
      (fun t => entryAt img secPrograms p.1 + 32 + t / 8))
  let ran := (runs img).map (·.2)
  let idle := (numbered img secDomains).flatMap (fun p =>
    ((bitmapOf (takeAt p.2 8 48)).filter (fun t => !(ran.contains t))).map (fun t => entryAt img secDomains p.1 + 8 + t / 8))
  lowest ST_DOMAIN_OVERLAP (empty ++ reclaims [] (claims img) ++ stray ++ reclaims [] (runs img) ++ idle)

/-- Check 13: spares (R66). -/
def check13 (img : Bytes) : Flaw :=
  lowest ST_SPARE_SHORT ((numbered img secDomains).flatMap (fun p =>
    let at' := entryAt img secDomains p.1 + 56
    let tiles := bitmapOf (takeAt p.2 8 48)
    let spares := bitmapOf (takeAt p.2 56 48)
    let ds := diesOf tiles
    if bitOf (fieldAt p.2 1 1) 1 then spares.map (fun t => at' + t / 8)
    else (spares.filter (fun t => !(ds.contains (dieOf t)))).map (fun t => at' + t / 8) ++
      (if ds.all (fun k => spares.any (fun t => dieOf t == k)) then [] else [at'])))

/-- Whether a FORMATS entry is coherent (R67). -/
def formatOk (e : Bytes) : Bool :=
  let ty := fieldAt e 1 1
  let b := fieldAt e 2 1
  (if ty ≤ 2 then bitsOf b 0 2 == 0 && bitsOf b 2 2 == 0 else bitsOf b 0 2 != 0) && (!(bitOf b 6) || bitsOf b 2 2 != 0)

/-- The field at fault in an incoherent FORMATS entry: TYPE and the byte of SCALE_MODE and ESCAPES conflict, reported at the
later (R65). -/
def check14 (img : Bytes) : Flaw :=
  let fmts := (numbered img secFormats).map (·.2)
  lowest ST_FORMAT_INVALID (faulty img secFormats 2 (fun e => !(formatOk e)) ++
    faulty img secStash 3 (fun e => bitOf (fieldAt e 3 1) 0 && fieldAt e 2 1 == 3) ++
    faulty img secStash 5 (fun e => bitOf (fieldAt e 3 1) 0 &&
      fmts.any (fun f => fieldAt f 0 1 == fieldAt e 5 1 && bitsOf (fieldAt f 2 1) 0 2 != 2)))

/-- Check 15: no tied weights (R68). -/
def check15 (img : Bytes) : Flaw :=
  let ws := (numbered img secMemory).filter (fun p => fieldAt p.2 0 1 == 7)
  let tied (p q : Nat × Bytes) :=
    decide (q.1 < p.1) && fieldAt p.2 28 2 != fieldAt q.2 28 2 &&
      (fieldAt p.2 24 4 == fieldAt q.2 24 4 ||
        decide (fieldAt q.2 8 8 < fieldAt p.2 8 8 + fieldAt p.2 16 8 ∧ fieldAt p.2 8 8 < fieldAt q.2 8 8 + fieldAt q.2 16 8))
  lowest ST_TIED_WEIGHT ((ws.filter (fun p => ws.any (tied p))).map (fun p => entryAt img secMemory p.1 + 24))

/-! ## Validation (R65) -/

/-- The image proper: staged bytes beyond LENGTH are ignored. -/
def trim (raw : Bytes) : Bytes := raw.take (fieldAt raw 8 4)

/-- Checks 9 to 11, which a COMMIT repeats (R65). -/
def unitChecks (u : Units) (img : Bytes) : Flaw := ((check9 u img).or (check10 u img)).or (check11 u img)

/-- The checks of Table STR-7 in order, up to the first that fails. -/
def validateImage (p : Part) (u : Units) (raw : Bytes) : Flaw :=
  match check1 raw with
  | some x => some x
  | none =>
    let img := trim raw
    [check2, check3 p, check4, check5, check6, check7, check8, unitChecks u, check12, check13, check14, check15].foldl
      (fun r c => match r with | some x => some x | none => c img) none

/-- A validated image as data. -/
def imageOf (img : Bytes) : Image :=
  { minor := chosenMinor img, id := fieldAt img 16 8, digest := takeAt img 64 64, sections := sectionsOf img }

end Sys2Proof.Machine
end

