-- ==== Sys2Proof/Machine/Struct.lean ====
section
/-!
DEFINITION. The STRUCT commands (R63 to R72, R498): staging, validation, commit, and updates of single fields.
-/
namespace Sys2Proof.Machine

/-! ## Staging and validation (R64, R65) -/

/-- STAGE_STATE and its values (Table STR-9). -/
def State.stageState (s : State) : Nat := s.fld CTL_STRUCT_STATUS_STAGE_STATE
def State.setStage (s : State) (v : Nat) : State := s.setFld CTL_STRUCT_STATUS_STAGE_STATE v

/-- Whether a copy, a validation or a commit is in progress (R64). -/
def State.structBusy (s : State) : Bool :=
  s.stageBy.isSome || s.validateBy.isSome || s.commit.isSome

/-- A STRUCT command ends, LAST_STATUS showing its status (Table STR-9). -/
def State.finishStruct (s : State) (h : Word) (status detail result : Nat) : State :=
  (s.setFld CTL_STRUCT_STATUS_LAST_STATUS status).finish h { status := status, detail := detail, result := result }

/-- The staged bytes. -/
def State.staged (s : State) : Bytes := s.bytesAt s.stageBase s.stagedLen

/-- STAGE (R64): the copy starts, or is refused as busy, of a bad length, or from a source outside host DDR. -/
def execStructStage (h : Word) (s : State) : Out :=
  match s.ready h 3 1 with
  | none => .next s
  | some p =>
    let s := s.begin p
    let n := fieldAt p.entry 24 4
    let src := fieldAt p.entry 16 8
    if s.structBusy then .next (s.finishStruct h ST_STRUCT_BUSY 0 0)
    else if n < 128 ∨ n > 2 ^ 28 then .next (s.finishStruct h ST_BAD_HEADER 8 0)
    else if !(s.isDdr src && s.isDdr (src + n - 1)) then .next ((s.engineFault src n).finishStruct h ST_ADDRESS_UNMAPPED 0 0)
    else .next ({ s with stageBy := some h }.setStage 6)

/-- The copy into the staging area ends (R64): the state is STAGED, and validation follows when VALIDATE_AFTER is set. -/
def execStageCopyEnd (s : State) : Out :=
  match s.stageBy with
  | none => .next s
  | some h =>
    match s.cmd h with
    | none => .next { s with stageBy := none }
    | some p =>
      let n := fieldAt p.entry 24 4
      let s := s.store s.stageBase (s.bytesAt (fieldAt p.entry 16 8) n)
      let s := { s with stageBy := none, stagedLen := n }
      if bitOf (fieldAt p.entry 28 1) 0 then .next ({ s with validateBy := some h }.setStage 2)
      else .next ((s.setStage 1).finishStruct h ST_OK 0 0)

/-- VALIDATE (R64): validation starts. -/
def execStructValidate (h : Word) (s : State) : Out :=
  match s.ready h 3 2 with
  | none => .next s
  | some p =>
    let s := s.begin p
    if s.structBusy then .next (s.finishStruct h ST_STRUCT_BUSY 0 0)
    else if s.stageState = 0 then .next (s.finishWith h ST_STRUCT_EMPTY)
    else .next ({ s with validateBy := some h }.setStage 2)

/-- Validation ends (R65): STAGE_STATE is VALID or INVALID, and the command that started it completes. -/
def execValidationEnd (s : State) : Out :=
  match s.validateBy with
  | none => .next s
  | some h =>
    let s := { s with validateBy := none }
    match validateImage s.part s.units s.staged with
    | none => .next ((s.setStage 3).finishStruct h ST_OK 0 0)
    | some (st, at') => .next ((s.setStage 4).finishStruct h st at' 0)

/-- DISCARD (R64): the staging area empties. -/
def execStructDiscard (h : Word) (s : State) : Out :=
  match s.ready h 3 4 with
  | none => .next s
  | some p =>
    let s := s.begin p
    if s.structBusy then .next (s.finishWith h ST_STRUCT_BUSY)
    else .next (({ s with stagedLen := 0 }.setStage 0).finishWith h ST_OK)

/-! ## COMMIT (R69) -/

/-- Quiescence (R69): no COMPUTE, STEP or WATCH handle, no MOVE that touches HBM or scratchpads, no collective in flight. -/
def State.quiescent (s : State) : Bool :=
  s.cmds.all (fun p => p.done.isSome || !(blockedByCommit p.cls p.entry)) && s.colls.all (fun c => c.launched.isNone || c.ended)

/-- COMMIT starts (R65, R69): the staged image is validated as its state asks, and the wait for quiescence begins. -/
def execStructCommit (h : Word) (s : State) : Out :=
  match s.ready h 3 3 with
  | none => .next s
  | some p =>
    let s := s.begin p
    if s.structBusy then .next (s.finishStruct h ST_STRUCT_BUSY 0 0)
    else if s.stageState = 0 then .next (s.finishWith h ST_STRUCT_EMPTY)
    else
      let flaw := if s.stageState = 3 then unitChecks s.units (trim s.staged) else validateImage s.part s.units s.staged
      match flaw with
      | some (st, at') => .next ((s.setStage 4).finishStruct h st at' 0)
      | none =>
        .next ({ s with commit := some { handle := h, wait := fieldAt p.entry 16 2, image := imageOf (trim s.staged), had := s.image.isSome } }.setStage 5)

/-- The commands that held updates of the image that ends complete with ABORTED_RESET (R70). -/
def State.dropShadows (s : State) : State :=
  let hs := s.shadows.filterMap (fun x => x.handle)
  hs.foldl (fun s h => s.finishWith h ST_ABORTED_RESET) { s with shadows := [] }

/-- The previous job image is retired (R69): its domains cease, its slot shadows and waiting updates are discarded, and HBM decodes as
without a job image until the new one takes effect (R315). -/
def State.retire (s : State) : State := { s.dropShadows.dropDomains.noImage with hbmMap := plainMap s.hbmStacks }

/-- Quiescence is reached while a COMMIT waits (R69): preparation begins. -/
def execCommitQuiescence (s : State) : Out :=
  match s.commit with
  | none => .next s
  | some c =>
    if c.phase = 0 ∧ s.quiescent = true then .next { s.retire with commit := some { c with phase := 1 } }
    else .next s

/-- The wait of a COMMIT ends without quiescence (R69): COMMIT_BUSY; the image stays valid. -/
def execCommitWaitExpiry (s : State) : Out :=
  match s.commit with
  | none => .next s
  | some c =>
    if c.phase = 0 ∧ c.wait = 0 ∧ s.quiescent = false then
      .next (({ s with commit := none }.setStage 3).finishStruct c.handle ST_COMMIT_BUSY 0 0)
    else .next s

/-- The decode that an image gives over the admitted stacks. -/
def Image.hbm (i : Image) (hbmStacks : Nat) : HbmMap :=
  match i.sec secMemory with
  | some x => mapOf hbmStacks (fieldAt x.pre 0 16) x.entries
  | none => {}

/-- The regions of an image marked CLEAR_AT_COMMIT, with their place in storage. -/
def Image.cleared (i : Image) (hbmStacks : Nat) : List HbmRegion :=
  match i.sec secMemory with
  | some x => (i.hbm hbmStacks).regions.filter (fun r => bitOf (fieldAt (x.entries.getD r.index []) 4 1) 0)
  | none => []

/-- A program loaded into the tiles that run those of its bitmap, with the tile's mirror of its PROGRAMS entry (R135, Table TIL-12). -/
def State.loadProgram (s : State) (body e : Bytes) : State :=
  (bitmapOf (takeAt e 32 48)).foldl (fun s l =>
    let t := match s.domOfLogical l with | some d => s.phys d l | none => l
    let s := s.loadTile t body e
    let s := s.setFld (TIL_PROGRAM_PROGRAM_ID t) (fieldAt e 0 2)
    let s := s.setFld (TIL_PROGRAM_DOMAIN t) (fieldAt e 2 1)
    s.setFld (TIL_PROGRAM_CARRIED_KIB t) (fieldAt e 24 2)) s

/-- The program store of host DDR, behind the error-log mirror (R418, R423). -/
def State.storeBase (s : State) : Nat := s.errAreaBase + 0x10000

/-- The programs of an image loaded, and copied into the program store (R69, R423). -/
def State.loadPrograms (s : State) (i : Image) : State :=
  match i.sec secPrograms with
  | some x => (x.entries.foldl (fun s e => s.loadProgram x.body e) s).store s.storeBase x.body
  | none => s

/-- Preparation done (R69): the regions marked are zeroed, the programs are loaded. -/
def State.prepare (s : State) (i : Image) : State :=
  ((i.cleared s.hbmStacks).foldl (fun s r => s.overRegion r State.clear) s).loadPrograms i

/-- Preparation ends (R69): the image waits for the next boundary; or an uncorrectable error struck, COMMIT completes with
UNIT_FAULT, no image is in force, and what the regions to be zeroed hold is unpredictable. -/
def execCommitPreparationEnd (ok : Bool) (s : State) : Out :=
  match s.commit with
  | none => .next s
  | some c =>
    if c.phase ≠ 1 then .next s
    else if ok then .next { s.prepare c.image with commit := some { c with phase := 2 } }
    else
      let s := (c.image.cleared s.hbmStacks).foldl (fun s r => s.overRegion r State.scramble) s
      let s := { s.plainLayout with commit := none }.tetherTick
      .next ((s.setStage 3).finishStruct c.handle ST_UNIT_FAULT 0 0)

/-! ## The effect of a COMMIT, at a boundary (step 3 of Table TCK-2) -/

/-- A tile's state and logical id at commit (Table TIL-12): a spare stands by, a working tile is idle. -/
def State.placeTile (s : State) (t state : Nat) : State :=
  if s.tileState t = 6 ∨ s.tileState t = 7 then s
  else (s.setTileState t state).setFld (TIL_STATE_LOGICAL t) t

/-- A domain of a new image (R69, R77, R223, R424): both banks, STEP_NF, LAST_NF and the detector are clear (NF_STEPS and SPIKES, which only
software clears, stand), its first slot is due, its placement is the image's, and its spool opens. -/
def State.openDomain (s : State) (e : Bytes) : State :=
  let d := fieldAt e 0 1
  let s := s.setDom d { fresh := true }
  let s := (s.setFld (CTL_DOM_NONFINITE_STEP_NF d) 0).setFld (CTL_DOM_NONFINITE_LAST_NF d) 0
  let s := (s.setReg (CTL_SPIKE_MEAN d) 0#64).setReg (CTL_SPIKE_VAR d) 0#64
  let s := ((s.setFld (CTL_SPIKE_STATUS_COUNT d) 0).setFld (CTL_SPIKE_STATUS_CONSEC d) 0).setFld (CTL_SPIKE_STATUS_SPIKES d) 0
  let s := s.setReg (CTL_DOM_SLOT d) 0#64
  let s := s.setReg (CTL_DOM_STATE d) 1#64
  let s := (bitmapOf (takeAt e 8 48)).foldl (fun s t => s.placeTile t 1) s
  let s := (bitmapOf (takeAt e 56 48)).foldl (fun s t => s.placeTile t 5) s
  s.spool d 1 0 (leBytes 8 (s.preField secDeterminism 8 8 0)) []

/-- The image prepared takes effect at boundary `n` (R64, R69, R70, R316): its layout takes over, no tick shadow is carried forward, the
staging area empties, and the COMMIT completes with the tick. -/
def State.commitEffect (s : State) (n : Nat) : State :=
  match s.commit with
  | none => s
  | some c =>
    if c.phase ≠ 2 then s
    else
      let i := c.image
      let s := { (s.newLayout (i.hbm s.hbmStacks) (i.cleared s.hbmStacks)) with image := some i, commit := none, stagedLen := 0, shadows := [], regShadows := [] }
      let s := (s.setStage 0).setFld CTL_STRUCT_STATUS_IN_FORCE 1
      let s := s.setFld CTL_STRUCT_VERSION_CHOSEN_MINOR i.minor
      let s := s.setFld CTL_STRUCT_VERSION_MAJOR 1
      let s := (s.setReg CTL_STRUCT_ID (word i.id)).setReg CTL_STRUCT_COMMIT_TICK (word n)
      let s := s.setFld CTL_TICK_CONFIG_PERIOD (s.preField secTick 0 2 50)
      let s := s.setFld CTL_TICK_CONFIG_OVERRUN (s.preField secTick 2 1 0)
      let s := s.setFld CTL_SRV_CONFIG_RIPCORD (s.preField secSurvival 8 2 600)
      let s := s.setFld CTL_SRV_RISK_ARMED 1
      let s := (s.entries secDomains).foldl State.openDomain s
      s.finishStruct c.handle ST_OK 0 n

/-! ## UPDATE (R58, R71, R498) -/

/-- The domain that an entry of a section belongs to; none for package-wide fields (R58). -/
def sectionDomain (sec : Nat) (e : Bytes) : Option Nat :=
  if sec = 0x01 ∨ sec = 0x02 ∨ sec = 0x09 then some (fieldAt e 0 1)
  else if sec = 0x03 then some (fieldAt e 3 1)
  else if sec = 0x05 then some (fieldAt e 6 2)
  else if sec = 0x0C then some (fieldAt e 2 1)
  else none

/-- The preamble (index 0xFFFF_FFFF) or an entry of a section. -/
def Section.part (x : Section) (i : Nat) : Option Bytes := if i = 0xFFFFFFFF then some x.pre else x.entries[i]?

/-- A section with the preamble or an entry replaced. -/
def Section.withPart (x : Section) (i : Nat) (e : Bytes) : Section :=
  if i = 0xFFFFFFFF then { x with pre := e } else { x with entries := x.entries.set i e }

/-- A field of the image in force replaced. -/
def State.putField (s : State) (sec i off width value : Nat) : State :=
  match s.image with
  | none => s
  | some im =>
    { s with image := some { im with sections := im.sections.map (fun x =>
        if x.id = sec then
          match x.part i with
          | some e => x.withPart i (putAt e off (leBytes width value))
          | none => x
        else x) } }

/-- The domain of the field that a shadow or an update names. -/
def State.fieldDomain (s : State) (sec i : Nat) : Option Nat :=
  if i = 0xFFFFFFFF then none else ((s.sec sec).bind (fun x => x.part i)).bind (sectionDomain sec)

/-- Whether the block that uses a field runs (R58, R71, R90): the tick master always; the intake while it is ENABLED; a domain's block
while the domain runs; another package-wide block while any domain runs. -/
def State.blockRuns (s : State) (sec : Nat) (dom : Option Nat) : Bool :=
  if sec = secTick then true
  else if sec = secIntake then s.intakeOn
  else
    match dom with
    | some d => s.domState d == 1 || s.domState d == 2
    | none => s.anyDomainRuns

/-- The preamble or entry with the writes that wait for a boundary applied (R71). -/
def State.shadowed (s : State) (sec i : Nat) (e : Bytes) : Bytes :=
  (s.shadows.filter (fun x => x.sec == sec && x.entry == i)).foldl (fun e x => putAt e x.off (leBytes x.width x.value)) e

/-- The entries of a section with the writes that wait for a boundary applied. -/
def State.shadowedEntries (s : State) (sec : Nat) : List Bytes :=
  let es := s.entries sec
  (List.range es.length).map (fun i => s.shadowed sec i (es.getD i []))

/-- Whether a changed STASH or FORMATS entry `e` leaves the DUAL copies coherent (R67): not with DROP, and of a format of
SCALE_MODE COLUMN. -/
def State.dualOk (s : State) (sec : Nat) (e : Bytes) : Bool :=
  let dual (x : Bytes) := bitOf (fieldAt x 3 1) 0
  let columned (f : Bytes) := bitsOf (fieldAt f 2 1) 0 2 == 2
  if sec = secStash then
    !(dual e) || (fieldAt e 2 1 != 3 && (s.shadowedEntries secFormats).all (fun f => fieldAt f 0 1 != fieldAt e 5 1 || columned f))
  else if sec = secFormats then
    columned e || !((s.shadowedEntries secStash).any (fun x => dual x && fieldAt x 5 1 == fieldAt e 0 1))
  else true

/-- The references that a change of the field at `off` makes: setting DUAL makes that of DUAL_FORMAT, a ROUTES entry's DOMAIN that of its
LINK_DIE, and the offset of a segment that of the whole segment. -/
def madeRefs (sec off : Nat) : List Nat :=
  if sec = secStash ∧ off = 3 then [3, 5]
  else if sec = secRoutes ∧ off = 0 then [0, 3]
  else if sec = secPrograms ∧ (off = 4 ∨ off = 12) then [off + 4]
  else [off]

/-- The checks of R498 from the second on, for a field of the image in force: OK, or the status of the first that fails. -/
def State.updateStatus (s : State) (sec width i off value : Nat) : Nat :=
  match s.sec sec with
  | none => ST_FIELD_RANGE
  | some x =>
    match x.part i, (fieldsOf sec (i == 0xFFFFFFFF)).find? (fun f => f.off == off && f.width == width) with
    | some e, some f =>
      if ¬ (width = 1 ∨ width = 2 ∨ width = 4 ∨ width = 8) ∨ value ≥ 256 ^ width then ST_FIELD_RANGE
      else if f.cls = .static ∧ s.blockRuns sec (s.fieldDomain sec i) = true then ST_REJECTED_STATIC
      else if value % 2 ^ (8 * width) ≠ value &&& f.mask then ST_RESERVED_SET
      else
        let e' := putAt (s.shadowed sec i e) off (leBytes width value)
        if (fieldsOf sec f.pre).any (fun g => !(inRange g e') && (inRange g (s.shadowed sec i e) || g == f)) then ST_FIELD_RANGE
        else if (sec = secFormats ∧ !f.pre ∧ formatOk e' = false) ∨ (!f.pre && !(s.dualOk sec e')) = true then ST_FIELD_RANGE
        else if !f.pre &&
            !((madeRefs sec off).all (fun o => resolves s.entries ((s.sec secPrograms).map (fun x => x.body.length) |>.getD 0) sec o e')) then
          ST_REFERENCE_INVALID
        else if sec = secPower ∧ off = 2 then
          let es := s.shadowedEntries secPower
          if envelopeSum (es.set i e') > s.fld PWR_CAP_CAP_W ∧ value > fieldAt (es.getD i []) 2 2 then ST_REJECTED_PORT
          else ST_OK
        else ST_OK
    | _, _ => ST_FIELD_RANGE

/-- A change applied to the image in force, with the registers that mirror it, and its spool record (R60). -/
def State.applyChange (s : State) (sec i off width value : Nat) : State :=
  let dom := s.fieldDomain sec i
  let s := s.putField sec i off width value
  let s := if sec = secSurvival ∧ off = 8 then s.setFld CTL_SRV_CONFIG_RIPCORD value else s
  let s := if sec = secWatch ∧ off = 2 ∧ value = 0 then
      let point := fieldAt ((s.entries secWatch).getD i []) 0 2
      { s with dbg := { s.dbg with readings := smapDel s.dbg.readings point } }
    else s
  s.spoolChange dom sec width i off value

/-! ## What a commit derives from static fields -/

/-- The METHOD of a survival class: that of its SURVIVAL entry, else AUTO (0). -/
def State.classMethod (s : State) (cls : Nat) : Nat :=
  (((s.entries secSurvival).find? (fun e => fieldAt e 0 2 == cls)).map (fun e => fieldAt e 2 1)).getD 0

/-- The METHOD of a region at commit: an AUTO region of at most MIRROR_MAX MiB a bank is MIRROR, another is undecided. -/
def State.firstMethod (s : State) (cls bank : Nat) : Nat :=
  let m := s.classMethod cls
  if m ≠ 0 then m else if bank ≤ s.preField secSurvival 0 4 64 * 2 ^ 20 then 1 else 0

/-- The WEIGHT regions of the image in force, in image order. -/
def State.weightRegions (s : State) : List Protect :=
  let es := s.entries secMemory
  (List.range es.length).filterMap (fun i =>
    let e := es.getD i []
    if fieldAt e 0 1 = 7 then
      let bank := fieldAt e 16 8 / 2
      some { dom := fieldAt e 3 1, index := i, tensor := fieldAt e 24 4, base := hbmBase + fieldAt e 8 8, bank := bank,
             method := s.firstMethod (fieldAt e 24 4 / 65536) bank }
    else none)

/-- The protected regions of the structure as changed: one that stands where it stood keeps its state, and its METHOD too unless a
SURVIVAL entry has changed. -/
def State.reprotect (s : State) (sec : Nat) : List Protect :=
  s.weightRegions.map (fun r =>
    match s.survival.regions.find? (fun q => q.index == r.index && q.base == r.base && q.bank == r.bank) with
    | some q => { q with dom := r.dom, tensor := r.tensor, method := if sec = secSurvival then r.method else q.method }
    | none => r)

/-- A static field written while its block is stopped changes the committed structure as though the image had carried the value (R58): the
decode of HBM, the loaded program of an entry and the protected regions follow it. -/
def State.rederive (s : State) (sec i : Nat) : State :=
  match s.image with
  | none => s
  | some im =>
    let s := if sec = secMemory then s.newLayout (im.hbm s.hbmStacks) [] else s
    let s := if sec = secPrograms then
        match s.sec secPrograms with
        | some x => match x.entries[i]? with | some e => s.loadProgram x.body e | none => s
        | none => s
      else s
    if sec = secMemory ∨ sec = secSurvival then { s with survival := { s.survival with regions := s.reprotect sec } } else s

/-- The record and the slot registers of stopped domain `a` stand under its new number `b`. -/
def State.renumber (s : State) (a b : Nat) : State :=
  if a = b then s
  else
    let s := (s.setDom b (s.dom a)).setDom a {}
    let s := (s.setReg (CTL_DOM_SLOT b) (s.reg (CTL_DOM_SLOT a))).setReg (CTL_DOM_STATE b) (s.reg (CTL_DOM_STATE a))
    s.resetRegs [CTL_DOM_SLOT a, CTL_DOM_STATE a]

/-- The tiles of a stopped domain whose DOMAINS entry `old` is now `new` (Table TIL-12): a tile that it takes in is STOPPED or SPARE, one
that it gives up is FREE. -/
def State.retile (s : State) (old new : Bytes) : State :=
  let tiles (e : Bytes) := bitmapOf (takeAt e 8 48)
  let spares (e : Bytes) := bitmapOf (takeAt e 56 48)
  let gone := (tiles old ++ spares old).filter (fun t => !((tiles new ++ spares new).contains t))
  let s := gone.foldl (fun s t => if s.tileState t = 6 ∨ s.tileState t = 7 then s
    else (s.setTileState t 0).setFld (TIL_STATE_LOGICAL t) 0) s
  let s := ((tiles new).filter (fun t => !((tiles old).contains t))).foldl (fun s t => s.placeTile t 4) s
  ((spares new).filter (fun t => !((spares old).contains t))).foldl (fun s t => s.placeTile t 5) s

/-- A static field of a stopped block written (R58): the committed structure changes, with what a commit derives from it. -/
def State.writeStatic (s : State) (sec i off width value : Nat) : State :=
  let old := (s.entries sec).getD i []
  let s := (s.putField sec i off width value).rederive sec i
  if sec = secDomains ∧ i ≠ 0xFFFFFFFF then
    let new := (s.entries sec).getD i []
    (s.renumber (fieldAt old 0 1) (fieldAt new 0 1)).retile old new
  else s

/-- UPDATE (R58, R498): a static field of a stopped block and a live field take effect at once, a tick field waits for its
boundary. -/
def execStructUpdate (h : Word) (s : State) : Out :=
  match s.ready h 3 5 with
  | none => .next s
  | some p =>
    let s := s.begin p
    let sec := fieldAt p.entry 16 1
    let width := fieldAt p.entry 17 1
    let i := fieldAt p.entry 20 4
    let off := fieldAt p.entry 24 4
    let value := fieldAt p.entry 32 8
    if s.image.isNone then .next (s.finishWith h ST_REJECTED_MODE)
    else
      let st := s.updateStatus sec width i off value
      if st ≠ ST_OK then .next (s.finishWith h st)
      else
        match ((fieldsOf sec (i == 0xFFFFFFFF)).find? (fun f => f.off == off)).map (·.cls) with
        | some ChangeClass.tick => .next { s with shadows := s.shadows ++ [⟨sec, i, off, width, value, some h⟩] }
        | some ChangeClass.live => .next ((s.applyChange sec i off width value).finishWith h ST_OK)
        | _ => .next ((s.writeStatic sec i off width value).finishWith h ST_OK)

/-- Step 4 of Table TCK-2: the waiting tick fields of the domains that start a slot, and the package-wide ones, are applied in the
order received, and their UPDATE commands complete (R58, R71, R84). -/
def State.applyShadows (s : State) (starts : List Nat) : State :=
  let due (x : Shadow) := match s.fieldDomain x.sec x.entry with | some d => starts.contains d | none => true
  let now := s.shadows.filter due
  now.foldl (fun s x =>
    let s := s.applyChange x.sec x.entry x.off x.width x.value
    match x.handle with
    | some h => s.finishWith h ST_OK
    | none => s) { s with shadows := s.shadows.filter (fun x => !(due x)) }

end Sys2Proof.Machine
end

