-- ==== Sys2Proof/Machine/Slots.lean ====
section
/-!
DEFINITION. The slots of the domains across a tick boundary (R77 to R84): overrun, the end of a LAUNCH, replay, and slot starts.
-/
namespace Sys2Proof.Machine

/-! ## A slot's end -/

/-- Whether a logical tile has finished its slot (R77): it has no share of a LAUNCH, or its core waits in `slot.end` with no
operation left. -/
def State.tileFinished (s : State) (d l : Nat) : Bool :=
  let x := s.tile (s.phys d l)
  !(s.inLaunch d l) || (x.run == .waitSlot && x.ops.isEmpty)

/-- The logical tiles of a domain that have not finished their slot, ascending. -/
def State.unfinished (s : State) (d : Nat) : List Nat := (s.domTiles d).filter (fun l => !(s.tileFinished d l))

/-- The LAUNCH of a domain ends (R126, R143): its handle completes with the number of slots run, and no core resumes. -/
def State.endLaunch (s : State) (d status : Nat) : State :=
  match (s.dom d).launch with
  | none => s
  | some l =>
    let s := s.setDom d { s.dom d with launch := none }
    let s := (s.workers d).foldl (fun s t =>
      let s := s.setTile t { s.tile t with run := .idle }
      if s.tileState t = 2 ∨ s.tileState t = 3 then s.setTileState t 1 else s) s
    s.finish l.handle { status := status, result := l.slots }

/-- Whether every working tile has issued PROG_END. -/
def State.allEnded (s : State) (d : Nat) : Bool :=
  match (s.dom d).launch with
  | some l => (s.domTiles d).all (fun t => l.ended.contains t || l.endedNow.contains t)
  | none => false

/-- The end of a LAUNCH at a boundary at which its domain has finished a slot: STOP, or the slot limit (Table CMD-4, R143); a domain that
stopped on an unfinished slot keeps it, to be replayed (R79). -/
def State.stopAtBoundary (s : State) (d : Nat) : State :=
  match (s.dom d).launch with
  | some l =>
    if (s.dom d).stops ≠ [] ∨ (s.domState d ≠ 3 ∧ l.limit ≠ 0 ∧ l.slots ≥ l.limit) then s.endLaunch d ST_CANCELLED else s
  | none => s

/-- The STOPs of a domain complete, and a LAUNCH that has not started its first slot ends with them. -/
def State.answerStops (s : State) (d : Nat) : State :=
  let x := s.dom d
  if x.stops = [] then s
  else
    let s := s.setDom d { x with stops := [], launchNext := none }
    let s := match x.launchNext with
      | some l => s.finishWith l.handle ST_CANCELLED
      | none => s
    x.stops.foldl (fun s h => s.finishWith h ST_OK) s

/-! ## Overrun (R78, R79) -/

/-- The arguments of the events OVERRUN and OVERRUN_STOP (Table ERR-11). -/
def State.overrunArgs (s : State) (d n : Nat) : Bytes :=
  let late := s.unfinished d
  leBytes 8 (s.slot d) ++ leBytes 2 late.length ++ leBytes 2 (late.headD 0) ++ leBytes 1 n

/-- A domain's slot is unfinished at a boundary (R78): it slips once under SLIP_ONCE; a second consecutive overrun, or the first
under STOP_FIRST, stops it with OVERRUN_STOP (R79). -/
def State.overrun (s : State) (d : Nat) : State :=
  let n := s.fld (CTL_DOM_STATE_CONSEC d) + 1
  let args := s.overrunArgs d n
  let s := (s.setFld (CTL_DOM_STATE_CONSEC d) (min 2 n)).addFld (CTL_DOM_STATE_OVERRUNS d) 1
  if s.fld CTL_TICK_CONFIG_OVERRUN = 1 ∨ n ≥ 2 then
    let up := s.escalated 0x8000 2
    let s := s.setDom d { s.dom d with faulted := true }
    let s := s.event 0x8000 EV_OVERRUN_STOP d args
    let s := s.fault 0x8000 2 { code := ST_OVERRUN_STOP, dom := d, handle := s.launchHandle d }
    if up = 3 then s else s.stopDomain d ST_OVERRUN_STOP (fun _ => { status := ST_OVERRUN_STOP })
  else
    let s := s.setFld (CTL_DOM_STATE_STATE d) 2
    ((s.setDom d { s.dom d with slipped := true }).event 0x8000 EV_OVERRUN d args).addRisk riskOverrun

/-- The FINAL operations of a finished slot count (R387). -/
def Dom.countFinals (x : Dom) : Dom := { x with finals := unionAsc x.finals x.finalsNow, finalsNow := [] }

/-- Step 1 of Table TCK-2 for one domain: a finished slot closes, resetting the count when it took one tick; an unfinished one
overruns. A domain in recovery is not checked (R423). -/
def State.checkDomain (s : State) (d : Nat) : State :=
  let x := s.dom d
  if x.slotOpen = false ∨ x.recovering ≠ [] ∨ x.replayDue = true ∨ s.domState d = 3 then s
  else if s.unfinished d = [] then
    let s := if x.slipped then s else s.setFld (CTL_DOM_STATE_CONSEC d) 0
    (s.setFld (CTL_DOM_STATE_STATE d) 1).setDom d { (s.dom d).countFinals with slotOpen := false }
  else s.overrun d

/-! ## Slot starts (steps 2 and 9 of Table TCK-2) -/

/-- Whether a domain starts a slot at this boundary: its slot has closed, its first slot is due, or its replay is (R77, R79,
R423), and no front part holds it (R398). -/
def State.starts (s : State) (d : Nat) : Bool :=
  let x := s.dom d
  !(x.snap.any (·.holding)) && (x.replayDue || (x.resumeBy.isSome && x.recovering == []) || (x.slotOpen == false && x.recovering == [] && (s.domState d == 1 || s.domState d == 2)))

/-- The events of a domain's migrations, and of an interruption longer than the bound of R425, or made longer by a second fault (R410, R427), at
the start of its next slot. -/
def State.tellMigrations (s : State) (d : Nat) : State :=
  let x := s.dom d
  if x.migrations = [] then s
  else
    let slip := s.tick - x.recoverDue
    let s := x.migrations.foldl (fun s m => s.event 0x8003 0x807A d
      (leBytes 2 m.logical ++ leBytes 2 m.old ++ leBytes 2 m.new ++ zeros 2 ++ leBytes 8 m.slot ++ leBytes 4 m.epoch ++
        leBytes 2 (satTo 0xFFFF slip))) s
    let s := s.setFld CTL_ERR_RECOVERY_LAST_SLIP (satTo 0xFFFF slip)
    let s := s.setDom d { s.dom d with migrations := [], recoverLong := 0 }
    if x.recoverLong ≠ 0 ∨ slip * s.periodNs > max (8 * s.periodNs) 400000 then
      s.event (if x.recoverLong = 0 then 0x8003 else x.recoverLong) EV_RECOVERY_LONG d (leBytes 8 x.recoverSince ++ leBytes 8 s.now ++ leBytes 2 x.recoverCode)
    else s

/-- A domain's slot starts at this boundary (step 9): a replay under the same slot number, the first slot, or the next one. -/
def State.enterDomain (s : State) (d : Nat) : State :=
  let x := s.dom d
  let s := s.setFld (CTL_DOM_STATE_STATE d) 1
  if x.replayDue || x.resumeBy.isSome then
    let s := s.setFld (CTL_DOM_STATE_CONSEC d) 0
    let s := s.setDom d { x with faulted := false, replayDue := false, resumeBy := none, finalsNow := [] }
    let s := s.closeWindows (fun u => match tileOfUnit u with
      | some t => (s.workers d).contains t || x.migrations.any (fun m => m.old == t)
      | none => false)
    let s := s.startSlot d (s.slot d) true
    match x.resumeBy with
    | some h => s.finishWith h ST_OK
    | none => s
  else
    let s := s.tellMigrations d
    let n := if x.fresh then 0 else s.slot d + 1
    let s := s.setReg (CTL_DOM_SLOT d) (word n)
    let s := s.setDom d { s.dom d with fresh := false, slotTick := s.tick }
    s.startSlot d n false

end Sys2Proof.Machine
end

