-- ==== Sys2Proof/Machine/Recovery.lean ====
section
/-!
DEFINITION. Tile faults and migration (R422 to R427), the ports between compute dies (R421), and the host event ring's head (R418).
-/
namespace Sys2Proof.Machine

/-! ## Tile faults (R423, R426) -/

/-- `CTL_ERR_RECOVERY` shows `d` as the domain of the latest recovery. -/
def State.showRecovery (s : State) (d : Nat) : State := s.setFld CTL_ERR_RECOVERY_DOMAIN d

/-- A spare that may take over a tile: not taken, not faulted (R423 step 4). -/
def State.freeSpares (s : State) (d : Nat) : List Nat :=
  (s.domSpares d).filter (fun t => !((s.dom d).taken.contains t) && s.tileState t != 6 && s.tileState t != 7)

/-- The spare that takes over tile `t`: the lowest free one on its die, else the lowest (R423 step 4). -/
def State.chooseSpare (s : State) (d t : Nat) : Option Nat :=
  let free := s.freeSpares d
  match free.find? (fun x => dieOf x == dieOf t) with
  | some x => some x
  | none => free.head?

/-- Whether a tile fault of a domain finds no spare: the flag NO_SPARE of its DOMAINS entry, or no free one (R426). -/
def State.spareless (s : State) (d : Nat) : Bool :=
  (match s.domEntry d with | some e => bitOf (fieldAt e 1 1) 1 | none => true) || s.freeSpares d == []

/-- A row in flight as its domain's epoch rises (R153, R424): the lines that have not landed and still arrive are discarded there, and counted
for the tile whose scratchpad they were for, or in CTL_ERR_STALE; how many of them had been sent is open. -/
def State.landStale (s : State) (x : Nat × Option Nat × Nat) : State :=
  let n := (if x.2.1.isSome then s else { s with fresh := s.fresh + 1 }).lostLines x.1 x.2.2
  let (w, s) := (s.landRow x).freshWord
  if inPads x.1 then s.addFld (TIL_MSG_STATUS_STALE_EPOCH ((x.1 - padBase) / 0x40_0000)) (w.toNat % (n + 1))
  else s.addFld CTL_ERR_STALE_WRITES (w.toNat % (n + 1))

/-- The reset of a tile of the superseded placement as the epoch rises. -/
def State.resetStale (s : State) (t : Nat) : State := ((s.outgoing t).foldl State.landStale s).emptyTile t

/-- Steps 2 and 3 of R423: the epoch rises, every working tile is reset, and the slot's own state is discarded. -/
def State.suspend (s : State) (d : Nat) : State :=
  let stopped := decide (s.domState d = 3)
  let x := s.dom d
  let s := s.setDom d { x with epoch := (x.epoch + 1) % 2 ^ 32, barriers := [], posts := [], tables := [], replayDue := false }
  let s := (s.workers d).foldl (fun s t =>
    let s := s.resetStale t
    if s.tileState t = 6 then s else s.setTileState t (if stopped then 4 else 1)) s
  let s := s.stashDiscard d
  if stopped then s else s.setFld (CTL_DOM_STATE_STATE d) 2

/-- A tile fault finds no spare (R426): a CONTAINED record of the recovery controller, and the domain stops with UNIT_FAULT. -/
def State.stopForSpare (s : State) (d : Nat) : State :=
  let up := s.escalated 0x8003 2
  let s := s.setDom d { s.dom d with noSpare := true, faulted := true }
  let s := s.fault 0x8003 2 { code := ST_NO_SPARE, dom := d, handle := s.launchHandle d }
  if up = 3 then s
  else
    let held := (s.dom d).resumeBy
    let s := s.stopDomain d ST_NO_SPARE (fun _ => { status := ST_UNIT_FAULT })
    let s := s.setDom d { s.dom d with noSpare := true, recovering := [] }
    let s := match held with | some h => s.finishWith h ST_UNIT_FAULT | none => s
    (s.closeWindows (· == 0x8003)).showRecovery d

/-- A tile that no domain runs has faulted: when it is the spare chosen for a recovery in progress, another one is chosen, and the recovery is
reported as long (R427). -/
def State.spareFails (s : State) (t : Nat) : State :=
  match s.homeOf t with
  | none => s
  | some d =>
    match (s.dom d).recovering with
    | old :: _ => if s.chooseSpare d old = some t then s.setDom d { s.dom d with recoverLong := 0x8003 } else s
    | [] => s

/-- A fault of a unit that is part of tile `t` (Table ERR-2, R423): the record with the affected LAUNCH; a tile of no domain only
leaves service; in a domain a recovery begins, or waits for the one in progress (R427). -/
def State.unitFault (s : State) (u t : Nat) (i : ErrInfo) : State :=
  let d? := s.domOf t
  let excluded := s.excluded u || s.tileState t == 6
  let up := s.escalated u 2
  let s := s.fault u 2 { i with dom := d?.getD noDomain, handle := (d?.map s.launchHandle).getD 0 }
  if up = 3 ∨ excluded = true then s
  else
    match d? with
    | none => ((s.spareFails t).setTileState t 6).closeWindows (· == u)
    | some d =>
      if s.spareless d then ((s.resetTile t).setTileState t 6).stopForSpare d
      else
        let x := s.dom d
        let first := x.recovering == []
        let s := (s.resetStale t).setTileState t 6
        let s := s.setDom d { x with faulted := true, recovering := x.recovering ++ [t],
                                     recoverCode := if first then i.code else x.recoverCode,
                                     recoverSince := if first then s.now else x.recoverSince,
                                     recoverDue := if first then s.tick + (if x.replayDue || x.resumeBy.isSome then 2 else 1) else x.recoverDue }
        (if first then s.suspend d else s).showRecovery d

/-- A tile fault (Table ERR-2). -/
def State.tileFault (s : State) (t : Nat) (i : ErrInfo) : State := s.unitFault t t i

/-! ## Words of a tile's memories found in error (R420) -/

/-- A word of a tile read with a corrected error: recorded the first time in a tick. -/
def State.correctedWord (s : State) (t : Nat) (f : Found) : State :=
  s.correctedOnce t { foundInfo f ST_ECC_CORRECTED with dom := (s.domOf t).getD noDomain }

/-- A word of a tile read with outcome `f`, before the read acts: the state, and whether the word is given to the reader. -/
def State.tileRead (s : State) (t : Nat) (f : Found) : State × Bool :=
  match f.ecc with
  | .clean => (s, true)
  | .corrected => (s.correctedWord t f, true)
  | .uncorrectable => (s.tileFault t (foundInfo f ST_ECC_UNCORRECTABLE), false)

/-- One word that an access finds in error: in HBM, or in the scratchpad of a tile, which faults the tile that holds it; what a reader outside
the tile then gets of the word is open. -/
def State.findError (s : State) (f : Found) : State :=
  let a := f.addr.toNat
  if padBase ≤ a ∧ a < padBase + 384 * 0x40_0000 then
    match s.tileRead ((a - padBase) / 0x40_0000) f with
    | (s, true) => s
    | (s, false) => s.scramble (a / 8 * 8) 8
  else s.hbmError f

/-- The words that the reads of one command find in error. -/
def State.findErrors (s : State) (fs : List Found) : State := fs.foldl State.findError s

/-! ## Migration (R423 steps 4 and 5) -/

/-- The program of logical tile `l` loaded into tile `t` from the program store. -/
def State.loadFromStore (s : State) (l t : Nat) : State :=
  match s.program l, s.sec secPrograms with
  | some e, some x => s.loadTile t (s.bytesAt s.storeBase x.body.length) e
  | _, _ => s

/-- Spare `t` takes over what tile `old` ran. -/
def State.migrate (s : State) (d old t : Nat) : State :=
  let l := s.logicalOf d old
  let s := s.loadFromStore l t
  let s := s.setReg (TIL_PROGRAM t) (s.reg (TIL_PROGRAM old))
  let s := (s.setTileState t (if s.domState d = 3 then 4 else 1)).setFld (TIL_STATE_LOGICAL t) l
  let x := s.dom d
  let s := s.setDom d { x with place := smapIns x.place l t, taken := x.taken ++ [t],
                               migrations := x.migrations ++ [⟨l, old, t, s.slot d, x.epoch⟩] }
  s.addFld CTL_ERR_RECOVERY_MIGRATIONS 1

/-- Whether a RESTORE is loading its basis: a fault that strikes meanwhile is handled after it (R410). -/
def State.filling (s : State) : Bool := s.doms.any (fun e => e.2.restore.any (fun r => !r.loaded))

/-- TILE_RECOVERY_END: steps 4 and 5 of the recovery of domain `d` are done, once no RESTORE is loading; a fault that waited is handled now
(R427), otherwise the slot is to be replayed. -/
def execTileRecoveryEnd (d : Fin 64) (s : State) : Out :=
  match (s.dom d.val).recovering with
  | [] => .next s
  | old :: rest =>
    if s.filling then .next (s.setDom d.val { s.dom d.val with recoverLong := 0x8005 })
    else
    match s.chooseSpare d.val old with
    | none => .next (s.stopForSpare d.val)
    | some t =>
      let s := s.setDom d.val { s.dom d.val with recovering := rest }
      let s := s.migrate d.val old t
      if rest = [] then
        .next ((s.setDom d.val { s.dom d.val with replayDue := decide (s.domState d.val ≠ 3) }).showRecovery d.val)
      else .next ((s.suspend d.val).showRecovery d.val)

/-! ## Heartbeats (R422) -/

/-- Whether a tile is to send heartbeats: a working tile of a domain that runs, not faulted. -/
def State.beats (s : State) (t : Nat) : Bool :=
  s.aloft && s.tileState t != 6 && (match s.domOf t with | some d => s.domState d == 1 || s.domState d == 2 | none => false)

/-- HEARTBEAT_SEND (R422). -/
def execHeartbeatSend (t : Fin 384) (s : State) : Out :=
  if s.beats t.val then .next (s.setTile t.val { s.tile t.val with beat := s.localNs }) else .next s

/-- HEARTBEAT_TIMEOUT (R422): 8 µs without a heartbeat make the tile faulted. -/
def execHeartbeatTimeout (t : Fin 384) (s : State) : Out :=
  if s.beats t.val then .next (s.tileFault t.val { code := ST_HEARTBEAT_LOST }) else .next s

/-! ## Ports between compute dies (R421, Table ERR-2) -/

/-- The unit of a die-to-die port, and whether it is up: ports 0 to 3 join compute dies, port 4 + n joins link die n to its compute die (the
unit of its agent, DESIGN CHOICE). -/
def State.d2dPort (s : State) (p : Nat) : Nat × Bool :=
  if p < 4 then (0x8030 + p, bitOf s.d2dUp p) else (0x8020 + (p - 4), bitOf s.links (p - 4))

/-- D2D_PORT_RETRAIN: flits replayed, or a retrain of 1 ms or less, absorbed by a die-to-die port. -/
def execD2dPortRetrain (p : Fin 8) (replays : Nat) (retrain : Bool) (s : State) : Out :=
  .next (if (s.d2dPort p.val).2 then s.portReplay (s.d2dPort p.val).1 replays retrain else s)

/-- D2D_PORT_LOSS: a port between adjacent compute dies down for more than 1 ms is FATAL. -/
def execD2dPortLoss (p : Fin 4) (s : State) : Out :=
  if bitOf s.d2dUp p.val then .next (s.fault (0x8030 + p.val) 3 { code := ST_LINK_LOST }) else .next s

/-! ## The host event ring (R418) -/

/-- ERR_RING_HEAD_WRITE: the host returns entries; a value of 2^n or above is ignored, and the index in force changes nothing. -/
def execErrRingHeadWrite (value : Word) (s : State) : Out :=
  let cap := 2 ^ s.foundation.errRingLog2
  let v := bitsOf value.toNat 0 16
  if s.phase ≠ .running ∨ v ≥ cap ∨ v = s.fld CTL_ERR_RING_PTR_HEAD then .next s
  else .next { (s.setFld CTL_ERR_RING_PTR_HEAD v) with ringUnread := (s.ringWritten + cap - v) % cap }

end Sys2Proof.Machine
end

