-- ==== Sys2Proof/Machine/Tiles.lean ====
section
/-!
DEFINITION. The operation queue of a tile, its control operations, messages between the tiles of a module, and barriers (chapter
07).
-/
namespace Sys2Proof.Machine

/-! ## Tickets (R138) -/

/-- The ticket of a generation of a queue index. -/
def mkTicket (i gen : Nat) : Nat := i + 64 * gen

/-- Whether a ticket names an operation that is complete: its index is free, or holds a different generation. -/
def Tile.complete (x : Tile) (ticket : Nat) : Bool :=
  match smapFind x.ops (ticket % 64) with
  | some o => o.gen != ticket / 64
  | none => true

/-- The free queue indices. -/
def Tile.freeIndices (x : Tile) : List Nat := (List.range 64).filter (fun i => (smapFind x.ops i).isNone)

/-- The index that the queue gives an operation next, which the spec leaves to it; none while it is full (R138, R140). -/
def State.freeIndex (s : State) (t : Nat) : Option Nat :=
  let is := (s.tile t).freeIndices
  is[Config.choice s.fresh % max 1 is.length]?

/-- The generation that follows that of queue index `i` (R138). -/
def Tile.nextGen (x : Tile) (i : Nat) : Nat := (smapFind x.gens i).getD 0 % 1023 + 1

/-- Whether an operation's prerequisites are complete (R139). -/
def Tile.eligible (x : Tile) (o : Op) : Bool :=
  (o.pre1 == 0 || x.complete o.pre1) && (o.pre2 == 0 || x.complete o.pre2)

/-- Queue entry `i` of tile `t`. -/
def State.op (s : State) (t i : Nat) : Option Op := smapFind (s.tile t).ops i

/-- Queue entry `i` of tile `t` set. -/
def State.setOp (s : State) (t i : Nat) (o : Op) : State :=
  s.setTile t { s.tile t with ops := smapIns (s.tile t).ops i o }

/-! ## Descriptors (Table TIL-4) -/

def Op.engineCode (o : Op) : Nat := fieldAt o.desc 0 1
def Op.code (o : Op) : Nat := fieldAt o.desc 1 1
def Op.format (o : Op) : Nat := fieldAt o.desc 3 1
def Op.high (o : Op) : Bool := bitOf (fieldAt o.desc 2 1) 0

/-- An `n`-byte field of an operation's descriptor. -/
def Op.field (o : Op) (off n : Nat) : Nat := fieldAt o.desc off n

/-- Whether the reserved fields of the header are zero, and the body bytes outside `named` (offset, length) as well (R3). -/
def Op.reservedOk (o : Op) (named : List (Nat × Nat)) : Bool :=
  decide (o.field 2 1 < 2) && o.field 4 4 == 0 &&
    (fromTo 8 56).all (fun i => named.any (fun f => decide (f.1 ≤ i ∧ i < f.1 + f.2)) || o.desc.getD i 0#8 == 0#8)

/-- A descriptor fault of entry `i` of tile `t` (R142): recorded in TIL_OPQ_FAULT, and the domain stops. -/
def State.opFault (s : State) (t i status : Nat) : State :=
  match s.op t i with
  | none => s
  | some o =>
    let ticket := mkTicket i o.gen
    let s := s.setReg (TIL_OPQ_FAULT t) (word (ticket + status * 2 ^ 16 + 2 ^ 32))
    s.trapDomain t status (ticket + s.fld (TIL_STATE_LOGICAL t) * 2 ^ 16)

/-! ## Issue (R139, R142) -/

/-- An operation of tile `t` traced (Table DBG-5), when its logical tile is among those selected. -/
def State.traceOp (s : State) (t kind ticket : Nat) (head : Bytes) : State :=
  match s.domOf t with
  | none => s
  | some d =>
    let l := s.logicalOf d t
    let first := s.fld DBG_TRACE_CTRL_FIRST_TILE
    if first ≤ l ∧ l < first + min 32 (s.fld DBG_TRACE_CTRL_TILE_COUNT) then
      s.trace t kind d ticket (padTo 8 head ++ leBytes 8 (s.slot d))
    else s

/-- A descriptor placed in the queue of tile `t` at index `i` (R138, R139). -/
def State.enqueue (s : State) (t i : Nat) (desc : Bytes) (pre aux : Nat) : State :=
  let x := s.tile t
  let g := x.nextGen i
  let o : Op := { desc := desc, gen := g, pre1 := pre % 65536, pre2 := pre / 65536 % 65536, order := x.issued, aux := aux }
  (s.setTile t { x with ops := smapIns x.ops i o, gens := smapIns x.gens i g, lastStatus := smapDel x.lastStatus i,
                        issued := x.issued + 1 }).traceOp t 1 (mkTicket i g) (leBytes 1 o.engineCode ++ leBytes 1 o.code)

/-! ## Engines (R140) -/

/-- The operations that engine `e` of a tile holds. -/
def Tile.running (x : Tile) (e : Nat) : Nat := (x.ops.filter (fun p => p.2.started && p.2.engine == e)).length

/-- Whether an array still takes rows of an operation: its drain overlaps the next one's first load (R205). -/
def Tile.feeding (x : Tile) (e : Nat) : Bool := x.ops.any (fun p => p.2.started && !p.2.acted && p.2.engine == e)

/-- FROZEN of an array operation (R201). -/
def Op.frozen (o : Op) : Bool := bitOf (o.field 42 1) 5

/-- Whether an operation holds a place of the turn unit while it runs (R196): a TURN, or an array operation with the moving path
turned that is not skipped. -/
def Op.turns (o : Op) : Bool :=
  o.engineCode == 4 || (decide (1 ≤ o.engineCode ∧ o.engineCode ≤ 3) && bitOf (o.field 42 1) 2 && !o.frozen)

/-- The places of the turn unit that are held (R196). -/
def Tile.places (x : Tile) : Nat := (x.ops.filter (fun p => p.2.started && p.2.turns)).length

/-- The engine that takes an operation now, if it has room: the first free B-array wide enough for ENGINE 3 (R197), and a place of
the turn unit for an operation that needs one (R196). -/
def State.engineFor (s : State) (t : Nat) (o : Op) : Option Nat :=
  let x := s.tile t
  let code := o.engineCode
  let free (e : Nat) := !(x.feeding e) && (!o.turns || decide (x.places < 2))
  if code = 3 then
    [1, 2].find? (fun a => free a && decide (bitsOf (o.field 40 1) 0 7 ≤ s.effWidth t a))
  else if code ≤ 2 then (if free code then some code else none)
  else if code = 4 then (if x.places < 2 then some 4 else none)
  else
    let room := match code with | 6 => 4 | 7 => 64 | 9 => 8 | _ => 1
    if x.running code < room then some code else none

/-- The operation of lowest issue order among those that satisfy `p`. -/
def firstOp (p : Op → Bool) : SMap Op → Option (Nat × Op)
  | [] => none
  | (i, o) :: m =>
    match firstOp p m with
    | none => if p o then some (i, o) else none
    | some (j, q) => if p o && decide (o.order < q.order) then some (i, o) else some (j, q)

/-- Whether logical tile `l` has an unreleased arrival at a barrier (R157, R158). -/
def Barrier.holds (b : Barrier) (l : Nat) : Bool :=
  (b.arrived.contains l && !(decide (l % 8 < b.groups))) || b.next.contains l

/-- Whether a working tile has an unreleased barrier arrival (R143). -/
def State.barrierHolds (s : State) (t : Nat) : Bool :=
  match s.domOf t with
  | none => false
  | some d => (s.dom d).barriers.any (fun b => b.2.holds (s.logicalOf d t))

/-- Whether an operation is a UPD_PASS2. -/
def Op.pass2 (o : Op) : Bool := o.engineCode == 5 && o.code == 0x31

/-- Whether the update of the step in progress of a tile's domain has its block latched (R378). -/
def State.latched (s : State) (t : Nat) : Bool :=
  match s.domOf t with
  | some d => match (s.dom d).update with | some u => u.latched && u.step == (s.dom d).step | none => false
  | none => false

/-- Whether the next operation of an engine may start: its prerequisites are complete; a pass 2 waits for the latch of its step (R378);
a control operation waits for every earlier operation and for its barriers (R143). -/
def State.mayStart (s : State) (t : Nat) (o : Op) : Bool :=
  let x := s.tile t
  x.eligible o && (!o.pass2 || s.latched t) && (o.engineCode != 15 || (x.ops.all (fun p => decide (o.order ≤ p.2.order)) && !(s.barrierHolds t)))

/-! ## Tile faults and corrected words (R420, R423) -/

/-! ## Control operations (R135, R143) -/

/-- The tap table that SLOT_END sends, with the NF bit of the tile's numeric counters (R222). -/
def State.tapTable (s : State) (d t : Nat) : TapTable :=
  { logical := s.logicalOf d t, taps := (s.tile t).taps, lost := (s.tile t).tapLost,
    nf := (List.range 16).any (fun c => s.fld (TIL_NUM_FAULTS_NONFINITE t c) != 0) }

/-- The descriptor of SLOT_END (1) or PROG_END (2), which only the instructions issue. -/
def controlDesc (op : Nat) : Bytes := padTo 64 (leBytes 1 15 ++ leBytes 1 op)

/-- SLOT_END completes (R77, R135, R143): the carried region is in the shadow half of the slot, and the start PC of the next slot
in the resume record. -/
def State.slotEnded (s : State) (d t pc : Nat) : State :=
  let l := s.logicalOf d t
  let n := s.slot d
  let pos := s.position d l
  let s := s.devWrite (s.shadowAddr d pos (n % 2)) (s.physRead (padAddr t) (s.carried l))
  let s := s.setDom d { s.dom d with tables := (s.dom d).tables ++ [s.tapTable d t] }
  let s := s.setDom d { s.dom d with resume := smapPut (fun _ => none) (s.dom d).resume (2 * pos + n % 2) pc }
  s.setTileState t 3

/-- PROG_END completes (R143): the tile's share of the LAUNCH is done; the last one completes the LAUNCH (Table CMD-4). -/
def State.progEnded (s : State) (d t : Nat) : State :=
  match (s.dom d).launch with
  | none => s
  | some la =>
    let s := s.setDom d { s.dom d with launch := some { la with endedNow := la.endedNow ++ [s.logicalOf d t] } }
    let s := (s.setTile t { s.tile t with run := .done }).setTileState t 3
    if s.allEnded d then s.endLaunch d ST_OK else s

/-- The OPs of an engine (Tables ARR-3, VEC-3, TIL-6, TIL-7, ATT-5 and STH-3; those of the arrays are checked at issue). -/
def opDefined (engine code : Nat) : Bool :=
  match engine with
  | 4 => code == 1
  | 5 => decide (1 ≤ code ∧ code ≤ 0x0C) || decide (0x10 ≤ code ∧ code ≤ 0x1A) || decide (0x20 ≤ code ∧ code ≤ 0x24) ||
      code == 0x30 || code == 0x31
  | 6 => code == 1
  | 7 => code == 1 || code == 2
  | 8 => decide (1 ≤ code ∧ code ≤ 6)
  | 9 => decide (1 ≤ code ∧ code ≤ 3)
  | _ => true

/-- `n` clk of waiting counted for array `a` of tile `t`, and for the domain and the package (R471). -/
def State.arrayWaits (s : State) (t a n : Nat) : State := (s.addFld (ARR_CNT_WAIT_WAIT_CLK t a) n).count (s.setOf t) 4 n

/-- The clk that array `a` of tile `t` has waited, an open amount. -/
def State.arrayWaited (s : State) (t a : Nat) : State :=
  let (x, s) := s.freshWord
  s.arrayWaits t a (x.toNat % 2 ^ 16)

/-- The start of an array or vector operation paced by its die's current controller (R441): it waits for at most 2 µs, an open number of clk
counted where its engine counts its waits; a FROZEN operation adds to no counter (R201). -/
def State.paced (s : State) (t : Nat) (o : Op) (e : Nat) : State :=
  let (x, u) := s.freshWord
  let n := x.toNat % (5001 - 200 * s.fld PWR_STATUS_FSTEP)
  if e < 3 then (if o.frozen then s else u.arrayWaits t e n)
  else if o.engineCode = 5 then u.addFld (VEC_CNT_WAIT_COUNT t) n
  else s

/-- Operation `o`, at queue index `i` of tile `t`, starts on engine `e` (R140); the bytes it shares with operations it is not ordered with are
unpredictable from then on (R141). An OP that its engine does not have, or a walker operation
that starts while the page engine is not ENABLED, is a descriptor fault (R236, R264). -/
def State.startOp (s : State) (t i : Nat) (o : Op) (e : Nat) : State :=
  let s := ((s.scrambleAll o.races).setOp t i { o with started := true, engine := e }).paced t o e
  let s := if o.pass2 then match s.domOf t with | some d => s.pass2Starts d | none => s else s
  if o.engineCode = 8 ∧ s.fld KVP_STATUS_STATE ≠ 1 then s.opFault t i ST_KVP_DISABLED
  else if opDefined o.engineCode o.code = false then s.opFault t i ST_OP_DESCRIPTOR
  else s

/-- The operation (t, i) no longer uses poisoned data (R414). -/
def State.releaseUser (s : State) (t i : Nat) : State :=
  { s with windows := s.windows.map (fun w => { w with users := w.users.filter (fun u => u != (t, i)) }) }

/-- The entry of a complete operation leaves the queue; a transfer outcome stays readable for its generation (R142). -/
def State.dequeue (s : State) (t i : Nat) (o : Op) : State :=
  let x := s.tile t
  (s.setTile t { x with ops := smapDel x.ops i,
                        lastStatus := if o.status = 0 then smapDel x.lastStatus i else smapIns x.lastStatus i (o.gen, o.status) }).releaseUser t i
    |>.traceOp t 2 (mkTicket i o.gen) (leBytes 2 o.status)

/-- A counter grown by a free amount. -/
def State.growFree (s : State) (f : Fld) : State :=
  let (x, s) := s.freshWord
  s.addFld f (x.toNat % 2 ^ f.width)

/-- The clk that an operation of tile `t` has waited for banks, a shared turn unit or pages in transit (R145, R206, R235, R282): an open
amount of timing. A FROZEN array operation adds to no counter (R201). -/
def State.waited (s : State) (t : Nat) (o : Op) : State :=
  if o.engineCode ≤ 3 ∧ o.frozen = true then s
  else
  let s := s.growFree (TIL_BANK_STALLS_STALLS t)
  if o.engine < 3 then s.arrayWaited t o.engine
  else if o.engineCode = 5 then s.growFree (VEC_CNT_WAIT_COUNT t)
  else if o.engineCode = 8 then s.growFree (KVW_CNT_TIER_TRANSIT_CLK t)
  else s

/-- OPERATION_COMPLETE (R141): an operation whose effects are all visible leaves the queue; the bytes it shares with operations it is not
ordered with stay unpredictable. -/
def execOperationComplete (t : Fin 384) (i : Fin 64) (s : State) : Out :=
  match s.op t.val i.val with
  | none => .next s
  | some o =>
    if o.engineCode = 15 ∧ o.started then
      let s := s.dequeue t.val i.val o
      match s.domOf t.val with
      | none => .next s
      | some d => if o.code = 1 then .next (s.slotEnded d t.val o.aux) else .next (s.progEnded d t.val)
    else if o.acted then .next (((s.scrambleAll o.races).dequeue t.val i.val o).waited t.val o)
    else .next s

/-! ## Effects of an operation -/

/-- The operation that an engine holds at entry `i` of tile `t`, its effects not done, with this ENGINE among `es` and this OP. -/
def State.held (s : State) (t i : Nat) (es : List Nat) (op : Nat) : Option Op :=
  match s.op t i with
  | some o => if o.started && !o.acted && es.contains o.engineCode && o.code == op then some o else none
  | none => none

/-- The effects of entry `i` of tile `t` are done, with a transfer outcome (0: none). -/
def State.actedWith (s : State) (t i status : Nat) : State :=
  match s.op t i with
  | some o => s.setOp t i { o with acted := true, status := status }
  | none => s

/-- An operation consumes poisoned data at address `a`: the DEFERRED windows of the pseudo-channel stay open until it ends
(R414). -/
def State.consumesPoison (s : State) (t i a : Nat) : State :=
  let k := s.loc a
  if hbmBase ≤ k ∧ k < hbmBase + hbmSpan then
    let unit := 0x3000 + (k - hbmBase) / pcBytes
    { s with windows := s.windows.map (fun w => if w.unit = unit ∧ w.cls = 1 then { w with users := (t, i) :: w.users } else w) }
  else s

/-! ## Addresses of a tile's operations (R146) -/

/-- The physical address that a tile's 48-bit address means: the tile number in a scratchpad-window address is a logical tile id
(R146). -/
def State.tileAddr (s : State) (t a : Nat) : Nat :=
  if padBase ≤ a ∧ a < padBase + 384 * 0x40_0000 then
    match s.domOf t with
    | some d => padAddr (s.phys d ((a - padBase) / 0x40_0000)) + (a - padBase) % 0x40_0000
    | none => a
  else a

/-- Whether an address lies in the tile's own scratchpad slot, under its logical id. -/
def State.ownPad (s : State) (t a : Nat) : Bool := inPads a && (s.tileAddr t a - padBase) / 0x40_0000 == t

/-! ## DMA (R146, R147) -/

/-- The fields of a DMA COPY (Table TIL-6). -/
structure Dma where
  src : Nat
  dst : Nat
  bytes : Nat
  rows : Nat
  ss : Nat
  ds : Nat

def Op.dma (o : Op) : Dma := ⟨o.field 8 8, o.field 16 8, o.field 24 4, o.field 28 4, o.field 32 8, o.field 40 8⟩

/-- One past the last byte of an end with this first byte and stride. -/
def Dma.ending (x : Dma) (a st : Nat) : Nat := a + (x.rows - 1) * st + x.bytes

/-- Whether row `r` of the source overlaps a row of the destination, both in one scratchpad. -/
def Dma.rowHits (x : Dma) (r : Nat) : Bool :=
  let a := x.src + r * x.ss
  let j := if a < x.dst + x.bytes ∨ x.ds = 0 then 0 else (a - x.dst - x.bytes) / x.ds + 1
  decide (j < x.rows) && decide (x.dst + j * x.ds < a + x.bytes) && decide (a < x.dst + j * x.ds + x.bytes)

/-- The descriptor fault of a COPY, if it has one: reserved fields, or a case of R147. -/
def State.dmaFault (s : State) (t : Nat) (o : Op) : Option Nat :=
  let x := o.dma
  let own (a : Nat) := s.ownPad t a
  let y := { x with src := s.tileAddr t x.src, dst := s.tileAddr t x.dst }
  let past (a st : Nat) := inPads a && decide (0x30_0000 < (a - padBase) % 0x40_0000 + (x.ending a st - a))
  if !(o.reservedOk [(8, 8), (16, 8), (24, 25)]) || decide (o.field 48 1 ≥ 16) then some ST_REJECTED_RESERVED
  else if x.src ≥ 2 ^ 48 ∨ x.dst ≥ 2 ^ 48 ∨ x.bytes < 8 ∨ x.bytes > 3145728 ∨ x.bytes % 8 ≠ 0 ∨ x.rows < 1 ∨ x.rows > 65536 ∨ x.ss % 8 ≠ 0 ∨ x.ds % 8 ≠ 0 then
    some ST_OP_DESCRIPTOR
  else if !(own x.src || own x.dst) || past x.src x.ss || past x.dst x.ds then some ST_OP_DESCRIPTOR
  else if inPads x.src && inPads x.dst && y.src / 0x40_0000 == y.dst / 0x40_0000 && (List.range x.rows).any y.rowHits then
    some ST_OP_DESCRIPTOR
  else none

/-- Whether every row of an end lies in memory. -/
def State.rowsMapped (s : State) (n : Nat) : Nat → Nat → Nat → Bool
  | _, _, 0 => true
  | a, st, r + 1 => s.mappedAll a n && s.rowsMapped n (a + st) st r

/-- The first row of an end that reaches past memory leaves its address in HST_FAULT_ADDR. -/
def State.rowsFault (s : State) (n : Nat) : Nat → Nat → Nat → State
  | _, _, 0 => s
  | a, st, r + 1 => if s.mappedAll a n then s.rowsFault n (a + st) st r else s.engineFault a n

/-- The first poisoned address of the rows of an end. -/
def State.rowsPoisoned (s : State) (n : Nat) : Nat → Nat → Nat → Option Nat
  | _, _, 0 => none
  | a, st, r + 1 =>
    match s.poisonedIn a n with
    | some p => some p
    | none => s.rowsPoisoned n (a + st) st r

/-- The rows of a transfer copied. -/
def State.copyRows (s : State) (n : Nat) : Nat → Nat → Nat → Nat → Nat → State
  | _, _, _, _, 0 => s
  | a, st, b, dt, r + 1 => (s.devWrite b (s.physRead a n)).copyRows n (a + st) st (b + dt) dt r

/-- The rows of a destination made unpredictable. -/
def State.openRows (s : State) (n : Nat) : Nat → Nat → Nat → State
  | _, _, 0 => s
  | b, dt, r + 1 =>
    ({ (s.devWrite b ((List.range n).map (fun i => Config.freeByte s.fresh i))) with fresh := s.fresh + 1 }).openRows n (b + dt) dt r

/-- The HBM reads of the rows of a source, and the tagged writes of a destination. -/
def State.readRows (s : State) (d n : Nat) : Nat → Nat → Nat → State
  | _, _, 0 => s
  | a, st, r + 1 => (s.readHbm d a n).readRows d n (a + st) st r
def State.tagRows (s : State) (d n : Nat) : Nat → Nat → Nat → State
  | _, _, 0 => s
  | b, dt, r + 1 => (s.tagHbm d b n).tagRows d n (b + dt) dt r

/-- The counters of a DMA transfer (Table DBG-1). -/
def State.countDma (s : State) (t : Nat) (x : Dma) (a b : Nat) : State :=
  let d := s.setOf t
  ((s.readRows d x.bytes a x.ss x.rows).tagRows d x.bytes b x.ds x.rows).count d 7 (x.bytes * x.rows)

/-- Whether no earlier operation of the tile's DMA engine has yet to write a 64-byte line of host memory that this one writes: those writes are
applied in issue order (R107). -/
def State.dmaTurn (s : State) (t : Nat) (o : Op) : Bool :=
  (s.tile t).ops.all (fun e =>
    !(e.2.engineCode == 6 && e.2.started && !e.2.acted && decide (e.2.order < o.order)) ||
      !(e.2.sends.any (fun x => s.isHost x.1 && o.sends.any (fun y => shareLine x.1 x.2.2 y.1 y.2.2))))

/-- A DMA COPY that an engine holds (R146, R147). -/
def State.copyDma (s : State) (t : Fin 384) (i : Fin 64) : Out :=
  match s.held t.val i.val [6] 1 with
  | none => .next s
  | some o =>
    if s.dmaTurn t.val o = false then .next s
    else
    match s.dmaFault t.val o with
    | some st => .next (s.opFault t.val i.val st)
    | none =>
      let x := o.dma
      let a := s.tileAddr t.val x.src
      let b := s.tileAddr t.val x.dst
      if !(s.rowsMapped x.bytes a x.ss x.rows && s.rowsMapped x.bytes b x.ds x.rows) then
        .next (((s.rowsFault x.bytes b x.ds x.rows).rowsFault x.bytes a x.ss x.rows).actedWith t.val i.val ST_ADDRESS_UNMAPPED)
      else
        match s.rowsPoisoned x.bytes a x.ss x.rows with
        | some p => .next (((s.openRows x.bytes b x.ds x.rows).consumesPoison t.val i.val p).actedWith t.val i.val ST_POISONED)
        | none => .next (((s.copyRows x.bytes a x.ss b x.ds x.rows).countDma t.val x a b).actedWith t.val i.val 0)

/-- DMA COPY (R146): the words of HBM that it finds in error, and the transfer. -/
def execDmaCopy (t : Fin 384) (i : Fin 64) (found : List Found) (s : State) : Out := (s.findErrors found).copyDma t i

/-! ## Messages between tiles (R148 to R153) -/

/-- The fields of a message as delivered (Table TIL-8). -/
def msgSrc (m : Bytes) : Nat := fieldAt m 0 2
def msgDst (m : Bytes) : Nat := fieldAt m 2 2
def msgChan (m : Bytes) : Nat := bitsOf (fieldAt m 4 1) 0 4
def msgSeq (m : Bytes) : Nat := fieldAt m 6 2

/-- The index of a tile's flow to a destination. -/
def Tile.flowTo (x : Tile) (module dst chan : Nat) : Option Nat :=
  (List.range x.flows.length).find? (fun k =>
    let f := x.flows.getD k {}
    f.module == module && f.dst == dst && f.chan == chan)

/-- The active flows of a tile: those with an unacknowledged message (R151). -/
def Tile.activeFlows (x : Tile) : Nat := (x.flows.filter (fun f => f.unacked != [])).length

/-- A flow of a tile replaced, or added. -/
def State.putFlow (s : State) (t : Nat) (k : Option Nat) (f : Flow) : State :=
  let x := s.tile t
  s.setTile t { x with flows := match k with | some j => x.flows.set j f | none => x.flows ++ [f] }

/-- Whether a tile message to logical tile `l`, channel `c`, from domain `d` can be delivered (R149, R152). -/
def State.deliverable (s : State) (d l c : Nat) : Bool :=
  (s.domTiles d).contains l && s.tileState (s.phys d l) == 2 && s.domState d != 3 &&
    s.fld (TIL_MSG_CHAN_PERSIST (s.phys d l) c) == 0

/-- A send that cannot be delivered completes at once (R152). -/
def State.undeliverable (s : State) (t i : Nat) : State :=
  (s.addFld (TIL_MSG_STATUS_UNDELIVERABLE t) 1).actedWith t i ST_UNDELIVERABLE

/-- A local send leaves if its flow has a credit and a place (R151); otherwise it waits. -/
def State.sendLocal (s : State) (t i d l c : Nat) (o : Op) : State :=
  let x := s.tile t
  let k := x.flowTo 0xFFFF l c
  let f := match k with | some j => x.flows.getD j {} | none => { dst := l, chan := c }
  if f.unacked.length ≥ 4 ∨ f.resend ∨ (f.unacked = [] ∧ x.activeFlows ≥ 64) then s
  else
    let n := o.field 11 1
    let m := messageBytes (s.logicalOf d t) l c 0 n f.nextSeq (s.dom d).epoch d 0xFFFF (s.slot d) (takeAt o.desc 24 32)
    let s := s.putFlow t k { f with nextSeq := (f.nextSeq + 1) % 65536, unacked := f.unacked ++ [(i, m)] }
    let s := s.setOp t i { o with aux := 1 }
    { s with net := s.net ++ [{ kind := .data, src := t, dst := s.phys d l, bytes := m }] }

/-- The k-th flit of the mesh, when it is of the kinds `p` and the first of its kind on its path (R150). -/
def State.flitAt (s : State) (k : Nat) (p : FlitKind → Bool) : Option Flit :=
  match s.net[k]? with
  | none => none
  | some f =>
    if p f.kind && !((s.net.take k).any (fun g => p g.kind && g.src == f.src && g.dst == f.dst && msgChan g.bytes == msgChan f.bytes))
    then some f else none

/-- A flit leaves the mesh. -/
def State.dropFlit (s : State) (k : Nat) : State := { s with net := s.net.eraseIdx k }

/-- A receiver's answer to a flit. -/
def State.answerFlit (s : State) (f : Flit) (kind : FlitKind) : State :=
  { s with net := s.net ++ [{ kind := kind, src := f.dst, dst := f.src, bytes := f.bytes }] }

/-- A message flit reaches its tile (R149, R151, R153): a stale epoch is discarded without an answer; otherwise it is accepted in
sequence with room, refused, or answered UNDELIVERABLE. -/
def execMessageFlitArrival (k : Nat) (s : State) : Out :=
  match s.flitAt k (· == .data) with
  | none => .next s
  | some f =>
    let s := s.dropFlit k
    let t := f.dst
    let c := msgChan f.bytes
    match s.domOf t with
    | none => .next (s.answerFlit f .undeliverable)
    | some d =>
      if msgEpoch f.bytes < (s.dom d).epoch then .next (s.addFld (TIL_MSG_STATUS_STALE_EPOCH t) 1)
      else if s.fld (TIL_MSG_CHAN_PERSIST t c) = 1 ∨ s.tileState t ≠ 2 then .next (s.answerFlit f .undeliverable)
      else
        let key := msgSrc f.bytes * 16 + c
        let want := (smapFind (s.tile t).expect key).getD 0
        let held := s.chan t c
        if msgSeq f.bytes = want ∧ held.length < 16 then
          let s := s.setTile t { s.tile t with expect := smapPut (fun _ => some 0) (s.tile t).expect key ((want + 1) % 65536) }
          .next ((s.setChan t c (held ++ [f.bytes])).answerFlit f .ack)
        else .next ((s.addFld (TIL_MSG_STATUS_REFUSED t) 1).answerFlit f .refusal)

/-- The flow that an answer belongs to, and the place of its message among the unacknowledged ones. -/
def State.answered (s : State) (f : Flit) : Option (Nat × Flow × Nat) :=
  match (s.tile f.dst).flowTo 0xFFFF (msgDst f.bytes) (msgChan f.bytes) with
  | none => none
  | some k =>
    let w := (s.tile f.dst).flows.getD k {}
    match (List.range w.unacked.length).find? (fun j =>
      msgSeq (w.unacked.getD j (0, [])).2 == msgSeq f.bytes && msgEpoch (w.unacked.getD j (0, [])).2 == msgEpoch f.bytes) with
    | some j => some (k, w, j)
    | none => none

/-- Whether a flit's kind is an answer; the answers of a flow take one path in one order, as its messages do (R150). -/
def FlitKind.answers : FlitKind → Bool
  | .data => false
  | _ => true

/-- An acknowledgement returns (R151): a credit comes back and the send completes; an UNDELIVERABLE answer completes it so. -/
def execMessageAck (k : Nat) (s : State) : Out :=
  match s.flitAt k FlitKind.answers with
  | none => .next s
  | some f =>
    if f.kind = .refusal then .next s
    else
    match s.answered f with
    | none => .next (s.dropFlit k)
    | some (j, w, m) =>
      let i := (w.unacked.getD m (0, [])).1
      let s := s.putFlow f.dst (some j) { w with unacked := w.unacked.eraseIdx m, backoff := 0 }
      let s := s.dropFlit k
      if f.kind = .ack then .next ((s.count (s.setOf f.dst) 8 1).actedWith f.dst i 0) else .next (s.undeliverable f.dst i)

/-- A refusal returns (R151): the refused flit and every later one of the flow are sent again after a backoff of 1 clk, doubled
with each consecutive refusal up to 64. -/
def execMessageRefusal (k : Nat) (s : State) : Out :=
  match s.flitAt k FlitKind.answers with
  | none => .next s
  | some f =>
    if f.kind ≠ .refusal then .next s
    else
    match s.answered f with
    | some (j, w, 0) =>
      if w.resend then .next (s.dropFlit k)
      else
        .next ((s.putFlow f.dst (some j) { w with resend := true,
                                                  backoff := if w.backoff = 0 then 1 else min 64 (2 * w.backoff) }).dropFlit k)
    | _ => .next (s.dropFlit k)

/-- A message for another module leaves through the link die that ROUTES names for the sending domain and the channel's class (R155). -/
def State.sendRemote (s : State) (t d rank c : Nat) (m : Bytes) : State := s.sendFrame (s.route d c (dieOf t)) rank 5 (.message m)

/-- The backoff of a flow runs out (R151): its unacknowledged flits leave again, each counted in RETRIES. -/
def execMessageResendTimer (t : Fin 384) (flow : Nat) (s : State) : Out :=
  match (s.tile t.val).flows[flow]? with
  | none => .next s
  | some w =>
    if w.resend = false then .next s
    else
      match s.domOf t.val with
      | none => .next s
      | some d =>
        let s := s.putFlow t.val (some flow) { w with resend := false }
        let s := s.addFld (TIL_MSG_STATUS_RETRIES t.val) w.unacked.length
        if w.module = 0xFFFF then
          .next { s with net := s.net ++ w.unacked.map (fun m => { kind := .data, src := t.val, dst := s.phys d w.dst, bytes := m.2 }) }
        else .next (w.unacked.foldl (fun s m => s.sendRemote t.val d w.module w.chan m.2) s)

/-! ## Barriers (R157 to R159) -/

def Dom.barrier (x : Dom) (b : Nat) : Barrier := (smapFind x.barriers b).getD {}

/-- Barrier `b` of domain `d` set. -/
def State.setBarrier (s : State) (d b : Nat) (x : Barrier) : State :=
  s.setDom d { s.dom d with barriers := smapPut (fun _ => some {}) (s.dom d).barriers b x }

/-- Logical tile `l` arrives at barrier `b`; none while it has an unreleased arrival there (R157). -/
def State.arrive (s : State) (d b l : Nat) : Option State :=
  let x := (s.dom d).barrier b
  if x.holds l then none
  else if x.arrived.contains l then some (s.setBarrier d b { x with next := x.next ++ [l] })
  else some (s.setBarrier d b { x with arrived := x.arrived ++ [l] })

/-- Arrival collection ends (R158): every working tile has arrived, and group 0 is released. -/
def execBarrierRelease (d : Fin 64) (b : Fin 8) (s : State) : Out :=
  let x := (s.dom d.val).barrier b.val
  if x.groups = 0 ∧ s.domTiles d.val ≠ [] ∧ (s.domTiles d.val).all (x.arrived.contains ·) = true then
    .next (s.setBarrier d.val b.val { x with groups := 1 })
  else .next s

/-- The stagger timer of group `g` runs out (R158): that group is released; after group 7 the generation is over. -/
def execBarrierGroupRelease (d : Fin 64) (b g : Fin 8) (s : State) : Out :=
  let x := (s.dom d.val).barrier b.val
  if x.groups = 0 ∨ g.val ≠ x.groups then .next s
  else if g.val = 7 then .next (s.setBarrier d.val b.val { gen := x.gen + 1, arrived := x.next })
  else .next (s.setBarrier d.val b.val { x with groups := x.groups + 1 })

end Sys2Proof.Machine
end

