-- ==== Sys2Proof/Machine/Taps.lean ====
section
/-!
DEFINITION. Scratchpad operands of a tile's engines, tap tables and layer counters, the domain's non-finite flag and the loss-spike
detector (chapter 10).
-/
namespace Sys2Proof.Machine

/-! ## Scratchpad operands -/

/-- `n` bytes of tile `t`'s scratchpad at an offset. -/
def State.pad (s : State) (t off n : Nat) : Bytes := memRead s.mem (padAddr t + off) n

/-- The `n`-byte number at a scratchpad offset. -/
def State.padNum (s : State) (t off n : Nat) : Nat := leNat (s.pad t off n)

/-- A byte string written at a scratchpad offset by an engine of the tile. -/
def State.padPut (s : State) (t off : Nat) (bs : Bytes) : State := 
  { s with mem := memWrite s.mem (padAddr t + off) bs }.breakReserve (padAddr t + off) bs.length

/-- The bit pattern of element `j` of a row of `bits`-wide elements at a scratchpad offset (R164). -/
def State.elemRaw (s : State) (t bits base j : Nat) : Nat :=
  match bits with
  | 4 => bitsOf (s.padNum t (base + j / 2) 1) (4 * (j % 2)) 4
  | 6 => bitsOf (s.padNum t (base + j / 4 * 3) 3) (6 * (j % 4)) 6
  | _ => s.padNum t (base + j * (bits / 8)) (bits / 8)

/-- The bytes of a row of `n` elements (R164). -/
def rowBytes (bits n : Nat) : Nat := if bits = 6 then (n + 3) / 4 * 3 else (bits * n + 7) / 8

/-- A number in base 2^bits, its digits least significant first. -/
def packNat (bits : Nat) : List Nat → Nat
  | [] => 0
  | v :: vs => v % 2 ^ bits + 2 ^ bits * packNat bits vs

/-- Element bit patterns packed into the bytes of a row (R164). -/
def packRow (bits : Nat) (vs : List Nat) : Bytes := leBytes (rowBytes bits vs.length) (packNat bits vs)

/-- The first and one past the last byte of `rows` rows of `n` bytes at a stride. -/
def spanOf (base rows stride n : Nat) : Nat × Nat := (base, base + (rows - 1) * stride + n)

/-- Whether two spans share no byte. -/
def apart (a b : Nat × Nat) : Bool := decide (a.2 ≤ b.1 ∨ b.2 ≤ a.1)

/-! ## Formats (R188) -/

/-- A FORMATS entry (Table NUM-5). -/
structure Format where
  ty : Nat
  mode : Nat
  escapes : Nat
  stochastic : Bool
  ieee : Bool
  precise : Bool
deriving DecidableEq, Repr

/-- The FORMATS entry in force under an index. -/
def State.format (s : State) (i : Nat) : Option Format :=
  match s.formatEntry i with
  | none => none
  | some e =>
    let b := fieldAt e 2 1
    some ⟨bitsOf (fieldAt e 1 1) 0 4, bitsOf b 0 2, bitsOf b 2 2, bitOf b 4, bitOf b 5, bitOf b 6⟩

/-- The job seed (R179). -/
def State.jobSeed (s : State) : Nat := s.preField secDeterminism 8 8 0

/-- The step number under which a tile draws random words: the step in progress of its domain, 0 when none is open. -/
def State.drawStep (s : State) (t : Nat) : Nat :=
  match s.domOf t with
  | some d => if (s.dom d).stepOpen then (s.dom d).step else 0
  | none => 0

/-! ## Tap tables (R220, R221) -/

/-- The layer number that the loss accumulator's entry carries. -/
def lossLayer : Nat := 0xFFFF

/-- A tap table with a value added to an entry; none when a 65th entry would be needed. -/
def addTap (taps : List Tap) (layer comp v : Nat) (nf : Bool) : Option (List Tap) :=
  let here (x : Tap) := x.layer == layer && x.comp == comp
  if taps.any here then
    some (taps.map (fun x => if here x then { x with sum := f64add x.sum v, nf := x.nf || nf } else x))
  else if taps.length < 64 then some (taps ++ [{ layer := layer, comp := comp, sum := v, nf := nf }])
  else none

/-- A tap contribution of tile `t` (R221): component 1 FOOT, 2 WEIGHT, 3 UPDATE of a layer counter, or 4 LOSS; a lost one is counted,
with event TAP_LOST once per slot. -/
def State.tap (s : State) (t layer comp v : Nat) (nf : Bool) : State :=
  let x := s.tile t
  let layer := if comp = 4 then lossLayer else layer
  match addTap x.taps layer comp v nf with
  | some taps => (s.setTile t { x with taps := taps }).setFld (TIL_TAP_STATUS_ENTRIES t) taps.length
  | none =>
    let s1 := (s.setTile t { x with tapLost := x.tapLost ++ [layer] }).addFld (TIL_TAP_STATUS_LOST t) 1
    if x.tapLost ≠ [] then s1
    else
      let d := (s.domOf t).getD noDomain
      s1.event t 0x8343 d (leBytes 8 (s.slot d) ++ leBytes 2 layer ++ leBytes 1 comp)

/-- Whether a decided step is carried: it failed, was skipped, or is to be skipped (R381). -/
def Update.carries (u : Update) : Bool := u.outcome != ST_OK || bitOf (fieldAt u.block 32 1) 0

/-- Whether a pass 2 with its shard in this group is known to be carried, so that it contributes nothing (R384, R386). -/
def State.knownCarried (s : State) (t group : Nat) : Bool :=
  match (s.domOf t).bind (fun d => (s.dom d).update) with
  | some u => !(bitOf u.set group) || (u.decided && u.carries)
  | none => false

/-- Whether an operation adds to the tap table: an array operation with NORM_TAP that is not skipped (R220), a vector operation with
TAP (R241), or a pass 2 that is neither NULL nor carried, with TAP in its block (R386); the block of one that has not started may
still change, and TAP is taken as set. A pass 1 adds nothing (R379). -/
def State.taps (s : State) (t : Nat) (o : Op) : Bool :=
  if o.engineCode ≤ 3 then bitOf (o.field 43 1) 4 && !o.frozen
  else if o.engineCode ≠ 5 ∨ o.code = 0x30 then false
  else if o.pass2 then
    let block := o.field 8 4
    !(bitOf (o.field 13 1) 1) &&
      (!o.started || (bitOf (s.padNum t (block + 54) 2) 12 && !(s.knownCarried t (bitsOf (s.padNum t (block + 53) 1) 0 5))))
  else bitsOf (o.field 50 2) 12 2 != 0

/-- Whether an operation adds nothing to the tap table, or every earlier-issued tapped operation of the tile has added its own
contribution (R221). -/
def State.tapTurn (s : State) (t : Nat) (o : Op) : Bool :=
  !(s.taps t o) || (s.tile t).ops.all (fun p => decide (o.order ≤ p.2.order) || !(s.taps t p.2) || p.2.acted)

/-! ## The merge at a boundary (R222, R223) -/

def layerWf : Nat → Option Layer := fun _ => some {}

/-- One layer counter of a bank. -/
def Bank.layer (b : Bank) (l : Nat) : Layer := (smapFind b.layers l).getD {}

/-- One tap-table entry added into a bank: the sum, and TOUCHED and NONFINITE. -/
def Bank.merge (b : Bank) (x : Tap) : Bank :=
  if x.comp = 4 then { b with loss := f64add b.loss x.sum, touched := true }
  else
    let l := b.layer x.layer
    let f := withBit l.flags 0
    let f := if x.nf then withBit f 1 else f
    let l := { l with flags := f,
                      foot := if x.comp = 1 then f64add l.foot x.sum else l.foot,
                      weight := if x.comp = 2 then f64add l.weight x.sum else l.weight,
                      update := if x.comp = 3 then f64add l.update x.sum else l.update }
    { b with layers := smapPut layerWf b.layers x.layer l }

/-- A lost contribution marked on its layer counter (R221); the loss accumulator has no flags. -/
def Bank.markLost (b : Bank) (layer : Nat) : Bank :=
  if layer = lossLayer then b
  else
    let l := b.layer layer
    { b with layers := smapPut layerWf b.layers layer { l with flags := withBit l.flags 2 } }

/-- The tables of a finished slot in ascending logical tile id. -/
def insertTable (x : TapTable) : List TapTable → List TapTable
  | [] => [x]
  | y :: ys => if x.logical ≤ y.logical then x :: y :: ys else y :: insertTable x ys

/-- The tables of a domain's finished slot are added into CURRENT, and their NF bits into STEP_NF (R222). -/
def State.mergeTaps (s : State) (d : Nat) : State :=
  let x := s.dom d
  let ts := x.tables.foldr insertTable []
  let bank := ts.foldl (fun b t => t.lost.foldl Bank.markLost (t.taps.foldl Bank.merge b)) x.current
  let s := s.setDom d { x with tables := [], current := bank }
  if ts.any (·.nf) then s.setFld (CTL_DOM_NONFINITE_STEP_NF d) 1 else s

/-! ## The loss-spike detector (R226 to R228) -/

/-- An FP32 field widened to FP64. -/
def widen32 (v : Nat) : Nat := fp64.encode (fp64.fit (fp32.decode v))

/-- 1.0 in FP64. -/
def one64 : Nat := 0x3FF0_0000_0000_0000

/-- The detector of a domain run on the LAST loss. -/
def State.detect (s : State) (d : Nat) : State :=
  let x := s.dom d
  let l := x.last.loss
  if x.last.touched = false then s
  else if f64finite l = false then s.event 0x8004 0x8344 d (leBytes 8 x.lastStep ++ leBytes 8 l)
  else
    let mean := (s.reg (CTL_SPIKE_MEAN d)).toNat
    let var := (s.reg (CTL_SPIKE_VAR d)).toNat
    let count := s.fld (CTL_SPIKE_STATUS_COUNT d)
    let k := widen32 (s.preField secWatch 0 4 0x40800000)
    let a := widen32 (s.preField secWatch 4 4 0x3F7D70A4)
    let diff := f64sub l mean
    if count ≥ 16 ∧ f64lt 0 diff = true ∧ f64lt (f64mul (f64mul k k) var) (f64mul diff diff) = true then
      let s := s.addFld (CTL_SPIKE_STATUS_SPIKES d) 1
      let consec := s.fld (CTL_SPIKE_STATUS_CONSEC d) + 1
      let s := (s.event 0x8004 0x8340 d (leBytes 8 x.lastStep ++ leBytes 8 l ++ leBytes 8 mean ++ leBytes 8 var)).addRisk riskSpike
      if consec = 8 then
        let s := (s.setReg (CTL_SPIKE_MEAN d) (word l)).setReg (CTL_SPIKE_VAR d) 0#64
        let s := (s.setFld (CTL_SPIKE_STATUS_COUNT d) 1).setFld (CTL_SPIKE_STATUS_CONSEC d) 0
        s.event 0x8004 0x8341 d (leBytes 8 x.lastStep ++ leBytes 8 l)
      else s.setFld (CTL_SPIKE_STATUS_CONSEC d) consec
    else
      let s := s.setFld (CTL_SPIKE_STATUS_CONSEC d) 0
      let b := f64sub one64 a
      let s := if count = 0 then (s.setReg (CTL_SPIKE_MEAN d) (word l)).setReg (CTL_SPIKE_VAR d) 0#64
        else
          (s.setReg (CTL_SPIKE_MEAN d) (word (f64add mean (f64mul b diff)))).setReg (CTL_SPIKE_VAR d)
            (word (f64mul a (f64add var (f64mul (f64mul b diff) diff))))
      s.addFld (CTL_SPIKE_STATUS_COUNT d) 1

/-- STEP BEGIN opens a step at a boundary (R223): CURRENT becomes LAST under the number of the step just ended, the non-finite
flags move on, and the detector runs. -/
def State.rollBanks (s : State) (d : Nat) : State :=
  let x := s.dom d
  let s := s.setDom d { x with last := x.current, current := {}, lastStep := x.step }
  let nf := s.fld (CTL_DOM_NONFINITE_STEP_NF d)
  let s := (s.setFld (CTL_DOM_NONFINITE_LAST_NF d) nf).setFld (CTL_DOM_NONFINITE_STEP_NF d) 0
  let s := if nf = 1 then
      ((s.addFld (CTL_DOM_NONFINITE_NF_STEPS d) 1).event 0x8004 0x8342 d (leBytes 8 x.step)).addRisk riskNonfinite
    else s
  s.detect d

end Sys2Proof.Machine
end

