-- ==== Sys2Proof/Machine/Augment.lean ====
section
/-!
DEFINITION. Augmentation of a decoded sample (R337, Table INT-4) and the layout of a slot (R338).
-/
namespace Sys2Proof.Machine

/-- A decoded sample: frames, the components' (width, height), and elements as FP32 patterns, frame by frame, component by
component, row by row. -/
structure Pic where
  frames : Nat
  comps : List (Nat × Nat)
  elems : List Nat
deriving DecidableEq, Repr

/-- The elements of one frame. -/
def compElems : List (Nat × Nat) → Nat
  | [] => 0
  | (w, h) :: cs => w * h + compElems cs

def Pic.width (p : Pic) (c : Nat) : Nat := (p.comps.getD c (0, 0)).1
def Pic.height (p : Pic) (c : Nat) : Nat := (p.comps.getD c (0, 0)).2

/-- Element (x, y) of component `c` of frame `f`. -/
def Pic.elem (p : Pic) (f c y x : Nat) : Nat :=
  p.elems.getD (f * compElems p.comps + compElems (p.comps.take c) + y * p.width c + x) 0

/-- A picture built element by element. -/
def Pic.build (frames : Nat) (comps : List (Nat × Nat)) (at' : Nat → Nat → Nat → Nat → Nat) : Pic :=
  { frames := frames, comps := comps,
    elems := (List.range frames).flatMap (fun f => (List.range comps.length).flatMap (fun c =>
      (List.range (comps.getD c (0, 0)).2).flatMap (fun y => (List.range (comps.getD c (0, 0)).1).map (fun x => at' f c y x)))) }

/-! ## FP32 arithmetic on patterns -/

def f32add (a b : Nat) : Nat := fp32.encode (fp32.fit ((fp32.decode a).add (fp32.decode b)))
def f32sub (a b : Nat) : Nat := fp32.encode (fp32.fit ((fp32.decode a).add (fp32.decode b).neg))
def f32mul (a b : Nat) : Nat := fp32.encode (fp32.fit ((fp32.decode a).mul (fp32.decode b)))
def f32div (a b : Nat) : Nat := fp32.encode (fp32.fit ((fp32.decode a).div (fp32.decode b)))
def f32nat (n : Nat) : Nat := fp32.encode (fp32.fit (numOfInt n))
def one32 : Nat := 0x3F800000

/-- An FP16 pattern widened to FP32. -/
def widen16 (v : Nat) : Nat := fp32.encode (fp32.fit (fp16.decode v))

/-! ## Random words (R337) -/

/-- U_j of stream `k` for sample index `index`. -/
def augWord (seed index k j : Nat) : Nat :=
  let b := j / 4
  philoxWord (seed % 2 ^ 32 ^^^ 0x3C6EF372) (seed / 2 ^ 32) (index * 4 + j % 4) (b % 2 ^ 32) (k + b / 2 ^ 32 % 2 ^ 24 * 256)

/-- 2·U / 2^32 − 1 in FP32. -/
def unitOf (u : Nat) : Nat := f32sub (f32div (f32mul (f32nat 2) (f32nat u)) (f32nat (2 ^ 32))) one32

/-! ## The kinds of Table INT-4 -/

/-- Half of `n`, an odd remainder going to the side that `pick` chooses. -/
def halfOf (pick n : Nat) : Nat := n / 2 + (if n % 2 = 1 then pick % 2 else 0)

/-- A luma place or size carried over to a component: exact where the component's grid allows, otherwise as `pick` chooses. -/
def onGrid (pick n whole part : Nat) : Nat :=
  let q := n * part / max 1 whole
  if n * part % max 1 whole = 0 then q else q + pick % 2

/-- CROP to `wo` × `ho` at (x, y); none when the frame is smaller. -/
def Pic.crop (p : Pic) (pick wo ho x y : Nat) : Pic :=
  let w := p.width 0
  let h := p.height 0
  let dims := p.comps.map (fun c => (min c.1 (onGrid pick wo w c.1), min c.2 (onGrid pick ho h c.2)))
  Pic.build p.frames dims (fun f c j i =>
    let ox := min (onGrid pick x w (p.width c)) (p.width c - (dims.getD c (0, 0)).1)
    let oy := min (onGrid pick y h (p.height c)) (p.height c - (dims.getD c (0, 0)).2)
    p.elem f c (oy + j) (ox + i))

/-- FLIP: the rows of all frames reversed. -/
def Pic.flip (p : Pic) : Pic := Pic.build p.frames p.comps (fun f c y x => p.elem f c y (p.width c - 1 - x))

/-- TEMPORAL: `keep` frames from `start` at stride `t`. -/
def Pic.thin (p : Pic) (keep start t : Nat) : Pic := Pic.build keep p.comps (fun f c y x => p.elem (start + f * t) c y x)

/-- NOISE: A·(2·U_j / 2^32 − 1) added to element e, j = 16 + e, from element `e` on. -/
def addNoise (amp : Nat) (u : Nat → Nat) : Nat → List Nat → List Nat
  | _, [] => []
  | e, v :: vs => f32add v (f32mul amp (unitOf (u (16 + e)))) :: addNoise amp u (e + 1) vs

/-- One INTAKE stream applied (its 16-byte entry); none: it does not fit (SAMPLE_SHAPE). -/
def augment (seed index pick : Nat) (p : Pic) (e : Bytes) : Option Pic :=
  let v (off n : Nat) := fieldAt e (2 + off) n
  let u (j : Nat) := augWord seed index (fieldAt e 0 1) j
  match fieldAt e 1 1 with
  | 1 =>
    let wo := v 0 2
    let ho := v 2 2
    let w := p.width 0
    let h := p.height 0
    if w < wo ∨ h < ho then none
    else if bitOf (v 4 1) 0 then some (p.crop pick wo ho (halfOf pick (w - wo)) (halfOf pick (h - ho)))
    else some (p.crop pick wo ho (u 0 % (w - wo + 1)) (u 1 % (h - ho + 1)))
  | 2 => some (if u 0 < v 0 4 then p.flip else p)
  | 3 =>
    let f (j : Nat) := f32add one32 (f32mul (widen16 (v (2 * j) 2)) (unitOf (u j)))
    some { p with elems := (List.range p.elems.length).map (Config.colour (f 0) (f 1) (f 2) p.elems) }
  | 4 =>
    let keep := v 0 2
    let t := 1 + u 0 % max 1 (v 2 1)
    let span := (keep - 1) * t
    if p.frames < span + 1 then none else some (p.thin keep (u 1 % (p.frames - span)) t)
  | 5 => some { p with elems := addNoise (widen16 (v 0 2)) u 0 p.elems }
  | _ => some p

/-- Streams applied in order. -/
def augmentAll (seed index pick : Nat) : Pic → List Bytes → Option Pic
  | p, [] => some p
  | p, e :: es =>
    match augment seed index pick p e with
    | some q => augmentAll seed index pick q es
    | none => none

/-! ## Layout (R338) -/

/-- The bytes of a row of `w` 16-bit elements. -/
def rowPad (w : Nat) : Nat := (2 * w + 63) / 64 * 64

/-- The bytes of a frame. -/
def frameBytes : List (Nat × Nat) → Nat
  | [] => 0
  | (w, h) :: cs => h * rowPad w + frameBytes cs

/-- A row of 16-bit elements, padded. -/
def slotRow (vs : List Nat) : Bytes := padTo (rowPad vs.length) (vs.flatMap (leBytes 2))

/-- 16-bit elements in the layout of a slot. -/
def layOut (frames : Nat) (comps : List (Nat × Nat)) (elems : List Nat) : Bytes :=
  (List.range frames).flatMap (fun f => (List.range comps.length).flatMap (fun c =>
    (List.range (comps.getD c (0, 0)).2).flatMap (fun y =>
      slotRow (takeFrom elems (f * compElems comps + compElems (comps.take c) + y * (comps.getD c (0, 0)).1) (comps.getD c (0, 0)).1))))
where
  /-- `n` elements from place `k`, zero past the end. -/
  takeFrom (l : List Nat) (k n : Nat) : List Nat := (List.range n).map (fun i => l.getD (k + i) 0)

/-- The elements that a slot holds, read back from its bytes. -/
def readBack (frames : Nat) (comps : List (Nat × Nat)) (bs : Bytes) : List Nat :=
  (List.range frames).flatMap (fun f => (List.range comps.length).flatMap (fun c =>
    (List.range (comps.getD c (0, 0)).2).flatMap (fun y => (List.range (comps.getD c (0, 0)).1).map (fun x =>
      fieldAt bs (f * frameBytes comps + frameBytes (comps.take c) + y * rowPad (comps.getD c (0, 0)).1 + 2 * x) 2))))

/-- A decoded element on the scale of R337. -/
def normalise (sh : Shape) (v : Nat) : Nat := if sh.half then widen16 v else f32div (f32nat v) (f32nat (2 ^ sh.depth - 1))

/-- A result clamped to [0, 1] and converted to OUT_TYPE with RNE. -/
def outElem (ty depth v : Nat) : Nat :=
  let x := fp32.decode v
  let x := if x.lt Num.zero then Num.zero else if (fp32.decode one32).lt x then fp32.decode one32 else x
  if ty = 1 then bf16.encode (bf16.fit x)
  else if ty = 2 then fp16.encode (fp16.fit x)
  else
    match fp32.fit (x.mul (numOfInt (2 ^ depth - 1))) with
    | .fin neg m e => (rneInt neg m e).toNat
    | _ => 0

end Sys2Proof.Machine
end

