-- ==== Sys2Proof/Machine/Intake.lean ====
section
/-!
DEFINITION. The sample intake: batch records, routing, decoding, workers and the seal (chapter 15).
-/
namespace Sys2Proof.Machine

/-! ## Samples -/

def State.sample (s : State) (i : Nat) : Sample := (smapFind s.intake.samples i).getD {}
def State.setSample (s : State) (i : Nat) (x : Sample) : State :=
  { s with intake := { s.intake with samples := smapIns s.intake.samples i x } }

def Sample.index (x : Sample) : Nat := fieldAt x.record 0 8
def Sample.src (x : Sample) : Nat := fieldAt x.record 8 8
def Sample.len (x : Sample) : Nat := fieldAt x.record 16 4
def Sample.format (x : Sample) : Nat := fieldAt x.record 20 1
def Sample.hostOnly (x : Sample) : Bool := bitOf (fieldAt x.record 21 1) 0
def Sample.crcCheck (x : Sample) : Bool := bitOf (fieldAt x.record 21 1) 1
def Sample.frames (x : Sample) : Nat := fieldAt x.record 22 2
def Sample.firstFrame (x : Sample) : Nat := fieldAt x.record 28 4

/-- Engine `e`'s samples, the one it decodes first. -/
def State.engine (s : State) (e : Nat) : List Nat := (smapFind s.intake.engines e).getD []

/-- Engine `e`'s samples set, with `INT_ENGINE`. -/
def State.setEngine (s : State) (e : Nat) (is : List Nat) : State :=
  let s := { s with intake := { s.intake with engines := smapPut (fun _ => some []) s.intake.engines e is } }
  (s.setFld (INT_ENGINE_QUEUED e) (satTo 255 is.length)).setFld (INT_ENGINE_BUSY e) (if is = [] then 0 else 1)

/-! ## The ready pool (R338) -/

def State.intakeBase (s : State) : Nat := s.fld INT_POOL_BASE * 2 ^ 21
def State.poolBytes (s : State) : Nat := s.fld INT_POOL_SIZE * 2 ^ 30
def State.intakeSlot (s : State) : Nat := s.fld INT_CONFIG_SLOT_MIB * 2 ^ 20
/-- The bytes of the batch tables. -/
def lookupBytes : Nat := 2 ^ 26
/-- The slots of the pool. -/
def State.poolSlots (s : State) : Nat := (s.poolBytes - lookupBytes) / max 1 s.intakeSlot

/-- The slots in use, by address. -/
def State.usedSlots (s : State) : List Nat :=
  (s.intake.samples.filter (fun e => e.2.state == .engine || e.2.state == .worker || e.2.state == .orphan || e.2.state == .ready)).map
    (·.2.slot)

/-- The free slots, by address. -/
def State.freePool (s : State) : List Nat :=
  let used := s.usedSlots
  ((List.range s.poolSlots).map (fun i => s.intakeBase + lookupBytes + i * s.intakeSlot)).filter (fun a => !(used.contains a))

/-! ## Enable and disable (R342) -/

/-- Whether a ring of `n` bytes lies in host DDR. -/
def State.ringInDdr (s : State) (a n : Nat) : Bool := s.isDdr a && s.isDdr (a + n - 1)

/-- The checks of an enable; WORKERS asks for the worker ring's size too (Table INT-6). -/
def State.intakeOk (s : State) (workers : Bool) : Bool :=
  let n := s.fld INT_CONFIG_RING_LOG2
  let m := s.fld INT_CONFIG_WORKER_LOG2
  let pool := (s.entries secMemory).any (fun e =>
    fieldAt e 0 1 == 1 && hbmBase + fieldAt e 8 8 == s.intakeBase && fieldAt e 16 8 == s.poolBytes)
  pool && decide (1 ≤ s.fld INT_CONFIG_SLOT_MIB ∧ s.fld INT_CONFIG_SLOT_MIB ≤ 4096) &&
    decide (lookupBytes + s.intakeSlot ≤ s.poolBytes) && decide (6 ≤ n ∧ n ≤ 12) && (!workers || decide (6 ≤ m ∧ m ≤ 12)) &&
    s.ringInDdr (s.fld INT_RING_BASE_BASE * 4096) (64 * 2 ^ n) &&
    s.ringInDdr (s.fld INT_WORKER_BASE_BASE * 4096) (if workers then 128 * 2 ^ m else 1)

/-- INTAKE_ENABLE (R342): INT_CTRL written with ENABLE 1, checked each time. An intake already enabled keeps its fields when a check
fails. -/
def execIntakeEnable (workers : Bool) (s : State) : Out :=
  if s.phase ≠ .running then .next s
  else
    let w := if workers then 1 else 0
    if s.intakeOk workers then .next (((s.setFld INT_CTRL_WORKERS w).setFld INT_CTRL_ENABLE 1).setFld INT_STATUS_STATE 1)
    else
      let s := if s.intakeOn then s else s.setFld INT_CTRL_WORKERS w
      .next (s.setFld INT_STATUS_LAST_ERROR ST_INTAKE_CONFIG)

/-- INTAKE_DISABLE (R342): INT_CTRL written with ENABLE 0. -/
def execIntakeDisable (workers : Bool) (s : State) : Out :=
  if s.phase ≠ .running then .next s
  else .next (s.intakeOff.setFld INT_CTRL_WORKERS (if workers then 1 else 0))

/-- INTAKE_RING_TAIL_WRITE (R333): the new tail takes its bits at once (RWI). -/
def execIntakeRingTailWrite (value : Word) (s : State) : Out :=
  if s.phase ≠ .running then .next s else .next (s.setFld INT_RING_PTR_TAIL (bitsOf value.toNat 0 12))

/-! ## Batch records (R333, R334) -/

/-- An intake event of batch code `code` (Table ERR-11). -/
def State.batchEvent (s : State) (code dom step pos entry : Nat) : State :=
  s.event 0x5100 code dom (leBytes 8 step ++ leBytes 2 pos ++ zeros 2 ++ leBytes 4 entry)

/-- Whether the fields of a batch record lie in range. -/
def State.batchOk (s : State) (r : Bytes) : Bool :=
  let n := 64 * (fieldAt r 10 2 + fieldAt r 12 4)
  let list := fieldAt r 16 8
  bitsOf (fieldAt r 8 1) 6 2 == 0 && (s.domEntry (fieldAt r 8 1)).isSome && decide (fieldAt r 9 1 ≤ 2) &&
    decide (1 ≤ fieldAt r 10 2 ∧ fieldAt r 10 2 ≤ 16380) && decide (fieldAt r 12 4 ≤ 65535) && list % 64 == 0 &&
    s.hostOnly list n && allZero (takeAt r 32 32)

/-- The samples of a batch record's list, from place `k`. -/
def State.takeSamples (s : State) (b : Batch) (list : Nat) : Nat → Nat → State
  | _, 0 => s
  | k, n + 1 =>
    let r := k ≥ b.count
    let x : Sample := { record := s.bytesAt (list + 64 * k) 64, dom := b.dom, step := b.step, outType := b.outType, mask := b.mask,
                        reserve := decide r, pos := if r then k - b.count else k }
    let s := s.setSample s.intake.count x
    ({ s with intake := { s.intake with count := s.intake.count + 1 } }).takeSamples b list (k + 1) n

/-- BATCH_RECORD_FETCH (R333, R334): the next record of the intake ring is held with its sample list, or refused. -/
def execBatchRecordFetch (s : State) : Out :=
  let cap := 2 ^ s.fld INT_CONFIG_RING_LOG2
  let head := s.fld INT_RING_PTR_HEAD
  if s.intakeOn = false ∨ s.aloft = false ∨ head = s.fld INT_RING_PTR_TAIL % cap then .next s
  else
    let r := s.bytesAt (s.fld INT_RING_BASE_BASE * 4096 + 64 * head) 64
    let s := s.setFld INT_RING_PTR_HEAD ((head + 1) % cap)
    let d := fieldAt r 8 1
    let step := fieldAt r 0 8
    if s.batchOk r = false then .next (s.batchEvent EV_BATCH_INVALID (bitsOf d 0 6) step 0 head)
    else if s.intake.batches.any (fun b => b.dom == d && b.step == step) then .next (s.batchEvent EV_BATCH_DUPLICATE d step 0 head)
    else if s.intake.seals.contains (d, step) then .next (s.batchEvent EV_BATCH_LATE d step 0 head)
    else
      let b : Batch := { dom := d, step := step, outType := fieldAt r 9 1, count := fieldAt r 10 2, mask := fieldAt r 24 8 }
      let s := { s with intake := { s.intake with batches := s.intake.batches ++ [b] } }
      let s := s.takeSamples b (fieldAt r 16 8) 0 (b.count + fieldAt r 12 4)
      .next (s.setFld INT_STATUS_PENDING (satTo 0xFFFF s.intake.batches.length))

/-! ## Routing (R335, R336) -/

/-- The order of dispatch: batch samples before reserve samples, each in ascending STEP, then in list order. -/
def Sample.before (x y : Sample) : Bool :=
  if x.reserve != y.reserve then !x.reserve
  else if x.step ≠ y.step then decide (x.step < y.step) else decide (x.pos < y.pos)

/-- The first of a list of samples in the order of dispatch, the earlier fetched on a tie. -/
def firstSample : List (Nat × Sample) → Option (Nat × Sample)
  | [] => none
  | e :: es =>
    match firstSample es with
    | some f => if f.2.before e.2 then some f else some e
    | none => some e

/-- The engine with the fewest samples, the lowest on a tie. -/
def State.leastEngine (s : State) : Nat :=
  (List.range 16).foldl (fun m e => if (s.engine e).length < (s.engine m).length then e else m) 0

/-- Whether the worker ring has room for an item. -/
def State.workerRoom (s : State) : Bool :=
  let cap := 2 ^ s.fld INT_CONFIG_WORKER_LOG2
  s.fld INT_CTRL_WORKERS == 1 && (s.fld INT_WORKER_PTR_TAIL + 1) % cap != s.fld INT_WORKER_PTR_HEAD % cap

/-- The token of the `n`-th worker item: not zero. -/
def workerToken (n : Nat) : Nat := 1 + (Config.choice 0 + n) % (2 ^ 32 - 1)

/-- A sample goes to the worker ring with its slot (R336). -/
def State.toWorker (s : State) (i : Nat) (x : Sample) (slot : Nat) : State :=
  let token := workerToken s.intake.tokens
  let tail := s.fld INT_WORKER_PTR_TAIL
  let item := leBytes 4 token ++ leBytes 4 s.intakeSlot ++ leBytes 8 slot ++ zeros 48 ++ padTo 64 x.record
  let s := s.store (s.fld INT_WORKER_BASE_BASE * 4096 + 128 * tail) item
  let s := s.setFld INT_WORKER_PTR_TAIL ((tail + 1) % 2 ^ s.fld INT_CONFIG_WORKER_LOG2)
  ({ s with intake := { s.intake with tokens := s.intake.tokens + 1 } }).setSample i { x with state := .worker, slot := slot, token := token }

/-- SAMPLE_DISPATCH (R335): the next sample goes to an engine or to the worker ring, when a slot is free; otherwise it waits. -/
def execSampleDispatch (s : State) : Out :=
  if s.intakeOn = false ∨ s.aloft = false then .next s
  else
    match firstSample (s.intake.samples.filter (fun e => e.2.state == .waiting)) with
    | none => .next s
    | some (i, x) =>
      let free := s.freePool
      match free with
      | [] => .next s
      | a :: _ =>
        let slot := free.getD (Config.choice s.fresh % free.length) a
        let s' := { s with fresh := s.fresh + 1 }
        let limit := s.preField secIntake 4 2 0
        let e := s.leastEngine
        let host := x.format == 8 || x.format == 9 || x.hostOnly
        let full := limit != 0 && decide (limit ≤ (s.engine e).length)
        if host || full then
          if s.workerRoom then .next (s'.toWorker i x slot) else .next s
        else .next ((s'.setSample i { x with state := .engine, slot := slot }).setEngine e (s.engine e ++ [i]))

/-! ## Decoding (R331, R337, R341) -/

/-- The chroma sampling of a picture: its components against the first, of w × h. -/
inductive Chroma where
  | mono | c420 | c422 | c444 | other
deriving DecidableEq, Repr

def Shape.chroma (x : Shape) : Chroma :=
  match x.comps with
  | [_] => .mono
  | (w, h) :: cs =>
    let half (n : Nat) := (n + 1) / 2
    if cs.all (· == (w, h)) then .c444
    else if cs == [(half w, h), (half w, h)] then .c422
    else if cs == [(half w, half h), (half w, half h)] then .c420
    else .other
  | [] => .other

/-- Whether a picture lies within Table INT-1's limits for its format: largest picture, bit depth, chroma sampling. -/
def formatTakes (format : Nat) (x : Shape) : Bool :=
  let within (w h : Nat) : Bool := x.comps.all (fun c => decide (c.1 ≤ w ∧ c.2 ≤ h))
  let depth (ds : List Nat) : Bool := !x.half && ds.contains x.depth
  let chroma (cs : List Chroma) : Bool := cs.contains x.chroma
  !x.comps.isEmpty && x.comps.all (fun c => decide (0 < c.1 ∧ 0 < c.2)) &&
    match format with
    | 1 => within 8192 4352 && depth [8, 10] && chroma [.c420]
    | 2 => within 8192 4352 && depth [8, 9, 10] && chroma [.c420, .c422]
    | 3 => within 4096 2304 && depth [8] && chroma [.mono, .c420]
    | 4 => within 8192 4352 && depth [8, 10, 12] && chroma [.c420]
    | 5 => within 16384 16384 && depth [8]
    | 6 => within 16384 16384 && depth (fromTo 1 12) && decide (x.comps.length ≤ 4)
    | 7 => within 8192 8192 && depth (fromTo 8 9) && decide (x.comps.length ≤ 4)
    | 8 => depth [10]
    | 9 => x.half
    | _ => false

/-- A sample is dropped (R341): an event with its code, and a CORRECTED record of the unit. -/
def State.dropSample (s : State) (i unit reason worker : Nat) : State :=
  let x := s.sample i
  let s := s.setSample i { x with state := .dropped, slot := 0, reason := reason }
  let s := s.event unit (reason ||| 0x8000) x.dom (leBytes 8 x.step ++ leBytes 8 x.index ++ leBytes 2 worker)
  s.report unit 0 { code := reason, dom := x.dom }

/-- The streams of a mask, by ascending number (R337). -/
def State.streams (s : State) (mask : Nat) : List Bytes :=
  (bitsSet mask 64).filterMap (fun k => (s.entries secIntake).find? (fun e => fieldAt e 0 1 == k))

/-- The boundaries begun: those counted, and one more from the time of the next boundary until it is served. -/
def State.begun (s : State) : Nat := if s.nextBoundary ≤ s.now then s.tick + 1 else s.tick

/-- A decoded sample augmented into its slot and ready, or dropped (R337 to R339). -/
def State.augmentSample (s : State) (i unit worker : Nat) (sh : Shape) (elems : List Nat) : State :=
  let x := s.sample i
  let frames := x.frames
  if s.intakeSlot < frames * frameBytes sh.comps then s.dropSample i unit ST_SAMPLE_TOO_LARGE worker
  else
    match augmentAll s.jobSeed x.index (Config.choice s.fresh) { frames := frames, comps := sh.comps, elems := elems.map (normalise sh) }
        (s.streams x.mask) with
    | none => s.dropSample i unit ST_SAMPLE_SHAPE worker
    | some p =>
      let s := s.devWrite x.slot (layOut p.frames p.comps (p.elems.map (outElem x.outType sh.depth)))
      ({ s with fresh := s.fresh + 1 }).setSample i { x with state := .ready, readyTick := s.begun }

/-- The encoded bytes of a sample. -/
def State.sourceOf (s : State) (x : Sample) : Bytes := s.bytesAt x.src x.len

/-- What the bytes of a sample decode to, within the limits of its format (R331, R332): a reason to drop it, or its picture and elements.
The same on an engine and at a host-core worker. -/
def State.decodeSample (s : State) (x : Sample) : Except Nat (Shape × List Nat) :=
  if x.format < 1 ∨ 9 < x.format ∨ x.frames < 1 ∨ 4096 < x.frames then .error ST_SAMPLE_UNSUPPORTED
  else if !s.hostOnly x.src x.len then .error ST_SAMPLE_DECODE
  else
    match Config.decode x.format x.firstFrame x.frames (s.sourceOf x) with
    | .broken => .error ST_SAMPLE_DECODE
    | .unsupported => .error ST_SAMPLE_UNSUPPORTED
    | .frames sh elems => if formatTakes x.format sh then .ok (sh, elems) else .error ST_SAMPLE_UNSUPPORTED

/-- Whether the source bytes of a sample fail its CRC (Table INT-3). -/
def State.crcBad (s : State) (x : Sample) : Bool := x.crcCheck && crc32c (s.sourceOf x) != fieldAt x.record 24 4

/-- SAMPLE_DECODE_END (R337): engine `e` ends the sample it decodes. -/
def execSampleDecodeEnd (e : Fin 16) (s : State) : Out :=
  match s.engine e.val with
  | [] => .next s
  | i :: rest =>
    let s := s.setEngine e.val rest
    let x := s.sample i
    let unit := 0x5000 + e.val
    if s.crcBad x then .next (s.dropSample i unit ST_SAMPLE_CRC 0)
    else
      match s.decodeSample x with
      | .error r => .next (s.dropSample i unit r 0)
      | .ok (sh, elems) => .next ((s.addFld (INT_ENGINE_SAMPLES e.val) 1).augmentSample i unit 0 sh elems)

/-- The elements that a worker of a sample delivers (R332, R338): of formats 1 to 7 those of the intake library, which it must use; of
formats 8 and 9 what it wrote into the slot. -/
def State.workerElems (s : State) (x : Sample) (sh : Shape) (elems : List Nat) : List Nat :=
  if x.format < 8 then elems else readBack x.frames sh.comps (s.bytesAt x.slot (x.frames * frameBytes sh.comps))

/-- WORKER_DONE (R336): a host worker's item ends; a token that is not outstanding is counted. An item whose sample a RESTORE took back
only frees its slot. -/
def execWorkerDone (value : Word) (s : State) : Out :=
  let token := bitsOf value.toNat 0 32
  let status := bitsOf value.toNat 32 16
  if s.phase ≠ .running then .next s
  else
    match s.intake.samples.find? (fun e => (e.2.state == .worker || e.2.state == .orphan) && e.2.token == token) with
    | none => .next (s.addFld INT_STATUS_STALE_DONE 1)
    | some (i, x) =>
      if x.state = .orphan then .next { s with intake := { s.intake with samples := s.intake.samples.filter (fun e => e.1 != i) } }
      else if status ≠ 0 then .next (s.dropSample i 0x5101 status status)
      else
        match s.decodeSample x with
        | .error r => .next (s.dropSample i 0x5101 r 0)
        | .ok (sh, elems) => .next (s.augmentSample i 0x5101 0 sh (s.workerElems x sh elems))

/-! ## The seal (R340) -/

/-- Samples in ascending index. -/
def insertIndex (e : Nat × Sample) : List (Nat × Sample) → List (Nat × Sample)
  | [] => [e]
  | f :: fs => if e.2.index ≤ f.2.index then e :: f :: fs else f :: insertIndex e fs

/-- Samples in the order of dispatch. -/
def insertPlace (e : Nat × Sample) : List (Nat × Sample) → List (Nat × Sample)
  | [] => [e]
  | f :: fs => if e.2.before f.2 then e :: f :: fs else f :: insertPlace e fs

/-- Whether a sample was ready before boundary `n` began (R339). -/
def Sample.readyBy (x : Sample) (n : Nat) : Bool := x.state == .ready && decide (x.readyTick < n)

/-- The reserve queue of domain `d` for the seal of step `step` (R340): deferred samples that are ready, by index; then the reserves of
earlier batches and of this one. -/
def State.reserveQueue (s : State) (d step n : Nat) : List (Nat × Sample) :=
  let mine := s.intake.samples.filter (fun e => e.2.dom == d && e.2.listed == none && e.2.state != .dropped)
  (mine.filter (fun e => e.2.deferred && e.2.readyBy n)).foldr insertIndex [] ++
    (mine.filter (fun e => e.2.reserve && decide (e.2.step ≤ step))).foldr insertPlace []

/-- What the seal notes of a position: its kind (1 deferred, 2 dropped, 3 short), reason, and the original and replacement indices
(Table SRV-3). -/
def noteItems (p kind reason orig repl : Nat) : List Nat := [p + kind * 2 ^ 16 + reason * 2 ^ 24, orig, repl]

/-- One position of the batch sealed: a ready sample is listed; another is deferred or dropped, and replaced from the reserve queue
or left short. -/
def State.sealPosition (s : State) (d step n p : Nat) (notes : List Nat) : State × List Nat :=
  match s.intake.samples.find? (fun e => e.2.dom == d && e.2.step == step && !e.2.reserve && e.2.pos == p && e.2.listed == none) with
  | none => (s, notes)
  | some (i, x) =>
    if x.readyBy n then (s.setSample i { x with listed := some step }, notes)
    else
      let gone := x.state == .dropped
      let s := if gone then s.addFld INT_COUNTS_DROPPED 1 else (s.setSample i { x with deferred := true }).addFld INT_COUNTS_DEFERRED 1
      let short (s : State) := (s.addFld INT_COUNTS_SHORT 1, notes ++ noteItems p 3 x.reason x.index (2 ^ 64 - 1))
      if s.preField secIntake 0 1 0 = 0 then
        match (s.reserveQueue d step n).find? (fun e => e.2.readyBy n) with
        | some (j, r) =>
          ((s.setSample j { r with listed := some step }).addFld INT_COUNTS_REPLACED 1,
            notes ++ noteItems p (if gone then 2 else 1) x.reason x.index r.index)
        | none => short (s.batchEvent EV_RESERVE_EMPTY d step p 0)
      else short s

/-- The address of the batch table of domain `d` for step `step` (R338). -/
def State.tableAt (s : State) (d step : Nat) : Nat := s.intakeBase + (4 * d + step % 4) * 2 ^ 18

/-- The entries of a batch table. -/
def tableEntries : List (Nat × Sample) → Bytes
  | [] => []
  | e :: es => leBytes 8 e.2.index ++ leBytes 8 e.2.slot ++ tableEntries es

/-- A batch table written (Table INT-5). -/
def State.writeTable (s : State) (d step flags : Nat) (xs : List (Nat × Sample)) : State :=
  s.devWrite (s.tableAt d step)
    (padTo 64 (leBytes 8 step ++ leBytes 4 xs.length ++ leBytes 2 flags) ++ tableEntries xs)

/-- The samples listed for a step, in ascending index. -/
def State.listedFor (s : State) (d step : Nat) : List (Nat × Sample) :=
  (s.intake.samples.filter (fun e => e.2.dom == d && e.2.listed == some step)).foldr insertIndex []

/-- The SEAL record, and the INTAKE record when a position was not served by its own sample (Table SRV-3). -/
def State.spoolSeal (s : State) (d step flags b : Nat) (indices notes : List Nat) : State :=
  let s := s.spoolFor d step 2 flags (leBytes 2 b ++ leBytes 2 indices.length) indices
  if notes = [] then s else s.spoolFor d step 3 0 [] notes

/-- A seal is made: it is owed no more, the batch record is no longer held, dropped positions leave. -/
def State.endSeal (s : State) (d step : Nat) : State :=
  let s := s.setDom d { s.dom d with unsealed := (s.dom d).unsealed.filter (fun e => e.1 != step) }
  let k := s.intake
  let s := { s with intake := { k with
    seals := k.seals ++ [(d, step)],
    batches := k.batches.filter (fun b => !(b.dom == d && b.step == step)),
    samples := k.samples.filter (fun e => !(e.2.dom == d && e.2.step == step && !e.2.reserve && e.2.state == SampleState.dropped)) } }
  s.setFld INT_STATUS_PENDING (satTo 0xFFFF s.intake.batches.length)

/-- The seal of step `step` of domain `d` at boundary `n` (R340). -/
def State.seal (s : State) (d step n : Nat) : State :=
  match s.intake.batches.find? (fun b => b.dom == d && b.step == step) with
  | none =>
    let s := (s.writeTable d step 1 []).batchEvent EV_BATCH_MISSING d step 0 0
    (s.spoolSeal d step 1 0 [] []).endSeal d step
  | some b =>
    let (s, notes) := (List.range b.count).foldl (fun (s, notes) p => s.sealPosition d step n p notes) (s, [])
    let xs := s.listedFor d step
    let flags := if xs.length < b.count then 2 else 0
    ((s.writeTable d step flags xs).spoolSeal d step flags b.count (xs.map (·.2.index)) notes).endSeal d step

/-- The slots of the samples that the domain's earlier steps listed are freed at the boundary at which a step opens (R339). -/
def State.freeListed (s : State) (d : Nat) : State :=
  { s with intake := { s.intake with samples := s.intake.samples.filter (fun e => !(e.2.dom == d && e.2.listed.isSome)) } }

end Sys2Proof.Machine
end

