-- ==== Sys2Proof/Machine/Arrays.lean ====
section
/-!
DEFINITION. The matrix arrays, the window walker and the turn unit (chapters 09 and 11).
-/
namespace Sys2Proof.Machine

/-! ## The descriptor (Table ARR-5) -/

def Op.movAddr (o : Op) : Nat := o.field 8 4
def Op.statAddr (o : Op) : Nat := o.field 12 4
def Op.outAddr (o : Op) : Nat := o.field 16 4
def Op.accAddr (o : Op) : Nat := o.field 20 4
def Op.movScale (o : Op) : Nat := o.field 24 4
def Op.statScale (o : Op) : Nat := o.field 28 4
def Op.escAddr (o : Op) : Nat := o.field 32 4
def Op.m (o : Op) : Nat := o.field 36 2 + 1
def Op.k64 (o : Op) : Nat := o.field 38 2
def Op.n (o : Op) : Nat := bitsOf (o.field 40 1) 0 7
def Op.statFormat (o : Op) : Nat := bitsOf (o.field 41 1) 0 6
def Op.outType (o : Op) : Nat := bitsOf (o.field 42 1) 0 2
def Op.turned (o : Op) : Bool := bitOf (o.field 42 1) 2
def Op.keep (o : Op) : Bool := bitOf (o.field 42 1) 3
def Op.accIn (o : Op) : Bool := bitOf (o.field 42 1) 4
def Op.arrayCounters (o : Op) : Nat := bitsOf (o.field 43 1) 0 4
def Op.normTap (o : Op) : Bool := bitOf (o.field 43 1) 4
def Op.movStride (o : Op) : Nat := o.field 44 4
def Op.statStride (o : Op) : Nat := o.field 48 4
def Op.outStride (o : Op) : Nat := o.field 52 4
def Op.layer (o : Op) : Nat := bitsOf (o.field 56 2) 0 12

/-- The encoding of an OUT_TYPE. -/
def outFmt (ty : Nat) : FloatFmt := if ty = 0 then fp32 else if ty = 1 then bf16 else fp16

/-- The bytes of an output element. -/
def outSize (ty : Nat) : Nat := if ty = 0 then 4 else 2

/-- The operand pairs of R171. -/
def pairOk (a b : Nat) : Bool :=
  decide (3 ≤ a ∧ a ≤ 7 ∧ 3 ≤ b ∧ b ≤ 7) || (a == 8 && b == 8) || (decide (1 ≤ a ∧ a ≤ 2) && decide (1 ≤ b ∧ b ≤ 2))

/-- The stationary K per load (Table ARR-1); the loads of MMA.D cover 64 elements each (R248). -/
def Op.kLoad (o : Op) (mov stat : Nat) : Nat := if mov = 7 ∧ stat = 7 ∧ o.code ≠ 4 then 128 else 64

/-! ## The window block (Table VEC-5) -/

/-- Bytes `off` to `off + n − 1` of the window block of an operation. -/
def State.win (s : State) (t : Nat) (o : Op) (off n : Nat) : Nat := s.padNum t (o.movAddr + off) n

/-- A signed 16-bit field of the window block. -/
def State.winS (s : State) (t : Nat) (o : Op) (off : Nat) : Int := signedOf 16 (s.win t o off 2)

/-- One axis of the walk (0 x, 1 y, 2 t): the image and band extents, the band origin, the output origin and extent, the filter,
stride, dilation and padding, and the band's byte stride. -/
structure Axis where
  img : Nat
  band0 : Int
  band : Nat
  out0 : Int
  out : Nat
  f : Nat
  s : Nat
  d : Nat
  pad : Nat
  stride : Nat

def State.axis (s : State) (t : Nat) (o : Op) (i : Nat) : Axis :=
  { img := s.win t o (20 + 2 * i) 2, band0 := s.winS t o (28 + 2 * i), band := s.win t o (34 + 2 * i) 2,
    out0 := s.winS t o (40 + 2 * i), out := s.win t o (46 + 2 * i) 2, f := s.win t o (52 + i) 1, s := s.win t o (55 + i) 1,
    d := s.win t o (58 + i) 1, pad := s.win t o (61 + i) 1, stride := s.win t o (4 + 4 * i) 4 }

/-- Whether output position `i` of an axis lies in the image (R245). -/
def Axis.rowIn (a : Axis) (i : Nat) : Bool := decide (0 ≤ a.out0 + i ∧ a.out0 + i < a.img)

/-- The image coordinate that tap `f` of output position `i` reads (R245). -/
def Axis.coord (a : Axis) (i f : Nat) : Int := (a.out0 + i) * a.s + f * a.d - a.pad

/-- Whether a coordinate lies in the image, and in the band. -/
def Axis.inImage (a : Axis) (c : Int) : Bool := decide (0 ≤ c ∧ c < a.img)
def Axis.inBand (a : Axis) (c : Int) : Bool := decide (a.band0 ≤ c ∧ c < a.band0 + a.band)

/-- The in-image coordinates of an axis that any tap reads (R246), those of output positions outside the image too. -/
def Axis.reads (a : Axis) : List Int :=
  (List.range a.out).flatMap (fun i => ((List.range a.f).map (a.coord i)).filter a.inImage)

/-- The own halo of an operation along an axis (R249). -/
def Axis.halo (a : Axis) : Nat := ((a.f - 1) * a.d + 1) / 2

/-- Whether filter, stride, dilation and padding lie in their ranges (Table VEC-5). -/
def Axis.rangeOk (a : Axis) (fmax : Nat) : Bool :=
  decide (1 ≤ a.f ∧ a.f ≤ fmax ∧ 1 ≤ a.s ∧ a.s ≤ 4 ∧ 1 ≤ a.d ∧ a.d ≤ 4 ∧ a.pad ≤ (a.f - 1) * a.d)

/-- The fields of the window block that belong to no axis. -/
def State.winIn (s : State) (t : Nat) (o : Op) : Nat := s.win t o 0 4
def State.winCin (s : State) (t : Nat) (o : Op) : Nat := s.win t o 16 2
def State.winCbase (s : State) (t : Nat) (o : Op) : Nat := s.win t o 18 2
def State.winHalo (s : State) (t : Nat) (o : Op) : Nat := s.win t o 64 1
def State.winFuse (s : State) (t : Nat) (o : Op) : Nat := s.win t o 65 1
def State.winGin (s : State) (t : Nat) (o : Op) : Nat := s.win t o 66 2
def State.winGout (s : State) (t : Nat) (o : Op) : Nat := s.win t o 68 2
def State.winArgmax (s : State) (t : Nat) (o : Op) : Nat := s.win t o 72 4
def State.winNbase (s : State) (t : Nat) (o : Op) : Nat := s.win t o 76 2

/-- The taps of a filter, and KB of R248. -/
def State.winTaps (s : State) (t : Nat) (o : Op) : Nat := (s.axis t o 2).f * (s.axis t o 1).f * (s.axis t o 0).f
def State.winKb (s : State) (t : Nat) (o : Op) : Nat := s.winTaps t o * s.winGin t o

/-- The groups of a diagonal load (R248). -/
def State.winGroups (s : State) (t : Nat) (o : Op) : Nat := if s.winKb t o ≤ 64 then o.n / max 1 (s.winGout t o) else 1

/-- The pixel that tap `q` (in the order ft, fh, fw, fw fastest) of output row `m` reads: none where the pixel lies outside the image
(R245). -/
def State.winPixel (s : State) (t : Nat) (o : Op) (m q : Nat) : Option Int :=
  let x := s.axis t o 0
  let y := s.axis t o 1
  let z := s.axis t o 2
  let ix := m % max 1 x.out
  let iy := m / max 1 x.out % max 1 y.out
  let iz := m / max 1 (x.out * y.out)
  let cx := x.coord ix (q % max 1 x.f)
  let cy := y.coord iy (q / max 1 x.f % max 1 y.f)
  let cz := z.coord iz (q / max 1 (x.f * y.f))
  if x.inImage cx && y.inImage cy && z.inImage cz then
    some (s.winIn t o + (cx - x.band0) * x.stride + (cy - y.band0) * y.stride + (cz - z.band0) * z.stride)
  else none

/-- Whether output row `m` lies in the image (R245). -/
def State.winRowIn (s : State) (t : Nat) (o : Op) (m : Nat) : Bool :=
  let x := s.axis t o 0
  let y := s.axis t o 1
  let z := s.axis t o 2
  x.rowIn (m % max 1 x.out) && y.rowIn (m / max 1 x.out % max 1 y.out) && z.rowIn (m / max 1 (x.out * y.out))

/-! ## Checks (Table ARR-6, R246) -/

/-- Whether an operation's moving rows come from the window walker. -/
def Op.windowed (o : Op) : Bool := o.code == 3 || o.code == 4

/-- Whether the reserved fields of an array descriptor are zero. -/
def Op.arrayReserved (o : Op) : Bool :=
  o.reservedOk [(8, 50)] && !(bitOf (o.field 40 1) 7) && bitsOf (o.field 41 1) 6 2 == 0 && bitsOf (o.field 42 1) 6 2 == 0 &&
    bitsOf (o.field 43 1) 5 3 == 0 && bitsOf (o.field 56 2) 12 4 == 0 && (!o.windowed || o.movStride == 0)

/-- The reserved bytes of the window block (Table VEC-5), and the group fields that MMA.W does not use. -/
def State.winReserved (s : State) (t : Nat) (o : Op) : Bool :=
  s.win t o 26 2 == 0 && s.win t o 70 2 == 0 && s.win t o 78 50 == 0 && (o.code == 4 || s.win t o 66 4 == 0)

/-- The channels that MMA.D reads of each pixel, in every output row and tap: all in one 64-byte line (R248). -/
def State.winLineOk (s : State) (t : Nat) (o : Op) (bits : Nat) : Bool :=
  let c := s.winCbase t o
  let n := s.winGroups t o * s.winGin t o
  let pixels := (List.range o.m).flatMap (fun m => (List.range (s.winTaps t o)).filterMap (s.winPixel t o m))
  pixels.all (fun (a : Int) => (a + (c * bits / 8 : Nat)) / 64 == (a + (((c + n) * bits - 1) / 8 : Nat)) / 64)

/-- The shape limits of the walker (R246, R248, R249). -/
def State.winShapeOk (s : State) (t : Nat) (o : Op) (fm : Format) : Bool :=
  let x := s.axis t o 0
  let y := s.axis t o 1
  let h := s.winHalo t o
  x.rangeOk 11 && y.rangeOk 11 && (s.axis t o 2).rangeOk 7 && decide (h ≤ 32) && decide (s.winFuse t o ≤ 3) &&
    decide (h + x.halo ≤ 32) && decide (h + y.halo ≤ 32) && ((s.winFuse t o == 0) == (h == 0)) && fm.escapes == 0 &&
    (o.code == 3 || (decide (1 ≤ s.winGin t o ∧ s.winGin t o ≤ 64 ∧ 1 ≤ s.winGout t o ∧ s.winGout t o ≤ 64) &&
      s.winLineOk t o (elemBits fm.ty)))

/-- Whether M, K and N agree with the window block (R245, R248). -/
def State.winAgrees (s : State) (t : Nat) (o : Op) : Bool :=
  let x := s.axis t o 0
  let y := s.axis t o 1
  let z := s.axis t o 2
  let k := o.k64 * 64
  let kb := s.winKb t o
  decide (o.m = x.out * y.out * z.out) && x.stride % 64 == 0 && !o.turned &&
    (if o.code = 3 then s.winCin t o % 64 == 0 && k == s.winTaps t o * s.winCin t o
     else if kb ≤ 64 then
       o.n % s.winGout t o == 0 && decide (s.winGroups t o * kb ≤ 64) && o.k64 == 1
     else o.n == s.winGout t o && o.k64 == (kb + 63) / 64)

/-- Whether every in-image pixel that a tap reads lies in the band (R246). -/
def State.winInBand (s : State) (t : Nat) (o : Op) : Bool :=
  let as := [s.axis t o 0, s.axis t o 1, s.axis t o 2]
  as.any (fun a => a.reads.isEmpty) || as.all (fun a => a.reads.all a.inBand)

/-- The least and greatest of a list of integers. -/
def leastOf (xs : List Int) : Int := xs.foldl min (xs.headD 0)
def greatestOf (xs : List Int) : Int := xs.foldl max (xs.headD 0)

/-- The bytes of the band that the walker reads, as a span. -/
def State.winSpan (s : State) (t : Nat) (o : Op) (bits : Nat) : Int × Int :=
  let as := [s.axis t o 0, s.axis t o 1, s.axis t o 2]
  let at' (pick : List Int → Int) : Int := as.foldl (fun v a => v + (pick a.reads - a.band0) * a.stride) (s.winIn t o)
  let c := s.winCbase t o
  let n := if o.code = 3 then s.winCin t o else s.winGroups t o * s.winGin t o
  (at' leastOf + (c * bits / 8 : Nat), at' greatestOf + (rowBytes bits (c + n) : Nat))

/-- The last byte of the scratchpad (R144). -/
def padEnd : Nat := 0x30_0000

/-- Check 9 of Table ARR-6: alignments, ranges and overlaps. -/
def State.arrayPlaceOk (s : State) (t : Nat) (o : Op) (fm fs : Format) : Bool :=
  let k := o.k64 * 64
  let osz := outSize o.outType
  let mb := elemBits fm.ty
  let sb := elemBits fs.ty
  let mov := if o.windowed then (o.movAddr, o.movAddr + 128)
    else if o.turned then spanOf o.movAddr k o.movStride (rowBytes mb o.m)
    else spanOf o.movAddr o.m o.movStride (rowBytes mb k)
  let stat := if o.code = 2 then spanOf o.statAddr o.n o.statStride (rowBytes sb k)
    else spanOf o.statAddr (if o.code = 4 then s.winKb t o else k) o.statStride (rowBytes sb o.n)
  let out := spanOf o.outAddr o.m o.outStride (o.n * osz)
  let acc := spanOf o.accAddr o.m o.outStride (o.n * 4)
  let ins := [mov.2, stat.2, out.2] ++ (if o.accIn then [acc.2] else []) ++
    (if fm.mode = 0 then [] else [o.movScale + (if o.windowed then 1 else o.m)]) ++
    (if fs.mode = 0 then [] else [o.statScale + o.n]) ++
    (if fm.escapes = 0 then [] else [o.escAddr + o.m * o.k64 * fm.escapes * 4])
  let band := s.winSpan t o mb
  decide (1 ≤ o.k64 ∧ o.k64 ≤ 1024 ∧ 1 ≤ o.n) && o.movAddr % 64 == 0 && o.statAddr % 64 == 0 && o.outAddr % 64 == 0 &&
    (!o.accIn || o.accAddr % 64 == 0) && o.movStride % 64 == 0 && o.statStride % 64 == 0 && o.outStride % 64 == 0 &&
    (fm.escapes == 0 || o.escAddr % 4 == 0) && ins.all (fun e => decide (e ≤ padEnd)) &&
    (!o.accIn || acc == out || apart acc out) && apart out mov && apart out stat && decide (o.n * osz ≤ o.outStride) &&
    (!o.windowed || (s.winAgrees t o &&
      ((s.axis t o 0).reads.isEmpty || (s.axis t o 1).reads.isEmpty || (s.axis t o 2).reads.isEmpty ||
        (decide (0 ≤ band.1 ∧ band.2 ≤ padEnd) && decide ((out.2 : Int) ≤ band.1 ∨ band.2 ≤ out.1))) &&
      (s.winArgmax t o == 0 || (s.winArgmax t o % 8 == 0 && decide (s.winArgmax t o + 8 * o.m ≤ padEnd)))))

/-- The scale modes that the paths need (Table NUM-2); unscaled operands are not checked. -/
def scaleAxisOk (o : Op) (fm fs : Format) : Bool :=
  (fm.mode == 0 || fm.mode == (if o.turned && !o.windowed then 2 else 1)) && (fs.mode == 0 || fs.mode == (if o.code = 2 then 1 else 2))

/-- The status of an array descriptor's first failing check (Table ARR-6, R246), none when it passes. -/
def State.arrayFault (s : State) (t : Nat) (o : Op) : Option Nat :=
  let block := o.movAddr % 64 == 0 && decide (o.movAddr + 128 ≤ padEnd)
  let width := if o.engineCode = 3 then max (s.effWidth t 1) (s.effWidth t 2) else s.effWidth t o.engineCode
  if o.code = 0 ∨ o.code > 4 then some ST_OP_DESCRIPTOR
  else if o.engineCode = 0 ∧ (o.code = 2 ∨ (o.code = 1 ∧ o.turned = true)) then some ST_PATH_UNSUPPORTED
  else if !o.arrayReserved || (o.windowed && block && !(s.winReserved t o)) then some ST_REJECTED_RESERVED
  else
    match s.format o.format, s.format o.statFormat with
    | some fm, some fs =>
      if o.outType = 3 then some ST_OP_DESCRIPTOR
      else if !(pairOk fm.ty fs.ty) then some ST_FORMAT_PAIR
      else if fs.escapes ≠ 0 then some ST_ESCAPE_STATIONARY
      else if !(scaleAxisOk o fm fs) then some ST_SCALE_AXIS
      else if (o.kLoad fm.ty fs.ty < o.k64 * 64 ∧ 1024 < o.m) ∨ (o.windowed && block && !(s.winShapeOk t o fm)) = true then
        some ST_SHAPE_UNSUPPORTED
      else if width < o.n then some ST_WIDTH_EXCEEDED
      else if (o.windowed && !block) || !(s.arrayPlaceOk t o fm fs) then some ST_OP_DESCRIPTOR
      else if o.windowed && !(s.winInBand t o) then some ST_BAND_EXCEEDED
      else none
    | _, _ => some ST_OP_DESCRIPTOR

/-! ## Operands -/

/-- The moving element of output row `m` at reduction index `k` (Table ARR-2, R245, R248). -/
def State.movElem (s : State) (t : Nat) (o : Op) (ty m k : Nat) : Num :=
  let bits := elemBits ty
  let pixel (q c : Nat) : Num :=
    match s.winPixel t o m q with
    | some a => elemValue ty (s.elemRaw t bits a.toNat (s.winCbase t o + c))
    | none => .zero
  if o.code = 3 then
    let cin := max 1 (s.winCin t o)
    pixel (k / cin) (k % cin)
  else if o.code = 4 then
    let kb := max 1 (s.winKb t o)
    let gin := max 1 (s.winGin t o)
    if k < s.winGroups t o * kb then pixel (k % kb / gin) (k / kb * gin + k % gin) else .zero
  else if o.turned then elemValue ty (s.elemRaw t bits (o.movAddr + k * o.movStride) m)
  else elemValue ty (s.elemRaw t bits (o.movAddr + m * o.movStride) k)

/-- The bit pattern of the stationary element at reduction index `k` and output column `n` (Table ARR-2, R248). -/
def State.statRaw (s : State) (t : Nat) (o : Op) (ty k n : Nat) : Nat :=
  let bits := elemBits ty
  if o.code = 2 then s.elemRaw t bits (o.statAddr + n * o.statStride) k
  else if o.code = 4 then
    let kb := max 1 (s.winKb t o)
    if kb ≤ 64 then
      if k / kb = n / max 1 (s.winGout t o) then s.elemRaw t bits (o.statAddr + k % kb * o.statStride) n else 0
    else if k < kb then s.elemRaw t bits (o.statAddr + k * o.statStride) n else 0
  else s.elemRaw t bits (o.statAddr + k * o.statStride) n

/-- The loads of an operation. -/
def loadsOf (k kl : Nat) : Nat := (k + kl - 1) / kl

/-- The stationary path of an operation (Table ARR-4): 0 normal (MMA.S and MMA.W), 1 turn-load, 2 diagonal. -/
def Op.path (o : Op) : Nat := if o.code = 2 then 1 else if o.code = 4 then 2 else 0

/-- The tag of an operation's last load (R202): STAT_ADDR, STAT_SCALE, STAT_FORMAT, N, path and K range. -/
def Op.tag (o : Op) (kl : Nat) : List Nat :=
  let k := o.k64 * 64
  [o.statAddr, o.statScale, o.statFormat, o.n, o.path, (loadsOf k kl - 1) * kl, k]

/-- The stationary operand that an operation leaves held: its last load, by column (R202). -/
def State.lastLoad (s : State) (t : Nat) (o : Op) (fs : Format) (kl : Nat) : Held :=
  let k := o.k64 * 64
  let k0 := (loadsOf k kl - 1) * kl
  { tag := o.tag kl,
    elems := (List.range o.n).flatMap (fun n => (fromTo k0 (k - k0)).map (fun k => s.statRaw t o fs.ty k n)),
    scales := (List.range o.n).map (fun n => if fs.mode = 0 then 127 else s.padNum t (o.statScale + n) 1) }

/-- The operand that an operation reuses: KEEP, one load, and the tag that the array holds (R202). -/
def State.reused (s : State) (t : Nat) (o : Op) (kl : Nat) : Option Held :=
  match smapFind (s.tile t).held o.engine with
  | some h => if o.keep && decide (o.k64 * 64 ≤ kl) && h.tag == o.tag kl then some h else none
  | none => none

/-- One valid escape of a moving row (Table NUM-3): slice, INDEX, hi and lo values, and the scale byte. -/
structure Escape where
  slice : Nat
  index : Nat
  hi : Num
  lo : Num
  scale : Nat

/-- An escape put into a list by slice, then INDEX (R183). -/
def insertEscape (e : Escape) : List Escape → List Escape
  | [] => [e]
  | f :: fs => if e.slice < f.slice ∨ (e.slice = f.slice ∧ e.index ≤ f.index) then e :: f :: fs else f :: insertEscape e fs

/-- The valid escapes of moving row `m` of an operation, in the order of R183. -/
def State.escapesOf (s : State) (t : Nat) (o : Op) (fm : Format) (m : Nat) : List Escape :=
  ((List.range (o.k64 * fm.escapes)).filterMap (fun i =>
    let w := s.padNum t (o.escAddr + (m * o.k64 * fm.escapes + i) * 4) 4
    let mask := 2 ^ elemBits fm.ty
    if bitOf w 6 then
      some ⟨i / fm.escapes, bitsOf w 0 6, elemValue fm.ty (bitsOf w 16 8 % mask),
        if fm.precise then elemValue fm.ty (bitsOf w 24 8 % mask) else .zero, bitsOf w 8 8⟩
    else none)).foldr insertEscape []

/-! ## One output (R181 to R187) -/

/-- The groups of 16 products from `k0` on added to an accumulator (R182). -/
def addGroups (mov stat : Nat → Num) (acc : Num) (k0 : Nat) : Nat → Num
  | 0 => acc
  | n + 1 => addGroups mov stat (groupAdd acc ((fromTo k0 16).map (fun k => product (mov k) (stat k)))) (k0 + 16) n

/-- One escape contribution added (R183): hi, then lo of a PRECISE format. -/
def addEscape (fm : Format) (esRow : Int) (w : Num) (acc : Num) (e : Escape) : Num :=
  let own := (e.scale : Int) - 127
  let put (acc : Num) (p : Bool × Nat × Int) (sh : Int) : Num :=
    accAdd acc (if p.1 then -(p.2.1 : Int) else p.2.1) (p.2.2 + sh)
  let acc := put acc (product e.hi w) (own - esRow)
  if fm.precise then put acc (product e.lo w) (own - loShift fm.ty - esRow) else acc

/-- One load added (R182, R183): its groups, then its escapes. -/
def addLoad (fm : Format) (esRow : Int) (mov stat : Nat → Num) (escs : List Escape) (k0 k1 : Nat) (acc : Num) : Num :=
  (escs.filter (fun e => decide (k0 ≤ 64 * e.slice ∧ 64 * e.slice < k1))).foldl
    (fun acc e => addEscape fm esRow (stat (64 * e.slice + e.index)) acc e) (addGroups mov stat acc k0 ((k1 - k0) / 16))

/-- Everything an array reads for one operation: sizes, the operands and scales by index, the start values and the row escapes. -/
structure Work where
  k : Nat
  kl : Nat
  fm : Format
  fs : Format
  out : FloatFmt
  mov : Nat → Nat → Num
  stat : Nat → Nat → Num
  sa : Nat → Nat
  sw : Nat → Nat
  start : Nat → Nat → Num
  escs : Nat → List Escape
  rowIn : Nat → Bool

/-- Whether moving row `m` holds a NaN element, scale or escape (R184). -/
def Work.rowNan (w : Work) (m : Nat) : Bool :=
  w.sa m == 255 || (List.range w.k).any (fun k => (w.mov m k).isNan) ||
    (w.escs m).any (fun e => e.scale == 255 || e.hi.isNan || e.lo.isNan)

/-- Whether output column `n` holds a NaN element or scale (R184). -/
def Work.colNan (w : Work) (n : Nat) : Bool := w.sw n == 255 || (List.range w.k).any (fun k => (w.stat k n).isNan)

/-- The accumulator of output (m, n) at the end of the last load. -/
def Work.acc (w : Work) (m n : Nat) : Num :=
  (List.range (loadsOf w.k w.kl)).foldl (fun acc l =>
    addLoad w.fm ((w.sa m : Int) - 127) (w.mov m) (fun k => w.stat k n) (w.escs m) (l * w.kl) (min w.k ((l + 1) * w.kl)) acc)
    (w.start m n)

/-- What the foot writes for output (m, n) (R184 to R187, R245), and the counter it raises. -/
def Work.output (w : Work) (nanRow nanCol : Bool) (m n : Nat) : Nat × Nat :=
  if w.rowIn m = false then (0, 0)
  else if nanRow || nanCol then foot .nan 0 0 w.out w.fs.ieee
  else foot (w.acc m n) (w.sa m) (w.sw n) w.out w.fs.ieee

/-- The outputs of one row. -/
def Work.row (w : Work) (nanCols : List Bool) (m : Nat) : List (Nat × Nat) :=
  let nr := w.rowNan m
  (List.range nanCols.length).map (fun n => w.output nr (nanCols.getD n false) m n)

/-- The work of an operation. -/
def State.work (s : State) (t : Nat) (o : Op) (fm fs : Format) : Work :=
  let k := o.k64 * 64
  let kl := o.kLoad fm.ty fs.ty
  let kept := s.reused t o kl
  { k := k, kl := kl, fm := fm, fs := fs, out := outFmt o.outType,
    mov := s.movElem t o fm.ty,
    stat := fun i n =>
      match kept with
      | some h => elemValue fs.ty (h.elems.getD (n * k + i) 0)
      | none => elemValue fs.ty (s.statRaw t o fs.ty i n),
    sa := fun m => if fm.mode = 0 then 127 else s.padNum t (o.movScale + (if o.windowed then 0 else m)) 1,
    sw := fun n =>
      match kept with
      | some h => h.scales.getD n 127
      | none => if fs.mode = 0 then 127 else s.padNum t (o.statScale + n) 1,
    start := fun m n => if o.accIn then fp32.decode (s.padNum t (o.accAddr + m * o.outStride + 4 * n) 4) else .zero,
    escs := fun m => if fm.escapes = 0 ∨ o.windowed then [] else s.escapesOf t o fm m,
    rowIn := fun m => if o.windowed then s.winRowIn t o m else true }

/-! ## Timing counters (R193, R204, R247) -/

/-- The row time of an operand in clk (R193). -/
def rowTime (ty : Nat) (turned : Bool) : Nat := if ty = 1 ∨ ty = 2 ∨ (turned ∧ ty = 7) then 2 else 1

/-- The row time of output row `m` of MMA.D (R247). -/
def State.winRowTime (s : State) (t : Nat) (o : Op) (ty m : Nat) : Nat :=
  let x := s.axis t o 0
  let next := x.s == 1 && m % max 1 x.out != 0
  let lines := ((List.range (s.winTaps t o)).filter (fun q =>
    (s.winPixel t o m q).isSome && (!next || q % max 1 x.f == x.f - 1))).length
  max (rowTime ty false) ((lines + 3) / 4)

/-- The clk that an operation streams moving rows (R204). -/
def State.rowClk (s : State) (t : Nat) (o : Op) (fm : Format) (loads : Nat) : Nat :=
  if o.code = 4 then loads * ((List.range o.m).map (s.winRowTime t o fm.ty)).sum
  else loads * o.m * rowTime fm.ty o.turned

/-! ## Running an operation -/

/-- The largest output of a row as an ARGREC (R251): the value as FP32, and the column; the first NaN wins. -/
def argRecord (out : FloatFmt) (base : Nat) : Nat → List Nat → Option (Num × Nat) → Nat × Nat
  | _, [], none => (fp32.nanBits, 0)
  | _, [], some (v, n) => (fp32.encode v, n)
  | n, b :: bs, best =>
    match out.decode b, best with
    | .nan, _ => (fp32.nanBits, base + n)
    | v, none => argRecord out base (n + 1) bs (some (v, base + n))
    | v, some (u, j) => argRecord out base (n + 1) bs (some (if u.lt v then (v, base + n) else (u, j)))

/-- One output row written, with its counts and its argmax record. -/
def State.putRow (s : State) (t : Nat) (o : Op) (out : FloatFmt) (argmax nbase m : Nat) (row : List (Nat × Nat)) : State :=
  let c := o.arrayCounters
  let n (k : Nat) := (row.filter (fun x => x.2 == k)).length
  let osz := outSize o.outType
  let s := s.padPut t (o.outAddr + m * o.outStride) (row.flatMap (fun x => leBytes osz x.1))
  let s := s.addFld (TIL_NUM_FAULTS_NONFINITE t c) (n 1)
  let s := s.addFld (TIL_NUM_FAULTS_OVERFLOW t c) (n 2)
  let s := s.addFld (TIL_NUM_RANGE_UNDERFLOW t c) (n 3)
  if argmax = 0 then s
  else
    let r := argRecord out nbase 0 (row.map (·.1)) none
    s.padPut t (argmax + 8 * m) (leBytes 4 r.1 ++ leBytes 4 r.2)

/-- The sum of the squares of written outputs in FP64 (R220), and whether a non-finite one was left out. -/
def sumSquares (out : FloatFmt) (bits : List Nat) : Nat × Bool :=
  bits.foldl (fun (acc : Nat × Bool) b =>
    match out.decode b with
    | .fin _ m e => (f64add acc.1 (fp64.encode (fp64.fit (.fin false (m * m) (2 * e)))), acc.2)
    | _ => (acc.1, true)) (0, false)

/-- The partial sums of an operation, row by row: what the foot accumulator holds after its last load. -/
def Work.partials (w : Work) (rows : Nat) (nanCols : List Bool) : List (Nat × Nat) :=
  (List.range rows).flatMap (fun m =>
    let nr := w.rowNan m
    (List.range nanCols.length).map (fun n =>
      (64 * m + n, if nr || nanCols.getD n false then fp32.nanBits else fp32.encode (w.acc m n))))

/-- The foot accumulator of array `a` after an operation (R200): with more than one load it holds the partial sums; a single load
leaves its contents open. -/
def State.setFoot (s : State) (t a : Nat) (held : Bool) (sums : List (Nat × Nat)) : State :=
  let x := s.tile t
  let f := (smapFind x.feet a).getD {}
  let f : Foot := if held then { f with words := sums.foldl (fun m e => smapIns m e.1 e.2) f.words } else { seed := s.fresh }
  { s.setTile t { x with feet := smapIns x.feet a f } with fresh := s.fresh + 1 }

/-- The effects of an array operation that passed its checks (R200). -/
def State.runArray (s : State) (t i : Nat) (o : Op) (fm fs : Format) : State :=
  let w := s.work t o fm fs
  let a := o.engine
  let loads := loadsOf w.k w.kl
  let hit := (s.reused t o w.kl).isSome
  let nanCols := (List.range o.n).map w.colNan
  let rows := (List.range o.m).map (w.row nanCols)
  let argmax := if o.windowed then s.winArgmax t o else 0
  let nbase := s.winNbase t o
  let passes := ((List.range o.m).map (fun m => (w.escs m).length * (if fm.precise then 2 else 1))).sum
  let clk := s.rowClk t o fm loads
  let held := s.lastLoad t o fs w.kl
  let s := s.setFoot t a (1 < loads) (if 1 < loads then w.partials o.m nanCols else [])
  let s := (List.range o.m).foldl (fun s m => s.putRow t o w.out argmax nbase m (rows.getD m [])) s
  let s := if hit then s else s.setTile t { s.tile t with held := smapIns (s.tile t).held a held }
  let g := s.setOf t
  let s := (s.addFld (ARR_CNT_ROWS_ROW_CLK t a) clk).count g 2 clk
  let s := if hit then s.addFld (ARR_CNT_ESC_KEEP_HITS t a) 1
    else (s.addFld (ARR_CNT_LOAD_LOAD_CLK t a) (loads * 64 * rowTime fs.ty false)).count g 3 (loads * 64 * rowTime fs.ty false)
  let s := (s.addFld (ARR_CNT_ESC_PASSES t a) passes).count g 5 passes
  let s := if o.normTap then
      let r := sumSquares w.out (rows.flatMap (fun r => r.map (·.1)))
      s.tap t o.layer 1 r.1 r.2
    else s
  s.actedWith t i 0

/-- An array operation (R197 to R203): a failing check ends in a descriptor fault, FROZEN completes with no effect, and a tapped
operation waits for its turn (R221). -/
def State.arrayOp (s : State) (t i op : Nat) : State :=
  match s.held t i [0, 1, 2, 3] op with
  | none => s
  | some o =>
    match s.arrayFault t o with
    | some st => s.opFault t i st
    | none =>
      if o.frozen then s.actedWith t i 0
      else if s.tapTurn t o = false then s
      else
        match s.format o.format, s.format o.statFormat with
        | some fm, some fs => s.runArray t i o fm fs
        | _, _ => s

/-- MMA.S (OP 0x01): streamed (R197, R200). -/
def execMmaS (t : Fin 384) (i : Fin 64) (s : State) : Out := .next (s.arrayOp t.val i.val 1)
/-- MMA.T (OP 0x02): turn-loaded (R195, R197). -/
def execMmaT (t : Fin 384) (i : Fin 64) (s : State) : Out := .next (s.arrayOp t.val i.val 2)
/-- MMA.W (OP 0x03): windowed (R245 to R247). -/
def execMmaW (t : Fin 384) (i : Fin 64) (s : State) : Out := .next (s.arrayOp t.val i.val 3)
/-- MMA.D (OP 0x04): diagonal (R247, R248). -/
def execMmaD (t : Fin 384) (i : Fin 64) (s : State) : Out := .next (s.arrayOp t.val i.val 4)

/-! ## The turn unit (R196) -/

/-- The element width of a TURN. -/
def turnBits (w : Nat) : Nat := match w with | 0 => 4 | 1 => 6 | 2 => 8 | 3 => 16 | _ => 32

/-- The status of a TURN descriptor's fault (Table ARR-3). -/
def Op.turnFault (o : Op) : Option Nat :=
  let rows := o.field 16 2
  let cols := o.field 18 2
  let bits := turnBits (o.field 20 1)
  let src := spanOf (o.field 8 4) rows (o.field 24 4) (rowBytes bits cols)
  let dst := spanOf (o.field 12 4) cols (o.field 28 4) (rowBytes bits rows)
  if o.code ≠ 1 then some ST_OP_DESCRIPTOR
  else if !(o.reservedOk [(8, 13), (24, 8)]) then some ST_REJECTED_RESERVED
  else if rows < 1 ∨ rows > 4096 ∨ cols < 1 ∨ cols > 4096 ∨ o.field 20 1 > 4 ∨ o.field 8 4 % 64 ≠ 0 ∨ o.field 12 4 % 64 ≠ 0 ∨
      o.field 24 4 % 64 ≠ 0 ∨ o.field 28 4 % 64 ≠ 0 ∨ src.2 > padEnd ∨ dst.2 > padEnd ∨ apart src dst = false then
    some ST_OP_DESCRIPTOR
  else none

/-- TURN (ENGINE 0x4, OP 0x01): destination row c is source column c (R196). -/
def execTurn (t : Fin 384) (i : Fin 64) (s : State) : Out :=
  match s.held t.val i.val [4] 1 with
  | none => .next s
  | some o =>
    match o.turnFault with
    | some st => .next (s.opFault t.val i.val st)
    | none =>
      let bits := turnBits (o.field 20 1)
      let col (c : Nat) := packRow bits ((List.range (o.field 16 2)).map (fun r =>
        s.elemRaw t.val bits (o.field 8 4 + r * o.field 24 4) c))
      let s' := (List.range (o.field 18 2)).foldl (fun u c => u.padPut t.val (o.field 12 4 + c * o.field 28 4) (col c)) s
      .next (s'.actedWith t.val i.val 0)

end Sys2Proof.Machine
end

