-- ==== Sys2Proof/Machine/Functions.lean ====
section
/-!
DEFINITION. The transcendental functions of the vector engine (R236): each is computed to far more than FP32 precision in 192-bit
fixed point, and the result is one of the numbers that the error bound admits, picked by an opaque constant.
-/
namespace Sys2Proof.Machine

/-- Fixed point: a value v stands for v · 2^−192. -/
def fixBits : Nat := 192
def fixOne : Int := 2 ^ 192
/-- ln 2 and π / 2 in fixed point. -/
def fixLn2 : Int := 0xB17217F7D1CF79ABC9E3B39803F2F6AF40F343267298B62D
def fixHalfPi : Int := 0x1921FB54442D18469898CC51701B839A252049C1114CF98E8

/-- A finite number in fixed point. -/
def fixOf (neg : Bool) (m : Nat) (e : Int) : Int :=
  let v : Nat := m * pow2 (e + fixBits) / pow2 (-(e + fixBits))
  if neg then -(v : Int) else v

def fixMul (a b : Int) : Int := a * b / fixOne
def fixDiv (a b : Int) : Int := a * fixOne / b

/-- The fixed-point value as a number. -/
def fixNum (v : Int) : Num := .fin (decide (v < 0)) v.natAbs (-(fixBits : Int))

/-- Σ over i of r^i / i!, from term `i` with value `term` on, `n` terms. -/
def expTerms : Nat → Int → Int → Nat → Int
  | 0, _, _, _ => 0
  | n + 1, r, term, i => term + expTerms n r (fixMul term r / (i + 1)) (i + 1)

/-- e^x for a fixed-point x, as a significand and exponent. -/
def expFix (x : Int) : Nat × Int :=
  let n := (2 * x + fixLn2) / (2 * fixLn2)
  ((expTerms 50 (x - n * fixLn2) fixOne 0).toNat, n - fixBits)

/-- Σ over odd i of z^i / i. -/
def atanhTerms : Nat → Int → Int → Nat → Int
  | 0, _, _, _ => 0
  | n + 1, z2, p, i => p / i + atanhTerms n z2 (fixMul p z2) (i + 2)

/-- ln (m · 2^e) in fixed point, m > 0. -/
def lnFix (m : Nat) (e : Int) : Int :=
  let l := Nat.log2 m
  let y := fixOf false m (-(l : Int))
  let z := fixDiv (y - fixOne) (y + fixOne)
  2 * atanhTerms 70 (fixMul z z) z 1 + ((l : Int) + e) * fixLn2

/-- Σ of the alternating series of sine (i = 1) or cosine (i = 0) from a term on. -/
def trigTerms : Nat → Int → Int → Nat → Int
  | 0, _, _, _ => 0
  | n + 1, r2, term, i => term + trigTerms n r2 (-(fixMul term r2) / ((i + 1) * (i + 2))) (i + 2)

/-- sin (x + quarter · π/2) in fixed point. -/
def sinFix (x : Int) (quarter : Int) : Int :=
  let n := (2 * x + fixHalfPi) / (2 * fixHalfPi)
  let r := x - n * fixHalfPi
  let r2 := fixMul r r
  let k := (n + quarter) % 4
  let v := if k % 2 = 0 then trigTerms 30 r2 r 1 else trigTerms 30 r2 fixOne 0
  if k < 2 then v else -v

/-- 1 / (1 + e^−x) for a fixed-point x: e^x / (1 + e^x). -/
def sigmoidFix (x : Int) : Num :=
  let (t, q) := expFix x
  (Num.fin false t q).div ((Num.fin false t q).add (.fin false 1 0))

/-- tanh x for a fixed-point x: (1 − e^−2|x|) / (1 + e^−2|x|), with the sign of x. -/
def tanhFix (x : Int) : Num :=
  let (t, q) := expFix (-2 * x.natAbs)
  let y := ((Num.fin false 1 0).add (.fin true t q)).div ((Num.fin false 1 0).add (.fin false t q))
  if x < 0 then y.neg else y

/-- A positive number far below every FP32 value, for a result whose exact value is not zero. -/
def tiny (neg : Bool) : Num := .fin neg 1 (-1024)

/-- The bound beyond which a function of |x| has reached its limit in FP32. -/
def fixLimit : Int := 256 * fixOne

/-- 0.797885 (x + 0.044715 x³) in fixed point. -/
def geluInner (x : Int) : Int := (x + fixMul (fixMul x x) x * 44715 / 1000000) * 797885 / 1000000

/-- The limits of function `op` at ±∞ (Table VEC-3). -/
def limitAt (op : Nat) (neg : Bool) : Num :=
  let one := Num.fin false 1 0
  match op with
  | 0x10 => if neg then .nan else .inf false
  | 0x11 => if neg then .nan else .zero
  | 0x12 => .fin neg 0 0
  | 0x13 => if neg then .zero else .inf false
  | 0x14 => if neg then .nan else .inf false
  | 0x15 => .fin neg 1 0
  | 0x16 => if neg then .zero else one
  | 0x17 => if neg then .zero else .inf false
  | _ => if neg then .zero else .inf false

/-- The value of function `op` at a finite number, to far more than FP32 precision; beyond ±256 a value that is not zero is far below,
and one without bound far above, every FP32 value. -/
def fnValue (op : Nat) (neg : Bool) (m : Nat) (e : Int) : Num :=
  let a := Num.fin neg m e
  let big := magGt m e 1 8
  let x := fixOf neg m e
  match op with
  | 0x10 => a.sqrt
  | 0x11 => (Num.fin false 1 0).div a.sqrt
  | 0x12 => (Num.fin false 1 0).div a
  | 0x13 => if big then (if neg then tiny false else .fin false 1 1024) else let (t, q) := expFix x; .fin false t q
  | 0x14 => if m = 0 then .inf true else if neg then .nan else fixNum (lnFix m e)
  | 0x15 => if big then .fin neg 1 0 else tanhFix x
  | 0x16 => if big then (if neg then tiny false else .fin false 1 0) else sigmoidFix x
  | 0x17 => if big then (if neg then tiny true else a) else a.mul (sigmoidFix x)
  | 0x18 => if big then (if neg then tiny true else a) else a.mul (sigmoidFix (2 * geluInner x))
  | 0x19 => fixNum (sinFix x 0)
  | _ => fixNum (sinFix x 1)

/-- The error bound of function `op` in ulp of the FP32 result (Table VEC-3); 0: correctly rounded. -/
def fnBound (op : Nat) (narrow : Bool) : Nat :=
  if op = 0x10 then 0
  else if narrow then 1
  else match op with | 0x11 => 1 | 0x12 => 1 | 0x13 => 2 | 0x14 => 2 | 0x15 => 3 | 0x16 => 3 | 0x17 => 4 | 0x18 => 4 | _ => 2

/-- A number within `b` ulp of `v` at the encoding's precision, the choice among them given by `pick`; the ulp of zero is that of the
smallest subnormal. -/
def within (f : FloatFmt) (b pick : Nat) : Num → Num
  | .fin neg m e =>
    let q := if m = 0 then f.qmin else ulpOf f.mbits f.qmin m e
    let k := m * pow2 (e - q) / pow2 (q - e)
    let exact := m * pow2 (e - q) % pow2 (q - e) == 0
    let d := pick % (2 * b + 1)
    let r : Int := if d = 0 ∧ exact = false then k else (k : Int) - b + d
    .fin (neg != decide (r < 0)) r.natAbs q
  | x => x

/-- 65,536 is the largest magnitude at which sin and cos are defined (Table VEC-3). -/
def trigOpen (op m : Nat) (e : Int) : Bool := decide (op = 0x19 ∨ op = 0x1A) && magGt m e 1 16

/-- An unpredictable number within [−1, 1]. -/
def anyUnit (bits : BitVec 32) : Num :=
  match fp32.decode bits.toNat with
  | .fin neg m e => if magGt m e 1 0 then .fin neg 1 0 else .fin neg m e
  | _ => .zero

/-- Function `op` of an FP32 number, in FP32 computation or (narrow) BF16 computation. -/
def vecFn (op : Nat) (narrow : Bool) (a : Num) : Num :=
  let raw := BitVec.ofNat 32 (fp32.encode a)
  match a with
  | .nan => .nan
  | .inf neg => if op = 0x19 ∨ op = 0x1A then anyUnit (Config.vecFree op (raw.setWidth 64) 0 0) else limitAt op neg
  | .fin neg m e =>
    if trigOpen op m e then anyUnit (Config.vecFree op (raw.setWidth 64) 0 0)
    else
      let f := if narrow then bf16 else fp32
      match fnBound op narrow with
      | 0 => fnValue op neg m e
      | b => within f b (Config.vecPick op narrow raw) (fnValue op neg m e)

end Sys2Proof.Machine
end

