-- ==== Sys2Proof/Machine/Vector.lean ====
section
/-!
DEFINITION. The vector engine: streams, element-wise operations, reductions and summaries (chapter 11, R232 to R241).
-/
namespace Sys2Proof.Machine

/-! ## The descriptor (Table VEC-1) -/

/-- One stream: start, row stride, element type, and whether each row is one element repeated. -/
structure Stream where
  addr : Nat
  stride : Nat
  ty : Nat
  elem0 : Bool
deriving DecidableEq, Repr

/-- Stream 0 A, 1 B, 2 C, 3 D of a vector operation. -/
def Op.stream (o : Op) (i : Nat) : Stream :=
  { addr := o.field (8 + 4 * i) 4, stride := o.field (24 + 4 * i) 4, ty := bitsOf (o.field (44 + i / 2) 1) (4 * (i % 2)) 4,
    elem0 := decide (i < 3) && bitOf (o.field 46 1) i }

def Op.cols (o : Op) : Nat := o.field 40 2 + 1
def Op.rows (o : Op) : Nat := o.field 42 2 + 1
def Op.noOut (o : Op) : Bool := bitOf (o.field 46 1) 3
def Op.narrow (o : Op) : Bool := bitOf (o.field 46 1) 4
def Op.saturate (o : Op) : Bool := bitOf (o.field 46 1) 5
def Op.reduce (o : Op) : Nat := bitsOf (o.field 47 1) 0 3
def Op.rowsScope (o : Op) : Bool := bitOf (o.field 47 1) 3
def Op.sumReg (o : Op) : Nat := bitsOf (o.field 47 1) 4 4
def Op.subOp (o : Op) : Nat := o.field 48 1
def Op.vecCounters (o : Op) : Nat := bitsOf (o.field 49 1) 0 4
def Op.genMask (o : Op) : Nat := bitsOf (o.field 49 1) 4 4
def Op.tapLayer (o : Op) : Nat := bitsOf (o.field 50 2) 0 12
def Op.tapKind (o : Op) : Nat := bitsOf (o.field 50 2) 12 2

/-- The bytes of a stream element (Table VEC-2). -/
def tySize (ty : Nat) : Nat := match ty with | 0 => 4 | 1 => 2 | 2 => 2 | 3 => 4 | _ => 8

/-- Whether an operation takes a parameter block at C_ADDR. -/
def Op.hasBlock (o : Op) : Bool := decide (0x20 ≤ o.code ∧ o.code ≤ 0x23)

/-- The input streams that an operation uses (Table VEC-3). -/
def inputsOf (op : Nat) : List Nat :=
  match op with
  | 0x02 => [0, 1] | 0x03 => [0, 1] | 0x04 => [0, 1] | 0x05 => [0, 1, 2] | 0x06 => [0, 1, 2] | 0x07 => [0, 1] | 0x08 => [0, 1]
  | 0x09 => [0, 1] | 0x0B => [0, 1] | 0x0C => [0, 1, 2] | 0x24 => [0, 1] | _ => [0]

/-- Whether an OP of the vector engine with the body of Table VEC-1 is defined. -/
def vecDefined (op : Nat) : Bool :=
  decide (1 ≤ op ∧ op ≤ 0x0C) || decide (0x10 ≤ op ∧ op ≤ 0x1A) || decide (0x20 ≤ op ∧ op ≤ 0x24)

/-- Whether stream type `ty` may stand in an operation (Table VEC-2). -/
def tyOk (op ty : Nat) : Bool :=
  match op with
  | 0x01 => decide (ty ≤ 4)
  | 0x24 => ty == 4
  | 0x02 => decide (ty ≤ 3) | 0x03 => decide (ty ≤ 3) | 0x08 => decide (ty ≤ 3) | 0x09 => decide (ty ≤ 3)
  | 0x0B => decide (ty ≤ 3) | 0x0C => decide (ty ≤ 3)
  | _ => decide (ty ≤ 2)

/-- The bytes of one row of a stream of the scratchpad. -/
def Stream.rowLen (x : Stream) (cols : Nat) : Nat := if x.elem0 then tySize x.ty else cols * tySize x.ty

/-- Whether a stream is aligned and lies in the scratchpad (R233). -/
def Stream.placeOk (x : Stream) (rows cols : Nat) : Bool :=
  x.addr % tySize x.ty == 0 && x.stride % tySize x.ty == 0 && decide (x.addr + (rows - 1) * x.stride + x.rowLen cols ≤ padEnd)

/-- Whether a row of the first set of rows shares a byte with a row of the second (each: start, stride, bytes, rows). -/
def rowsMeet (a : Nat × Nat × Nat × Nat) (b : Nat × Nat × Nat × Nat) : Bool :=
  let (a0, sa, na, ra) := a
  let (b0, sb, nb, rb) := b
  (List.range ra).any (fun r =>
    let x := a0 + r * sa
    let j := if x < b0 + nb ∨ sb = 0 then 0 else (x - b0 - nb) / sb + 1
    decide (j < rb) && decide (b0 + j * sb < x + na) && decide (x < b0 + j * sb + nb))

/-- Where an operation writes D: start, stride, bytes a row, rows; none when it writes no D. -/
def Op.dest (o : Op) (f : Option Format) : Option (Nat × Nat × Nat × Nat) :=
  let d := o.stream 3
  if o.code = 0x21 then none
  else if o.rowsScope ∧ o.reduce ≠ 0 then some (d.addr, 0, o.rows * tySize d.ty, 1)
  else if o.noOut then none
  else if o.code = 0x20 then some (d.addr, d.stride, rowBytes (elemBits (f.map (·.ty) |>.getD 0)) o.cols, o.rows)
  else some (d.addr, d.stride, o.cols * tySize d.ty, o.rows)

/-- The bytes of one row of stream A; DEQUANT reads packed elements. -/
def Op.rowLenA (o : Op) (f : Option Format) : Nat :=
  if o.code = 0x22 then rowBytes (elemBits (f.map (·.ty) |>.getD 0)) o.cols else (o.stream 0).rowLen o.cols

/-- Whether the result types of a reduction and a tap fit (R238, R239, R241). -/
def Op.reduceOk (o : Op) : Bool :=
  decide (o.reduce ≤ 5) && !(o.rowsScope && o.reduce == 0) &&
    !(o.reduce != 0 && (o.code == 0x20 || o.code == 0x21 || o.code == 0x22 || o.code == 0x24 || (o.code == 1 && (o.stream 0).ty == 4))) &&
    (!o.rowsScope || (o.stream 3).ty == (if o.reduce = 4 then 4 else 0)) &&
    (o.tapKind == 0 || (!o.rowsScope && (o.reduce == 5 || (o.tapKind == 3 && o.reduce == 1))))

/-- Whether the types of the streams fit the operation (R232, R234, Table VEC-2). -/
def Op.typesOk (o : Op) : Bool :=
  let d := (o.stream 3).ty
  let writes := !(o.code == 0x20 || o.code == 0x21) && (!o.noOut || o.rowsScope)
  let ins := (inputsOf o.code).map (fun i => (o.stream i).ty)
  [0, 1, 2, 3].all (fun i => decide ((o.stream i).ty ≤ 4)) && (o.code == 0x22 || ins.all (tyOk o.code)) &&
    (!writes || (decide (d ≤ 4) && (o.rowsScope || tyOk o.code d) && (o.code != 0x22 || decide (d ≤ 1)) &&
      (o.code != 1 || o.rowsScope || ((d == 4) == ((o.stream 0).ty == 4))))) &&
    (!o.narrow || (ins.all (· == 1) && (!writes || d == 1)))

/-- The alignment of a DEQUANT's packed rows: the element size, one byte for elements below it. -/
def packedAlign (f : Option Format) : Nat := max 1 (elemBits (f.map (·.ty) |>.getD 0) / 8)

/-- Whether an operation's streams are aligned to their element sizes, the unused ones too (R233): the packed rows of DEQUANT's A and of
QUANT's D have an alignment of their own. -/
def Op.aligned (o : Op) (f : Option Format) : Bool :=
  let unit (i : Nat) : Nat × Nat :=
    if i = 0 ∧ o.code = 0x22 then (packedAlign f, packedAlign f)
    else if i = 3 ∧ o.code = 0x20 then (1, 64)
    else (tySize (o.stream i).ty, tySize (o.stream i).ty)
  [0, 1, 2, 3].all (fun i => (o.stream i).addr % (unit i).1 == 0 && (o.stream i).stride % (unit i).2 == 0)

/-- Whether the streams lie where they may (R233): D in the scratchpad even when nothing is written there, and D_RSTRIDE 0 only with
NO_OUT or ROWS_SCOPE; a D identical to an input in address, stride and type is an in-place operation. -/
def Op.placeOk (o : Op) (f : Option Format) : Bool :=
  let ins := inputsOf o.code
  let d := o.stream 3
  let a := o.stream 0
  let unused := [0, 1, 2].filter (fun i => !(ins.contains i) && !(i == 2 && o.hasBlock))
  let inRows (i : Nat) : Nat × Nat × Nat × Nat :=
    let x := o.stream i
    (x.addr, x.stride, if i = 0 then o.rowLenA f else x.rowLen o.cols, o.rows)
  unused.all (fun i => (o.stream i).addr == 0) && o.aligned f && (o.noOut || o.rowsScope || d.stride != 0) &&
    (o.rowsScope || o.code == 0x20 || decide (d.addr + (o.rows - 1) * d.stride + o.cols * tySize d.ty ≤ padEnd)) &&
    (if o.code = 0x22 then a.addr % packedAlign f == 0 && a.stride % packedAlign f == 0 && decide (a.addr + (o.rows - 1) * a.stride + o.rowLenA f ≤ padEnd)
     else ins.all (fun i => (o.stream i).placeOk o.rows o.cols)) &&
    (!o.hasBlock || ((o.stream 2).addr % 64 == 0 && decide ((o.stream 2).addr + 64 ≤ padEnd))) &&
    (match o.dest f with
     | none => true
     | some (b, st, n, r) =>
       decide (b + (r - 1) * st + n ≤ padEnd) && ins.all (fun i =>
           let x := o.stream i
           (o.code != 0x20 && o.code != 0x22 && x.addr == b && x.stride == d.stride && x.ty == d.ty) ||
             !(rowsMeet (b, st, n, r) (inRows i))))

/-- The status of a vector descriptor's fault, apart from the parameter block (R232 to R241). -/
def State.vecFault (s : State) (o : Op) : Option Nat :=
  let f := if o.hasBlock && o.code != 0x23 then s.format o.format else none
  if !(vecDefined o.code) then some ST_OP_DESCRIPTOR
  else if !(o.reservedOk [(8, 44)]) || bitsOf (o.field 46 1) 6 2 != 0 || bitsOf (o.field 50 2) 14 2 != 0 ||
      (o.hasBlock && ((o.stream 2).stride != 0 || (o.stream 2).ty != 0)) then some ST_REJECTED_RESERVED
  else if o.hasBlock && o.code != 0x23 && f.isNone then some ST_OP_DESCRIPTOR
  else if !o.reduceOk || !o.typesOk || !(o.placeOk f) || (o.code == 0x0B && decide (5 < o.subOp)) then some ST_OP_DESCRIPTOR
  else none

/-! ## Lane values -/

/-- What a lane holds: a number, or a 32-bit integer. -/
inductive Lane where
  | num (x : Num)
  | int (v : Int)
deriving DecidableEq, Repr

/-- The encoding of a float stream type. -/
def tyFmt (ty : Nat) : FloatFmt := if ty = 0 then fp32 else if ty = 1 then bf16 else fp16

/-- Where element (r, c) of a stream lies (R233). -/
def Stream.at (x : Stream) (r c : Nat) : Nat := x.addr + r * x.stride + (if x.elem0 then 0 else c * tySize x.ty)

/-- Element (r, c) of a stream of tile `t`, widened exactly. -/
def State.lane (s : State) (t : Nat) (x : Stream) (r c : Nat) : Lane :=
  let raw := s.padNum t (x.at r c) (tySize x.ty)
  if x.ty = 3 then .int (signedOf 32 raw) else .num ((tyFmt x.ty).decode raw)

/-- A lane as 64 bits, for the results that the spec leaves open. -/
def Lane.bits : Lane → BitVec 64
  | .num x => BitVec.ofNat 64 (fp32.encode (fp32.fit x))
  | .int v => BitVec.ofInt 64 v

/-- An integer wrapped modulo 2^32 (R236). -/
def wrap32 (v : Int) : Lane := .int (signedOf 32 (unsignedOf 32 v))

/-- Whether A relates to B as a CMP predicate asks (Table VEC-3). -/
def cmpHolds (sub : Nat) (lt gt nan : Bool) : Bool :=
  match sub with
  | 0 => !lt && !gt && !nan | 1 => lt || gt || nan | 2 => lt | 3 => !gt && !nan | 4 => gt | _ => !lt && !nan

def lane1 (b : Bool) : Lane := .num (if b then .fin false 1 0 else .zero)

/-- The result of an element-wise operation before its last rounding; none for operands the spec gives no result for (an integer
with a float). -/
def vecResult (op sub : Nat) (narrow : Bool) (a b c : Lane) : Option Lane :=
  match op, a, b, c with
  | 0x01, _, _, _ => some a
  | 0x02, .num x, .num y, _ => some (.num (x.add y))
  | 0x02, .int x, .int y, _ => some (wrap32 (x + y))
  | 0x03, .num x, .num y, _ => some (.num (x.add y.neg))
  | 0x03, .int x, .int y, _ => some (wrap32 (x - y))
  | 0x04, .num x, .num y, _ => some (.num (x.mul y))
  | 0x05, .num x, .num y, .num z => some (.num ((x.mul y).add z))
  | 0x06, .num x, .num y, .num z => some (.num ((fp32.fit (x.mul y)).mul z))
  | 0x07, .num x, .num y, _ => some (.num (x.div y))
  | 0x08, .num x, .num y, _ => some (.num (if x.isNan || y.isNan then .nan else if x.lt y then y else x))
  | 0x08, .int x, .int y, _ => some (.int (max x y))
  | 0x09, .num x, .num y, _ => some (.num (if x.isNan || y.isNan then .nan else if y.lt x then y else x))
  | 0x09, .int x, .int y, _ => some (.int (min x y))
  | 0x0A, .num x, _, _ => some (.num x.abs)
  | 0x0B, .num x, .num y, _ => some (lane1 (cmpHolds sub (x.lt y) (y.lt x) (x.isNan || y.isNan)))
  | 0x0B, .int x, .int y, _ => some (lane1 (cmpHolds sub (decide (x < y)) (decide (y < x)) false))
  | 0x0C, _, _, .num z => some (if z.isZero then b else a)
  | 0x0C, _, _, .int z => some (if z = 0 then b else a)
  | _, .num x, _, _ => if 0x10 ≤ op ∧ op ≤ 0x1A then some (.num (vecFn op narrow x)) else none
  | _, _, _, _ => none

/-- A result rounded to FP32 precision, its exponent unbounded above (R237): what a conversion is tested on. -/
def wide32 : Num → Num
  | .fin neg m e =>
    let q := ulpOf 23 fp32.qmin m e
    .fin neg (rneAt m e q) q
  | x => x

/-- A number written in a float type under R237: its bits, and the counter it raises (0 none, 1 NONFINITE, 2 OVERFLOW,
3 UNDERFLOW). -/
def writeNum (f : FloatFmt) (sat : Bool) (x : Num) : Nat × Nat :=
  match wide32 x, x.isZero with
  | .nan, _ => (f.nanBits, 1)
  | .inf neg, _ => (f.signBit neg + f.infBits, 1)
  | .fin neg m e, zero =>
    let q := (Nat.log2 m : Int) + e - f.mbits
    if m ≠ 0 ∧ magGt (rneAt m e q) q f.maxM f.maxE = true then
      (if sat then (f.signBit neg + f.maxBits, 2) else (f.signBit neg + f.infBits, 1))
    else
      match f.round neg m e with
      | .fin n k r => if k = 0 then (0, if zero then 0 else 3) else (f.signBit n + f.packMag k r, 0)
      | _ => (f.signBit neg + f.infBits, 1)

/-- A number written with one rounding (an integer converted, DEQUANT). -/
def writeOnce (f : FloatFmt) (sat : Bool) (x : Num) : Nat × Nat :=
  match x with
  | .fin neg m e =>
    match writeNum f sat (if f.mbits < 23 then .fin neg (rneAt m e (ulpOf f.mbits f.qmin m e)) (ulpOf f.mbits f.qmin m e) else x) with
    | (b, k) => (b, if b = 0 ∧ m ≠ 0 then 3 else k)
  | _ => writeNum f sat x

/-- The INT32 that the FP32 result `x` rounds to, saturated (R236), and the counter it raises (R237: 2 OVERFLOW for a saturated value,
3 UNDERFLOW for a non-zero one written as zero); a NaN has no integer. -/
def writeInt (x : Num) : Nat × Nat :=
  match fp32.fit x with
  | .fin neg m e =>
    let v := rneInt neg m e
    let w := max (-(2 ^ 31 : Int)) (min (2 ^ 31 - 1) v)
    (unsignedOf 32 w, if w ≠ v then 2 else if v = 0 ∧ x.isZero = false then 3 else 0)
  | .inf neg => (if neg then 2 ^ 31 else 2 ^ 31 - 1, 2)
  | .nan => ((Config.vecFree 1 0 0 0).toNat, 0)

/-- A lane converted to a stream type (R236, R237). -/
def writeLane (ty : Nat) (sat : Bool) (x : Lane) : Nat × Nat :=
  match ty, x with
  | 3, .int v => (unsignedOf 32 v, 0)
  | 3, .num v => writeInt v
  | _, .int v => writeOnce (tyFmt ty) sat (numOfInt v)
  | _, .num v => writeNum (tyFmt ty) sat v

/-- Whether the exact value of function `op` is not zero (R237): a result of it written as zero then counts in UNDERFLOW. -/
def fnNonzero (op : Nat) : Num → Bool
  | .fin neg m e =>
    let one := Num.fin false 1 0
    let x := Num.fin neg m e
    if trigOpen op m e then false
    else if op = 0x14 then x.lt one || one.lt x
    else m != 0 || op == 0x13 || op == 0x16 || op == 0x1A
  | _ => false

/-- The lane that a written bit pattern holds. -/
def readLane (ty raw : Nat) : Lane := if ty = 3 then .int (signedOf 32 raw) else .num ((tyFmt ty).decode raw)

/-- One element's result: what is written, its counter, and the value a reduction takes (R238). -/
structure Cell where
  bits : Nat
  count : Nat
  value : Num
deriving DecidableEq, Repr

/-- The number that a lane stands for in a reduction. -/
def Lane.toNum : Lane → Num
  | .num x => x
  | .int v => numOfInt v

/-- The value that an operation computes: FP32, or that rounded to BF16 in BF16 computation (R234). -/
def computed (narrow : Bool) : Lane → Num
  | .num v => if narrow then bf16.fit (fp32.fit v) else fp32.fit v
  | .int v => numOfInt v

/-- The cell of one result. -/
def cellOf (o : Op) (r : Option Lane) (free : BitVec 32) : Cell :=
  let d := (o.stream 3).ty
  let x := r.getD (.int free.toInt)
  if o.noOut || o.rowsScope then ⟨0, 0, computed o.narrow x⟩
  else
    let w := match r with
      | some y => writeLane d o.saturate y
      | none => (free.toNat % 2 ^ (8 * tySize d), 0)
    ⟨w.1, w.2, (readLane d w.1).toNum⟩

/-! ## Reductions (R238, R239) -/

/-- What a reduction carries: an FP64 number, or the best value and its index. -/
inductive Red where
  | num (x : Num)
  | arg (best : Option (Num × Nat))
deriving DecidableEq, Repr

/-- The identity of a kind. -/
def redIdentity (kind : Nat) : Red :=
  match kind with
  | 2 => .num (.inf true)
  | 3 => .num (.inf false)
  | 4 => .arg none
  | _ => .num .zero

/-- A lane value of element index `i` as it enters the tree. -/
def redEnter (kind : Nat) (x : Num) (i : Nat) : Red :=
  match kind with
  | 4 => .arg (if x.isNan then none else some (x, i))
  | 5 => .num (fp64.fit (x.mul x))
  | 1 => .num (fp64.fit x)
  | _ => if x.isNan then redIdentity kind else .num (fp64.fit x)

/-- Two values combined under a kind. -/
def redCombine (kind : Nat) (a b : Red) : Red :=
  match a, b with
  | .num x, .num y =>
    .num (match kind with
      | 2 => if x.lt y then y else x
      | 3 => if y.lt x then y else x
      | _ => fp64.fit (x.add y))
  | .arg none, y => y
  | x, .arg none => x
  | .arg (some (x, i)), .arg (some (y, j)) =>
    .arg (some (if x.lt y then (y, j) else if y.lt x then (x, i) else (x, min i j)))
  | x, _ => x

/-- One level of the tree. -/
def redLevel (kind : Nat) : List Red → List Red
  | a :: b :: rest => redCombine kind a b :: redLevel kind rest
  | xs => xs

/-- The tree over the lanes of one beat, `n` levels. -/
def redTree (kind : Nat) : Nat → List Red → Red
  | 0, xs => xs.headD (redIdentity kind)
  | n + 1, xs => redTree kind n (redLevel kind xs)

/-- The beats of a row combined into an accumulator (R235, R238): `w` = 2^levels lanes. -/
def redRow (kind levels : Nat) : Nat → Red → List Red → Red
  | 0, acc, _ => acc
  | n + 1, acc, xs =>
    let w := 2 ^ levels
    let beat := xs.take w
    redRow kind levels n (redCombine kind acc (redTree kind levels (beat ++ List.replicate (w - beat.length) (redIdentity kind))))
      (xs.drop w)

/-- The lanes of an operation as a power of two: 128 in BF16, 64 in FP32 (R234). -/
def Op.lanes (o : Op) : Nat := if o.narrow then 7 else 6

/-- A row's values reduced into an accumulator; `base` is the element index of the row's first element. -/
def Op.reduceRow (o : Op) (acc : Red) (base : Nat) (row : List Num) : Red :=
  let vals := (List.range row.length).map (fun c => redEnter o.reduce (row.getD c .zero) (base + c))
  redRow o.reduce o.lanes ((row.length + 2 ^ o.lanes - 1) / 2 ^ o.lanes) acc vals

/-- The 64 bits that a summary register takes (R237, R239). -/
def redBits : Red → Nat
  | .num x => if x.isZero then 0 else fp64.encode x
  | .arg none => 0xFFFFFFFF + fp32.nanBits * 2 ^ 32
  | .arg (some (x, i)) => i % 2 ^ 32 + (writeNum fp32 false x).1 * 2 ^ 32

/-- The bytes that a row's reduction writes, and the counter it raises (R237, R239). -/
def redWrite (sat : Bool) : Red → Bytes × Nat
  | .num x =>
    let w := writeNum fp32 sat x
    (leBytes 4 w.1, w.2)
  | .arg none => (leBytes 4 fp32.nanBits ++ leBytes 4 0xFFFFFFFF, 1)
  | .arg (some (x, i)) =>
    let w := writeNum fp32 sat x
    (leBytes 4 w.1 ++ leBytes 4 i, w.2)

/-! ## Effects -/

/-- The counters of a list of cells added to the operation's set (R237). -/
def State.vecCount (s : State) (t : Nat) (o : Op) (cs : List Nat) : State :=
  let n (k : Nat) := (cs.filter (· == k)).length
  let c := o.vecCounters
  let s := s.addFld (TIL_NUM_FAULTS_NONFINITE t c) (n 1)
  let s := s.addFld (TIL_NUM_FAULTS_OVERFLOW t c) (n 2)
  s.addFld (TIL_NUM_RANGE_UNDERFLOW t c) (n 3)

/-- The beats of an operation counted, and the clk that a generator limit of `eff` elements per clk costs (R235, R244). -/
def State.vecBeats (s : State) (t : Nat) (o : Op) (passes : Nat) (eff : Option Nat) : State :=
  let w := 2 ^ o.lanes
  let beats := o.rows * ((o.cols + w - 1) / w)
  let s := (s.addFld (VEC_CNT_BEATS_COUNT t) (beats * passes)).count (s.setOf t) 6 (beats * passes)
  match eff with
  | some e => s.addFld (VEC_CNT_GEN_COUNT t) ((o.rows * ((o.cols + e - 1) / max 1 e) - beats) * passes)
  | none => s

/-- The NaNs that a MAX or MIN reduction skips (R238). -/
def skipped (o : Op) (rows : List (List Cell)) : Nat :=
  if o.reduce = 2 ∨ o.reduce = 3 then (rows.map (fun r => (r.filter (fun c => c.value.isNan)).length)).sum else 0

/-- The reduction of an operation over its rows of cells (R238 to R241): to each row's place in D, or to the summary register and the
tap table. -/
def State.vecReduce (s : State) (t : Nat) (o : Op) (rows : List (List Cell)) : State :=
  let nums (r : List Cell) := r.map (·.value)
  let s := s.addFld (TIL_NUM_FAULTS_NONFINITE t o.vecCounters) (skipped o rows)
  if o.reduce = 0 then s
  else if o.rowsScope then
    let d := o.stream 3
    (List.range rows.length).foldl (fun s r =>
      let w := redWrite o.saturate (o.reduceRow (redIdentity o.reduce) 0 (nums (rows.getD r [])))
      (s.padPut t (d.addr + r * tySize d.ty) w.1).vecCount t o [w.2]) s
  else
    let res := (List.range rows.length).foldl (fun acc r => o.reduceRow acc (r * o.cols) (nums (rows.getD r []))) (redIdentity o.reduce)
    let s := s.setReg (VEC_SUM t o.sumReg) (word (redBits res))
    match o.tapKind, res with
    | 0, _ => s
    | 3, .num x => s.tap t lossLayer 4 (fp64.encode x) false
    | k, .num x => if x.isFin then s.tap t o.tapLayer (k + 1) (fp64.encode x) false else s.tap t o.tapLayer (k + 1) 0 true
    | _, _ => s

/-- The rows of an operation written to D, counted, and reduced. -/
def State.vecWrite (s : State) (t : Nat) (o : Op) (rows : List (List Cell)) : State :=
  let d := o.stream 3
  let s := if o.noOut || o.rowsScope then s else
    (List.range rows.length).foldl (fun s r =>
      let row := rows.getD r []
      (s.padPut t (d.addr + r * d.stride) (row.flatMap (fun c => leBytes (tySize d.ty) c.bits))).vecCount t o (row.map (·.count))) s
  s.vecReduce t o rows

/-- A function's cell, with UNDERFLOW for a non-zero value that came out as zero (R237). -/
def Cell.ofFn (op : Nat) (a : Lane) (c : Cell) : Cell :=
  match a with
  | .num x => if 0x10 ≤ op ∧ op ≤ 0x1A ∧ c.bits = 0 ∧ c.count = 0 ∧ fnNonzero op x = true then { c with count := 3 } else c
  | .int _ => c

/-- The cells of an element-wise operation. -/
def State.vecCells (s : State) (t : Nat) (o : Op) : List (List Cell) :=
  let used := inputsOf o.code
  let get (i r c : Nat) : Lane := if used.contains i then s.lane t (o.stream i) r c else .int 0
  (List.range o.rows).map (fun r => (List.range o.cols).map (fun c =>
    let a := get 0 r c
    let b := get 1 r c
    let z := get 2 r c
    (cellOf o (vecResult o.code o.subOp o.narrow a b z) (Config.vecFree o.code a.bits b.bits z.bits)).ofFn
      (if o.noOut || o.rowsScope then 0 else o.code) a))

/-- The vector operation that an engine holds, checked and due: its effects, or its descriptor fault; a tapped one waits for its
turn (R221). -/
def State.vecOp (s : State) (t i op : Nat) (run : Op → Except Nat State) : State :=
  match s.held t i [5] op with
  | none => s
  | some o =>
    match s.vecFault o with
    | some st => s.opFault t i st
    | none =>
      if s.tapTurn t o = false then s
      else
        match run o with
        | .error st => s.opFault t i st
        | .ok s' => s'.actedWith t i 0

/-- An element-wise operation (Table VEC-3). -/
def State.vecPlain (s : State) (t i op : Nat) : State :=
  s.vecOp t i op (fun o => .ok ((s.vecWrite t o (s.vecCells t o)).vecBeats t o 1 none))

/-- An ARGREC as it is written (R237): its value by the rules of a written result, its index as it stands, and the counter raised. -/
def writeRec (x : Nat) : Nat × Nat :=
  let w := writeNum fp32 false (fp32.decode (bitsOf x 0 32))
  (w.1 + bitsOf x 32 32 * 2 ^ 32, w.2)

/-- Records written to D row by row, and counted (R237). -/
def State.recWrite (s : State) (t : Nat) (o : Op) (rec : Nat → Nat → Nat) : State :=
  let d := o.stream 3
  let s' := if o.noOut then s else
    (List.range o.rows).foldl (fun u r =>
      let row := (List.range o.cols).map (fun c => writeRec (rec r c))
      (u.padPut t (d.addr + r * d.stride) (row.flatMap (fun w => leBytes 8 w.1))).vecCount t o (row.map (·.2))) s
  s'.vecBeats t o 1 none

/-- COPY, of numbers or of ARGREC records (R232). -/
def execVecCopy (t : Fin 384) (i : Fin 64) (s : State) : Out :=
  .next (s.vecOp t.val i.val 1 (fun o =>
    let a := o.stream 0
    if a.ty = 4 then .ok (s.recWrite t.val o (fun r c => s.padNum t.val (a.at r c) 8))
    else .ok ((s.vecWrite t.val o (s.vecCells t.val o)).vecBeats t.val o 1 none)))

/-- ADD: A + B (R236). -/
def execVecAdd (t : Fin 384) (i : Fin 64) (s : State) : Out := .next (s.vecPlain t.val i.val 0x02)
/-- SUB: A − B (R236). -/
def execVecSub (t : Fin 384) (i : Fin 64) (s : State) : Out := .next (s.vecPlain t.val i.val 0x03)
/-- MUL: A × B (R236). -/
def execVecMul (t : Fin 384) (i : Fin 64) (s : State) : Out := .next (s.vecPlain t.val i.val 0x04)
/-- FMA: A × B + C, one rounding (R236). -/
def execVecFma (t : Fin 384) (i : Fin 64) (s : State) : Out := .next (s.vecPlain t.val i.val 0x05)
/-- MUL3: (A × B) × C, rounded after each product (R236). -/
def execVecMul3 (t : Fin 384) (i : Fin 64) (s : State) : Out := .next (s.vecPlain t.val i.val 0x06)
/-- DIV: A / B (R236). -/
def execVecDiv (t : Fin 384) (i : Fin 64) (s : State) : Out := .next (s.vecPlain t.val i.val 0x07)
/-- MAX (R236). -/
def execVecMax (t : Fin 384) (i : Fin 64) (s : State) : Out := .next (s.vecPlain t.val i.val 0x08)
/-- MIN (R236). -/
def execVecMin (t : Fin 384) (i : Fin 64) (s : State) : Out := .next (s.vecPlain t.val i.val 0x09)
/-- ABS (R236). -/
def execVecAbs (t : Fin 384) (i : Fin 64) (s : State) : Out := .next (s.vecPlain t.val i.val 0x0A)
/-- CMP (R236). -/
def execVecCmp (t : Fin 384) (i : Fin 64) (s : State) : Out := .next (s.vecPlain t.val i.val 0x0B)
/-- SELECT (R236). -/
def execVecSelect (t : Fin 384) (i : Fin 64) (s : State) : Out := .next (s.vecPlain t.val i.val 0x0C)
/-- SQRT, correctly rounded (R236). -/
def execVecSqrt (t : Fin 384) (i : Fin 64) (s : State) : Out := .next (s.vecPlain t.val i.val 0x10)
/-- RSQRT, within 1 ulp (R236). -/
def execVecRsqrt (t : Fin 384) (i : Fin 64) (s : State) : Out := .next (s.vecPlain t.val i.val 0x11)
/-- RECIP, within 1 ulp (R236). -/
def execVecRecip (t : Fin 384) (i : Fin 64) (s : State) : Out := .next (s.vecPlain t.val i.val 0x12)
/-- EXP, within 2 ulp (R236). -/
def execVecExp (t : Fin 384) (i : Fin 64) (s : State) : Out := .next (s.vecPlain t.val i.val 0x13)
/-- LOG, within 2 ulp (R236). -/
def execVecLog (t : Fin 384) (i : Fin 64) (s : State) : Out := .next (s.vecPlain t.val i.val 0x14)
/-- TANH, within 3 ulp (R236). -/
def execVecTanh (t : Fin 384) (i : Fin 64) (s : State) : Out := .next (s.vecPlain t.val i.val 0x15)
/-- SIGMOID, within 3 ulp (R236). -/
def execVecSigmoid (t : Fin 384) (i : Fin 64) (s : State) : Out := .next (s.vecPlain t.val i.val 0x16)
/-- SILU, within 4 ulp (R236). -/
def execVecSilu (t : Fin 384) (i : Fin 64) (s : State) : Out := .next (s.vecPlain t.val i.val 0x17)
/-- GELU, within 4 ulp (R236). -/
def execVecGelu (t : Fin 384) (i : Fin 64) (s : State) : Out := .next (s.vecPlain t.val i.val 0x18)
/-- SIN, within 2 ulp up to 65,536, within [−1, 1] above (R236). -/
def execVecSin (t : Fin 384) (i : Fin 64) (s : State) : Out := .next (s.vecPlain t.val i.val 0x19)
/-- COS, within 2 ulp up to 65,536, within [−1, 1] above (R236). -/
def execVecCos (t : Fin 384) (i : Fin 64) (s : State) : Out := .next (s.vecPlain t.val i.val 0x1A)

/-- AMAX_MERGE (R251): the record of the larger value; on a tie the lower index; a NaN is larger than any other. -/
def mergeRec (a b : Nat) : Nat :=
  let va := fp32.decode (bitsOf a 0 32)
  let vb := fp32.decode (bitsOf b 0 32)
  let gt (x y : Num) : Bool := (x.isNan && !y.isNan) || y.lt x
  if gt va vb then a else if gt vb va then b
  else if bitsOf a 32 32 ≤ bitsOf b 32 32 then a else b

/-- AMAX_MERGE over two ARGREC streams (R251). -/
def execAmaxMerge (t : Fin 384) (i : Fin 64) (s : State) : Out :=
  .next (s.vecOp t.val i.val 0x24 (fun o =>
    let a := o.stream 0
    let b := o.stream 1
    .ok (s.recWrite t.val o (fun r c => mergeRec (s.padNum t.val (a.at r c) 8) (s.padNum t.val (b.at r c) 8)))))

end Sys2Proof.Machine
end

