-- ==== Sys2Proof/Machine/Quant.lean ====
section
/-!
DEFINITION. The quantiser, the column pre-pass, dequantisation and drop-out masks (R173 to R180, R217, R242 to R244).
-/
namespace Sys2Proof.Machine

/-! ## The parameter block (Table VEC-4) -/

/-- Bytes `off` to `off + n − 1` of the parameter block of an operation. -/
def State.blk (s : State) (t : Nat) (o : Op) (off n : Nat) : Nat := s.padNum t ((o.stream 2).addr + off) n

/-- The global index of local element (r, c). -/
def State.globalIndex (s : State) (t : Nat) (o : Op) (r c : Nat) : Nat :=
  ((s.blk t o 0 8 + r) * s.blk t o 16 8 + s.blk t o 8 8 + c) % 2 ^ 64

def State.blkScale (s : State) (t : Nat) (o : Op) : Nat := s.blk t o 28 4
def State.blkEsc (s : State) (t : Nat) (o : Op) : Nat := s.blk t o 32 4
def State.blkSupplied (s : State) (t : Nat) (o : Op) : Bool := bitOf (s.blk t o 36 1) 0
def State.blkBcast (s : State) (t : Nat) (o : Op) : Bool := bitOf (s.blk t o 36 1) 1
def State.blkMerge (s : State) (t : Nat) (o : Op) : Bool := bitOf (s.blk t o 36 1) 2
def State.blkGranule (s : State) (t : Nat) (o : Op) : Nat := s.blk t o 37 1

/-- Whether the reserved fields of the parameter block are zero. -/
def State.blkReserved (s : State) (t : Nat) (o : Op) : Bool :=
  bitsOf (s.blk t o 36 1) 3 5 == 0 && s.blk t o 38 2 == 0 && s.blk t o 48 16 == 0

/-- The units of a scaled tensor, and the slices of each (R169). -/
def unitsOf (f : Format) (o : Op) : Nat := if f.mode = 2 then o.cols else o.rows
def slicesOf (f : Format) (o : Op) : Nat := (if f.mode = 2 then o.rows else o.cols) / 64

/-- Whether the scale array and escape table of an operation lie in the scratchpad. -/
def State.tablesOk (s : State) (t : Nat) (o : Op) (f : Format) : Bool :=
  decide (s.blkScale t o + (if s.blkBcast t o then 1 else unitsOf f o) ≤ padEnd) &&
    (f.escapes == 0 || (s.blkEsc t o % 4 == 0 && decide (s.blkEsc t o + unitsOf f o * slicesOf f o * f.escapes * 4 ≤ padEnd)))

/-- The status of a parameter block's fault (R242 to R244). -/
def State.blkFault (s : State) (t : Nat) (o : Op) (f : Format) : Option Nat :=
  let g := s.blkGranule t o
  let ok := match o.code with
    | 0x20 => f.mode != 0 && (if f.mode = 2 then o.rows % 64 == 0 && s.blkSupplied t o else o.cols % 64 == 0) &&
        !(f.stochastic && o.genMask == 0) && s.tablesOk t o f
    | 0x21 => o.rows % 64 == 0 && decide (s.blkScale t o + o.cols ≤ padEnd)
    | 0x22 => f.mode == 0 || s.tablesOk t o f
    | _ => decide (o.subOp ≤ 1) && (g == 1 || g == 2 || g == 4) && s.blk t o 16 8 % g == 0 && s.blk t o 8 8 % g == 0 &&
        o.cols % g == 0 && o.genMask != 0
  if !(s.blkReserved t o) then some ST_REJECTED_RESERVED else if ok then none else some ST_OP_DESCRIPTOR

/-! ## Quantising one unit (R174 to R180) -/

/-- A stream element in grains of 2^−149: its sign and magnitude; none when it is not finite. -/
def grains : Lane → Option (Bool × Nat)
  | .num (.fin neg m e) => some (neg, m * pow2 (e - grain))
  | _ => none

/-- A quantised unit: scale byte, element patterns, escape entries by slice, and its counts. -/
structure QUnit where
  scale : Nat := 0
  elems : List Nat := []
  escs : List (List Nat) := []
  nonfinite : Nat := 0
  overflow : Nat := 0
  vanish : Nat := 0
  zero : Nat := 0
deriving DecidableEq, Repr

/-- A magnitude in grains rounded into the element type at scale exponent `es`; `u` is the word of stochastic rounding. -/
def roundAt (f : Format) (rne : Bool) (es : Int) (u m : Nat) : Nat × Int :=
  if rne || !f.stochastic then elemRne f.ty m (grain - es) else elemStochastic f.ty u m (grain - es)

/-- An escape put into the order of R175: larger magnitude first, then lower index. -/
def insertCand (x : Nat × Nat) : List (Nat × Nat) → List (Nat × Nat)
  | [] => [x]
  | y :: ys => if y.1 < x.1 ∨ (y.1 = x.1 ∧ x.2 < y.2) then x :: y :: ys else y :: insertCand x ys

/-- The escape entry of the element at `index` of its slice (R175, R177, Table NUM-3). -/
def escapeEntry (f : Format) (index : Nat) (neg : Bool) (m u : Nat) : Nat :=
  let own := scaleFor f.ty m
  let hi := roundAt f f.precise own u m
  let value := elemEncode f.ty neg hi.1 hi.2
  let lo := if f.precise && decide (-127 ≤ own - loShift f.ty) then
      match exactAdd neg m grain (!neg) hi.1 (hi.2 + own) with
      | .fin n r e =>
        let p := elemRne f.ty r (e - (own - loShift f.ty))
        elemEncode f.ty n p.1 p.2
      | _ => 0
    else 0
  index + 64 + (own + 127).toNat * 256 + value % 256 * 2 ^ 16 + lo % 256 * 2 ^ 24

/-- One slice at scale exponent `es`: the elements, the escape entries, and the saturated and vanished counts. `u` gives the words of
stochastic rounding by position. -/
def quantSlice (f : Format) (es : Int) (u : Nat → Nat) (xs : List (Bool × Nat)) : List Nat × List Nat × Nat × Nat :=
  let cands := ((List.range xs.length).filterMap (fun i =>
    let m := (xs.getD i (false, 0)).2
    if aboveMaxf f.ty m (grain - es) then some (m, i) else none)).foldr insertCand []
  let esc := (cands.take f.escapes).map (·.2)
  let cell (i : Nat) : Nat × Nat × Nat :=
    let x := xs.getD i (false, 0)
    if esc.contains i then (0, 0, 0)
    else if aboveMaxf f.ty x.2 (grain - es) then (elemEncode f.ty x.1 (maxfM f.ty) (maxfE f.ty), 1, 0)
    else
      let r := roundAt f false es (u i) x.2
      (elemEncode f.ty x.1 r.1 r.2, 0, if r.1 = 0 ∧ x.2 ≠ 0 then 1 else 0)
  let cells := (List.range xs.length).map cell
  (cells.map (·.1),
   esc.map (fun i => escapeEntry f i (xs.getD i (false, 0)).1 (xs.getD i (false, 0)).2 (u i)),
   (cells.map (·.2.1)).sum, (cells.map (·.2.2)).sum)

/-- One unit quantised, with a COMPUTED scale or a SUPPLIED scale byte. -/
def quantUnit (f : Format) (supplied : Option Nat) (u : Nat → Nat) (xs : List Lane) : QUnit :=
  let gs := xs.map grains
  let bad := (gs.filter (·.isNone)).length
  let n := xs.length / 64
  let empty : List (List Nat) := List.replicate n []
  if bad ≠ 0 ∨ supplied = some 255 then
    { scale := 255, elems := xs.map (fun _ => 0), escs := empty, nonfinite := bad,
      vanish := (gs.filter (fun g => match g with | some v => v.2 != 0 | none => false)).length }
  else
    let vs := gs.map (·.getD (false, 0))
    if vs.all (fun v => v.2 == 0) then { scale := 0, elems := xs.map (fun _ => 0), escs := empty, zero := 1 }
    else
      let es : Int := match supplied with
        | some b => (b : Int) - 127
        | none => selectScale f.ty f.escapes (vs.map (·.2))
      let parts := (List.range n).map (fun k => quantSlice f es (fun i => u (64 * k + i)) ((vs.drop (64 * k)).take 64))
      { scale := (es + 127).toNat, elems := parts.flatMap (·.1), escs := parts.map (·.2.1),
        overflow := (parts.map (·.2.2.1)).sum, vanish := (parts.map (·.2.2.2)).sum }

/-! ## QUANT (R242) -/

/-- The word of stochastic rounding for global element `i` (Table NUM-4). -/
def State.roundWord (s : State) (t : Nat) (o : Op) (i : Nat) : Nat :=
  philoxWord (s.jobSeed % 2 ^ 32) (s.jobSeed / 2 ^ 32) i (s.drawStep t) (s.blk t o 24 4)

/-- The scale byte that COMPUTED selection gives over the elements of rows of numbers (R174, R178): 0xFF with a non-finite one. -/
def selectByte (f : Format) (xs : List Lane) : Nat :=
  let gs := xs.map grains
  if gs.any (·.isNone) then 255 else (selectScale f.ty f.escapes (gs.map (fun g => (g.getD (false, 0)).2)) + 127).toNat

/-- The one scale byte that serves every unit of a QUANT with SCALE_BCAST and COMPUTED scales (R242): selected over the whole
tensor. -/
def State.sharedScale (s : State) (t : Nat) (o : Op) (f : Format) : Nat :=
  selectByte f ((List.range o.rows).flatMap (fun r => (List.range o.cols).map (fun c => s.lane t (o.stream 0) r c)))

/-- Unit `k` of a QUANT, quantised, under the shared scale byte if there is one. -/
def State.quantOne (s : State) (t : Nat) (o : Op) (f : Format) (shared : Option Nat) (k : Nat) : QUnit :=
  let a := o.stream 0
  let col := f.mode == 2
  let at' (j : Nat) : Nat × Nat := if col then (j, k) else (k, j)
  let len := if col then o.rows else o.cols
  let supplied := if s.blkSupplied t o then some (s.padNum t (s.blkScale t o + (if s.blkBcast t o then 0 else k)) 1) else shared
  quantUnit f supplied (fun j => s.roundWord t o (s.globalIndex t o (at' j).1 (at' j).2))
    ((List.range len).map (fun j => s.lane t a (at' j).1 (at' j).2))

/-- The escape table entries of one unit written (R176): E entries a slice, unused ones zero. -/
def State.putEscapes (s : State) (t base e : Nat) (q : QUnit) : State :=
  (List.range q.escs.length).foldl (fun s k =>
    let es := q.escs.getD k []
    s.padPut t (base + k * e * 4) ((List.range e).flatMap (fun j => leBytes 4 (es.getD j 0)))) s

/-- The counts of a unit. -/
def State.countUnit (s : State) (t c : Nat) (q : QUnit) : State :=
  let s := s.addFld (TIL_NUM_FAULTS_NONFINITE t c) q.nonfinite
  let s := s.addFld (TIL_NUM_FAULTS_OVERFLOW t c) q.overflow
  let s := s.addFld (TIL_NUM_RANGE_VANISH t c) q.vanish
  let s := s.addFld (TIL_NUM_QUANT_ESCAPED t c) (q.escs.map (·.length)).sum
  s.addFld (TIL_NUM_QUANT_ZERO_UNITS t c) q.zero

/-- The elements per clk that the named generators allow, with words shared by `granule` elements (R244). -/
def Op.genRate (o : Op) (granule : Nat) : Nat := min (2 ^ o.lanes) (4 * popcount o.genMask * granule)

/-- The element patterns of local row `r` of a quantised tensor. -/
def rowOf (col : Bool) (qs : List QUnit) (r : Nat) : List Nat :=
  if col then qs.map (fun q => q.elems.getD r 0) else (qs.getD r {}).elems

/-- The effects of a QUANT. -/
def State.runQuant (s : State) (t : Nat) (o : Op) (f : Format) : State :=
  let d := o.stream 3
  let n := unitsOf f o
  let shared := if s.blkBcast t o && !(s.blkSupplied t o) then some (s.sharedScale t o f) else none
  let qs := (List.range n).map (s.quantOne t o f shared)
  let escStep := slicesOf f o * f.escapes * 4
  let scaleAt := s.blkScale t o
  let escAt := s.blkEsc t o
  let supplied := s.blkSupplied t o
  let passes := if !supplied && decide (4096 < o.cols) then 2 else 1
  let s := if o.noOut then s else
    (List.range o.rows).foldl (fun s r => s.padPut t (d.addr + r * d.stride) (packRow (elemBits f.ty) (rowOf (f.mode == 2) qs r))) s
  let s := if supplied then s else s.padPut t scaleAt (match shared with
    | some b => [byte b]
    | none => qs.map (fun q => byte q.scale))
  let s := if f.escapes = 0 then s else
    (List.range n).foldl (fun s k => s.putEscapes t (escAt + k * escStep) f.escapes (qs.getD k {})) s
  let s := qs.foldl (fun s q => s.countUnit t o.vecCounters q) s
  s.vecBeats t o passes (if f.stochastic then some (o.genRate 1) else none)

/-- An operation with a parameter block: the format it names (FP32 stands in for MASK, which names none) and its checks. -/
def State.blkOp (s : State) (t i op : Nat) (run : Op → Format → State) : State :=
  s.vecOp t i op (fun o =>
    let f := if op = 0x23 then some ⟨0, 0, 0, false, false, false⟩ else s.format o.format
    match f with
    | none => .error ST_OP_DESCRIPTOR
    | some f =>
      match s.blkFault t o f with
      | some st => .error st
      | none => .ok (run o f))

/-- QUANT: the quantiser (R242). -/
def execQuant (t : Fin 384) (i : Fin 64) (s : State) : Out := .next (s.blkOp t.val i.val 0x20 (s.runQuant t.val))

/-! ## PREPASS (R243) -/

/-- The scale byte of column `c`. -/
def State.columnScale (s : State) (t : Nat) (o : Op) (f : Format) (c : Nat) : Nat :=
  selectByte f ((List.range o.rows).map (fun r => s.lane t (o.stream 0) r c))

/-- PREPASS: the scale bytes of the columns, merged with those in place when MERGE is set (R243). -/
def execPrepass (t : Fin 384) (i : Fin 64) (s : State) : Out :=
  .next (s.blkOp t.val i.val 0x21 (fun o f =>
    let at' := s.blkScale t.val o
    let bs := (List.range o.cols).map (fun c =>
      let b := s.columnScale t.val o f c
      byte (if s.blkMerge t.val o then max b (s.padNum t.val (at' + c) 1) else b))
    (s.padPut t.val at' bs).vecBeats t.val o 1 none))

/-! ## DEQUANT -/

/-- The escape of element `pos` of slice `sl` of unit `u`, as an exact value; none when the element is no escape. -/
def State.escapeValue (s : State) (t : Nat) (o : Op) (f : Format) (u sl pos : Nat) : Option Num :=
  let base := s.blkEsc t o + (u * slicesOf f o + sl) * f.escapes * 4
  (List.range f.escapes).foldl (fun (r : Option Num) j =>
    let w := s.padNum t (base + 4 * j) 4
    if bitOf w 6 && bitsOf w 0 6 == pos then
      let own := (bitsOf w 8 8 : Int) - 127
      let mask := 2 ^ elemBits f.ty
      let hi := (elemValue f.ty (bitsOf w 16 8 % mask)).mul (.fin false 1 own)
      let lo := if f.precise then (elemValue f.ty (bitsOf w 24 8 % mask)).mul (.fin false 1 (own - loShift f.ty)) else .zero
      let v := if bitsOf w 8 8 = 255 then Num.nan else hi.add lo
      some (match r with | some x => x.add v | none => v)
    else r) none

/-- The value of element (r, c) of a scaled tensor: A × scale, escapes added, exactly. -/
def State.dequantValue (s : State) (t : Nat) (o : Op) (f : Format) (r c : Nat) : Num :=
  let a := o.stream 0
  let u := if f.mode = 2 then c else r
  let j := if f.mode = 2 then r else c
  let b := if f.mode = 0 then 127 else s.padNum t (s.blkScale t o + (if s.blkBcast t o then 0 else u)) 1
  let v := elemValue f.ty (s.elemRaw t (elemBits f.ty) (a.addr + r * a.stride) (if a.elem0 then 0 else c))
  if b = 255 then .nan
  else
    let x := v.mul (.fin false 1 ((b : Int) - 127))
    if f.mode = 0 ∨ f.escapes = 0 then x
    else match s.escapeValue t o f u (j / 64) (j % 64) with
      | some e => x.add e
      | none => x

/-- DEQUANT: the values of a scaled tensor in FP32 or BF16. -/
def execDequant (t : Fin 384) (i : Fin 64) (s : State) : Out :=
  .next (s.blkOp t.val i.val 0x22 (fun o f =>
    let d := o.stream 3
    let row (r : Nat) := (List.range o.cols).map (fun c => writeOnce (tyFmt d.ty) o.saturate (s.dequantValue t.val o f r c))
    let s' := if o.noOut then s else
      (List.range o.rows).foldl (fun u r =>
        let cells := row r
        (u.padPut t.val (d.addr + r * d.stride) (cells.flatMap (fun c => leBytes (tySize d.ty) c.1))).vecCount t.val o
          (cells.map (·.2))) s
    s'.vecBeats t.val o 1 none))

/-! ## MASK (R217, R244) -/

/-- Whether mask element `j` is kept (R217). -/
def State.kept (s : State) (t : Nat) (o : Op) (j : Nat) : Bool :=
  decide (philoxWord (s.jobSeed % 2 ^ 32 ^^^ 0x9E3779B9) (s.jobSeed / 2 ^ 32) j (s.drawStep t) (s.blk t o 24 4) < s.blk t o 40 4)

/-- MASK: APPLY multiplies the kept elements by MASK_SCALE, EMIT writes 1.0; dropped ones are +0 (R244). -/
def execMask (t : Fin 384) (i : Fin 64) (s : State) : Out :=
  .next (s.blkOp t.val i.val 0x23 (fun o _ =>
    let g := max 1 (s.blkGranule t.val o)
    let scale := fp32.decode (s.blk t.val o 44 4)
    let value (r c : Nat) : Lane :=
      if s.kept t.val o (s.globalIndex t.val o r c / g) then
        (if o.subOp = 1 then lane1 true
         else match s.lane t.val (o.stream 0) r c with
           | .num x => .num (x.mul scale)
           | .int v => .num ((numOfInt v).mul scale))
      else .num .zero
    let rows := (List.range o.rows).map (fun r => (List.range o.cols).map (fun c => cellOf o (some (value r c)) 0))
    (s.vecWrite t.val o rows).vecBeats t.val o 1 (some (o.genRate g))))

end Sys2Proof.Machine
end

