-- ==== Sys2Proof/Machine/Pages.lean ====
section
/-!
DEFINITION. The attention page engine (chapter 12): pools, run blocks, the page and sequence tables in HBM, and moves.
-/
namespace Sys2Proof.Machine

/-! ## Pools and geometry (R254, R257) -/

/-- The MEMORY entry of page pool `p`. -/
def State.poolEntry (s : State) (p : Nat) : Option Bytes :=
  ((s.entries secMemory).filter (fun e => fieldAt e 0 1 == 3))[p]?

/-- The page and sequence tables take the first 66 MiB of the first pool region (R257). -/
def kvpTables : Nat := 66 * 2 ^ 20

/-- The first frame unit of a pool's run blocks. -/
def State.poolBase (s : State) (p : Nat) : Nat :=
  match s.poolEntry p with
  | some e => (hbmBase + fieldAt e 8 8 + (if p = 0 then kvpTables else 0)) / 256
  | none => 0

/-- The head dimension, the element size, whether the pool is FP8, and the geometry's validity (R254, Table ATT-11). -/
def State.poolD (s : State) (p : Nat) : Nat := 64 * 2 ^ s.fld (KVP_POOL_GEOM_HEAD_DIM p)
def State.poolFp8 (s : State) (p : Nat) : Bool := s.fld (KVP_POOL_GEOM_K_TYPE p) != 1
def State.poolElem (s : State) (p : Nat) : Nat := if s.poolFp8 p then 1 else 2
def State.geomOk (s : State) (p : Nat) : Bool :=
  let k := s.fld (KVP_POOL_GEOM_K_TYPE p)
  let v := s.fld (KVP_POOL_GEOM_V_TYPE p)
  let v := if v = 0 then k else v
  s.fld (KVP_POOL_GEOM_HEAD_DIM p) != 3 && ((k == 1 && v == 1) || ((k == 3 || k == 4) && (v == 3 || v == 4)))

/-- The frame units of a page (F of R254). -/
def State.pageUnits (s : State) (p : Nat) : Nat := s.poolD p * s.poolElem p / 8 + (if s.poolFp8 p then 1 else 0)

/-- The run blocks of a pool (R257). -/
def State.poolBlocks (s : State) (p : Nat) : Nat :=
  match s.poolEntry p with
  | some e => (fieldAt e 16 8 - (if p = 0 then kvpTables else 0)) / 256 / max 1 (16 * s.pageUnits p)
  | none => 0

/-- The fitted pools. -/
def State.pools (s : State) : List Nat := (List.range 8).filter (fun p => (s.poolEntry p).isSome)

/-- The first frame unit of run block `b` of pool `p`, the pool that holds a frame, and a frame's block and slot. -/
def State.blockStart (s : State) (p b : Nat) : Nat := s.poolBase p + b * 16 * s.pageUnits p
def State.poolOf (s : State) (f : Nat) : Option Nat :=
  s.pools.find? (fun p => decide (s.poolBase p ≤ f ∧ f < s.poolBase p + s.poolBlocks p * 16 * s.pageUnits p))
def State.blockOf (s : State) (p f : Nat) : Nat := s.blockStart p ((f - s.poolBase p) / max 1 (16 * s.pageUnits p))
def State.slotOf (s : State) (p f : Nat) : Nat := (f - s.blockOf p f) / max 1 (s.pageUnits p)

/-! ## The page table (Table ATT-4) -/

/-- One page-table entry. -/
structure Pte where
  valid : Bool := false
  cow : Bool := false
  tier : Nat := 0
  runStart : Bool := false
  owned : Bool := false
  held : Bool := false
  refs : Nat := 0
  gen : Nat := 0
  access : Nat := 0
  frame : Nat := 0
  owner : Nat := 0
deriving DecidableEq, Repr

/-- The page table's physical address. -/
def State.tableBase (s : State) : Nat :=
  match s.poolEntry 0 with
  | some e => hbmBase + fieldAt e 8 8
  | none => hbmBase

/-- Entry `v` of the page table. -/
def State.pte (s : State) (v : Nat) : Pte :=
  let b := s.bytesAt (s.tableBase + 16 * v) 16
  let n := leNat b
  { valid := bitOf n 0, cow := bitOf n 1, tier := bitsOf n 2 2, runStart := bitOf n 4, owned := bitOf n 5, held := bitOf n 6,
    refs := bitsOf n 8 8, gen := bitsOf n 16 16, access := bitsOf n 32 24, frame := bitsOf n 64 40, owner := bitsOf n 104 22 }

def flag (b : Bool) (i : Nat) : Nat := if b then 2 ^ i else 0

/-- The 16 bytes of an entry. -/
def Pte.bytes (e : Pte) : Bytes :=
  leBytes 16 (flag e.valid 0 + flag e.cow 1 + e.tier % 4 * 4 + flag e.runStart 4 + flag e.owned 5 + flag e.held 6 +
    e.refs % 256 * 2 ^ 8 + e.gen % 65536 * 2 ^ 16 + e.access % 2 ^ 24 * 2 ^ 32 + e.frame % 2 ^ 40 * 2 ^ 64 + e.owner % 2 ^ 22 * 2 ^ 104)

/-- An entry written as it stands. -/
def State.putPte (s : State) (v : Nat) (e : Pte) : State := s.devWrite (s.tableBase + 16 * v) e.bytes

/-- The line of the walker caches that holds entry `v` is invalidated in all four (R267). -/
def State.dropLine (s : State) (v : Nat) : State :=
  let line := v / 4
  { s with kvp := { s.kvp with cache := s.kvp.cache.map (fun x =>
      if x.1 % 1024 = line % 1024 then (x.1, x.2.filter (· != line)) else x) } }

/-- An entry changed (R262, R267): GEN rises at a change of FRAME, TIER, VALID, COW or HELD, and the caches forget it. -/
def State.changePte (s : State) (v : Nat) (e : Pte) : State :=
  let o := s.pte v
  let moved := o.frame != e.frame || o.tier != e.tier || o.valid != e.valid || o.cow != e.cow || o.held != e.held
  (s.putPte v { e with gen := (o.gen + (if moved then 1 else 0)) % 65536 }).dropLine v

/-- Entry 16r of the run of entry `v`. -/
def runOf (v : Nat) : Nat := v / 16 * 16

/-! ## The sequence table (Table ATT-3) -/

structure Seq where
  base : Nat := 0
  streams : Nat := 0
  pool : Nat := 0
  state : Nat := 0
  domain : Nat := 0
  maxRuns : Nat := 0
  bucket : Nat := 0
  length : Nat := 0
  l0 : Nat := 0
  held : Nat := 0
  slot : Nat := 0
deriving DecidableEq, Repr

def State.seqAddr (s : State) (i : Nat) : Nat := s.tableBase + 64 * 2 ^ 20 + 32 * i

/-- Sequence entry `i`. -/
def State.seq (s : State) (i : Nat) : Seq :=
  let b := s.bytesAt (s.seqAddr i) 32
  { base := bitsOf (fieldAt b 0 4) 0 22, streams := fieldAt b 4 2, pool := bitsOf (fieldAt b 6 1) 0 3,
    state := bitsOf (fieldAt b 6 1) 4 2, domain := bitsOf (fieldAt b 7 1) 0 6, maxRuns := fieldAt b 8 2, bucket := fieldAt b 10 1,
    length := fieldAt b 12 4, l0 := fieldAt b 16 4, held := fieldAt b 20 4, slot := fieldAt b 24 8 }

/-- Sequence entry `i` written. -/
def State.putSeq (s : State) (i : Nat) (q : Seq) : State :=
  s.devWrite (s.seqAddr i) (leBytes 4 q.base ++ leBytes 2 q.streams ++ leBytes 1 (q.pool % 8 + 16 * q.state) ++ leBytes 1 q.domain ++
    leBytes 2 q.maxRuns ++ leBytes 1 q.bucket ++ leBytes 1 0 ++ leBytes 4 q.length ++ leBytes 4 q.l0 ++ leBytes 4 q.held ++
    leBytes 8 q.slot)

/-- The entries of a sequence's region, and of one stream (P_max of R258). -/
def Seq.pMax (q : Seq) : Nat := q.maxRuns * 16
def Seq.entries (q : Seq) : Nat := q.streams * q.pMax

/-- The page-table entry of page `n` of stream `st` (R258). -/
def Seq.vpn (q : Seq) (st n : Nat) : Nat := q.base + st * q.pMax + n

/-- The length bucket of a length (R261). -/
def bucketOf (l : Nat) : Nat := ((List.range 13).find? (fun b => decide (l ≤ 256 * 2 ^ b))).getD 12

/-- The sequence whose region holds entry `v`. -/
def State.seqOf (s : State) (v : Nat) : Option Nat :=
  (List.range 65536).find? (fun i =>
    let q := s.seq i
    q.state != 0 && decide (q.base ≤ v ∧ v < q.base + q.entries))

/-! ## Run blocks -/

def blockWf : Nat → Option Block := fun _ => some {}

/-- The run block that starts at frame unit `f`. -/
def State.block (s : State) (f : Nat) : Block := (smapFind s.kvp.blocks f).getD {}

/-- A run block set; one that holds nothing and is not reserved is a free run block again. -/
def State.putBlock (s : State) (f : Nat) (b : Block) : State :=
  { s with kvp := { s.kvp with blocks :=
      if b.taken = 0 ∧ b.resv = none then smapDel s.kvp.blocks f else smapIns s.kvp.blocks f b } }

/-- The unfilled slots of a block, ascending. -/
def Block.spare (b : Block) : List Nat := (List.range 16).filter (fun j => !(bitOf b.taken j))

/-- The blocks in use of pool `p`. -/
def State.usedBlocks (s : State) (p : Nat) : List (Nat × Block) := s.kvp.blocks.filter (fun x => x.2.pool == p)

/-- The free run blocks of a pool, counted (R269). -/
def State.freeBlocks (s : State) (p : Nat) : Nat := s.poolBlocks p - (s.usedBlocks p).length

/-- The free pages of a pool (R269): free run blocks, loose free pages and unfilled reserved slots. -/
def State.freePages (s : State) (p : Nat) : Nat :=
  s.freeBlocks p * 16 + ((s.usedBlocks p).map (fun x => x.2.spare.length)).sum

/-- One of a list, as the module chooses. -/
def State.pick (s : State) (xs : List Nat) : Option Nat := xs[Config.choice s.fresh % max 1 xs.length]?

/-- A choice has been taken. -/
def State.used (s : State) : State := { s with fresh := s.fresh + 1 }

/-- A slot of a block taken. -/
def State.takeSlot (s : State) (p f j : Nat) : State :=
  let b := s.block f
  s.putBlock f { b with pool := p, taken := withBit b.taken j }

/-- A free run block of the pool, as its first frame unit. -/
def State.freeBlock (s : State) (p : Nat) : Option Nat :=
  s.pick (((List.range (s.poolBlocks p)).map (s.blockStart p)).filter (fun f => (smapFind s.kvp.blocks f).isNone))

/-- The loose free pages of a pool, as frames. -/
def State.loosePages (s : State) (p : Nat) : List Nat :=
  (s.usedBlocks p).flatMap (fun x => if x.2.resv.isSome then [] else x.2.spare.map (fun j => x.1 + j * s.pageUnits p))

/-- The block of the pool's oldest reservation that still has unfilled slots. -/
def State.oldestReserved (s : State) (p : Nat) : Option (Nat × Block) :=
  ((s.usedBlocks p).filter (fun x => x.2.resv.isSome && !x.2.spare.isEmpty)).foldl (fun m x =>
    match m with
    | some y => if x.2.age < y.2.age then some x else some y
    | none => some x) none

/-- A reservation ends: RUN_START of its run clears and the unfilled slots become loose pages (R269, R278). -/
def State.unreserve (s : State) (f : Nat) : State :=
  let b := s.block f
  match b.resv with
  | none => s
  | some v => (s.changePte v { s.pte v with runStart := false }).putBlock f { b with resv := none }

/-- The block reserved for the run of entry `v`. -/
def State.reservedFor (s : State) (v : Nat) : Option (Nat × Block) := s.kvp.blocks.find? (fun x => x.2.resv == some (runOf v))

/-- A free frame for the page of entry `v` in pool `p`, in the preference of R269: the run's reserved slot, a free run block reserved
for the run, a loose page, a page of a free run block whose entry 16r is in use, a page stolen from the oldest reservation. -/
def State.allocate (s : State) (p v : Nat) : Option (Nat × State) :=
  let j := v % 16
  let u := s.pageUnits p
  let loose (s : State) : Option (Nat × State) :=
    match s.pick (s.loosePages p) with
    | some f => some (f, s.used.takeSlot p (s.blockOf p f) (s.slotOf p f))
    | none => none
  let steal : Option (Nat × State) :=
    match s.oldestReserved p with
    | some (f, _) => loose ((s.unreserve f).addFld (KVP_POOL_STATE_STEALS p) 1)
    | none => none
  let rest : Option (Nat × State) :=
    match loose s with
    | some r => some r
    | none =>
      match s.freeBlock p with
      | some f => some (f + j * u, s.used.takeSlot p f j)
      | none => steal
  match s.reservedFor v with
  | some (f, b) => if bitOf b.taken j then rest else some (f + j * u, s.takeSlot p f j)
  | none =>
    if (s.pte (runOf v)).valid ∧ v ≠ runOf v then rest
    else
      match s.freeBlock p with
      | none => rest
      | some f =>
        let s := s.used
        let s := s.changePte (runOf v) { s.pte (runOf v) with runStart := true, frame := f }
        let s := { s with kvp := { s.kvp with age := s.kvp.age + 1 } }
        let s := s.putBlock f { pool := p, taken := withBit 0 j, resv := some (runOf v), age := s.kvp.age }
        some (f + j * u, s)

/-- The walker operations of the package in flight. -/
def State.walkers (s : State) : List (Nat × Nat × Nat) :=
  s.tiles.flatMap (fun t => (t.2.ops.filter (fun o => o.2.started && o.2.engineCode == 8)).map (fun o => (t.1, o.1, o.2.gen)))

/-- A frame of HBM freed (R275): it returns to its pool later. -/
def State.freeFrame (s : State) (f : Nat) : State :=
  { s with kvp := { s.kvp with freed := s.kvp.freed ++ [⟨f, s.tick, s.walkers⟩] } }

/-- Host space of a page released. -/
def State.freeHost (s : State) (tier f : Nat) : State :=
  if tier = 1 then { s with kvp := { s.kvp with ddr := smapDel s.kvp.ddr f } }
  else { s with kvp := { s.kvp with cxl := smapDel s.kvp.cxl f } }

/-- The frame of an entry freed, in whichever tier it lies. -/
def State.freePage (s : State) (tier f : Nat) : State := if tier = 0 then s.freeFrame f else s.freeHost tier f

/-- The boundary's return of freed frames (R275). -/
def State.returnFrames (s : State) (n : Nat) : State :=
  let live (u : Nat × Nat × Nat) : Bool := match s.op u.1 u.2.1 with | some o => o.gen == u.2.2 | none => false
  let due (x : FreeFrame) : Bool := decide (x.tick + 3 ≤ n) && !(x.users.any live)
  let now := s.kvp.freed.filter due
  now.foldl (fun s x =>
    match s.poolOf x.frame with
    | some p =>
      let f := s.blockOf p x.frame
      let b := s.block f
      s.putBlock f { b with taken := withoutBit b.taken (s.slotOf p x.frame) }
    | none => s) { s with kvp := { s.kvp with freed := s.kvp.freed.filter (fun x => !(due x)) } }

/-! ## Sharing (R263, R270, R274) -/

/-- The sequence of a HELD owner loses one HELD entry (R263). -/
def State.unheld (s : State) (v : Nat) : State :=
  match s.seqOf v with
  | none => s
  | some i =>
    let q := s.seq i
    let s := s.putSeq i { q with held := q.held - 1, state := if q.held ≤ 1 ∧ q.state = 2 then 0 else q.state }
    if q.held ≤ 1 ∧ q.state = 2 then s.subFld KVP_STATUS_OPEN_SEQS 1 else s

/-- One mapping of an owner's frame goes (R270): REFS falls, COW clears at 1, and a HELD owner whose REFS reaches 0 is freed. -/
def State.lowerRefs (s : State) (v : Nat) : State :=
  let e := s.pte v
  let r := e.refs - 1
  if e.held ∧ r = 0 then
    ((s.changePte v {}).freePage e.tier e.frame).unheld v
  else s.changePte v { e with refs := r, cow := e.cow && r != 1 }

/-- The physical address of a frame unit. -/
def frameAddr (f : Nat) : Nat := f * 256

/-- The bytes of a page. -/
def State.pageBytes (s : State) (p : Nat) : Nat := s.pageUnits p * 256

/-- Entry `v` maps a new frame of its own. -/
def State.mapNew (s : State) (v f : Nat) : State :=
  s.changePte v { s.pte v with valid := true, cow := false, tier := 0, owned := true, held := false, refs := 1, frame := f, owner := 0 }

/-- A page copied into a frame. -/
def State.copyPage (s : State) (p src dst : Nat) : State :=
  (s.countHbm (frameAddr src) (s.pageBytes p)).devWrite (frameAddr dst) (s.bytesAt (frameAddr src) (s.pageBytes p))

/-! ## Accesses and prefetch (R279, R280) -/

/-- An access to the page of entry `v` recorded when the stored tick lags far enough (R279). -/
def State.touch (s : State) (v : Nat) : State :=
  let e := s.pte v
  let now := s.tick % 2 ^ 24
  if s.fld KVP_RECLAIM_ACCESS_GRAIN < (now + 2 ^ 24 - e.access) % 2 ^ 24 then s.changePte v { e with access := now } else s

/-- One lookup of the table line of entry `v` in the walker cache of die `k` (R267): 1,024 sets of four lines, least recently used
out first. -/
def State.lookup (s : State) (t v : Nat) : State :=
  let line := v / 4
  let key := dieOf t * 1024 + line % 1024
  let set := (smapFind s.kvp.cache key).getD []
  let hit := set.contains line
  let set' := (line :: set.filter (· != line)).take 4
  let s := { s with kvp := { s.kvp with cache := smapIns s.kvp.cache key set' } }
  if hit then s.addFld (KVW_CNT_CACHE_HITS t) 1 else s.addFld (KVW_CNT_CACHE_MISSES t) 1

/-- The pages that 1 % to 60 % of a pool hold (R277). -/
def State.poolPct (s : State) (p pct : Nat) : Nat := s.poolBlocks p * 16 * pct / 100

/-- Frames for a return of these pages: a free run block for an intact run, loose pages otherwise (R280). -/
def State.returnFrames' (s : State) (p : Nat) (intact : Bool) (n : Nat) : Option (List Nat × State) :=
  if intact then
    match s.freeBlock p with
    | some f => some ((List.range 16).map (fun j => f + j * s.pageUnits p),
        s.used.putBlock f { pool := p, taken := 65535 })
    | none => none
  else
    (List.range n).foldl (fun r _ =>
      match r with
      | none => none
      | some (fs, s) =>
        match s.pick (s.loosePages p) with
        | some f => some (fs ++ [f], s.used.takeSlot p (s.blockOf p f) (s.slotOf p f))
        | none => none) (some ([], s))

/-- A return move of the run of entry 16r `g`, when one is due and may start (R280). -/
def State.startReturn (s : State) (p g : Nat) : State :=
  let vs := (fromTo g 16).filter (fun v => (s.pte v).valid && ((s.pte v).tier == 1 || (s.pte v).tier == 2))
  let intact := vs.length == 16
  if vs.isEmpty || decide (s.freePages p < s.poolPct p (s.fld KVP_RECLAIM_LOW_PCT) + 16) then s
  else
    match s.returnFrames' p intact vs.length with
    | none => s
    | some (fs, s) =>
      let pages := (List.range vs.length).map (fun i =>
        let v := vs.getD i 0
        (v, (s.pte v).frame, fs.getD i 0, (s.pte v).tier, 0))
      let s := vs.foldl (fun s v => s.changePte v { s.pte v with tier := 3 }) s
      let k := s.kvp
      { s with kvp := { k with nextMove := k.nextMove + 1, moves := k.moves ++ [⟨k.nextMove, false, p, g, intact, pages⟩] } }

/-! ## Reclamation (R277, R278) -/

/-- Space of `u` units in a spill area: the lowest gap that holds it. -/
def firstGap (a u fin : Nat) : SMap Nat → Option Nat
  | [] => if a + u ≤ fin then some a else none
  | (b, n) :: m => if a + u ≤ b then some a else firstGap (b + n) u fin m

/-- Host units for `n` pages of `u` units, all in one tier: DDR first, then CXL (R278). -/
def State.hostSpace (s : State) (tier u : Nat) : Nat → Option (List Nat × State)
  | 0 => some ([], s)
  | n + 1 =>
    let (f, m) := if tier = 1 then (KVP_SPILL_DDR, s.kvp.ddr) else (KVP_SPILL_CXL, s.kvp.cxl)
    let base := bitsOf (s.reg f).toNat 21 27 * 2 ^ 13
    match firstGap base u (base + bitsOf (s.reg f).toNat 48 16 * 2 ^ 22) m with
    | none => none
    | some a =>
      let k := s.kvp
      let s := { s with kvp := if tier = 1 then { k with ddr := smapIns m a u } else { k with cxl := smapIns m a u } }
      match s.hostSpace tier u n with
      | some (as, s) => some (a :: as, s)
      | none => none

/-- The entries of run group `g` that a pool's sweep looks at: VALID, in tier 0, of the pool. -/
def State.groupPages (s : State) (p g : Nat) : List Nat :=
  (fromTo g 16).filter (fun v => (s.pte v).valid && (s.pte v).tier == 0 && s.poolOf (s.pte v).frame == some p)

/-- The position at which an APPEND of domain `d` writes, and the highest it may name (R268). -/
def State.appendStart (s : State) (d : Nat) (o : Op) : Nat :=
  let q := s.seq (o.field 8 2)
  if q.slot = s.slot d then q.l0 else q.length
def State.appendPos (s : State) (d : Nat) (o : Op) : Nat := if o.field 12 4 = 0xFFFFFFFF then s.appendStart d o else o.field 12 4

/-- The page-table entries that an APPEND writes through. -/
def State.appendPages (s : State) (d : Nat) (o : Op) : List Nat :=
  let q := s.seq (o.field 8 2)
  let pos := s.appendPos d o
  (fromTo (pos / 16) ((pos + o.field 16 2 + 15) / 16 - pos / 16)).map (q.vpn (o.field 10 2))

/-- The pages that started APPENDs wait on (R276). -/
def State.appendWaits (s : State) : List Nat :=
  s.tiles.flatMap (fun t =>
    match s.domOf t.1 with
    | some d => (t.2.ops.filter (fun e => e.2.started && !e.2.acted && e.2.engineCode == 8 && e.2.code == 2)).flatMap
        (fun e => s.appendPages d e.2)
    | none => [])

/-- Whether a run group is spillable (R278): no page of it is waited on by an APPEND (R276). -/
def State.spillable (s : State) (p g : Nat) : Bool :=
  let vs := s.groupPages p g
  !vs.isEmpty && vs.all (fun v => (s.pte v).owned && (s.pte v).refs == 1 && !(s.pte v).held && !(s.appendWaits.contains v))

/-- The age of a run group's newest access, in ticks modulo 2^24. -/
def State.groupAge (s : State) (p g : Nat) : Nat :=
  ((s.groupPages p g).map (fun v => (s.tick % 2 ^ 24 + 2 ^ 24 - (s.pte v).access) % 2 ^ 24)).foldl min (2 ^ 24 - 1)

/-- A spill of a run group starts: its entries are in transit until it ends (R276, R278). None when the host areas are full. -/
def State.startSpill (s : State) (p g : Nat) : Option State :=
  let vs := s.groupPages p g
  let u := s.pageUnits p
  let go (tier : Nat) : Option State :=
    match s.hostSpace tier u vs.length with
    | none => none
    | some (as, s) =>
      let pages := (List.range vs.length).map (fun i => (vs.getD i 0, (s.pte (vs.getD i 0)).frame, as.getD i 0, 0, tier))
      let s := vs.foldl (fun s v => s.changePte v { s.pte v with tier := 3 }) s
      let k := s.kvp
      some { s with kvp := { k with nextMove := k.nextMove + 1, moves := k.moves ++ [⟨k.nextMove, true, p, g, false, pages⟩] } }
  match go 1 with
  | some s => some s
  | none => go 2

/-- One step of a pool's sweep (R277) and the recent accesses it rewrites (R279); `left` bounds the spills it may still start. -/
def State.sweepStep (s : State) (p left : Nat) : State × Nat :=
  let g := (smapFind s.kvp.hands p).getD 0
  let hand := (g + 16) % 4194304
  let s := { s with kvp := { s.kvp with hands := smapIns s.kvp.hands p hand } }
  let s := (fromTo g 16).foldl (fun s v =>
    let now := s.tick % 2 ^ 24
    if 2 ^ 23 < (now + 2 ^ 24 - (s.pte v).access) % 2 ^ 24 then s.changePte v { s.pte v with access := (now + 2 ^ 23) % 2 ^ 24 } else s) s
  let (s, left) :=
    if s.spillable p g && decide (s.fld (KVP_POOL_STATE_AGE_CUT p) ≤ s.groupAge p g) then
      match s.startSpill p g with
      | some s => ({ s with kvp := { s.kvp with swept := p :: s.kvp.swept.filter (· != p) } }, left - 1)
      | none =>
        if s.kvp.fullSeen.contains p then (s, left)
        else ({ s with kvp := { s.kvp with fullSeen := p :: s.kvp.fullSeen } }.event 0xD0FF 0x8411 noDomain (leBytes 1 p), left)
    else (s, left)
  if hand ≠ 0 then (s, left)
  else
    let s1 := if s.kvp.swept.contains p then s
      else s.setFld (KVP_POOL_STATE_AGE_CUT p) (max (s.fld (KVP_POOL_STATE_AGE_CUT p) / 2) 1)
    ({ s1 with kvp := { s1.kvp with swept := s1.kvp.swept.filter (· != p) } }, left)

/-- The sweep of a pool at a boundary: 4,096 run groups, or until SPILL_RUNS spills have started. -/
def State.sweep (s : State) (p : Nat) : Nat → Nat → State
  | 0, _ => s
  | _, 0 => s
  | n + 1, left + 1 =>
    let r := s.sweepStep p (left + 1)
    r.1.sweep p n r.2

/-- The pages that spills of a pool in progress will free. -/
def State.spilling (s : State) (p : Nat) : Nat :=
  ((s.kvp.moves.filter (fun m => m.spill && m.pool == p)).map (fun m => m.pages.length)).sum

/-- Reclamation of one pool at a boundary (R277). -/
def State.reclaimPool (s : State) (p : Nat) : State :=
  let low := s.poolPct p (s.fld KVP_RECLAIM_LOW_PCT)
  let high := s.poolPct p (s.fld KVP_RECLAIM_HIGH_PCT)
  let free := s.freePages p
  let s := if free < low ∧ s.fld (KVP_POOL_STATE_ACTIVE p) = 0 then
      let s := { s with kvp := { s.kvp with fullSeen := s.kvp.fullSeen.filter (· != p) } }
      (s.setFld (KVP_POOL_STATE_ACTIVE p) 1).event 0xD0FF 0x8410 noDomain
        (leBytes 1 p ++ zeros 3 ++ leBytes 4 free ++ leBytes 4 low)
    else s
  if s.fld (KVP_POOL_STATE_ACTIVE p) = 0 then s
  else
    let s := s.sweep p 4096 (s.fld KVP_RECLAIM_SPILL_RUNS)
    if high ≤ s.freePages p + s.spilling p then
      (s.setFld (KVP_POOL_STATE_ACTIVE p) 0).setFld (KVP_POOL_STATE_AGE_CUT p) 0x80_0000
    else s

/-- Step 7 of Table TCK-2 at the boundary that opens tick `n`: freed frames return, and the pools are swept. -/
def State.reclaim (s : State) (n : Nat) : State :=
  if s.fld KVP_STATUS_STATE = 0 then s
  else
    let s := s.returnFrames n
    if s.fld KVP_STATUS_STATE = 1 then s.pools.foldl State.reclaimPool s else s

/-! ## The ends of moves -/

/-- One page of a move that ends: its bytes, its entry, and the space it leaves. -/
def State.endPage (s : State) (m : PageMove) (x : Nat × Nat × Nat × Nat × Nat) : State :=
  let (v, frm, new, src, dest) := x
  let s := s.copyPage m.pool frm new
  let s := s.changePte v { s.pte v with tier := dest, frame := new }
  s.freePage src frm

/-- A spill or return of a run group ends (R278, R280); it never does once the grants of the page engine's reclamation are revoked
(R327). -/
def State.endMove (s : State) (id : Nat) (spill : Bool) : State :=
  match s.kvp.moves.find? (fun m => m.id == id && m.spill == spill) with
  | none => s
  | some m =>
    if s.revoked 0xD0FF then s else
    let s := { s with kvp := { s.kvp with moves := s.kvp.moves.filter (fun x => x.id != id) } }
    let s := m.pages.foldl (fun s x => s.endPage m x) s
    if spill then
      let s := match s.reservedFor m.group with
        | some (f, _) => s.unreserve f
        | none => s.changePte m.group { s.pte m.group with runStart := false }
      s.addFld (KVP_POOL_STATS_SPILLED m.pool) m.pages.length
    else
      let s := if m.intact then
          let f := s.blockOf m.pool (s.pte m.group).frame
          let s := s.changePte m.group { s.pte m.group with runStart := true }
          let s := { s with kvp := { s.kvp with age := s.kvp.age + 1 } }
          s.putBlock f { s.block f with resv := some m.group, age := s.kvp.age }
        else s
      s.addFld (KVP_POOL_STATS_RETURNED m.pool) m.pages.length

/-- SPILL_MOVE_END: a spill of a run group to host memory ends (R278). -/
def execSpillMoveEnd (id : Nat) (found : List Found) (s : State) : Out := .next ((s.findErrors found).endMove id true)
/-- RETURN_MOVE_END: a return of a run to HBM ends (R280). -/
def execReturnMoveEnd (id : Nat) (found : List Found) (s : State) : Out := .next ((s.findErrors found).endMove id false)

/-! ## Enable and drain (R285) -/

/-- Whether a spill area lies in the memory of its tier, clear of the reserved areas (R285). -/
def State.spillAreaOk (s : State) (r : Nat) (cxl : Bool) : Bool :=
  let v := (s.reg r).toNat
  let base := bitsOf v 21 27 * 2 ^ 21
  let size := bitsOf v 48 16 * 2 ^ 30
  let f := s.foundation
  size == 0 ||
    (if cxl then decide (cxlBase ≤ base ∧ base + size ≤ cxlBase + s.cxlSize)
     else decide (base + size ≤ s.ddrSize)) &&
      !(overlaps base size s.stageBase (256 * 2 ^ 20)) && !(overlaps base size s.errAreaBase (f.errAreaMib * 2 ^ 20)) &&
      !(overlaps base size s.errRingBase (64 * 2 ^ f.errRingLog2))

/-- Whether the configuration may be enabled (R285). -/
def State.kvpOk (s : State) : Bool :=
  match s.poolEntry 0 with
  | none => false
  | some e =>
    fieldAt e 1 1 == 0 && decide (kvpTables + s.pageBytes 0 * 16 ≤ fieldAt e 16 8) && s.pools.all s.geomOk &&
      s.spillAreaOk KVP_SPILL_DDR false && s.spillAreaOk KVP_SPILL_CXL true

/-- One entry of tables found at an enable without INIT taken over: its frame or host space is in use, and its reservation
stands. -/
def State.adoptEntry (s : State) (v : Nat) : State :=
  let e := s.pte v
  let s := if e.owned && (e.valid || e.held) then
      match e.tier, s.poolOf e.frame with
      | 0, some p => s.takeSlot p (s.blockOf p e.frame) (s.slotOf p e.frame)
      | 1, _ => { s with kvp := { s.kvp with ddr := smapIns s.kvp.ddr e.frame (s.pageUnits ((s.seqOf v).elim 0 (fun i => (s.seq i).pool))) } }
      | 2, _ => { s with kvp := { s.kvp with cxl := smapIns s.kvp.cxl e.frame (s.pageUnits ((s.seqOf v).elim 0 (fun i => (s.seq i).pool))) } }
      | _, _ => s
    else s
  if e.runStart && v % 16 == 0 then
    match s.poolOf e.frame with
    | some p =>
      let f := s.blockOf p e.frame
      let s := { s with kvp := { s.kvp with age := s.kvp.age + 1 } }
      s.putBlock f { s.block f with pool := p, resv := some v, age := s.kvp.age }
    | none => s
  else s

/-- The first `n` bytes of a region of HBM zeroed: whole stripes by channel, the rest byte by byte. -/
def State.clearHead (s : State) (r : HbmRegion) (n : Nat) : State :=
  let k := max 1 r.pcs.length
  let full := n / 256 / k
  let s := r.pcs.foldl (fun s pc => s.clear (hbmBase + pc * pcBytes + r.bases.getD (pc / 256) 0 * 256) (full * 256)) s
  s.store (hbmBase + r.base + full * k * 256) (zeros (n - full * k * 256))

/-- KVP_ENABLE: writing ENABLE 1 (R285). -/
def execKvpEnable (init : Bool) (found : List Found) (s : State) : Out :=
  let s := s.findErrors found
  if s.phase ≠ .running then .next s
  else
    let s := s.setFld KVP_CTRL_INIT (if init then 1 else 0)
    if s.fld KVP_STATUS_STATE ≠ 0 then .next s
    else if s.kvpOk = false then .next (s.setFld KVP_STATUS_LAST_ERROR 0x040A)
    else
      let s := { s with kvp := { tables := true } }
      let s := ((s.setFld KVP_CTRL_ENABLE 1).setFld KVP_STATUS_STATE 1).setReg KVP_TABLE_BASE (word s.tableBase)
      let s := if init then
          let c : State := match s.hbmMap.regions.find? (fun r => r.base == s.tableBase - hbmBase) with
            | some r => s.clearHead r kvpTables
            | none => s
          c.setFld KVP_STATUS_OPEN_SEQS 0
        else
          let s := (List.range 4194304).foldl State.adoptEntry s
          s.setFld KVP_STATUS_OPEN_SEQS ((List.range 65536).filter (fun i => (s.seq i).state != 0)).length
      .next s

/-- KVP_DISABLE: writing ENABLE 0 (R285). -/
def execKvpDisable (s : State) : Out :=
  if s.phase ≠ .running ∨ s.fld KVP_STATUS_STATE ≠ 1 then .next s
  else .next ((s.setFld KVP_STATUS_STATE 2).setFld KVP_CTRL_ENABLE 0)

/-- KVP_DRAIN_END: the last operation and move in flight has ended (R285). -/
def execKvpDrainEnd (s : State) : Out :=
  if s.fld KVP_STATUS_STATE = 2 ∧ s.walkers = [] ∧ s.kvp.moves = [] then .next (s.setFld KVP_STATUS_STATE 0) else .next s

end Sys2Proof.Machine
end

