-- ==== Sys2Proof/Machine/Commands.lean ====
section
/-!
DEFINITION. The COMPUTE commands, STEP RESUME, and the QUERY commands (chapter 06).
-/
namespace Sys2Proof.Machine

/-! ## COMPUTE (Table CMD-4, R126) -/

/-- The argument block of a LAUNCH copied into the argument area of its domain (R126): the status and DETAIL of a source that
is not there or is poisoned, otherwise the state. -/
def State.copyArgs (s : State) (d src n : Nat) : Except (Nat × Nat) State :=
  if src = 0 then .ok s
  else if s.mappedAll src n = false then .error (ST_ADDRESS_UNMAPPED, 0)
  else
    match s.poisonedIn src n with
    | some a => .error (ST_POISONED, a % 2 ^ 32)
    | none => .ok (s.devWrite (s.argArea d) (s.physRead src n))

/-- Whether a LAUNCH of domain `d` has to wait: an earlier one is outstanding, be it that only its record is still held back (R126, R115). -/
def State.launchBusy (s : State) (d : Nat) (h : Word) : Bool :=
  (s.dom d).launchNext.isSome || (match (s.dom d).launch with | some l => l.handle != 0#64 | none => false) ||
    s.cmds.any (fun q => q.handle != h && q.started && q.cls == 1 && q.op == 1 && q.domain == d)

/-- LAUNCH (R126): the argument block is copied, and the domain runs its programs from its next slot on. A second LAUNCH waits
for the first to complete. -/
def execLaunch (h : Word) (found : List Found) (s : State) : Out :=
  let s := s.findErrors found
  match s.ready h 1 1 with
  | none => .next s
  | some p =>
    let d := p.domain
    if s.launchBusy d h then .next s
    else .next (s.beginWith p (fun s =>
      if (s.dom d).noSpare then s.finishWith h ST_UNIT_FAULT
      else
        let src := fieldAt p.entry 16 8
        match s.copyArgs d src (fieldAt p.entry 24 4) with
        | .error (st, detail) => (s.engineFault src (fieldAt p.entry 24 4)).finish h { status := st, detail := detail }
        | .ok s => s.setDom d { s.dom d with launchNext := some { handle := h, limit := fieldAt p.entry 28 4, args := src != 0 } }))

/-- STOP (Table CMD-4): it completes at the boundary at which the domain's LAUNCH is ended; at once when none runs. -/
def execStop (h : Word) (s : State) : Out :=
  match s.ready h 1 2 with
  | none => .next s
  | some p =>
    let s := s.begin p
    let x := s.dom p.domain
    let live := x.launchNext.isSome || (match x.launch with | some l => l.handle != 0#64 | none => false)
    if live then .next (s.setDom p.domain { x with stops := x.stops ++ [h] }) else .next (s.finishWith h ST_OK)

/-- SIGNAL (Table CMD-4, R149, R154): the message is offered to the channel of the physical tile that runs the logical tile. -/
def execSignal (h : Word) (s : State) : Out :=
  match s.ready h 1 3 with
  | none => .next s
  | some p =>
    .next (s.beginWith p (fun s =>
      let l := fieldAt p.entry 16 2
      let c := fieldAt p.entry 18 1
      let n := fieldAt p.entry 20 2
      if (s.domTiles p.domain).contains l then
        s.offerHost ⟨s.phys p.domain l, c, messageBytes 0xFFFF l c 3 n 0 0 0xFFFF 0xFFFF 0 (takeAt p.entry 24 32), h, some (p.domain, l)⟩
      else s.finishWith h ST_UNDELIVERABLE))

/-! ## STEP RESUME (R128) -/

/-- RESUME (R79, R128, R426): a STOPPED domain replays its unfinished slot at the next boundary. -/
def execStepResume (h : Word) (s : State) : Out :=
  match s.ready h 4 3 with
  | none => .next s
  | some p =>
    let s := s.begin p
    let x := s.dom p.domain
    if s.domState p.domain ≠ 3 ∨ x.resumeBy.isSome = true then .next (s.finishWith h ST_NOT_STOPPED)
    else if x.noSpare then .next (s.finishWith h ST_UNIT_FAULT)
    else .next (s.setDom p.domain { x with resumeBy := some h, recoverDue := s.tick + 2 })

/-! ## QUERY (Table CMD-7) -/

/-- `n` bytes the spec does not give. -/
def State.freeBytes (s : State) (n : Nat) : Bytes := (List.range n).map (Config.freeByte s.fresh)

/-- INFO: a 512-byte block, whose contents the spec does not give, written to the output address. -/
def execQueryInfo (h : Word) (s : State) : Out :=
  match s.ready h 7 1 with
  | none => .next s
  | some p =>
    let s := s.begin p
    let a := fieldAt p.entry 16 8
    if s.mappedAll a 512 then
      .next ({ (s.devWrite a (s.freeBytes 512)) with fresh := s.fresh + 1 }.finishOk h 512)
    else .next ((s.engineFault a 512).finishWith h ST_ADDRESS_UNMAPPED)

/-- TIME_MEASURE (R86): on the time master it completes at once with RESULT 0; elsewhere it waits for a 16-trip measurement. -/
def execTimeMeasure (h : Word) (s : State) : Out :=
  match s.ready h 7 2 with
  | none => .next s
  | some p =>
    let s := s.begin p
    if s.isTimeMaster then .next (s.finishOk h 0)
    else
      let s := { s with measureBy := s.measureBy ++ [h] }
      .next (if s.fld CTL_TIME_STATUS_MEASURING = 1 then s else s.startMeasure)

/-- The state of a handle (R115): 1 outstanding, 0 completed in this incarnation, 2 foreign. -/
def State.handleState (s : State) (h : Word) : Nat :=
  if (s.cmd h).isSome then 1
  else
    let q := bitsOf h.toNat 56 8
    let seq := bitsOf h.toNat 24 32
    let inc := s.fld CTL_INCARNATION_INCARNATION
    let x := s.queue q
    if h == mkHandle q seq inc && decide ((seq + 2 ^ 32 - x.firstSeq) % 2 ^ 32 < x.seqs) then 0 else 2

/-- HANDLE_STATE (R115). -/
def execHandleState (h : Word) (s : State) : Out :=
  match s.ready h 7 3 with
  | none => .next s
  | some p =>
    let s := s.begin p
    .next (s.finishOk h (s.handleState (word (fieldAt p.entry 16 8))))

end Sys2Proof.Machine
end

