-- ==== Sys2Proof/Machine/Collectives.lean ====
section
/-!
DEFINITION. Collectives (R357 to R368).
-/
namespace Sys2Proof.Machine

/-! ## The post (Table LIN-4) -/

def postId (p : Bytes) : Nat := fieldAt p 8 2
def postKind (p : Bytes) : Nat := bitsOf (fieldAt p 10 1) 0 3
def postOp (p : Bytes) : Nat := bitsOf (fieldAt p 11 1) 0 2
def postDrop (p : Bytes) : Bool := bitOf (fieldAt p 11 1) 2 || decide (3 ≤ postKind p)
def postIn (p : Bytes) : Nat := bitsOf (fieldAt p 12 1) 0 4
def postOut (p : Bytes) : Nat := bitsOf (fieldAt p 12 1) 4 4
def postCoded (p : Bytes) : Bool := bitOf (fieldAt p 11 1) 3
def postClass (p : Bytes) : Nat := bitsOf (fieldAt p 13 1) 0 4
def postGrace (p : Bytes) : Nat := if fieldAt p 14 2 = 0 then 20 else fieldAt p 14 2
def postSrc (p : Bytes) : Nat := fieldAt p 16 8
def postDst (p : Bytes) : Nat := fieldAt p 24 8
def postCount (p : Bytes) : Nat := fieldAt p 32 4
def postMiss (p : Bytes) : Nat := if fieldAt p 36 2 = 0 then 1024 else fieldAt p 36 2
def postHard (p : Bytes) : Nat := if fieldAt p 38 2 = 0 then 2000 else fieldAt p 38 2
def postGroup (p : Bytes) : Nat := fieldAt p 40 8
def postRecord (p : Bytes) : Nat := fieldAt p 48 8
def postRoot (p : Bytes) : Nat := fieldAt p 56 2

/-- The bytes of an element of a collective's type. -/
def collSize (ty : Nat) : Nat := if ty = 1 then 2 else 4

/-- The element range of block `j` of this member's contribution: first element and number (R358, R359). -/
def blockRange (p : Bytes) (n j : Nat) : Nat × Nat :=
  let c := postCount p
  match postKind p with
  | 1 => let b := (c + n - 1) / max 1 n; (min c (j * b), min c ((j + 1) * b) - min c (j * b))
  | 2 => (j * c, c)
  | 5 => (j * c, c)
  | _ => (0, c)

/-- The elements of SRC and of DST. -/
def srcElems (p : Bytes) (n : Nat) : Nat := if postKind p = 2 ∨ postKind p = 5 then n * postCount p else postCount p
def dstElems (p : Bytes) (n : Nat) : Nat := if postKind p = 3 ∨ postKind p = 5 then n * postCount p else postCount p

/-- Whether `n` bytes at an address lie in the HBM of the admitted stacks. -/
def State.hbmAll (s : State) (a n : Nat) : Bool := decide (hbmBase ≤ a ∧ a + n ≤ hbmBase + s.hbmSize)

/-- The descriptor fault of a COLL_POST, if it has one (R357). -/
def State.postFault (s : State) (o : Op) : Option Nat :=
  let p := o.desc
  let ty (v : Nat) := v == 0 || v == 1 || v == 3
  let n := s.numAt (postGroup p) 2
  let ns := srcElems p n * collSize (postIn p)
  let nd := dstElems p n * collSize (postOut p)
  let same := postKind p == 1 && postSrc p == postDst p
  if !(o.reservedOk [(8, 50)]) || bitsOf (o.field 10 1) 3 5 != 0 || bitsOf (o.field 11 1) 4 4 != 0 || bitsOf (o.field 13 1) 4 4 != 0
  then some ST_REJECTED_RESERVED
  else if postId p > 4095 ∨ postKind p < 1 ∨ 5 < postKind p ∨ (postKind p ≤ 2 ∧ 2 < postOp p) ∨ ty (postIn p) = false ∨
      ty (postOut p) = false ∨ postCount p < 1 ∨ 2 ^ 31 < postCount p ∨ postSrc p % 4096 ≠ 0 ∨ postDst p % 4096 ≠ 0 ∨ postGroup p % 64 ≠ 0
  then some ST_OP_DESCRIPTOR
  else if postOut p == 3 && postIn p != 3 then some ST_OP_DESCRIPTOR
  else if postKind p == 4 && decide (1 ≤ n ∧ n ≤ postRoot p) then some ST_OP_DESCRIPTOR
  else if !(s.hbmAll (postGroup p) 8 && s.hbmAll (postSrc p) ns && s.hbmAll (postDst p) nd && s.hbmAll (postRecord p) 64)
  then some ST_OP_DESCRIPTOR
  else if !same && !(apart (postSrc p, postSrc p + ns) (postDst p, postDst p + nd)) then some ST_OP_DESCRIPTOR
  else none

/-- COLL_POST (R357): the descriptor is accepted, to launch when the slot has finished. -/
def execCollPost (t : Fin 384) (i : Fin 64) (found : List Found) (s : State) : Out :=
  let s := s.findErrors found
  match s.held t.val i.val [7] 2, s.domOf t.val with
  | some o, some d =>
    match s.postFault o with
    | some st => .next (s.opFault t.val i.val st)
    | none =>
      let x := s.dom d
      if x.launchedColls.contains (postId o.desc) || x.posts.any (fun q => postId q.desc == postId o.desc)
      then .next (s.opFault t.val i.val ST_COLL_DUPLICATE)
      else .next ((s.setDom d { x with posts := x.posts ++ [⟨t.val, x.step, o.desc⟩] }).actedWith t.val i.val 0)
  | _, _ => .next s

/-! ## Values (R360) -/

/-- Two elements combined under RED_OP, as FP32 patterns or 32-bit integers. -/
def combine (ty op a b : Nat) : Nat :=
  if ty = 3 then
    if op = 0 then (a + b) % 2 ^ 32
    else if (op = 1) = (signedOf 32 a < signedOf 32 b) then b else a
  else
    let x := fp32.decode a
    let y := fp32.decode b
    if op = 0 then fp32.encode (fp32.fit (x.add y))
    else if x.isNan || y.isNan then 0x7FC00000
    else if op = 1 then (if x.lt y then b else a)
    else if y.lt x then b else a

/-- Operands combined, an absent one passing the other through. -/
def combineOpt (ty op : Nat) : Option Nat → Option Nat → Option Nat
  | none, b => b
  | a, none => a
  | some a, some b => some (combine ty op a b)

/-- The largest power of two below `n`, from `p` on. -/
def halfTree : Nat → Nat → Nat → Nat
  | 0, p, _ => p
  | f + 1, p, n => if 2 * p < n then halfTree f (2 * p) n else p

/-- The tree over members lo to lo + n − 1 (R360). -/
def collTree (ty op : Nat) (v : Nat → Option Nat) : Nat → Nat → Nat → Option Nat
  | 0, lo, _ => v lo
  | f + 1, lo, n =>
    if n ≤ 1 then v lo
    else
      let p := halfTree 14 1 n
      combineOpt ty op (collTree ty op v f lo p) (collTree ty op v f (lo + p) (n - p))

/-- Element `e` of a contribution, widened. -/
def partElem (ty : Nat) (bs : Bytes) (e : Nat) : Nat := if ty = 1 then 2 ^ 16 * fieldAt bs (2 * e) 2 else fieldAt bs (4 * e) 4

/-- A reduced element converted to OUT_TYPE: -0 as +0, any NaN as the quiet one, RNE. -/
def collOut (inTy outTy v : Nat) : Bytes :=
  if outTy = 3 then leBytes 4 v
  else
    let x := if inTy = 3 then numOfInt (signedOf 32 v) else fp32.decode v
    let x := if x.isZero then Num.zero else x
    if outTy = 1 then leBytes 2 (if x.isNan then 0x7FC0 else bf16.encode (bf16.fit x))
    else leBytes 4 (if x.isNan then 0x7FC00000 else fp32.encode (fp32.fit x))

/-- A block reduced over the members of `parts`, with the tails of `tails` combined last. -/
def reduceBlock (p : Bytes) (n elems : Nat) (parts tails : List (Nat × Bytes)) : Bytes :=
  let ty := postIn p
  (List.range elems).flatMap (fun e =>
    let v (ps : List (Nat × Bytes)) (m : Nat) := (ps.find? (fun q => q.1 == m)).map (fun q => partElem ty q.2 e)
    let r := combineOpt ty (postOp p) (collTree ty (postOp p) (v parts) 14 0 n) (collTree ty (postOp p) (v tails) 14 0 n)
    collOut ty (postOut p) (r.getD 0))

/-- The elements of a copied block converted to OUT_TYPE. -/
def copyBlock (p : Bytes) (elems : Nat) (bs : Bytes) : Bytes :=
  if postIn p = postOut p then bs
  else (List.range elems).flatMap (fun e => collOut (postIn p) (postOut p) (partElem (postIn p) bs e))

/-! ## Chunks (R359) -/

/-- The bytes of a collective's chunk. -/
def chunkBytes : Nat := 4096

/-- The key of chunk `c` from a member. -/
def partKey (member c : Nat) : Nat := member * 2 ^ 21 + c

/-- The chunks of `len` bytes. -/
def chunksOf (len : Nat) : Nat := (len + chunkBytes - 1) / chunkBytes

/-- The bytes that a store of chunks holds from a member, once all of `len` bytes are there. -/
def gathered (m : SMap Bytes) (member len : Nat) : Option Bytes :=
  if (List.range (chunksOf len)).all (fun c => (smapFind m (partKey member c)).isSome) then
    some (padTo len ((List.range (chunksOf len)).flatMap (fun c => (smapFind m (partKey member c)).getD [])))
  else none

/-- A byte string kept as the chunks of a member. -/
def keepChunks (m : SMap Bytes) (member : Nat) (bs : Bytes) : SMap Bytes :=
  (List.range (chunksOf bs.length)).foldl (fun m c => smapIns m (partKey member c) ((bs.drop (c * chunkBytes)).take chunkBytes)) m

/-- The link dies that carry a domain's chunks. -/
def State.chunkDies (s : State) (d : Nat) : List Nat :=
  let mask := match s.domEntry d with | some e => fieldAt e 3 1 | none => 15
  (List.range 4).filter (fun n => bitOf mask n && bitOf s.links n)

/-! ## Instances -/

/-- The place of an instance. -/
def State.collAt (s : State) (d id step : Nat) : Option Nat :=
  (List.range s.colls.length).find? (fun k => let c := s.colls.getD k {}; c.dom == d && c.id == id && c.step == step)

/-- An instance, a fresh one when nothing of it is known. -/
def State.coll (s : State) (d id step : Nat) : Coll :=
  match s.collAt d id step with
  | some k => s.colls.getD k {}
  | none => { dom := d, id := id, step := step }

def State.setColl (s : State) (c : Coll) : State :=
  match s.collAt c.dom c.id c.step with
  | some k => { s with colls := s.colls.set k c }
  | none => { s with colls := s.colls ++ [c] }

/-- Whether a member's peer is live now. -/
def State.memberUp (s : State) (c : Coll) (i : Nat) : Bool := s.live (c.ranks.getD i 0xFFFF)

/-- Whether a member is live and has not been lost since the instance is known here (R353, R362). -/
def State.memberLive (s : State) (c : Coll) (i : Nat) : Bool := s.memberUp c i && !(c.lost.contains (c.ranks.getD i 0xFFFF))

/-- The coordinator: the live member of lowest index (R361). -/
def State.coordinator (s : State) (c : Coll) : Nat := ((List.range c.ranks.length).find? (s.memberUp c)).getD 0

/-- A frame for a member. -/
def State.sendMember (s : State) (c : Coll) (i n type : Nat) (b : Body) : State :=
  if i = c.self then s else s.sendFrame n (c.ranks.getD i 0xFFFF) type b

/-- What this member's contributions are held against. -/
def Coll.kin (c : Coll) : Kin := { n := c.ranks.length, count := postCount c.post, op := postOp c.post, crc := c.crc }

/-- The engine unit of an instance's home link die (R369). -/
def Coll.unit (c : Coll) : Nat := 0x4200 + c.home

/-- Up to `n` indices of 2 bytes, 0xFFFF unused. -/
def indexList (n : Nat) (is : List Nat) : Bytes := (is.take n ++ List.replicate (n - is.length) 0xFFFF).flatMap (leBytes 2)

/-- The completion record (Table LIN-5). -/
def collRecord (status state flags missing tails step time : Nat) (idx : List Nat) : Bytes :=
  leBytes 2 status ++ leBytes 1 state ++ leBytes 1 flags ++ leBytes 2 missing ++ leBytes 2 tails ++ leBytes 8 step ++
    leBytes 8 time ++ zeros 8 ++ indexList 16 idx

/-! ## Tails (R365) -/

/-- The bytes of the buffer SRAM of a link die. -/
def sramBytes : Nat := 128 * 2 ^ 20

def Tail.size (x : Tail) : Nat := (x.parts.map (fun e => e.2.length)).sum

/-- The bytes of tails that link die `n` holds: in its SRAM, or in its holding area. -/
def State.tailBytesAt (s : State) (n : Nat) (inHbm : Bool) : Nat :=
  ((s.tails.filter (fun x => x.die == n && x.inHbm == inHbm)).map Tail.size).sum

/-- The bytes of the buffer SRAM of link die `n` that hold operands, at the home of their collective (DESIGN CHOICE), and tails. -/
def State.sramUsed (s : State) (n : Nat) : Nat :=
  ((s.colls.filter (fun c => c.home == n)).map (fun c => (c.parts.map (fun e => e.2.length)).sum)).sum + s.tailBytesAt n false

/-- The tails of a link die counted: HELD. -/
def State.showTails (s : State) (n : Nat) : State :=
  s.setFld (LNK_TAIL_COUNTS_HELD n) (satTo 0xFFFF (s.tails.filter (fun x => x.die == n && !x.gone)).length)

/-- Whether a tail is that of a member of an instance. -/
def Tail.of (x : Tail) (c : Coll) (member : Nat) : Bool := x.dom == c.dom && x.coll == c.id && x.step == c.step && x.member == member

/-- What the next COLL record of a collective will name. -/
def State.noteTail (s : State) (d id item : Nat) : State :=
  let k := 4096 * d + id
  { s with tailNotes := smapPut (fun _ => some []) s.tailNotes k ((smapFind s.tailNotes k).getD [] ++ [item]) }

/-- Space for `n` more bytes of tails on link die `home`: in SRAM, in the holding area, or none. -/
def State.tailSpace (s : State) (home n : Nat) : Option Bool :=
  if s.sramUsed home + n ≤ sramBytes then some false
  else if s.tailBytesAt home true + n ≤ s.fld (LNK_HOLD_HBM_SIZE home) * 2 ^ 30 then some true
  else none

/-- A tail discarded, once, for a reason of Table SRV-3: what is held of it goes, it is counted, and the next COLL record names it. -/
def State.dropTail (s : State) (c : Coll) (member reason : Nat) : State :=
  if s.tails.any (fun x => x.of c member && x.gone) then s
  else
    let mark : Tail := { dom := c.dom, coll := c.id, step := c.step, member := member, die := c.home, kin := c.kin, tick := s.tick, gone := true }
    let s := { s with tails := s.tails.filter (fun (x : Tail) => !(x.of c member)) ++ [mark] }
    let s := s.addFld (if reason = 4 then LNK_TAIL_COUNTS_OVERFLOW c.home else LNK_TAIL_COUNTS_DISCARDED c.home) 1
    (s.noteTail c.dom c.id (member + reason * 2 ^ 16)).showTails c.home

/-- The first instance of collective `id` of domain `d` that satisfies `p`. -/
def State.findColl (s : State) (d id : Nat) (p : Coll → Bool) : Option Coll :=
  s.colls.find? (fun c => c.dom == d && c.id == id && p c)

/-- Whether the next instance has been decided without the tail of a member. -/
def State.tailLate (s : State) (c : Coll) (member : Nat) : Bool :=
  match s.findColl c.dom c.id (fun q => q.step == c.step + 1 && q.launched.isSome) with
  | some q => q.ended || (match q.verdict with | some v => !(v.added.contains member) | none => false)
  | none => false

/-- A chunk of a contribution that came after its decision (R365): discarded under LATE DROP, or when the next instance has been decided
without it, or for want of space; held otherwise. -/
def State.takeTail (s : State) (c : Coll) (member chunk : Nat) (nf : Bool) (kin : Kin) (bs : Bytes) : State :=
  if postDrop c.post then s.dropTail c member 2
  else if s.tails.any (fun x => x.of c member && x.gone) then s
  else if s.tailLate c member then s.dropTail c member 3
  else
    match s.tailSpace c.home bs.length with
    | none =>
      (s.dropTail c member 4).event c.unit EV_TAIL_OVERFLOW c.dom (leBytes 2 c.id ++ leBytes 2 member ++ zeros 4 ++ leBytes 8 c.step)
    | some hbm =>
      let s := if s.tails.any (fun x => x.of c member) then
          { s with tails := s.tails.map (fun (x : Tail) => if x.of c member then { x with parts := smapIns x.parts (partKey member chunk) bs } else x) }
        else
          { s with tails := s.tails ++ [{ dom := c.dom, coll := c.id, step := c.step, member := member, die := c.home, kin := kin,
                                          tick := s.tick, nonfinite := nf, parts := [(partKey member chunk, bs)], inHbm := hbm }] }
      s.showTails c.home

/-- The tails held of the step before an instance: those it may add. -/
def State.tailsFor (s : State) (c : Coll) : List Tail :=
  s.tails.filter (fun x => x.dom == c.dom && x.coll == c.id && x.step + 1 == c.step && !x.gone)

/-- The bytes of a whole tail of the block owned here. -/
def Coll.tailBytes (c : Coll) (x : Tail) : Option Bytes :=
  gathered x.parts x.member ((blockRange c.post c.ranks.length c.self).2 * collSize (postIn c.post))

/-- Whether the coordinator adds a tail to an instance that it decides now (R365). -/
def State.tailFits (s : State) (c : Coll) (x : Tail) : Bool :=
  decide (x.kin = c.kin) && (c.tailBytes x).isSome && decide (s.tick - x.tick ≤ postHard c.post)

/-- Whether the tail of a member that a decision adds is here in whole, or has been discarded here. -/
def State.tailHere (s : State) (c : Coll) (member : Nat) : Bool :=
  s.tails.any (fun x => x.of { c with step := c.step - 1 } member && (x.gone || (c.tailBytes x).isSome))

/-! ## Ends (R366, R368) -/

/-- An instance has ended here: what it held is freed. -/
def State.endColl (s : State) (c : Coll) : State :=
  let s := s.setColl { c with ended := true, parts := [], results := [] }
  let s := { s with tails := s.tails.filter (fun x => x.gone || !(x.dom == c.dom && x.coll == c.id && decide (x.step < c.step))) }
  s.showTails c.home

/-- The members that the decision of an instance leaves out, none without a decision. -/
def Coll.missing (c : Coll) : List Nat :=
  c.verdict.elim [] (fun v => (List.range c.ranks.length).filter (fun m => !(v.present.contains m)))

/-- A collective fails (R366): the record, DST unpredictable, an error record naming the home engine. -/
def State.failColl (s : State) (c : Coll) (status time : Nat) : State :=
  let n := dstElems c.post c.ranks.length * collSize (postOut c.post)
  let s := s.openRows n (postDst c.post) n 1
  let flags := c.verdict.elim 0 (fun v => if v.nonfinite then 1 else 0)
  let s := s.devWrite (postRecord c.post) (collRecord status 1 flags c.missing.length 0 c.step time c.missing)
  let s := (s.addFld (LNK_COLL_COUNTS_FAILED c.home) 1).fault c.unit 2 { code := status, dom := c.dom }
  let s := s.closeWindows (· == c.unit)
  s.endColl c

/-- The bytes that this member is to hold from member `m`. -/
def Coll.partLen (c : Coll) : Nat := (blockRange c.post c.ranks.length c.self).2 * collSize (postIn c.post)

/-- The present members whose contributions this member combines or copies. -/
def Coll.wanted (c : Coll) (v : Verdict) : List Nat := if postKind c.post = 4 then [postRoot c.post] else v.present

/-- The block owned here is reduced as soon as its decided contributions and tails are held; for ALL_REDUCE it is returned to every member
(R359, R360). -/
def State.tryReduce (s : State) (c : Coll) : State :=
  match c.verdict with
  | none => s
  | some v =>
    if c.launched.isNone ∨ c.reduced ∨ c.ended ∨ 2 < postKind c.post ∨ v.present.any (fun m => (gathered c.parts m c.partLen).isNone) ∨
        (c.partLen ≠ 0 ∧ v.added.any (fun m => !(s.tailHere c m))) then s
    else
      let tails := (s.tailsFor c).filter (fun x => v.added.contains x.member)
      let range := blockRange c.post c.ranks.length c.self
      let out := reduceBlock c.post c.ranks.length range.2
        (v.present.map (fun m => (m, (gathered c.parts m c.partLen).getD [])))
        (tails.map (fun x => (x.member, (c.tailBytes x).getD [])))
      let c := { c with reduced := true, results := keepChunks c.results c.self out, parts := [] }
      let s := s.setColl c
      if postKind c.post = 2 then s
      else
        let dies := s.chunkDies c.dom
        (List.range c.ranks.length).foldl (fun s m => (List.range (chunksOf out.length)).foldl (fun s k =>
          s.sendMember c m (dies.getD (k % max 1 dies.length) c.home) 3
            (.collData c.dom c.id c.step c.self c.self k true v.nonfinite (postCoded c.post) c.kin ((out.drop (k * chunkBytes)).take chunkBytes))) s) s

/-! ## Decisions (R361, R362, R364) -/

/-- The items of a COLL record (Table SRV-3): a tail that the decision drops has failed the conditions of R365, and is named as expired. -/
def collItems (missing added dropped : List Nat) : List Nat :=
  missing ++ added.map (· + 2 ^ 16) ++ dropped.map (· + 3 * 2 ^ 16)

/-- FLAGS of a COLL record: how the collective was decided (DESIGN CHOICE), 0 OK, 1 COLL_TIMEOUT, 2 GROUP_MISMATCH. -/
def collFlags (status : Nat) : Nat := if status = ST_COLL_TIMEOUT then 1 else if status = ST_GROUP_MISMATCH then 2 else 0

/-- The tails of earlier steps that a decision leaves out are discarded: those that it drops itself it names, the others are added to the
notes. -/
def State.expireTails (s : State) (c : Coll) (v : Verdict) : State :=
  let out (x : Tail) : Bool := x.dom == c.dom && x.coll == c.id && decide (x.step < c.step) && !x.gone &&
    !(x.step + 1 == c.step && v.added.contains x.member)
  let gone := s.tails.filter out
  let s := gone.foldl (fun s x =>
    if x.step + 1 = c.step ∧ v.dropped.contains x.member = true then s else s.noteTail c.dom c.id (x.member + 3 * 2 ^ 16)) s
  let s := { s with tails := s.tails.map (fun x => if out x then { x with gone := true, parts := [] } else x) }
  (s.addFld (LNK_TAIL_COUNTS_DISCARDED c.home) gone.length).showTails c.home

/-- What had come of the contributions of members that the decision leaves out: their chunks are tails (R365); a contribution of which a chunk was
lost is lost. -/
def State.lateParts (s : State) (c : Coll) (parts : SMap Bytes) : State :=
  let s := parts.foldl (fun s e =>
    let m := e.1 / 2 ^ 21
    let k := (smapFind c.kins m).getD (c.kin, c.stepNf)
    s.takeTail c m (e.1 % 2 ^ 21) k.2 k.1 e.2) s
  (c.holes.filter (fun m => c.missing.contains m)).foldl (fun s m => s.dropTail c m 5) s

/-- A decision takes hold here, or waits for the launch: the tails that do not join it are discarded, and the spool records it; a failed one ends
the instance. -/
def State.applyVerdict (s : State) (c : Coll) (v : Verdict) : State :=
  if c.verdict.isSome ∨ c.ended then s
  else if c.launched.isNone then s.setColl { c with verdict := some v }
  else
    let ok := v.status == ST_OK || v.status == ST_OK_PARTIAL
    let mine (e : Nat × Bytes) : Bool := v.present.contains (e.1 / 2 ^ 21) || !(ok && decide (postKind c.post ≤ 2))
    let late := c.parts.filter (fun e => !(mine e))
    let c := { c with verdict := some v, notices := [], parts := c.parts.filter mine }
    let s := (s.setColl c).expireTails c v
    let k := 4096 * c.dom + c.id
    let notes := (smapFind s.tailNotes k).getD []
    let s := { s with tailNotes := smapDel s.tailNotes k }
    let s := s.trace (0x4200 + c.home) 6 c.dom 0 (leBytes 2 c.id ++ leBytes 2 c.missing.length ++ zeros 4 ++ leBytes 8 c.step)
    let s := s.spoolFor c.dom c.step 5 (collFlags v.status)
      (leBytes 2 c.id ++ leBytes 2 c.ranks.length ++ leBytes 1 (if v.nonfinite then 1 else 0)) (collItems c.missing v.added v.dropped ++ notes)
    if ok then (s.lateParts c late).tryReduce c
    else s.failColl c v.status v.time

/-- The coordinator decides (R361): its decision goes to every live member; a failed collective adds no tail. -/
def State.settle (s : State) (c : Coll) (status : Nat) : State :=
  let n := c.ranks.length
  let held := (List.range n).filter (fun m => s.memberLive c m && c.notices.any (fun x => x.1 == m))
  let tails := s.tailsFor c
  let fits (x : Tail) : Bool := status == ST_OK && s.tailFits c x
  let nf := c.notices.any (fun x => held.contains x.1 && x.2.2) || (tails.filter fits).any (·.nonfinite)
  let v : Verdict :=
    { status := if status ≠ ST_OK then status else if held.length < n then ST_OK_PARTIAL else ST_OK,
      present := held, added := (tails.filter fits).map (·.member), dropped := (tails.filter (fun x => !(fits x))).map (·.member),
      nonfinite := nf, time := s.now }
  let s := (List.range n).foldl (fun s m => if s.memberUp c m then s.sendMember c m c.home 4 (.verdict c.dom c.id c.step v) else s) s
  s.applyVerdict c v

/-- The quorum of a group (R361). -/
def Coll.quorumSize (c : Coll) : Nat := c.ranks.length - c.ranks.length * postMiss c.post / 65536

/-- The notices held of members that are not lost. -/
def State.heldNotices (s : State) (c : Coll) : Nat :=
  ((List.range c.ranks.length).filter (fun m => s.memberLive c m && c.notices.any (fun x => x.1 == m))).length

/-- Whether this member coordinates an instance that it has launched and not decided. -/
def State.coordinates (s : State) (c : Coll) : Bool :=
  c.launched.isSome && c.verdict.isNone && !c.ended && s.coordinator c == c.self

/-- A coordinator looks at its notices: a differing group ends the collective, all notices decide it at once. -/
def State.weigh (s : State) (c : Coll) : State :=
  if !s.coordinates c then s
  else if c.notices.any (fun x => x.2.1 != c.crc) then s.settle c ST_GROUP_MISMATCH
  else if s.heldNotices c = c.ranks.length then s.settle c ST_OK
  else s

/-- Whether a decision of present members waits for the ROOT of a BROADCAST (R362). -/
def State.rootHeld (s : State) (c : Coll) : Bool :=
  postKind c.post != 4 || (s.memberLive c (postRoot c.post) && c.notices.any (fun x => x.1 == postRoot c.post))

/-- The quorum is looked for at a boundary (R361). -/
def State.collTick (s : State) : State :=
  s.colls.foldl (fun s c =>
    if s.coordinates c && c.quorum.isNone && decide (c.quorumSize ≤ s.heldNotices c) then s.setColl { c with quorum := some s.tick } else s) s

/-- COLL_GRACE_EXPIRY (R361): GRACE ticks after the boundary of the quorum the coordinator decides. -/
def execCollGraceExpiry (d : Fin 64) (c : Nat) (s : State) : Out :=
  match s.findColl d.val c (fun x => s.coordinates x && s.rootHeld x &&
      (match x.quorum with | some q => decide (q + postGrace x.post ≤ s.tick) | none => false)) with
  | some x => .next (s.settle x ST_OK)
  | none => .next s

/-- COLL_HARD_TIMEOUT (R361, R362, R366): HARD_TIMEOUT ticks after its launch without a quorum, or with the ROOT missing, the
collective fails. -/
def execCollHardTimeout (d : Fin 64) (c : Nat) (s : State) : Out :=
  match s.findColl d.val c (fun x => s.coordinates x && (x.quorum.isNone || !s.rootHeld x) &&
      (match x.launched with | some q => decide (q + postHard x.post ≤ s.tick) | none => false)) with
  | some x => .next (s.settle x ST_COLL_TIMEOUT)
  | none => .next s

/-! ## Launch (step 6 of Table TCK-2) -/

/-- The COLL record of a step that a RESTORE replays, as a decision (R364). -/
def State.spooledVerdict (s : State) (d id step : Nat) : Option Verdict :=
  match s.replaying d step with
  | none => none
  | some rs =>
      match rs.find? (fun r => fieldAt r 4 1 == 5 && fieldAt r 8 8 == step && fieldAt r 48 2 == id) with
      | none => none
      | some r =>
        let its := (List.range (fieldAt r 16 4)).map (fun k => fieldAt r (64 + 8 * k) 8)
        let of (kind : Nat) := (its.filter (fun v => bitsOf v 16 8 == kind)).map (fun v => bitsOf v 0 16)
        let missing := of 0
        let flags := fieldAt r 7 1
        some { status := if flags = 1 then ST_COLL_TIMEOUT else if flags = 2 then ST_GROUP_MISMATCH
                 else if missing = [] then ST_OK else ST_OK_PARTIAL,
               present := (List.range (fieldAt r 50 2)).filter (fun m => !(missing.contains m)),
               added := of 1, dropped := of 3, nonfinite := bitOf (fieldAt r 52 1) 0, time := s.now }

/-- This member's contribution to block `j`: unpredictable where its source is poisoned. -/
def State.contribution (s : State) (p : Bytes) (n j : Nat) : Bytes :=
  let r := blockRange p n j
  let a := postSrc p + r.1 * collSize (postIn p)
  let len := r.2 * collSize (postIn p)
  match s.poisonedIn a len with
  | some _ => (List.range len).map (Config.freeByte s.fresh)
  | none => s.physRead a len

/-- The contributions sent to their owners, that to this member kept. -/
def State.sendParts (s : State) (c : Coll) : State × Coll :=
  let dies := s.chunkDies c.dom
  let mine := postKind c.post != 4 || postRoot c.post == c.self
  if !mine then (s, c)
  else
    let n := c.ranks.length
    let s := (List.range n).foldl (fun s m =>
      if m = c.self then s
      else
        let bs := s.contribution c.post n m
        (List.range (chunksOf bs.length)).foldl (fun s k =>
          s.sendMember c m (dies.getD (k % max 1 dies.length) c.home) 3
            (.collData c.dom c.id c.step c.self m k false c.stepNf (postCoded c.post) c.kin ((bs.drop (k * chunkBytes)).take chunkBytes))) s) s
    (s, { c with parts := keepChunks c.parts c.self (s.contribution c.post n c.self) })

/-- The ready notice of a member: to the coordinator, or held when that is this member. -/
def State.giveNotice (s : State) (c : Coll) : State × Coll :=
  let k := s.coordinator c
  if k = c.self then (s, { c with notices := c.notices ++ [(c.self, c.crc, c.stepNf)] })
  else (s.sendMember c k c.home 4 (.notice c.dom c.id c.step c.self c.crc c.stepNf), c)

/-- What stays known of a collective when its instance of step `step` launches: the instance of the step before, while its late contributions may
come; earlier ones, and those that never launched here, are past. -/
def State.clearColls (s : State) (d id step : Nat) : State :=
  let past (c : Coll) : Bool := c.dom == d && c.id == id &&
    ((c.ended && c.step + 1 != step) || (c.launched.isNone && decide (c.step < step)))
  { s with colls := s.colls.filter (fun c => !(past c)),
           tails := s.tails.filter (fun x => !(x.dom == d && x.coll == id && x.gone && decide (x.step + 1 < step))) }

/-- A posted collective launches (R357, R361, R368), as one of the step in which it was posted, with STEP_NF as it stands (R225). -/
def State.launchColl (s : State) (d : Nat) (q : Post) : State :=
  let p := q.desc
  let id := postId p
  let step := q.step
  let s := s.clearColls d id step
  let s := if step = (s.dom d).step then s.setDom d { s.dom d with launchedColls := id :: (s.dom d).launchedColls } else s
  let g := postGroup p
  let n := s.numAt g 2
  let list := s.bytesAt (g + 8) (2 * n)
  let c := s.coll d id step
  let c := { c with post := p, launched := some s.tick, home := s.route d (postClass p) (dieOf q.tile), self := s.numAt (g + 2) 2,
                    ranks := (List.range n).map (fun i => fieldAt list (2 * i) 2), crc := crc32c list,
                    stepNf := s.fld (CTL_DOM_NONFINITE_STEP_NF d) == 1 }
  let s := s.devWrite (postRecord p) (collRecord 0 0 0 0 0 step 0 [])
  let s := s.countHbm g (8 + 2 * n)
  if n < 1 ∨ 8192 < n ∨ n ≤ c.self ∨ s.numAt (g + 4) 4 ≠ 0 then s.failColl c ST_GROUP_MISMATCH s.now
  else
    let (s, c) := s.sendParts c
    let (s, c) := s.giveNotice c
    let s := s.setColl c
    match c.verdict, s.spooledVerdict d id step with
    | some v, _ => s.applyVerdict { c with verdict := none } v
    | none, some v => s.applyVerdict c v
    | none, none => s.weigh c

/-- The posts of a domain that starts a new slot launch in post order. -/
def State.launchPosts (s : State) (d : Nat) : State :=
  let ps := (s.dom d).posts
  ps.foldl (fun s q => s.launchColl d q) (s.setDom d { s.dom d with posts := [] })

/-! ## Frames -/

/-- The later instance, launched here, behind which a frame of an instance that is not known has come too late. -/
def State.collPast (s : State) (d id step : Nat) : Option Coll :=
  if (s.collAt d id step).isSome then none else s.findColl d id (fun q => decide (step < q.step) && q.launched.isSome)

/-- Whether a member's contribution to an instance launched here comes after its decision, which left the member out (R365). -/
def Coll.leftOut (c : Coll) (member : Nat) : Bool :=
  c.launched.isSome && (c.ended || (match c.verdict with | some v => !(v.present.contains member) | none => false))

/-- The instance of the step after reduces if the tail just taken was the last it waited for. -/
def State.nextReduces (s : State) (c : Coll) : State :=
  match s.findColl c.dom c.id (fun q => q.step == c.step + 1) with
  | some q => s.tryReduce q
  | none => s

/-- A contribution chunk: held; a tail when its decision left its sender out; one of an instance long past is expired (R365). -/
def State.takePart (s : State) (d id step member chunk : Nat) (nf : Bool) (kin : Kin) (bs : Bytes) : State :=
  match s.collPast d id step with
  | some q => if 2 < postKind q.post then s else s.dropTail { q with step := step } member 3
  | none =>
    let c := s.coll d id step
    if c.leftOut member then (if postKind c.post ≤ 2 then (s.takeTail c member chunk nf kin bs).nextReduces c else s)
    else
      let c := { c with parts := smapIns c.parts (partKey member chunk) bs, kins := smapIns c.kins member (kin, nf) }
      (s.setColl c).tryReduce c

/-- A result chunk of a block from its owner. -/
def State.takeResult (s : State) (d id step member chunk : Nat) (bs : Bytes) : State :=
  let c := s.coll d id step
  if c.ended || (s.collPast d id step).isSome then s else s.setColl { c with results := smapIns c.results (partKey member chunk) bs }

/-- Received data lost to an uncorrectable SRAM error (R356, R365): a tail so lost is discarded and named in the spool; a lost operand is
remembered, should its contribution become a tail. -/
def State.losePart (s : State) (d id step member : Nat) : State :=
  match s.collPast d id step with
  | some _ => s
  | none =>
    let c := s.coll d id step
    if c.leftOut member then (if postKind c.post ≤ 2 then (s.dropTail c member 5).nextReduces c else s)
    else s.setColl { c with holes := insertAsc member c.holes }

/-- A ready notice. -/
def State.takeNotice (s : State) (d id step member crc : Nat) (nf : Bool) : State :=
  let c := s.coll d id step
  if c.verdict.isSome ∨ c.ended ∨ (s.collPast d id step).isSome ∨ c.notices.any (fun x => x.1 == member) = true then s
  else
    let c := { c with notices := c.notices ++ [(member, crc, nf)] }
    (s.setColl c).weigh c

/-- A decision of the coordinator. -/
def State.takeVerdict (s : State) (d id step : Nat) (v : Verdict) : State :=
  if (s.collPast d id step).isSome then s else s.applyVerdict (s.coll d id step) v

/-! ## Completion (R362, R363, R368) -/

/-- The result blocks of this member, once all are held: by first element of DST and bytes. -/
def Coll.outcome (c : Coll) (v : Verdict) : Option (List (Nat × Bytes)) :=
  let n := c.ranks.length
  let p := c.post
  let size := collSize (postOut p)
  match postKind p with
  | 1 => (List.range n).foldr (fun j acc => do
      let rest ← acc
      let r := blockRange p n j
      let bs ← gathered c.results j (r.2 * size)
      pure ((r.1, bs) :: rest)) (some [])
  | 2 => (gathered c.results c.self (postCount p * size)).map (fun bs => [(0, bs)])
  | 4 => (gathered c.parts (postRoot p) c.partLen).map (fun bs => [(0, copyBlock p (postCount p) bs)])
  | _ => (List.range n).foldr (fun j acc => do
      let rest ← acc
      if v.present.contains j then
        let bs ← gathered c.parts j c.partLen
        pure ((j * postCount p, copyBlock p (postCount p) bs) :: rest)
      else pure ((j * postCount p, zeros (postCount p * size)) :: rest)) (some [])

/-- COLL_COMPLETE: every result byte is visible in DST, and the completion record says so; COLL_PARTIAL names the missing. -/
def State.completeColl (s : State) (c : Coll) (v : Verdict) (blocks : List (Nat × Bytes)) : State :=
  let n := c.ranks.length
  let size := collSize (postOut c.post)
  let s := blocks.foldl (fun s b => s.devWrite (postDst c.post + b.1 * size) b.2) s
  let missing := (List.range n).filter (fun m => !(v.present.contains m))
  let flags := (if v.nonfinite then 1 else 0) + (if v.added = [] then 0 else 2)
  let status := if missing = [] then ST_OK else ST_OK_PARTIAL
  let s := s.devWrite (postRecord c.post) (collRecord status 1 flags missing.length v.added.length c.step v.time missing)
  let s := s.addFld (if missing = [] then LNK_COLL_COUNTS_COMPLETE c.home else LNK_COLL_COUNTS_PARTIAL c.home) 1
  let s := if v.nonfinite then s.addFld (LNK_COLL_COUNTS_NONFINITE c.home) 1 else s
  let s := s.addFld (LNK_TAIL_COUNTS_ADDED c.home) v.added.length
  let s := if missing = [] then s
    else s.event c.unit EV_COLL_PARTIAL c.dom
      (leBytes 2 c.id ++ leBytes 2 missing.length ++ zeros 4 ++ leBytes 8 c.step ++ indexList 8 missing)
  s.endColl c

/-- COLL_COMPLETE; the results of an engine whose grants are revoked never get there (R327). -/
def execCollComplete (d : Fin 64) (c : Nat) (s : State) : Out :=
  match s.findColl d.val c (fun x => x.launched.isSome && !x.ended && !(s.revoked x.unit) && (match x.verdict with | some v => (x.outcome v).isSome | none => false)) with
  | none => .next s
  | some x =>
    match x.verdict with
    | none => .next s
    | some v =>
      match x.outcome v with
      | some blocks => .next (s.completeColl x v blocks)
      | none => .next s

/-! ## Losses (R353, R361, R366) -/

/-- Member notices go to the next coordinator when the one before it is lost. -/
def State.reNotice (s : State) : State :=
  s.colls.foldl (fun s c =>
    if c.launched.isSome && c.verdict.isNone && !c.ended && !(c.notices.any (fun x => x.1 == c.self)) then
      let (s, c) := s.giveNotice c
      (s.setColl c).weigh c
    else s) s

/-- The collectives whose home is link die `n` end when its port to its compute die is lost (R421). -/
def State.endHome (s : State) (n : Nat) : State :=
  (s.colls.filter (fun c => c.home == n && c.launched.isSome && !c.ended)).foldl (fun s c => s.failColl c ST_COLL_TIMEOUT s.now) s

/-- LINK_DIE_PORT_LOSS (R421): a link die whose port to its compute die is down for more than 1 ms is left out; the flows that it
carried move (R352). -/
def execLinkDiePortLoss (n : Fin 4) (ecc : Found) (s : State) : Out :=
  if bitOf s.links n.val then
    let s := s.endHome n.val
    let s := { s with links := withoutBit s.links n.val }.resetRegRange (LNK_STATUS n.val) 0x10_0000
    .next (((s.carrier n.val).elim s (fun k => s.sramRead k ecc)).resendVia (fun v => v.1 == n.val))
  else .next s

end Sys2Proof.Machine
end

