-- ==== Sys2Proof/Machine/Optimizer.lean ====
section
/-!
DEFINITION. The parameter update (chapter 17): STEP BEGIN and STEP UPDATE, the latch of the step's parameters, and the two passes.
-/
namespace Sys2Proof.Machine

/-! ## STEP BEGIN and STEP UPDATE (Table CMD-6, R377) -/

/-- STEP BEGIN: the step opens at the next boundary at which the domain starts a new slot. -/
def execStepBegin (h : Word) (s : State) : Out :=
  match s.ready h 4 1 with
  | none => .next s
  | some p =>
    let s := s.begin p
    let x := s.dom p.domain
    .next (s.setDom p.domain { x with beginBy := x.beginBy ++ [(h, fieldAt p.entry 16 8)] })

/-- STEP UPDATE (R377, R408): it takes effect at the next boundary; a second one for a step, or one on a domain whose restore has failed,
completes at once. -/
def execStepUpdate (h : Word) (s : State) : Out :=
  match s.ready h 4 2 with
  | none => .next s
  | some p =>
    let s := s.begin p
    let x := s.dom p.domain
    let n := fieldAt p.entry 16 8
    if x.restoreBad then .next (s.finishWith h ST_RESTORE_MISMATCH)
    else if (x.update.any (fun u => u.step == n)) || x.updateBy.any (fun u => u.step == n) then .next (s.finishWith h ST_UPDATE_DUPLICATE)
    else .next (s.setDom p.domain { x with updateBy := x.updateBy ++ [{ handle := h, step := n, set := fieldAt p.entry 24 4 }] })

/-! ## The latch (R376, R377), at step 4 of Table TCK-2 -/

/-- The parameter page of a domain (R102). -/
def paramPage (d : Nat) : Nat := 0xF000_4010_0000 + d * 0x1000

/-- A binary32 field of a block. -/
def param (b : Bytes) (off : Nat) : Num := fp32.decode (fieldAt b off 4)

/-- Whether a value is finite and not below zero. -/
def finiteNonneg (x : Num) : Bool := x.isFin && !(x.lt .zero)

/-- Whether the fields of a STEP_PARAMS block lie in their ranges, its reserved bytes zero (Table OPT-2). -/
def paramsOk (b : Bytes) : Bool :=
  let one := Num.fin false 1 0
  finiteNonneg (param b 8) && finiteNonneg (param b 12) && finiteNonneg (param b 16) && (param b 16).lt one &&
    finiteNonneg (param b 20) && (param b 20).lt one && finiteNonneg (param b 24) && (param b 28).isFin && Num.zero.lt (param b 28) &&
    decide (fieldAt b 32 1 < 2) && (b.drop 33).all (· == 0#8)

/-- The status under which a block is latched for step `n`. -/
def latchStatus (b : Bytes) (n : Nat) : Nat :=
  if fieldAt b 0 8 ≠ n then ST_STEP_PARAM_MISSING else if paramsOk b then ST_OK else ST_STEP_PARAM_INVALID

/-- The status and the bytes that the latch takes for step `n`: from the page, or in a replay from the spool record of the step. -/
def State.latchSource (s : State) (d n : Nat) : Nat × Bytes :=
  match s.replaying d n with
  | some rs =>
    match spooled rs 4 n with
    | some r => (fieldAt r 48 2, takeAt r 64 40)
    | none => (ST_STEP_PARAM_MISSING, zeros 40)
  | none =>
    let b := s.bytesAt (paramPage d) 256
    (latchStatus b n, b.take 40)

/-- A STEP UPDATE takes effect: it is refused when its step is not the one in progress; otherwise the latch is taken, shown and
spooled. -/
def State.takeUpdate (s : State) (d : Nat) (u : Update) : State :=
  let x := s.dom d
  if x.stepOpen = false ∨ u.step ≠ x.step then s.finishWith u.handle ST_STEP_PARAM_MISSING
  else if x.update.isSome then s.finishWith u.handle ST_UPDATE_DUPLICATE
  else
    let src := s.latchSource d u.step
    let s := s.setDom d { x with update := some { u with latched := true, status := src.1, block := src.2 } }
    let s := s.setFld (CTL_UPD_STATUS_LATCHED d) 1
    let s := s.setFld (CTL_UPD_STATUS_STEP d) (u.step % 2 ^ 32)
    s.spool d 4 0 (leBytes 2 src.1) ((List.range 5).map (fun i => fieldAt src.2 (8 * i) 8))

/-- The STEP UPDATEs that wait for this boundary take effect (step 4 of Table TCK-2). -/
def State.latchUpdates (s : State) (d : Nat) : State :=
  let us := (s.dom d).updateBy
  us.foldl (fun s u => s.takeUpdate d u) (s.setDom d { s.dom d with updateBy := [] })

/-- The outcome with which a step's update ends: that of its pass 2, or that of its latch when no shard asked. -/
def Update.result (u : Update) : Nat := if u.decided then u.outcome else u.status

/-- The STEP UPDATE completes when the FINAL slot of every working tile is finished (R387; step 2 of Table TCK-2). -/
def State.completeUpdate (s : State) (d : Nat) : State :=
  match (s.dom d).update with
  | none => s
  | some u =>
    if u.handle ≠ 0#64 ∧ (s.domTiles d).all ((s.dom d).finals.contains ·) = true then
      (s.setDom d { s.dom d with update := some { u with handle := 0#64 } }).finishWith u.handle u.result
    else s

/-! ## The descriptor and the update block (R388, Table OPT-3) -/

def Op.updBlock (o : Op) : Nat := o.field 8 4
def Op.updCounters (o : Op) : Nat := bitsOf (o.field 12 1) 0 4
def Op.updSum (o : Op) : Nat := bitsOf (o.field 12 1) 4 4
def Op.updFinal (o : Op) : Bool := bitOf (o.field 13 1) 0
def Op.updNull (o : Op) : Bool := bitOf (o.field 13 1) 1
def Op.updGen (o : Op) : Nat := bitsOf (o.field 13 1) 4 4

/-- The fields of an update block. -/
structure Shard where
  g : Nat
  w : Nat
  m : Nat
  stat : Nat
  sums : Nat
  stride : Nat
  fOut : Nat
  fScale : Nat
  bOut : Nat
  bScale : Nat
  norm : Nat
  rows : Nat
  cols : Nat
  rule : Nat
  fFormat : Nat
  bFormat : Nat
  group : Nat
  layer : Nat
  tap : Bool
  gnorm : Nat
  eps1 : Nat
  tensorF : Nat
  tensorB : Nat
  col0 : Nat
  gcols : Nat
  record : Nat
deriving DecidableEq, Repr

/-- The update block of an operation of tile `t`. -/
def State.shard (s : State) (t : Nat) (o : Op) : Shard :=
  let b := s.pad t o.updBlock 128
  let f := fieldAt b
  { g := f 0 4, w := f 4 4, m := f 8 4, stat := f 12 4, sums := f 16 4, stride := f 20 4, fOut := f 24 4, fScale := f 28 4,
    bOut := f 32 4, bScale := f 36 4, norm := f 40 4, rows := f 44 4, cols := f 48 2, rule := bitsOf (f 50 1) 0 3,
    fFormat := bitsOf (f 51 1) 0 6, bFormat := bitsOf (f 52 1) 0 6, group := bitsOf (f 53 1) 0 5, layer := bitsOf (f 54 2) 0 12,
    tap := bitOf (f 54 2) 12, gnorm := f 56 8, eps1 := f 64 4, tensorF := f 68 4, tensorB := f 72 4, col0 := f 80 8, gcols := f 88 8,
    record := f 96 8 }

/-- Whether a rule keeps row and column statistics. -/
def Shard.factored (x : Shard) : Bool := x.rule == 2 || x.rule == 3

/-- One past the last byte of a matrix of the shard. -/
def Shard.matEnd (x : Shard) (a : Nat) : Nat := a + (x.rows - 1) * x.stride + 4 * x.cols

/-- The bytes of a row of a copy (R388). -/
def Shard.copyStride (x : Shard) (f : Format) : Nat := (x.cols * elemBits f.ty / 8 + 63) / 64 * 64

/-- Whether the reserved bits of a descriptor are zero. -/
def Op.updReserved (o : Op) : Bool := o.reservedOk [(8, 6)] && bitsOf (o.field 13 1) 2 2 == 0

/-- Whether the fields that both passes read lie in their ranges, with their operands in the scratchpad (R373, R388). -/
def Shard.ok1 (x : Shard) : Bool :=
  x.stride % 64 == 0 && x.rows % 64 == 0 && decide (64 ≤ x.rows ∧ x.rows ≤ 65536) && x.cols % 64 == 0 &&
    decide (64 ≤ x.cols ∧ x.cols ≤ 512) && decide (1 ≤ x.rule ∧ x.rule ≤ 4) && decide (x.matEnd x.g ≤ padEnd) &&
    decide (x.norm + 4 ≤ padEnd) && (!x.factored || decide (x.sums + 4 * x.rows + 4 * x.cols ≤ padEnd))

/-- The fault of a pass-1 block, if it has one. -/
def State.pass1Fault (s : State) (t : Nat) (o : Op) : Option Nat :=
  if !o.updReserved then some ST_REJECTED_RESERVED
  else if o.updBlock % 64 ≠ 0 ∨ padEnd < o.updBlock + 128 then some ST_OP_DESCRIPTOR
  else if bitsOf (s.padNum t (o.updBlock + 50) 1) 3 5 ≠ 0 then some ST_REJECTED_RESERVED
  else if (s.shard t o).ok1 then none else some ST_OP_DESCRIPTOR

/-- Whether the reserved fields of the block are zero. -/
def State.shardReserved (s : State) (t : Nat) (o : Op) : Bool :=
  let b := s.pad t o.updBlock 128
  bitsOf (fieldAt b 50 1) 3 5 == 0 && bitsOf (fieldAt b 51 1) 6 2 == 0 && bitsOf (fieldAt b 52 1) 6 2 == 0 &&
    bitsOf (fieldAt b 53 1) 5 3 == 0 && bitsOf (fieldAt b 54 2) 13 3 == 0 && fieldAt b 76 4 == 0 && (b.drop 104).all (· == 0#8)

/-- The fault of a pass-2 block with formats `f` (forward) and `b` (dX), if it has one (R385, R388). -/
def State.pass2Fault (s : State) (t : Nat) (o : Op) (f b : Format) : Option Nat :=
  let x := s.shard t o
  if f.mode ≠ 2 ∨ b.mode ≠ 1 then some ST_SCALE_AXIS
  else if f.escapes ≠ 0 ∨ b.escapes ≠ 0 then some ST_ESCAPE_STATIONARY
  else
    let stats := !x.factored || decide (x.stat + 64 + 4 * x.rows + 4 * x.cols ≤ padEnd)
    let eps := fp32.decode x.eps1
    if x.ok1 && decide (x.matEnd x.w ≤ padEnd) && (x.rule == 3 || decide (x.matEnd x.m ≤ padEnd)) && stats &&
        decide (x.fOut + x.rows * x.copyStride f ≤ padEnd ∧ x.fScale + x.cols ≤ padEnd ∧ x.bOut + x.rows * x.copyStride b ≤ padEnd ∧
          x.bScale + x.rows ≤ padEnd) && eps.isFin && Num.zero.lt eps && s.isHbm x.record && s.isHbm (x.record + 63) &&
        !((f.stochastic || b.stochastic) && o.updGen == 0)
    then none else some ST_OP_DESCRIPTOR

/-! ## Pass 1 (R379) -/

/-- Element (r, c) of a matrix of the shard. -/
def State.shardAt (s : State) (t : Nat) (x : Shard) (a r c : Nat) : Num := fp32.decode (s.padNum t (a + r * x.stride + 4 * c) 4)

/-- A row of squares reduced into an accumulator in the order of R238. -/
def squares (acc : Red) (row : List Num) : Red := redRow 5 6 ((row.length + 63) / 64) acc (row.map (fun v => redEnter 5 v 0))

/-- The number a reduction holds. -/
def Red.num' : Red → Num
  | .num x => x
  | .arg _ => .nan

/-- An FP32 result written at a scratchpad offset, counted under R237. -/
def State.put32 (s : State) (t c off : Nat) (x : Num) : State :=
  let w := writeNum fp32 false x
  let s := s.padPut t off (leBytes 4 w.1)
  if w.2 = 1 then s.addFld (TIL_NUM_FAULTS_NONFINITE t c) 1
  else if w.2 = 3 then s.addFld (TIL_NUM_RANGE_UNDERFLOW t c) 1 else s

/-- FP32 results written at consecutive words. -/
def State.puts32 (s : State) (t c off : Nat) (xs : List Num) : State :=
  (List.range xs.length).foldl (fun s i => s.put32 t c (off + 4 * i) (xs.getD i .zero)) s

/-- The beats of an update pass counted (R389). -/
def State.updBeats (s : State) (t : Nat) (x : Shard) (k : Nat) : State :=
  (s.addFld (VEC_CNT_BEATS_COUNT t) (x.rows * ((x.cols + 63) / 64) * k)).count (s.setOf t) 6 (x.rows * ((x.cols + 63) / 64) * k)

/-- The effects of a UPD_PASS1: the sum of squares, and under rules 2 and 3 the row and column sums. -/
def State.runPass1 (s : State) (t : Nat) (o : Op) : State :=
  let x := s.shard t o
  let row (r : Nat) : List Num := (List.range x.cols).map (s.shardAt t x x.g r)
  let sum := (List.range x.rows).foldl (fun acc r => squares acc (row r)) (redIdentity 5)
  let rowSums := (List.range x.rows).map (fun r => (squares (redIdentity 5) (row r)).num')
  let colSum (c : Nat) : Num :=
    ((List.range x.rows).foldl (fun acc r => redCombine 5 acc (redEnter 5 (s.shardAt t x x.g r c) 0)) (redIdentity 5)).num'
  let s' := s.put32 t o.updCounters x.norm sum.num'
  let s' := if x.factored then
      (s'.puts32 t o.updCounters x.sums rowSums).puts32 t o.updCounters (x.sums + 4 * x.rows) ((List.range x.cols).map colSum)
    else s'
  (s'.setReg (VEC_SUM t o.updSum) (word (fp64.encode sum.num'))).updBeats t x 1

/-- UPD_PASS1 (R379): it adds nothing to the tap table, and waits for no tapped operation. -/
def execUpdPass1 (t : Fin 384) (i : Fin 64) (s : State) : Out :=
  match s.held t.val i.val [5] 0x30 with
  | none => .next s
  | some o =>
    match s.pass1Fault t.val o with
    | some st => .next (s.opFault t.val i.val st)
    | none => .next ((s.runPass1 t.val o).actedWith t.val i.val 0)

/-! ## The decision (R381) -/

/-- The outcome that the first pass 2 of a step decides: from the latch, the norm collective's record, and GNORM_SQ. -/
def State.decideUpdate (s : State) (u : Update) (x : Shard) : Nat :=
  let st := s.numAt x.record 2
  if u.status ≠ ST_OK then u.status
  else if bitOf (fieldAt u.block 32 1) 0 then ST_OK
  else if st = ST_COLL_TIMEOUT ∨ st = ST_GROUP_MISMATCH then st
  else if bitOf (s.numAt (x.record + 3) 1) 0 ∨ f64finite x.gnorm = false then ST_NONFINITE_SKIP
  else ST_OK

/-- The outcome latched for the step, shown, and counted when the step is carried. -/
def State.latchOutcome (s : State) (d : Nat) (u : Update) (x : Shard) : State :=
  let u := { u with decided := true, outcome := s.decideUpdate u x, gnorm := x.gnorm }
  let s := s.setDom d { s.dom d with update := some u }
  let s := (s.setFld (CTL_UPD_STATUS_OUTCOME d) u.outcome).setFld (CTL_UPD_STATUS_DECIDED d) 1
  if u.carries then s.addFld (CTL_UPD_COUNTS_CARRIED_STEPS d) 1 else s

/-! ## Pass 2 (R382 to R386) -/

/-- FP32 arithmetic with RNE. -/
def add32 (a b : Num) : Num := fp32.fit (a.add b)
def sub32 (a b : Num) : Num := fp32.fit (a.add b.neg)
def mul32 (a b : Num) : Num := fp32.fit (a.mul b)
def div32 (a b : Num) : Num := fp32.fit (a.div b)
def sqrt32 (a : Num) : Num := fp32.fit a.sqrt

/-- 1.0. -/
def num1 : Num := .fin false 1 0

/-- −1, 0 or 1 by the sign of a number; a NaN stays. -/
def signOf : Num → Num
  | .nan => .nan
  | .inf n => .fin n 1 0
  | .fin n m _ => if m = 0 then .zero else .fin n 1 0

/-- What a number reads as once written in FP32 (R237). -/
def stored32 (x : Num) : Num := fp32.decode (writeNum fp32 false x).1

/-- The clip factor (R382): formed in FP64 and rounded once. -/
def clipFactor (clip : Num) (gnorm : Nat) : Num :=
  let n := fp64.fit (fp64.decode gnorm).sqrt
  if Num.zero.lt clip && clip.lt n then fp32.fit (fp64.fit (clip.div n)) else num1

/-- A blend of R382: b · old + (1 − b) · new. -/
def blend (b old new : Num) : Num := add32 (mul32 b old) (mul32 (sub32 num1 b) new)

/-- The new statistics of a factored shard. -/
structure Stats where
  sr : Num := .zero
  den : Num := .zero
  r : List Num := []
  c : List Num := []
  floored : Bool := false

/-- The statistics of rules 2 and 3 (R382, R383). -/
def State.newStats (s : State) (t : Nat) (x : Shard) (b2 c2 : Num) : Stats :=
  let word' (a : Nat) : Num := fp32.decode (s.padNum t a 4)
  let rows := numOfInt x.rows
  let cols := numOfInt x.cols
  let sr := blend b2 (word' x.stat) (div32 (mul32 c2 (word' x.norm)) cols)
  let eps := fp32.decode x.eps1
  { sr := sr, den := if sr.lt eps then eps else sr, floored := sr.lt eps,
    r := (List.range x.rows).map (fun i => blend b2 (word' (x.stat + 64 + 4 * i)) (div32 (mul32 c2 (word' (x.sums + 4 * i))) cols)),
    c := (List.range x.cols).map (fun j =>
      blend b2 (word' (x.stat + 64 + 4 * x.rows + 4 * j)) (div32 (mul32 c2 (word' (x.sums + 4 * x.rows + 4 * j))) rows)) }

/-- The latched parameters of a step. -/
structure Params where
  lr : Num
  decay : Num
  b1 : Num
  b2 : Num
  clip : Num
  eps2 : Num

def Update.params (u : Update) : Params :=
  ⟨param u.block 8, param u.block 12, param u.block 16, param u.block 20, param u.block 24, param u.block 28⟩

/-- The new momentum and weight of one element (R382): gradient, old weight and momentum, row and column statistics. -/
def newElem (rule : Nat) (p : Params) (c g w0 m r cc den : Num) : Num × Num :=
  let g := mul32 c g
  let u0 := if r.isZero then .zero else div32 g (add32 (sqrt32 (div32 (mul32 r cc) den)) p.eps2)
  let (m', u) := match rule with
    | 1 => let m' := blend p.b1 m g; (m', m')
    | 2 => let m' := blend p.b1 m u0; (m', m')
    | 3 => (m, u0)
    | _ => (blend p.b2 m g, signOf (blend p.b1 m g))
  (m', sub32 (sub32 w0 (mul32 p.lr (mul32 p.decay w0))) (mul32 p.lr u))

/-- A low-precision copy of the new weights (R385): column or row units with COMPUTED scales. -/
def State.writeCopy (s : State) (t : Nat) (o : Op) (x : Shard) (f : Format) (out scale tensor : Nat) (w : List (List Num)) : State :=
  let col := f.mode == 2
  let at' (k j : Nat) : Nat × Nat := if col then (j, k) else (k, j)
  let one (k : Nat) : QUnit :=
    quantUnit f none (fun j => philoxWord (s.jobSeed % 2 ^ 32) (s.jobSeed / 2 ^ 32)
        (((at' k j).1 * x.gcols + x.col0 + (at' k j).2) % 2 ^ 64) (s.drawStep t) tensor)
      ((List.range (if col then x.rows else x.cols)).map (fun j => Lane.num ((w.getD (at' k j).1 []).getD (at' k j).2 .zero)))
  let qs := (List.range (if col then x.cols else x.rows)).map one
  let s := (List.range x.rows).foldl (fun s r => s.padPut t (out + r * x.copyStride f) (packRow (elemBits f.ty) (rowOf col qs r))) s
  let s := s.padPut t scale (qs.map (fun q => byte q.scale))
  let s := qs.foldl (fun s q => s.countUnit t o.updCounters q) s
  if f.stochastic then
    let e := min 64 (4 * popcount o.updGen)
    s.addFld (VEC_CNT_GEN_COUNT t) (x.rows * ((x.cols + e - 1) / max 1 e) - x.rows * (x.cols / 64))
  else s

/-- The sums of squares of a matrix of numbers in the order of R238. -/
def shardSquares (rows : List (List Num)) : Num := (rows.foldl squares (redIdentity 5)).num'

/-- A tap contribution of an update (R386). -/
def State.updTap (s : State) (t : Nat) (x : Shard) (comp : Nat) (v : Num) : State :=
  if v.isFin then s.tap t x.layer comp (fp64.encode v) false else s.tap t x.layer comp 0 true

/-- SUM_REG after a pass 2: ZERO_ROWS, FLOORED and CARRIED (R388), and the domain's counts. -/
def State.updSummary (s : State) (d t : Nat) (o : Op) (nz : Nat) (floored carried : Bool) : State :=
  let s := s.setReg (VEC_SUM t o.updSum) (word (nz + (if floored then 2 ^ 32 else 0) + (if carried then 2 ^ 33 else 0)))
  let s := s.addFld (CTL_UPD_COUNTS_ZERO_ROWS d) nz
  if floored then s.addFld (CTL_UPD_COUNTS_FLOORED d) 1 else s

/-- A shard updated (R382 to R386). -/
def State.applyUpdate (s : State) (d t : Nat) (o : Op) (u : Update) (f b : Format) : State :=
  let x := s.shard t o
  let p := u.params
  let c := clipFactor p.clip x.gnorm
  let st := if x.factored then s.newStats t x p.b2 (mul32 c c) else {}
  let cell (i j : Nat) : Num × Num :=
    newElem x.rule p c (s.shardAt t x x.g i j) (s.shardAt t x x.w i j) (if x.rule = 3 then .zero else s.shardAt t x x.m i j)
      (stored32 (st.r.getD i num1)) (stored32 (st.c.getD j num1)) st.den
  let cells := (List.range x.rows).map (fun i => (List.range x.cols).map (cell i))
  let cs := o.updCounters
  let rows (a : Nat) (pick : Num × Num → Num) (s : State) : State :=
    (List.range x.rows).foldl (fun s i => s.puts32 t cs (a + i * x.stride) ((cells.getD i []).map pick)) s
  let s' := rows x.w (·.2) s
  let s' := if x.rule = 3 then s' else rows x.m (·.1) s'
  let s' := if x.factored then
      ((s'.put32 t cs x.stat st.sr).puts32 t cs (x.stat + 64) st.r).puts32 t cs (x.stat + 64 + 4 * x.rows) st.c
    else s'
  let w := cells.map (fun r => r.map (fun v => stored32 v.2))
  let s' := s'.writeCopy t o x f x.fOut x.fScale x.tensorF w
  let s' := s'.writeCopy t o x b x.bOut x.bScale x.tensorB w
  let s' := if x.tap then
      (s'.updTap t x 2 (shardSquares w)).updTap t x 3
        (shardSquares ((List.range x.rows).map (fun i => (List.range x.cols).map (fun j =>
          sub32 ((w.getD i []).getD j .zero) (s.shardAt t x x.w i j)))))
    else s'
  let nz := if x.factored then (st.r.filter (fun v => (stored32 v).isZero)).length else 0
  (s'.updSummary d t o nz st.floored false).updBeats t x (if x.rule = 2 then 5 else 4)

/-- A FINAL operation of tile `t` has run in the open slot (R387). -/
def State.noteFinal (s : State) (d t : Nat) (o : Op) : State :=
  if o.updFinal then s.setDom d { s.dom d with finalsNow := insertAsc (s.logicalOf d t) (s.dom d).finalsNow } else s

/-- The outcome decided by a pass 2 that is the first of its step (R381). -/
def State.decided (s : State) (d t : Nat) (o : Op) : State :=
  match (s.dom d).update with
  | some u => if u.decided then s else s.latchOutcome d u (s.shard t o)
  | none => s

/-- A pass 2 whose block and record are good: the outcome is decided if it is the first, and the shard is updated or carried. -/
def State.runPass2 (s : State) (d t i : Nat) (o : Op) (f b : Format) : State :=
  let x := s.shard t o
  let s := s.decided d t o
  match (s.dom d).update with
  | none => s
  | some u =>
    if u.gnorm ≠ x.gnorm then s.opFault t i ST_OP_DESCRIPTOR
    else
      let s := if u.carries || !(bitOf u.set x.group) then (s.updSummary d t o 0 false true).updBeats t x 3
        else s.applyUpdate d t o u f b
      (s.noteFinal d t o).actedWith t i 0

/-- UPD_PASS2 (R381 to R387): a NULL one touches nothing; another waits for the step's latch, and the first of a step while its record has
STATE 0; one that adds to the tap table waits for its turn (R221). -/
def execUpdPass2 (t : Fin 384) (i : Fin 64) (found : List Found) (s : State) : Out :=
  let s := s.findErrors found
  match s.held t.val i.val [5] 0x31, s.domOf t.val with
  | some o, some d =>
    if o.updReserved = false then .next (s.opFault t.val i.val ST_REJECTED_RESERVED)
    else if o.updNull then .next ((s.noteFinal d t.val o).actedWith t.val i.val 0)
    else if o.updBlock % 64 ≠ 0 ∨ padEnd < o.updBlock + 128 then .next (s.opFault t.val i.val ST_OP_DESCRIPTOR)
    else if s.shardReserved t.val o = false then .next (s.opFault t.val i.val ST_REJECTED_RESERVED)
    else
      let x := s.shard t.val o
      match s.format x.fFormat, s.format x.bFormat with
      | some f, some b =>
        match s.pass2Fault t.val o f b with
        | some st => .next (s.opFault t.val i.val st)
        | none =>
          let undecided := (s.dom d).update.all (fun u => !u.decided)
          if (undecided && s.numAt (x.record + 2) 1 == 0) ∨ (s.decided d t.val o).tapTurn t.val o = false then .next s
          else .next (s.runPass2 d t.val i.val o f b)
      | _, _ => .next (s.opFault t.val i.val ST_OP_DESCRIPTOR)
  | _, _ => .next s

end Sys2Proof.Machine
end

