-- ==== Sys2Proof/Machine/Walker.lean ====
section
/-!
DEFINITION. The operations of the page walker and the scatter-append units (R260 to R274).
-/
namespace Sys2Proof.Machine

/-- What a walker operation leads to: it waits, it ends in a descriptor fault, or its effects are done with an outcome. -/
inductive Walk where
  | wait (s : State)
  | fault (status : Nat)
  | done (s : State) (status : Nat)

/-- A walker operation that an engine holds (R264): its reserved fields are checked, then `run` answers. -/
def State.walkOp (s : State) (t i op : Nat) (named : List (Nat × Nat)) (extra : Op → Bool) (run : Op → Nat → Walk) : State :=
  match s.held t i [8] op, s.domOf t with
  | some o, some d =>
    if s.fld KVP_STATUS_STATE = 0 then s.opFault t i ST_KVP_DISABLED
    else if !(o.reservedOk named && extra o) then s.opFault t i ST_REJECTED_RESERVED
    else
      match run o d with
      | .wait s' => s'
      | .fault st => s.opFault t i st
      | .done s' st => s'.actedWith t i st
  | _, _ => s

/-- Whether domain `d` owns open sequence `i` (R260). -/
def State.owns (s : State) (d i : Nat) : Bool := (s.seq i).state == 1 && (s.seq i).domain == d

/-! ## GATHER (R265) -/

/-- The fields of a GATHER (Table ATT-6). -/
structure Gather where
  seq : Nat
  stream : Nat
  t0 : Nat
  count : Nat
  kDst : Nat
  vDst : Nat
  kScale : Nat
  vScale : Nat
  stride : Nat
  keys : Bool
  values : Bool
  prefetch : Bool

def Op.gather (o : Op) : Gather :=
  let f := o.field 40 1
  ⟨o.field 8 2, o.field 10 2, o.field 12 4, o.field 16 4, o.field 20 4, o.field 24 4, o.field 28 4, o.field 32 4, o.field 36 4,
   !(bitOf f 1), !(bitOf f 0), !(bitOf f 2)⟩

/-- Whether the scratchpad fields of a GATHER are aligned and in range. -/
def Gather.placeOk (g : Gather) (row : Nat) (fp8 : Bool) : Bool :=
  let rows (a : Nat) := a % 64 == 0 && decide (a + (g.count - 1) * g.stride + row ≤ padEnd)
  g.stride % 64 == 0 && decide (row ≤ g.stride) && (!g.keys || (rows g.kDst && (!fp8 || decide (g.kScale + g.count ≤ padEnd)))) &&
    (!g.values || (rows g.vDst && (!fp8 || (g.vScale % 4 == 0 && decide (g.vScale + 4 * g.count ≤ padEnd)))))

/-- A V scale byte as FP32: 2^(b − 127), a canonical NaN for 0xFF (Table ATT-6). -/
def scaleF32 (b : Nat) : Nat := if b = 255 then fp32.nanBits else if b = 0 then 2 ^ 22 else b * 2 ^ 23

/-- What one token of an APPEND writes (Table ATT-1), key and value row, and their scales for FP8 pools: where, from which offset of the
scratchpad, and how many bytes. -/
def State.tokenRows (s : State) (p : Nat) (o : Op) (q : Seq) (stream pos k : Nat) : List (Nat × Nat × Nat) :=
  let row := s.poolD p * s.poolElem p
  let n := pos + k
  let a := frameAddr (s.pte (q.vpn stream (n / 16))).frame
  let j := n % 16
  let st := o.field 36 4
  [(a + j * row, o.field 20 4 + k * st, row), (a + 16 * row + j * row, o.field 24 4 + k * st, row)] ++
    (if s.poolFp8 p then [(a + 32 * row + j, o.field 28 4 + k, 1), (a + 32 * row + 16 + j, o.field 32 4 + k, 1)] else [])

/-- The bytes of one token of an APPEND, by address. -/
def State.tokenWrites (s : State) (t p : Nat) (o : Op) (q : Seq) (stream pos k : Nat) : List (Nat × Bytes) :=
  (s.tokenRows p o q stream pos k).map (fun r => (r.1, s.pad t r.2.1 r.2.2))

/-- The APPENDs in flight besides entry `i` of tile `t`: tile, entry, operation and domain. -/
def State.appends (s : State) (t i : Nat) : List (Nat × Nat × Op × Nat) :=
  s.tiles.flatMap (fun x =>
    match s.domOf x.1 with
    | some d => (x.2.ops.filter (fun e => e.2.engineCode == 8 && e.2.code == 2 && (x.1 != t || e.1 != i))).map (fun e => (x.1, e.1, e.2, d))
    | none => [])

/-- The page of entry `v` made writable (R269, R270): allocated, or copied when it is shared; none when no frame is found. -/
def State.writable (s : State) (p v : Nat) : Option State :=
  let e := s.pte v
  if e.valid ∧ e.cow = false then some s
  else
    match s.allocate p v with
    | none => none
    | some (f, s) =>
      if e.valid then
        let s := (s.copyPage p e.frame f).mapNew v f
        some (s.lowerRefs e.owner)
      else
        let s := s.mapNew v f
        let tail := 32 * s.poolD p * s.poolElem p + 32
        some (if s.poolFp8 p then s.devWrite (frameAddr f + tail) (zeros 224) else s)

/-- Pages made writable one after another; the flag tells that all were. -/
def State.writableAll (s : State) (p : Nat) : List Nat → State × Bool
  | [] => (s, true)
  | v :: vs =>
    match s.writable p v with
    | some s' => s'.writableAll p vs
    | none => (s, false)

/-- Whether the scratchpad fields of an APPEND are aligned and in range. -/
def State.appendPlaceOk (s : State) (o : Op) (p : Nat) : Bool :=
  let row := s.poolD p * s.poolElem p
  let n := o.field 16 2
  let st := o.field 36 4
  decide (1 ≤ n ∧ n ≤ 256) && st % 64 == 0 &&
    [o.field 20 4, o.field 24 4].all (fun a => decide (a + (n - 1) * st + row ≤ padEnd)) &&
    (!s.poolFp8 p || [o.field 28 4, o.field 32 4].all (fun a => decide (a + n ≤ padEnd)))

/-- What stops an APPEND before it writes (R268 to R270, Table ATT-9): a descriptor fault, or the outcome PAGE_SHARED. -/
def State.appendFault (s : State) (d : Nat) (o : Op) : Option Nat :=
  let q := s.seq (o.field 8 2)
  let pos := s.appendPos d o
  if !(s.owns d (o.field 8 2)) || decide (q.streams ≤ o.field 10 2) then some ST_SEQ_INVALID
  else if s.appendPlaceOk o q.pool = false then some ST_OP_DESCRIPTOR
  else if s.appendStart d o < pos ∨ q.maxRuns * 256 < pos + o.field 16 2 then some ST_POSITION_INVALID
  else none

/-- Whether a page of an APPEND is in transit, or shared by a fork of it (R270, R281). -/
def State.appendMoving (s : State) (d : Nat) (o : Op) : Bool := (s.appendPages d o).any (fun v => (s.pte v).valid && (s.pte v).tier == 3)
def State.appendShared (s : State) (d : Nat) (o : Op) : Bool :=
  (s.appendPages d o).any (fun v => (s.pte v).valid && (s.pte v).cow && (s.pte v).owned)

/-- Whether an APPEND in flight writes its rows: nothing stops it, and every page of it is writable or finds a frame. -/
def State.appendWrites (s : State) (d : Nat) (o : Op) : Bool :=
  s.fld KVP_STATUS_STATE != 0 && o.reservedOk [(8, 11), (20, 20)] && decide (o.field 18 1 < 2) && (s.appendFault d o).isNone &&
    !(s.appendMoving d o) && !(s.appendShared d o) && (s.writableAll (s.seq (o.field 8 2)).pool (s.appendPages d o)).2

/-- The rows that an APPEND of tile `t` writes into pages mapped now, when nothing stops it: destination, source and bytes. A page that the
APPEND will allocate or copy first is in none of them. -/
def State.appendRows (s : State) (t d : Nat) (o : Op) : List (Nat × Nat × Nat) :=
  let q := s.seq (o.field 8 2)
  let pos := s.appendPos d o
  let mapped (k : Nat) : Bool :=
    let e := s.pte (q.vpn (o.field 10 2) ((pos + k) / 16))
    e.valid && !e.cow
  if s.appendWrites d o then
    (((List.range (o.field 16 2)).filter mapped).flatMap (s.tokenRows q.pool o q (o.field 10 2) pos)).map (fun r => (r.1, padAddr t + r.2.1, r.2.2))
  else []

/-- The writes, into pages mapped now, of the started APPENDs of other tiles that have not acted and that nothing stops: a GATHER meets
each unit of 64 bytes old or new (R271). -/
def State.appending (s : State) (t i : Nat) : List (Nat × Bytes) :=
  ((s.appends t i).filter (fun x => x.1 != t && x.2.2.1.started && !x.2.2.1.acted)).flatMap (fun x =>
    (s.appendRows x.1 x.2.2.2 x.2.2.1).map (fun r => (r.1, s.physRead r.2.1 r.2.2)))

/-- `n` bytes at `a`, with those of `ws` in the 64-byte units where they have landed, as the module chooses. -/
def State.mixed (s : State) (ws : List (Nat × Bytes)) (a n : Nat) : Bytes :=
  let old := s.bytesAt a n
  if ws = [] then old
  else (List.range n).map (fun i =>
    let x := a + i
    match ws.find? (fun w => decide (w.1 ≤ x ∧ x < w.1 + w.2.length)) with
    | some w => if (Config.freeByte s.fresh (x / 64)).getLsbD 0 then w.2.getD (x - w.1) 0#8 else old.getD i 0#8
    | none => old.getD i 0#8)

/-- One token of a page written to the scratchpad; `src` is the page's address, none for a zero row. -/
def State.gatherToken (s : State) (t p : Nat) (g : Gather) (ws : List (Nat × Bytes)) (k : Nat) (src : Option Nat) (j : Nat) : State :=
  let row := s.poolD p * s.poolElem p
  let body (at' : Nat) : Bytes := match src with | some a => s.mixed ws (a + at') row | none => zeros row
  let scale (at' : Nat) : Nat := match src with | some a => leNat (s.mixed ws (a + at') 1) | none => 0
  let tagged (s : State) (at' n : Nat) : State := match src with | some a => s.readHbm (s.setOf t) (a + at') n | none => s
  let s1 := if g.keys then (tagged s (j * row) row).padPut t (g.kDst + k * g.stride) (body (j * row)) else s
  let s1 := if g.values then (tagged s1 (16 * row + j * row) row).padPut t (g.vDst + k * g.stride) (body (16 * row + j * row)) else s1
  if s.poolFp8 p = false then s1
  else
    let s1 := if g.keys then s1.padPut t (g.kScale + k) (leBytes 1 (scale (32 * row + j))) else s1
    if g.values then s1.padPut t (g.vScale + 4 * k) (leBytes 4 (scaleF32 (scale (32 * row + 16 + j)))) else s1

/-- The page-table entries that a GATHER walks, in order: those of its tokens below LENGTH (R265). -/
def Seq.walkPages (q : Seq) (g : Gather) : List Nat :=
  let n0 := g.t0 / 16
  if q.length ≤ g.t0 then []
  else (fromTo n0 ((min (g.t0 + g.count) q.length + 15) / 16 - n0)).map (fun n => q.vpn g.stream n)

/-- The counters of a GATHER's pages (R256, R287): pages, host pages and stretches; and the recorded accesses (R279). -/
def State.gatherCount (s : State) (t p : Nat) (vs : List Nat) : State :=
  let e (i : Nat) := s.pte (vs.getD i 0)
  let next (i : Nat) : Bool := decide (0 < i) && vs.getD i 0 % 16 != 0 && (e (i - 1)).valid &&
    (e (i - 1)).tier == (e i).tier && (e i).frame == (e (i - 1)).frame + s.pageUnits p
  let live := (List.range vs.length).filter (fun i => (e i).valid)
  let host := (live.filter (fun i => (e i).tier != 0)).length
  let s := s.addFld (KVW_CNT_FETCH_PAGES t) live.length
  let s := s.addFld (KVW_CNT_FETCH_STRETCHES t) (live.filter (fun i => !(next i))).length
  let s := s.addFld (KVW_CNT_TIER_HOST_PAGES t) host
  let s := (List.range vs.length).foldl (fun s i =>
    if i = 0 ∨ vs.getD i 0 % 4 = 0 then s.lookup t (vs.getD i 0) else s) s
  live.foldl (fun s i => s.touch (vs.getD i 0)) s

/-- The first poisoned page of a GATHER, as its address. -/
def State.gatherPoison (s : State) (p : Nat) (vs : List Nat) : Option Nat :=
  vs.findSome? (fun v => if (s.pte v).valid then s.poisonedIn (frameAddr (s.pte v).frame) (s.pageBytes p) else none)

/-- The return moves of a GATHER (R280): runs r0 + 1 to r0 + PREFETCH_RUNS, and one more for each run it advances into, below
LENGTH. -/
def State.gatherPrefetch (s : State) (p : Nat) (q : Seq) (g : Gather) : State :=
  let r0 := g.t0 / 256
  let last := (g.t0 + g.count - 1) / 256
  let n := s.fld KVP_RECLAIM_PREFETCH_RUNS
  if g.prefetch = false ∨ n = 0 then s
  else (fromTo (r0 + 1) (n + (last - r0))).foldl (fun s r =>
    if r * 256 < q.length then s.startReturn p (q.vpn g.stream (16 * r)) else s) s

/-- The effects of a GATHER. -/
def State.runGather (s : State) (t i : Nat) (q : Seq) (g : Gather) : State × Nat :=
  let p := q.pool
  let vs := q.walkPages g
  let poison := s.gatherPoison p vs
  let unmapped := vs.any (fun v => !(s.pte v).valid)
  let src (n : Nat) : Option Nat :=
    if n ≥ q.length then none
    else
      let e := s.pte (q.vpn g.stream (n / 16))
      if !e.valid || (s.poisonedIn (frameAddr e.frame) (s.pageBytes p)).isSome then none else some (frameAddr e.frame)
  let ws := s.appending t i
  let s := (List.range g.count).foldl (fun s k => s.gatherToken t p g ws k (src (g.t0 + k)) ((g.t0 + k) % 16)) s
  let s := { s with fresh := s.fresh + 1 }
  let s := s.gatherCount t p vs
  let s := match poison with | some a => s.consumesPoison t i a | none => s
  let s := s.gatherPrefetch p q g
  (s, if poison.isSome then ST_POISONED else if unmapped then ST_PAGE_NOT_MAPPED else 0)

/-- GATHER (R265, R266): it waits while a page it reads is in transit. -/
def execGather (t : Fin 384) (i : Fin 64) (found : List Found) (s : State) : Out :=
  let s := s.findErrors found
  .next (s.walkOp t.val i.val 1 [(8, 33)] (fun o => o.field 40 1 < 8) (fun o d =>
    let g := o.gather
    let q := s.seq g.seq
    let row := s.poolD q.pool * s.poolElem q.pool
    if !(s.owns d g.seq) || decide (q.streams ≤ g.stream) then .fault ST_SEQ_INVALID
    else if g.count < 1 ∨ 8192 < g.count ∨ q.maxRuns * 256 < g.t0 + g.count ∨ g.placeOk row (s.poolFp8 q.pool) = false then
      .fault ST_OP_DESCRIPTOR
    else if (q.walkPages g).any (fun v => (s.pte v).valid && (s.pte v).tier == 3) then .wait s
    else
      let r := s.runGather t.val i.val q g
      .done r.1 r.2))

/-! ## APPEND (R268 to R271) -/

/-- POOL_EMPTY: the outcome, its event and EMPTY_SEEN (R269, Table ATT-9). -/
def State.poolEmpty (s : State) (t d p seq : Nat) : State :=
  (s.setFld (KVP_POOL_STATE_EMPTY_SEEN p) 1).event (0xD000 + dieOf t) 0x8403 d
    (leBytes 1 p ++ zeros 1 ++ leBytes 2 seq ++ zeros 4 ++ leBytes 8 (s.slot d))

/-- One token row of an APPEND stored. -/
def State.appendToken (s : State) (t p : Nat) (o : Op) (q : Seq) (stream pos k : Nat) : State :=
  let d := s.setOf t
  (s.tokenWrites t p o q stream pos k).foldl (fun s w => (s.devWrite w.1 w.2).tagHbm d w.1 w.2.length) s

/-- The bytes that an APPEND has written and that another APPEND in flight, not ordered with it by prerequisites, writes too (R271): they are
unpredictable now, and again when either of the two completes. -/
def State.appendRaces (s : State) (t i d : Nat) (o : Op) : State :=
  let n := o.field 16 2
  let pos := s.appendPos d o
  let q := s.seq (o.field 8 2)
  let same (x : Nat × Nat × Op × Nat) : Bool := x.2.2.1.field 8 2 == o.field 8 2 && x.2.2.1.field 10 2 == o.field 10 2
  let ordered (x : Nat × Nat × Op × Nat) : Bool := x.1 == t && (o.after.contains x.2.2.1.order || x.2.2.1.after.contains o.order)
  let shared (x : Nat × Nat × Op × Nat) : List (Nat × Nat) :=
    let p0 := s.appendPos x.2.2.2 x.2.2.1
    let hit (k : Nat) : Bool := decide (p0 ≤ pos + k ∧ pos + k < p0 + x.2.2.1.field 16 2)
    ((List.range n).filter hit).flatMap (fun k => (s.tokenWrites t q.pool o q (o.field 10 2) pos k).map (fun w => (w.1, w.2.length)))
  ((s.appends t i).filter (fun x => same x && !(ordered x))).foldl (fun s x =>
    let rs := shared x
    let add (s : State) (t i : Nat) : State := match s.op t i with
      | some p => s.setOp t i { p with races := p.races ++ rs }
      | none => s
    (add (add s t i) x.1 x.2.1).scrambleAll rs) s

/-- The LENGTH rule of ADVANCE (R268). -/
def Seq.advance (q : Seq) (slot fin : Nat) : Seq :=
  let q := if q.slot = slot then q else { q with l0 := q.length, slot := slot }
  let l := max q.length fin
  { q with length := l, bucket := bucketOf l }

/-- APPEND (R268 to R272). -/
def execAppend (t : Fin 384) (i : Fin 64) (found : List Found) (s : State) : Out :=
  let s := s.findErrors found
  .next (s.walkOp t.val i.val 2 [(8, 11), (20, 20)] (fun o => o.field 18 1 < 2) (fun o d =>
    let sq := o.field 8 2
    let stream := o.field 10 2
    let q := s.seq sq
    let p := q.pool
    let n := o.field 16 2
    let pos := s.appendPos d o
    let vs := s.appendPages d o
    match s.appendFault d o with
    | some st => .fault st
    | none =>
      if s.appendMoving d o then .wait s
      else if s.appendShared d o then .done s ST_PAGE_SHARED
      else
        let r := s.writableAll p vs
        if r.2 = false then .done (r.1.poolEmpty t.val d p sq) ST_POOL_EMPTY
        else
          let s := (List.range n).foldl (fun s k => s.appendToken t.val p o q stream pos k) r.1
          let s := (vs.foldl (fun s v => s.touch v) s).appendRaces t.val i.val d o
          .done (if bitOf (o.field 18 1) 0 then s.putSeq sq (q.advance (s.slot d) (pos + n)) else s) 0))

/-! ## Sequences (R258 to R261, R272 to R274) -/

/-- SEQ_OPEN (R258, R260). -/
def execSeqOpen (t : Fin 384) (i : Fin 64) (found : List Found) (s : State) : Out :=
  let s := s.findErrors found
  .next (s.walkOp t.val i.val 3 [(8, 2), (12, 7), (20, 4)] (fun _ => true) (fun o d =>
    let sq := o.field 8 2
    let base := o.field 12 4
    let streams := o.field 16 2
    let pool := o.field 18 1
    let maxTok := o.field 20 4
    let old := s.seq sq
    let new : Seq := { base := base, streams := streams, pool := pool, state := 1, domain := d, maxRuns := maxTok / 256,
                       slot := s.slot d }
    if base % 16 ≠ 0 ∨ streams < 1 ∨ 4096 < streams ∨ 8 ≤ pool ∨ (s.poolEntry pool).isNone = true ∨ maxTok % 256 ≠ 0 ∨
        maxTok < 256 ∨ 1048576 < maxTok ∨ 4194304 < base + streams * (maxTok / 16) then .fault ST_OP_DESCRIPTOR
    else if old.state = 1 ∧ old.slot = s.slot d ∧ old.domain = d ∧ old.base = base ∧ old.streams = streams ∧ old.pool = pool ∧
        old.maxRuns = maxTok / 256 then .done s 0
    else if (List.range 65536).any (fun j =>
        let q := s.seq j
        q.state != 0 && decide (q.base < base + new.entries ∧ base < q.base + q.entries)) then .done s ST_REGION_OVERLAP
    else if old.state ≠ 0 then .done s ST_SEQ_BUSY
    else .done ((s.putSeq sq new).addFld KVP_STATUS_OPEN_SEQS 1) 0))

/-- The release of one entry (R274), and whether it stays HELD. -/
def State.release (s : State) (v : Nat) : State × Bool :=
  let e := s.pte v
  let s := match s.reservedFor v with
    | some (f, b) => if b.resv = some v then s.unreserve f else s
    | none => s
  let e := { e with runStart := false }
  if e.valid = false ∧ e.held = false then (if s.pte v = {} then s else s.changePte v {}, false)
  else if e.owned then
    if e.refs ≤ 1 then ((s.changePte v {}).freePage e.tier e.frame, false)
    else (s.changePte v { e with valid := false, held := true, refs := e.refs - 1 }, true)
  else ((s.changePte v {}).lowerRefs e.owner, false)

/-- One page of a fork's prefix (R273): shared, or copied into a frame of the destination; none when no frame is found. What an earlier
FORK mapped stands (R272): a share is not counted again, a copy goes to the frame that the entry owns. Any other mapping of the entry is
released first, as a close would release it. -/
def State.forkPage (s : State) (p src dst : Nat) (share : Bool) : Option State :=
  let e := s.pte src
  let z := s.pte dst
  let owner := if e.owned then src else e.owner
  let w := s.pte owner
  let free (s : State) : State := if z.valid || z.runStart then (s.release dst).1 else s
  if e.valid = false then some s
  else if z.valid && !z.owned && z.owner == owner && z.frame == e.frame then some s
  else if share ∧ e.tier = 0 ∧ w.refs < 255 then
    let s := free s
    let w := s.pte owner
    let s := s.changePte owner { w with refs := w.refs + 1, cow := true }
    some (s.changePte dst { s.pte dst with valid := true, cow := true, tier := 0, owned := false, held := false, refs := 0,
                                           frame := e.frame, owner := owner })
  else if z.valid && z.owned && decide (z.refs ≤ 1) then some (s.copyPage p e.frame z.frame)
  else
    match (if z.valid then free s else s).allocate p dst with
    | none => none
    | some (f, s) => some ((s.copyPage p e.frame f).mapNew dst f)

/-- The pages of a fork, one after another; the flag tells that all were mapped. -/
def State.forkAll (s : State) (p : Nat) : List (Nat × Nat × Bool) → State × Bool
  | [] => (s, true)
  | x :: xs =>
    match s.forkPage p x.1 x.2.1 x.2.2 with
    | some s' => s'.forkAll p xs
    | none => (s, false)

/-- FORK (R272, R273): a repeated one finds L0 of its destination at PREFIX, and LENGTH there or beyond it when an ADVANCE of the slot has
moved it, whatever has become of the source since. A page met in
transit is waited for, and copied. -/
def execFork (t : Fin 384) (i : Fin 64) (found : List Found) (s : State) : Out :=
  let s := s.findErrors found
  .next (s.walkOp t.val i.val 4 [(8, 8)] (fun _ => true) (fun o d =>
    let a := o.field 8 2
    let b := o.field 10 2
    let pre := o.field 12 4
    let q := s.seq a
    let r := s.seq b
    if !(s.owns d b) || a == b then .fault ST_SEQ_INVALID
    else if r.slot = s.slot d ∧ r.l0 = pre ∧ pre ≤ r.length then .done s 0
    else if !(s.owns d a) || q.pool != r.pool || q.streams != r.streams then .fault ST_SEQ_INVALID
    else if r.length ≠ 0 ∨ r.maxRuns * 256 < pre ∨ q.length < pre then .fault ST_POSITION_INVALID
    else
      let moving (v : Nat) : Bool := (s.pte v).valid && (s.pte v).tier == 3
      let pages := (List.range q.streams).flatMap (fun st => (List.range ((pre + 15) / 16)).map (fun n =>
        (q.vpn st n, r.vpn st n, decide (16 * n + 16 ≤ pre) && !(o.met.contains (q.vpn st n)))))
      if pages.any (fun x => moving x.1 || moving x.2.1) then
        .wait (s.setOp t.val i.val { o with met := o.met ++ (pages.map (·.1)).filter (fun v => moving v && !(o.met.contains v)) })
      else
        let z := s.forkAll q.pool pages
        if z.2 = false then .done (z.1.poolEmpty t.val d q.pool b) ST_POOL_EMPTY
        else .done (z.1.putSeq b { r with length := pre, l0 := pre, bucket := bucketOf pre, slot := s.slot d }) 0))

/-- SEQ_CLOSE (R274): it waits while a page of the region is in transit. -/
def execSeqClose (t : Fin 384) (i : Fin 64) (found : List Found) (s : State) : Out :=
  let s := s.findErrors found
  .next (s.walkOp t.val i.val 5 [(8, 2)] (fun _ => true) (fun o d =>
    let sq := o.field 8 2
    let q := s.seq sq
    let vs := fromTo q.base q.entries
    if q.state ≠ 1 ∧ q.slot = s.slot d ∧ q.domain = d ∧ q.streams ≠ 0 then .done s 0
    else if !(s.owns d sq) then .fault ST_SEQ_INVALID
    else if vs.any (fun v => (s.pte v).valid && (s.pte v).tier == 3) then .wait s
    else
      let r := vs.foldl (fun (x : State × Nat) v =>
        let y := x.1.release v
        (y.1, x.2 + if y.2 then 1 else 0)) (s, 0)
      let s := r.1.putSeq sq { q with state := if r.2 = 0 then 0 else 2, held := r.2, slot := s.slot d }
      .done (if r.2 = 0 then s.subFld KVP_STATUS_OPEN_SEQS 1 else s) 0))

/-- LIST (R261): the full count, then up to MAX_IDS ids in ascending order. -/
def execKvpList (t : Fin 384) (i : Fin 64) (found : List Found) (s : State) : Out :=
  let s := s.findErrors found
  .next (s.walkOp t.val i.val 6 [(8, 1), (12, 6)] (fun _ => true) (fun o d =>
    let b := o.field 8 1
    let dst := o.field 12 4
    let ids := (List.range 65536).filter (fun j => s.owns d j && (s.seq j).bucket == b)
    let out := leBytes 4 ids.length ++ (ids.take (o.field 16 2)).flatMap (leBytes 2)
    if 12 < b ∨ dst % 4 ≠ 0 ∨ padEnd < dst + 4 + 2 * o.field 16 2 then .fault ST_OP_DESCRIPTOR
    else .done (s.padPut t.val dst out) 0))

end Sys2Proof.Machine
end

