-- ==== Sys2Proof/Machine/Stash.lean ====
section
/-!
DEFINITION. The stash: registrations, captures, fetches, releases, demotion and prefetch (R289 to R300), and the MOVE commands (R127,
R305).
-/
namespace Sys2Proof.Machine

/-! ## Classes and budgets (R289, R296) -/

/-- The STASH entry of a tensor class. -/
def State.stashClass (s : State) (cls : Nat) : Option Bytes := (s.entries secStash).find? (fun e => fieldAt e 0 2 == cls)

/-- POLICY, DUAL, COMPRESS and PREFETCH of a class; without an entry KEEP with the flags clear (R289). -/
def State.classPolicy (s : State) (cls : Nat) : Nat := ((s.stashClass cls).map (fun e => fieldAt e 2 1)).getD 0
def State.classDual (s : State) (cls : Nat) : Bool := ((s.stashClass cls).map (fun e => bitOf (fieldAt e 3 1) 0)).getD false
def State.classCompress (s : State) (cls : Nat) : Bool := ((s.stashClass cls).map (fun e => bitOf (fieldAt e 3 1) 1)).getD false
def State.classDualFormat (s : State) (cls : Nat) : Nat := ((s.stashClass cls).map (fun e => fieldAt e 5 1)).getD 0
def State.classPrefetch (s : State) (cls : Nat) : Nat :=
  let n := ((s.stashClass cls).map (fun e => fieldAt e 4 1)).getD 0
  if n = 0 then s.preField secStash 0 1 4 else n

/-- The dies that a domain occupies. -/
def State.domDies (s : State) (d : Nat) : List Nat := (List.range 4).filter (fun k => (s.domTiles d).any (fun t => dieOf t == k))

/-- The domain's global STASH ranges, the handle table removed. -/
def State.globalStash (s : State) (d : Nat) : List (Nat × Nat) :=
  ((s.regions 2 d).filter (fun e => fieldAt e 1 1 == 0)).map (fun e =>
    let a := hbmBase + fieldAt e 8 8
    let n := fieldAt e 16 8
    if s.stashBase = some a then (a + stashTable, n - stashTable) else (a, n))

/-- `n` bytes of ranges laid end to end, from byte `off` on. -/
def sliceRanges (off n : Nat) : List (Nat × Nat) → List (Nat × Nat)
  | [] => []
  | (a, l) :: rs =>
    if off ≥ l then sliceRanges (off - l) n rs
    else
      let k := min n (l - off)
      if k = 0 then [] else (a + off, k) :: sliceRanges 0 (n - k) rs

/-- The HBM ranges that make up the budget B(d, k) (R296). -/
def State.stashRanges (s : State) (d k : Nat) : List (Nat × Nat) :=
  let own := ((s.regions 2 d).filter (fun e => fieldAt e 1 1 == 1 && fieldAt e 2 1 == k)).map (fun e => (hbmBase + fieldAt e 8 8, fieldAt e 16 8))
  let all := s.globalStash d
  let total := (all.map (·.2)).sum
  let dies := s.domDies d
  let share := total / max 1 dies.length / 2 ^ 21 * 2 ^ 21
  let low := total - share * (dies.length - 1)
  if dies.contains k then
    own ++ (if dies.idxOf k = 0 then sliceRanges 0 low all else sliceRanges (low + share * (dies.idxOf k - 1)) share all)
  else own

/-- The bytes of ranges. -/
def rangesSize (rs : List (Nat × Nat)) : Nat := (rs.map (·.2)).sum

/-- The bytes in use in ranges. -/
def State.usedIn (s : State) (rs : List (Nat × Nat)) : Nat := ((s.stash.space.filter (fun e => inRanges rs e.1)).map (·.2)).sum

/-- The host areas, DDR first (R296, R308). -/
def State.hostRanges (s : State) : List (Nat × Nat) :=
  [(s.fld STH_HOST_DDR_BASE * 2 ^ 21, s.fld STH_HOST_DDR_SIZE * 2 ^ 30), (s.fld STH_HOST_CXL_BASE * 2 ^ 21, s.fld STH_HOST_CXL_SIZE * 2 ^ 30)].filter
    (fun r => r.2 != 0)

/-- The event unit of the stash unit of die `k` (Table ERR-4). -/
def stashUnit (k : Nat) : Nat := 0xC000 + k

/-! ## Parts -/

/-- The element type of a FORMATS index in force. -/
def State.typeOf (s : State) (fmt : Nat) : Nat := ((s.format fmt).map (·.ty)).getD 8

/-- What the codecs of die `k` count for a part encoded (Table STH-9). -/
def State.countEncoded (s : State) (k raw : Nat) (part : Bytes × List Nat) : State :=
  let s := s.addScaled (CDC_DIE_BYTES_RAW k) (2 ^ 20) raw
  let s := s.addScaled (CDC_DIE_BYTES_STORED k) (2 ^ 20) part.1.length
  let n (m : Nat) := part.2.getD m 0
  let s := s.addFld (CDC_DIE_SUBS_ZERO k) (n 3)
  let s := s.addFld (CDC_DIE_SUBS_RAW k) (n 0)
  s.addScaled (CDC_DIE_SUBS_CODED k) 1024 (n 1 + n 2)

/-- What they count for substreams decoded. -/
def State.countDecoded (s : State) (k raw stored corrupt : Nat) : State :=
  let s := s.addScaled (CDC_DIE_BYTES_RAW k) (2 ^ 20) raw
  let s := s.addScaled (CDC_DIE_BYTES_STORED k) (2 ^ 20) stored
  s.addFld (CDC_DIE_SUBS_CORRUPT k) corrupt

/-- A part's stored bytes: raw, or encoded under a FORMATS index. -/
def State.formPart (s : State) (coded : Bool) (fmt : Nat) (raw : Bytes) : Bytes × List Nat :=
  if coded then encodePart (s.typeOf fmt) 1 raw [] else (raw, [])

/-- A part written at its place, its codec work counted. -/
def State.writePart (s : State) (k a : Nat) (coded : Bool) (raw : Nat) (part : Bytes × List Nat) : State :=
  let s := s.devWrite a part.1
  if coded then s.countEncoded k raw part else s

/-- The stored length of bytes in 16-byte units. -/
def storedUnits (bs : Bytes) : Nat := (bs.length + 15) / 16

/-! ## REGISTER (R292) -/

/-- Whether `n` bytes at an operand lie in the tile's own scratchpad or in HBM. -/
def State.stashEnd (s : State) (t a n : Nat) : Bool :=
  (s.ownPad t a && decide ((a - padBase) % 0x40_0000 + n ≤ padSize)) || (inHbm a && inHbm (a + n - 1))

/-- The fields of a REGISTER (Table STH-3). -/
structure Reg where
  handle : Nat
  cls : Nat
  src : Nat
  len : Nat
  dualSrc : Nat
  dualLen : Nat
  consumer : Nat

def Op.reg (o : Op) : Reg := ⟨o.field 8 4, o.field 12 2, o.field 16 8, o.field 24 4 * 4096, o.field 28 8, o.field 36 4 * 4096, o.field 40 8⟩

/-- The descriptor fault of a REGISTER by a tile of domain `d` (R289, R290, R292), checked at issue and at its effect. -/
def State.registerFault (s : State) (t d : Nat) (o : Op) : Option Nat :=
  let r := o.reg
  let top := 16777216 * 4096
  let policy := s.classPolicy r.cls
  let dual := s.classDual r.cls
  let badEnd (a n : Nat) := n = 0 || decide (top < n) || a % 64 != 0 || !(s.stashEnd t a n)
  let coding := policy == 1 || s.classCompress r.cls
  if !(o.reservedOk [(8, 6), (16, 32)]) || decide (2 ^ 18 ≤ r.handle ∨ 2 ^ 48 ≤ r.src ∨ 2 ^ 48 ≤ r.dualSrc) then some ST_REJECTED_RESERVED
  else if s.stashBase.isNone then some ST_STASH_CONFIG
  else if (s.stashClass r.cls).any (fun e => fieldAt e 6 2 != d) then some ST_CLASS_DOMAIN
  else if (s.handle r.handle).state ≠ 0 then some ST_HANDLE_BUSY
  else if (r.dualSrc != 0) != dual || (dual && policy == 3) then some ST_DUAL_MISMATCH
  else if policy = 3 then (if r.src ≠ 0 ∨ r.len ≠ 0 then some ST_OP_DESCRIPTOR else none)
  else if badEnd r.src r.len || (dual && badEnd r.dualSrc r.dualLen) || (coding && (s.format o.format).isNone) then some ST_OP_DESCRIPTOR
  else none

/-- The handle entry of a registration, its place apart. -/
def State.newHandle (s : State) (t d : Nat) (o : Op) : Handle :=
  let r := o.reg
  { dom := d, cls := r.cls, fmt := o.format, dualFmt := s.classDualFormat r.cls, dual := r.dualSrc != 0, die := dieOf t,
    regSlot := s.slot d, consumer := r.consumer, high := o.high, pRaw := r.len / 4096, dRaw := if r.dualSrc = 0 then 0 else r.dualLen / 4096 }

/-- A capture placed in ranges, its parts in their stored form; none when there is no room. -/
def State.capture (s : State) (h : Nat) (x : Handle) (ranges : List (Nat × Nat)) (coded : Bool) (p q : Bytes) : Option State :=
  let fp := s.formPart coded x.fmt p
  let fq := s.formPart coded x.dualFmt q
  match takeSpace ranges s.stash.space (fp.1.length :: (if x.dual then [fq.1.length] else [])) with
  | none => none
  | some (as, sp) =>
    let s := { s with stash := { s.stash with space := sp } }
    let s := s.writePart x.die (as.getD 0 0) coded p.length fp
    let s := if x.dual then s.writePart x.die (as.getD 1 0) coded q.length fq else s
    some (s.setHandle h { x with
      state := 1, pCoded := coded, dCoded := coded && x.dual, pAddr := as.getD 0 0, pStored := storedUnits fp.1,
      dAddr := as.getD 1 0, dStored := if x.dual then storedUnits fq.1 else 0 })

/-- A capture at its first placement, or on the host when its budget is full (R296). -/
def State.placeCapture (s : State) (h d : Nat) (x : Handle) (p q : Bytes) : Option State :=
  let policy := s.classPolicy x.cls
  let hostCoded := s.classCompress x.cls || policy == 1
  let near := if policy = 2 then none else s.capture h x (s.stashRanges d x.die) (policy == 1) p q
  match near with
  | some s => some s
  | none =>
    match s.capture h { x with demoted := policy != 2 } s.hostRanges hostCoded p q with
    | some s => some (if policy = 2 then s else s.addFld (STH_DIE_MOVES_DEMOTED x.die) 1)
    | none => none

/-- REGISTER (R292, R296): a DROP handle at once; otherwise the sources are read and the capture begins. -/
def execStashRegister (t : Fin 384) (i : Fin 64) (found : List Found) (s : State) : Out :=
  let s := s.findErrors found
  match s.held t.val i.val [9] 1, s.domOf t.val with
  | some o, some d =>
    match s.registerFault t.val d o with
    | some st => .next (s.opFault t.val i.val st)
    | none =>
      let r := o.reg
      let x := s.newHandle t.val d o
      let a := s.tileAddr t.val r.src
      let b := s.tileAddr t.val r.dualSrc
      let n := if x.dual then r.dualLen else 0
      if s.classPolicy r.cls = 3 then .next ((s.setHandle r.handle { x with state := 6 }).actedWith t.val i.val 0)
      else if !(s.mappedAll a r.len && s.mappedAll b n) then .next (((s.engineFault b n).engineFault a r.len).actedWith t.val i.val ST_ADDRESS_UNMAPPED)
      else
        match (s.poisonedIn a r.len).orElse (fun _ => if n = 0 then none else s.poisonedIn b n) with
        | some p => .next ((s.consumesPoison t.val i.val p).actedWith t.val i.val ST_POISONED)
        | none =>
          match ((s.readHbm d a r.len).readHbm d b n).placeCapture r.handle d x (s.physRead a r.len) (s.physRead b n) with
          | some s => .next (s.actedWith t.val i.val 0)
          | none =>
            let s := s.addFld (STH_DIE_EVENTS_FULL x.die) 1
            let s := s.event (stashUnit x.die) EV_STASH_FULL d (leBytes 4 r.handle ++ leBytes 2 r.cls ++ zeros 2 ++ leBytes 8 (s.slot d))
            .next (s.actedWith t.val i.val ST_STASH_FULL)
  | _, _ => .next s

/-- STASH_CAPTURE_END: the capture of handle `id` has reached its placement (R292); it never does once the grants of its stash unit are
revoked (R327). -/
def execStashCaptureEnd (id : Nat) (s : State) : Out :=
  let x := s.handle id
  if x.state = 1 ∧ s.revoked (stashUnit x.die) = false then .next (s.setHandle id { x with state := if inHbm x.pAddr then 2 else 3 }) else .next s

/-! ## FETCH (R293, R298) -/

/-- The fields of a FETCH (Table STH-3). -/
structure Fetch where
  handle : Nat
  part : Nat
  release : Bool
  first : Nat
  count : Nat
  dst : Nat

def Op.fetch (o : Op) : Fetch := ⟨o.field 8 4, o.field 12 1, bitOf (o.field 13 1) 0, o.field 16 4, o.field 20 4, o.field 24 8⟩

/-- The descriptor fault of a FETCH. -/
def State.fetchFault (s : State) (t d : Nat) (o : Op) : Option Nat :=
  let f := o.fetch
  let x := s.handle f.handle
  if !(o.reservedOk [(8, 6), (16, 16)]) || decide (2 ^ 18 ≤ f.handle ∨ 2 ≤ o.field 13 1 ∨ 2 ^ 48 ≤ f.dst) then some ST_REJECTED_RESERVED
  else if s.stashBase.isNone then some ST_STASH_CONFIG
  else if x.state = 0 ∨ x.dom ≠ d then some ST_STASH_UNKNOWN
  else if x.state = 6 then some ST_STASH_DROPPED
  else if f.part > 1 ∨ (f.part = 1 ∧ x.dual = false) ∨ f.count = 0 ∨ 16777216 < f.count ∨
      (if f.part = 0 then x.pRaw else x.dRaw) < f.first + f.count ∨ s.stashEnd t f.dst (f.count * 4096) = false then
    some ST_OP_DESCRIPTOR
  else none

/-- The place, stored length and form of a part of a handle. -/
def Handle.part (x : Handle) (i : Nat) : Nat × Nat × Bool :=
  if i = 0 then (x.pAddr, x.pStored * 16, x.pCoded) else (x.dAddr, x.dStored * 16, x.dCoded)

/-- The first poisoned address that 4 KiB unit `i` of a part depends on. -/
def State.unitPoison (s : State) (a : Nat) (coded : Bool) (part : Bytes) (i : Nat) : Option Nat :=
  if coded then
    let at' := 16 * fieldAt part (128 + 4 * i) 4
    (s.poisonedIn a (128 + (4 * fieldAt part 8 4 + 15) / 16 * 16)).orElse (fun _ => s.poisonedIn (a + at') (8 + fieldAt part at' 2))
  else s.poisonedIn (a + 4096 * i) 4096

/-- Unit `i` of a part as FETCH reads it: none when it is corrupt. -/
def fetchUnit (coded : Bool) (part : Bytes) (i : Nat) : Option Bytes :=
  if coded then decodeAt part [] i else some (takeAt part (4096 * i) 4096)

/-- The effects of a FETCH, and its outcome. -/
def State.runFetch (s : State) (t i : Nat) (f : Fetch) (x : Handle) : State × Nat :=
  let (a, n, coded) := x.part f.part
  let part := s.bytesAt a n
  let us := fromTo f.first f.count
  let poison := us.findSome? (fun u => s.unitPoison a coded part u)
  let bad := us.filter (fun u => (s.unitPoison a coded part u).isNone && (fetchUnit coded part u).isNone)
  let dst := s.tileAddr t f.dst
  let out (u : Nat) : Bytes := if (s.unitPoison a coded part u).isSome then zeros 4096 else (fetchUnit coded part u).getD (zeros 4096)
  let stored := if coded then (us.map (fun u => 8 + fieldAt part (16 * fieldAt part (128 + 4 * u) 4) 2)).sum else 0
  let s1 := us.foldl (fun s1 u => s1.devWrite (dst + 4096 * (u - f.first)) (out u)) s
  let s1 := if coded then s1.countDecoded x.die (4096 * f.count) stored bad.length else s1
  let s1 := (s1.count x.dom 10 (4096 * f.count)).readHbm x.dom a (if coded then stored else 4096 * f.count)
  let s1 := match poison with | some p => s1.consumesPoison t i p | none => s1
  (s1, if poison.isSome then ST_POISONED else if bad ≠ [] then ST_CODEC_CORRUPT else 0)

/-- The first FETCH of a part, late when it finds the handle on the host or waits on a move to HBM issued at its own boundary or later
(R298): counted, and named by PREFETCH_LATE once per slot. While a capture or a move to the host goes on, that is not yet known. -/
def State.noteFetch (s : State) (h part : Nat) : State :=
  let x := s.handle h
  if bitOf x.fetched part || x.state == 1 || x.state == 4 then s
  else
    let slot := s.slot x.dom
    let late := x.state == 3 || (x.state == 5 && decide (slot ≤ x.movedAt))
    let tell := late && x.lateAt != some slot
    let s := s.setHandle h { x with fetched := withBit x.fetched part, lateAt := if late then some slot else x.lateAt }
    let s := if late then s.addFld (STH_DIE_EVENTS_PREFETCH_LATE x.die) 1 else s
    if tell then s.event (stashUnit x.die) EV_PREFETCH_LATE x.dom (leBytes 4 h ++ leBytes 1 part ++ zeros 3 ++ leBytes 8 slot) else s

/-- A handle marked RELEASING (R294). -/
def State.markRelease (s : State) (h : Nat) : State := s.setHandle h { s.handle h with releasing := true }

/-- FETCH (R293): it waits while the handle is captured or moves; with RELEASE set the RELEASE follows, whatever the outcome. -/
def execStashFetch (t : Fin 384) (i : Fin 64) (found : List Found) (s : State) : Out :=
  let s := s.findErrors found
  match s.held t.val i.val [9] 2, s.domOf t.val with
  | some o, some d =>
    match s.fetchFault t.val d o with
    | some st => .next (s.opFault t.val i.val st)
    | none =>
      let f := o.fetch
      let s := s.noteFetch f.handle f.part
      let x := s.handle f.handle
      if x.state = 1 ∨ x.state = 4 ∨ x.state = 5 then .next s
      else
        let dst := s.tileAddr t.val f.dst
        let (s, st) := if s.mappedAll dst (4096 * f.count) then s.runFetch t.val i.val f x
          else (s.engineFault dst (4096 * f.count), ST_ADDRESS_UNMAPPED)
        let s := if f.release then s.markRelease f.handle else s
        .next (s.actedWith t.val i.val st)
  | _, _ => .next s

/-- RELEASE (R294): the handle becomes FREE at the boundary at which this slot is finished. -/
def execStashRelease (t : Fin 384) (i : Fin 64) (s : State) : Out :=
  match s.held t.val i.val [9] 3, s.domOf t.val with
  | some o, some d =>
    let h := o.field 8 4
    if !(o.reservedOk [(8, 4)]) || decide (2 ^ 18 ≤ h) then .next (s.opFault t.val i.val ST_REJECTED_RESERVED)
    else if s.stashBase.isNone then .next (s.opFault t.val i.val ST_STASH_CONFIG)
    else if (s.handle h).state = 0 ∨ (s.handle h).dom ≠ d then .next (s.opFault t.val i.val ST_STASH_UNKNOWN)
    else .next ((s.markRelease h).actedWith t.val i.val 0)
  | _, _ => .next s

/-! ## Demotion and prefetch (R297) -/

/-- The stored bytes of a handle. -/
def Handle.size (x : Handle) : Nat := 16 * (x.pStored + x.dStored)

/-- The raw bytes of a part, decoded where it is coded. -/
def State.rawPart (s : State) (x : Handle) (i : Nat) : Bytes :=
  let (a, n, coded) := x.part i
  let part := s.bytesAt a n
  if coded then (List.range (if i = 0 then x.pRaw else x.dRaw)).flatMap (fun u => (decodeAt part [] u).getD (zeros 4096)) else part

/-- The stored bytes of a part after a move that codes it or keeps its form. -/
def State.movedPart (s : State) (x : Handle) (i : Nat) (coded : Bool) : Bytes × List Nat :=
  let (a, n, was) := x.part i
  if coded && !was then s.formPart true (if i = 0 then x.fmt else x.dualFmt) (s.rawPart x i) else (s.bytesAt a n, [])

/-- A move of handle `h` into ranges, its parts coded when `code` is set or kept in their form, as state `st` meanwhile; none when there
is no room. -/
def State.startMove (s : State) (h st : Nat) (ranges : List (Nat × Nat)) (code : Bool) : Option State :=
  let x := s.handle h
  let p := s.movedPart x 0 (x.pCoded || code)
  let q := s.movedPart x 1 (x.dCoded || code)
  match takeSpace ranges s.stash.space (p.1.length :: (if x.dual then [q.1.length] else [])) with
  | none => none
  | some (as, sp) =>
    let s := { s with stash := { s.stash with space := sp } }
    let s := (s.readHbm x.dom x.pAddr (16 * x.pStored)).readHbm x.dom x.dAddr (16 * x.dStored)
    some (s.setHandle h { x with state := st, demoted := x.demoted || st == 4, movedAt := s.slot x.dom, move := some {
      pAddr := as.getD 0 0, pStored := storedUnits p.1, pCoded := x.pCoded || code,
      dAddr := as.getD 1 0, dStored := if x.dual then storedUnits q.1 else 0, dCoded := x.dual && (x.dCoded || code) } })

/-- Whether a FETCH of handle `h` runs. -/
def State.fetching (s : State) (h : Nat) : Bool :=
  s.tiles.any (fun x => x.2.ops.any (fun p => p.2.started && !p.2.acted && p.2.engineCode == 9 && p.2.code == 2 && p.2.field 8 4 == h))

/-- Whether a handle comes before another as a victim: the furthest use, then the largest, then the lowest index. -/
def victimGt (a b : Nat × Handle) : Bool :=
  decide (b.2.consumer < a.2.consumer) ||
    (a.2.consumer == b.2.consumer && (decide (b.2.size < a.2.size) || (a.2.size == b.2.size && decide (a.1 < b.1))))

/-- The victim of a demotion on die `k` at the start of slot `n`. -/
def State.victim (s : State) (d k n : Nat) : Option (Nat × Handle) :=
  (s.stash.handles.filter (fun e => e.2.dom == d && e.2.die == k && e.2.state == 2 && e.2.committed && !(s.fetching e.1) &&
    decide (n + s.classPrefetch e.2.cls < e.2.consumer))).foldl
    (fun best e => match best with
      | none => some e
      | some b => if victimGt e b then some e else some b) none

/-- The space that the parts of a handle take, each in units of 256 bytes; a move keeps it or shrinks it. -/
def Handle.room (x : Handle) : Nat :=
  let up (n : Nat) := (16 * n + 255) / 256 * 256
  match x.state, x.move with
  | 5, some m => up m.pStored + up m.dStored
  | _, _ => up x.pStored + up x.dStored

/-- The bytes on their way out of HBM, and into it, on die `k`. -/
def State.moving (s : State) (d k st : Nat) : Nat :=
  ((s.stash.handles.filter (fun e => e.2.dom == d && e.2.die == k && e.2.state == st)).map (fun e =>
    e.2.room)).sum

/-- The demotions of die `k` at the start of slot `n` (R297); the last number bounds the demotions left. -/
def State.demote (s : State) (d k n : Nat) : Nat → State
  | 0 => s
  | fuel + 1 =>
    let rs := s.stashRanges d k
    let b := rangesSize rs
    let free := b - s.usedIn rs
    if free + s.moving d k 5 + s.moving d k 4 < b * s.fld STH_CONFIG_HEADROOM_PCT / 100 then
      let next := match s.victim d k n with
        | none => none
        | some (h, x) => s.startMove h 4 s.hostRanges (s.classCompress x.cls)
      match next with
      | some s => (s.addFld (STH_DIE_MOVES_DEMOTED k) 1).demote d k n fuel
      | none =>
        (s.addFld (STH_DIE_EVENTS_PRESSURE k) 1).event (stashUnit k) EV_STASH_PRESSURE d
          (leBytes 4 (free / 2 ^ 20) ++ zeros 4 ++ leBytes 8 n)
    else s

/-- A handle inserted in ascending (consumer slot, index). -/
def insertDue (x : Nat × Handle) : List (Nat × Handle) → List (Nat × Handle)
  | [] => [x]
  | y :: ys => if x.2.consumer < y.2.consumer ∨ (x.2.consumer = y.2.consumer ∧ x.1 < y.1) then x :: y :: ys else y :: insertDue x ys

/-- The handles on the host that are due at the start of slot `n`, in order. -/
def State.dueHandles (s : State) (d k n : Nat) : List (Nat × Handle) :=
  (s.stash.handles.filter (fun e => e.2.dom == d && e.2.die == k && e.2.state == 3 &&
    decide (e.2.consumer ≤ n + s.classPrefetch e.2.cls))).foldr insertDue []

/-- The prefetches of die `k`: handles return in order until one finds no room (R297). -/
def State.prefetch (s : State) (d k n : Nat) : List (Nat × Handle) → State
  | [] => s
  | (h, _) :: hs =>
    match s.startMove h 5 (s.stashRanges d k) false with
    | none => s
    | some s => (s.setHandle h { s.handle h with movedAt := n }).prefetch d k n hs

/-- Step 8 of Table TCK-2 for a domain that starts slot `n` (R297). -/
def State.stashMoves (s : State) (d n : Nat) : State :=
  if s.stashBase.isNone then s
  else
    (List.range 4).foldl (fun s k =>
      let s := s.demote d k n 262144
      s.prefetch d k n (s.dueHandles d k n)) s

/-- One part of a move that ends: its bytes at the new place; poison goes with them. -/
def State.endPart (s : State) (x : Handle) (i a : Nat) (coded : Bool) : State :=
  let (old, n, was) := x.part i
  let p := s.movedPart x i coded
  let poison := (s.poisonedIn old n).isSome
  let s1 := s.writePart x.die a (coded && !was) (4096 * (if i = 0 then x.pRaw else x.dRaw)) p
  if poison then (List.range ((p.1.length + 63) / 64)).foldl (fun s1 j =>
      if coded && !was || (s.poisonedIn (old + 64 * j) 64).isSome then s1.poisonLine (a + 64 * j) else s1) s1
  else s1

/-- STASH_MOVE_END: the move of handle `id` ends (R297); the space of a released handle is freed (R294). -/
def execStashMoveEnd (id : Nat) (found : List Found) (s : State) : Out :=
  let s := s.findErrors found
  match s.stash.orphans.find? (fun e => e.1 == id) with
  | some e => .next (({ s with stash := { s.stash with orphans := s.stash.orphans.erase e } }).freeSpace e.2)
  | none =>
    let x := s.handle id
    match x.move with
    | none => .next s
    | some m =>
      if s.revoked (stashUnit x.die) then .next s else
      let s := s.endPart x 0 m.pAddr m.pCoded
      let s := if x.dual then s.endPart x 1 m.dAddr m.dCoded else s
      let s := s.freeSpace x.places
      let home := x.state == 5
      let s := s.setHandle id { x with
        state := if home then 2 else 3, move := none, pAddr := m.pAddr, pStored := m.pStored, pCoded := m.pCoded,
        dAddr := m.dAddr, dStored := m.dStored, dCoded := m.dCoded }
      .next (if home then s.addFld (STH_DIE_MOVES_RETURNED x.die) 1 else s)

/-- A commit takes effect (R300): every handle is FREE, the host areas are empty, and the counters of Table STH-8 clear. -/
def State.stashOpen (s : State) : State :=
  let s := { s with stash := {}, rests := s.rests.filter (fun e => decide (e.1 / 64 < CDC_DIE_BYTES 0 ∨ CDC_LINK_BYTES 4 ≤ e.1 / 64)) }
  let s := (List.range 4).foldl (fun s k =>
    s.resetRegs [STH_DIE_MOVES k, STH_DIE_EVENTS k, CDC_DIE_BYTES k, CDC_DIE_SUBS k, CDC_LINK_BYTES k]) s
  match s.stashBase with
  | none => s
  | some a =>
    match s.hbmMap.regions.find? (fun r => hbmBase + r.base == a) with
    | some r => s.clearHead r stashTable
    | none => s

/-! ## MOVE (Table CMD-5, R127, R305) -/

/-- The codec, the format and the base of a MOVE. -/
def Pending.codec (p : Pending) : Nat := fieldAt p.entry 40 1
def Pending.format (p : Pending) : Nat := fieldAt p.entry 41 1
def Pending.base (p : Pending) : Nat := fieldAt p.entry 48 8

/-- The bytes a COPY reads at its source: its length, or for a decode the stored part, as far as its header is one the decoder takes. -/
def State.copyReads (s : State) (p : Pending) : Nat :=
  if p.codec = 2 ∨ p.codec = 4 then
    let head := s.physRead p.src 128
    if s.mappedAll p.src 128 && headerOk head && fieldAt head 16 8 == p.len then
      max 128 (min (fieldAt head 24 8) (codedMax (p.len / 4096)))
    else 128
  else p.len

/-- The bytes a COPY may write at its destination. -/
def copyWrites (p : Pending) : Nat := if p.codec = 1 ∨ p.codec = 3 then codedMax (p.len / 4096) else p.len

/-- COPY starts (R127): an end that is no memory ends it with ADDRESS_UNMAPPED. -/
def execMoveCopy (h : Word) (s : State) : Out :=
  match s.ready h 2 1 with
  | none => .next s
  | some p =>
    .next (s.beginWith p (fun s =>
      let base := decide (p.codec ≥ 3)
      if s.mappedAll p.src (s.copyReads p) && s.mappedAll p.dst (copyWrites p) && (!base || s.mappedAll p.base p.len) then s
      else (((s.engineFault p.base (if base then p.len else 0)).engineFault p.dst (copyWrites p)).engineFault p.src (s.copyReads p)).finishWith h
        ST_ADDRESS_UNMAPPED))

/-- FILL starts. -/
def execMoveFill (h : Word) (s : State) : Out :=
  match s.ready h 2 2 with
  | none => .next s
  | some p =>
    .next (s.beginWith p (fun s =>
      if s.mappedAll p.src p.len then s else (s.engineFault p.src p.len).finishWith h ST_ADDRESS_UNMAPPED))

/-- A 64-bit pattern repeated over `n` bytes. -/
def fillBytes (v n : Nat) : Bytes := (List.range n).map (fun i => byte (v / 256 ^ (i % 8)))

/-- The end of a COPY through a codec: its bytes, and the status (R305). -/
def State.endCodec (s : State) (p : Pending) : State :=
  let k := s.moveDie p
  let mode := if p.codec ≤ 2 then 1 else 2
  let base := if p.codec ≥ 3 then s.physRead p.base p.len else []
  if p.codec = 1 ∨ p.codec = 3 then
    let part := encodePart (s.typeOf p.format) mode (s.physRead p.src p.len) base
    ((s.devWrite p.dst part.1).countEncoded k p.len part).finishOk p.handle part.1.length
  else
    let part := s.physRead p.src (s.copyReads p)
    if headerOk part = true ∧ fieldAt part 16 8 ≠ p.len then s.finish p.handle { status := ST_CODEC_CORRUPT }
    else
      let us := (List.range (p.len / 4096)).map (fun i => decodeAt part base i)
      let bad := (us.filter (·.isNone)).length
      let s := s.devWrite p.dst (us.flatMap (fun u => u.getD (zeros 4096)))
      let s := s.countDecoded k p.len part.length bad
      s.finish p.handle { status := if bad = 0 then ST_OK else ST_CODEC_CORRUPT, result := p.len, part := bad != 0 }

/-- The end of a COPY (R127). -/
def State.endCopy (s : State) (p : Pending) : State :=
  let n := s.copyReads p
  let w := copyWrites p
  let s := (s.readHbm p.domain p.src n).tagHbm p.domain p.dst w
  let s := if p.codec ≥ 3 then s.readHbm p.domain p.base p.len else s
  let poison := (s.poisonedIn p.src n).orElse (fun _ => if p.codec ≥ 3 then s.poisonedIn p.base p.len else none)
  match poison with
  | some a => (s.openRows w p.dst 0 1).finish p.handle { status := ST_POISONED, detail := a % 2 ^ 32, part := true }
  | none =>
    if overlaps p.src n p.dst w then
      ((s.openRows w p.dst 0 1).finishOk p.handle p.len)
    else if p.codec = 0 then ((s.devWrite p.dst (s.physRead p.src n)).finishOk p.handle p.len)
    else s.endCodec p

/-- Where a MOVE writes, and how many bytes at most. -/
def Pending.moveDst (p : Pending) : Nat × Nat := if p.op = 2 then (p.src, p.len) else (p.dst, copyWrites p)

/-- Whether no MOVE of the same engine that started earlier has yet to write a 64-byte line of host memory that this one writes (R107). -/
def State.moveTurn (s : State) (p : Pending) : Bool :=
  s.cmds.all (fun q =>
    !(q.cls == 2 && q.started && q.done.isNone && decide (q.begun < p.begun) && s.movePort q == s.movePort p) ||
      !(s.isHost q.moveDst.1 && shareLine q.moveDst.1 q.moveDst.2 p.moveDst.1 p.moveDst.2))

/-- MOVE_TRANSFER_DONE: every byte of a MOVE is visible at its destination; it never is once the grants of its port are revoked (R327). -/
def execMoveTransferDone (h : Word) (found : List Found) (s : State) : Out :=
  let s := s.findErrors found
  match s.cmd h with
  | none => .next s
  | some p =>
    if p.cls ≠ 2 ∨ p.started = false ∨ p.done.isSome = true ∨ s.revoked (s.movePort p) = true ∨ s.moveTurn p = false then .next s
    else if p.op = 1 then .next (s.endCopy p)
    else .next ((s.devWrite p.src (fillBytes (fieldAt p.entry 24 8) p.len)).finishOk h p.len)

end Sys2Proof.Machine
end

