-- ==== Sys2Proof/Machine/Survival.lean ====
section
/-!
DEFINITION. Survival (chapter 18): protected state, mirror, snapshots, partners, and the health monitor.
-/
namespace Sys2Proof.Machine

/-! ## Protected state (R392, R393) -/

/-- The regions protected for a domain. -/
def State.protects (s : State) (d : Nat) : List Protect := s.survival.regions.filter (fun r => r.dom == d)

/-- The address of the bank that holds the state after step `n`. -/
def Protect.bankAt (r : Protect) (n : Nat) : Nat := r.base + n % 2 * r.bank

/-- The domain record of the state just reached (R392), when the step in progress has ended. -/
def State.domRecord (s : State) (d : Nat) : DomRecord :=
  let x := s.dom d
  { step := x.lastStep, spoolSeq := x.spoolSeq - 1, last := x.last, flags := s.reg (CTL_DOM_NONFINITE d),
    mean := s.reg (CTL_SPIKE_MEAN d), var := s.reg (CTL_SPIKE_VAR d), spikes := s.reg (CTL_SPIKE_STATUS d),
    reserve := (s.intake.samples.filter (fun e => e.2.dom == d && e.2.listed == none && (e.2.reserve || e.2.deferred) &&
      e.2.state != .dropped)).map (·.2),
    tails := s.tails.filter (fun x => x.dom == d && !x.gone) }

/-- The open or holding sequences of a domain: in the tables also after the page engine has drained (R285). -/
def State.seqsOf (s : State) (d : Nat) : List Nat :=
  if s.kvp.tables = false then []
  else (List.range 65536).filter (fun i => (s.seq i).state != 0 && (s.seq i).domain == d)

/-- The page-table entries of sequence `i` that map or hold a page. -/
def State.ptesOf (s : State) (i : Nat) : List Nat :=
  let q := s.seq i
  ((List.range q.entries).map (q.base + ·)).filter (fun v => (s.pte v).valid || (s.pte v).held)

/-- A range of memory as a piece of the front part. -/
def State.piece (s : State) (a n : Nat) : Nat × Bytes := (a, s.bytesAt a n)

/-- The front part of a domain (R392). -/
def State.front (s : State) (d : Nat) : Front :=
  let hs := s.stash.handles.filter (fun e => e.2.state != 0 && e.2.dom == d)
  let seqs := s.seqsOf d
  let ptes := seqs.flatMap s.ptesOf
  let stored := hs.flatMap (fun e => if e.2.places = [] then []
    else s.piece e.2.pAddr (16 * e.2.pStored) :: (if e.2.dual then [s.piece e.2.dAddr (16 * e.2.dStored)] else []))
  let pages := ptes.map (fun v => s.piece (frameAddr (s.pte v).frame) (256 * s.pageUnits ((s.seqOf v).elim 0 (fun i => (s.seq i).pool))))
  { handles := hs, seqs := seqs, ptes := ptes,
    pieces := stored ++ seqs.map (fun i => s.piece (s.seqAddr i) 32) ++ ptes.map (fun v => s.piece (s.tableBase + 16 * v) 16) ++ pages }

/-- The bytes of a front part. -/
def Front.size (f : Front) : Nat := (f.pieces.map (fun p => p.2.length)).sum

/-- Whether a domain's front part is empty. -/
def State.clean (s : State) (d : Nat) : Bool := let f := s.front d; f.handles.isEmpty && f.seqs.isEmpty

/-! ## Mirror (R394 to R396) -/

/-- The blocks of a region's bank. -/
def Protect.blocks (r : Protect) : Nat := r.bank / 4096

/-- A protected region replaced. -/
def State.putProtect (s : State) (r : Protect) : State :=
  { s with survival := { s.survival with regions := s.survival.regions.map (fun x => if x.index = r.index then r else x) } }

/-- The steps in a row that the partner has been given of a region before step `n`. -/
def Protect.run (r : Protect) (n : Nat) : Nat := if r.streams ≠ 0 ∧ r.last + 1 = n then r.streams else 0

/-- The blocks of a MIRROR region streamed now for step `n`, in ascending order, as deltas against the read bank: those written in the last
three steps, or every block while the partner does not hold three banks, that have not been streamed since they were written. A partner
that holds no bank yet, which a delta could not be decoded against, gets them whole. `last` tells that the step's update has completed. -/
def State.streamRegion (s : State) (n : Nat) (last : Bool) (r : Protect) : State :=
  let run := r.run n
  let whole := run == 0
  let due := (if run < 3 then List.range r.blocks else r.dirty.foldl unionAsc []).filter (fun b => !(r.sent.contains b))
  let s := due.foldl (fun s b =>
    let now := s.bytesAt (r.bankAt n + 4096 * b) 4096
    let was := s.bytesAt (r.bankAt (n + 1) + 4096 * b) 4096
    s.toPartner 6 (.mirrorBlock r.dom n r.index b whole (if whole then now else (now.zip was).map (fun p => p.1 ^^^ p.2)))) s
  s.putProtect (if last then { r with sent := unionAsc r.sent due, streams := run + 1, last := n } else { r with sent := unionAsc r.sent due })

/-- The regions of a domain that its step in progress mirrors: none without a partner, nor in a replay (R409). -/
def State.mirrors (s : State) (d : Nat) : List Protect :=
  if s.survival.partner.isNone ∨ (s.replaying d (s.dom d).step).isSome then [] else (s.protects d).filter (fun r => r.method == 1)

/-- The mirror of a slot just finished: blocks stream from the first slot of the step on (R394). -/
def State.mirrorSlot (s : State) (d : Nat) : State :=
  let n := (s.dom d).step
  if (s.dom d).stepOpen then
    ((s.mirrors d).filter (fun r => !(r.streams != 0 && r.last == n))).foldl (fun s r => s.streamRegion n false r) s
  else s

/-- The mirror of a step whose update command completes (R394): the rest of its blocks is streamed and its MIRROR_COMMIT falls due; the step
before whose MIRROR_COMMIT is not sent is behind (R396). -/
def State.mirrorStep (s : State) (d : Nat) : State :=
  let x := s.dom d
  let rs := s.mirrors d
  if rs = [] then s
  else
    let s := if x.mirrorDue.any (fun m => m.step + 1 == x.step) then s.event 0x8005 EV_MIRROR_BEHIND d (leBytes 8 (x.step - 1)) else s
    let s := rs.foldl (fun s r => s.streamRegion x.step true r) s
    let rec' := { (s.rollBanks d).domRecord d with spoolSeq := x.spoolSeq }
    s.setDom d { s.dom d with mirrorDue := (s.dom d).mirrorDue ++ [{ step := x.step, record := rec' }] }

/-- MIRROR_COMMIT (R394): every block of the step is acknowledged. -/
def execMirrorCommit (d : Fin 64) (s : State) : Out :=
  let x := s.dom d.val
  match s.survival.partner, x.mirrorDue with
  | some r, m :: ms =>
    let waits : Body → Bool
      | .mirrorBlock e n _ _ _ _ => e == d.val && n == m.step
      | _ => false
    if s.unackedAt r waits then .next s
    else
      let s := s.toPartner 6 (.mirrorCommit d.val m.step s.imageId m.record)
      let n := x.mirrorCount + 1
      let s := s.setDom d.val { x with mirrorDue := ms, mirrorCount := n, mirroredStep := if 3 ≤ n then some m.step else none }
      .next (if 3 ≤ n then s.setReg (CTL_SRV_DOM_MIRROR d.val) (word m.step) else s)
  | _, _ => .next s

/-- The bytes that the mirror banks of the domains need on the partner (R396). -/
def State.reserveNeeded (s : State) : Nat :=
  3 * ((s.survival.regions.filter (fun r => r.method == 1)).map (·.bank)).sum + 3 * 2 ^ 20 * s.domIds.length

/-- The mirrored regions of each domain, in image order, with the sizes of their banks (R395). -/
def State.mirrorPlan (s : State) : List (Nat × List (Nat × Nat)) :=
  s.domIds.map (fun d => (d, ((s.protects d).filter (fun r => r.method == 1)).map (fun r => (r.index, r.bank))))

/-- Mirroring starts afresh on the partner (R396, R405): a reserve too small makes every mirrored class fall back to SNAPSHOT. -/
def State.setUpMirror (s : State) : State :=
  let need := s.reserveNeeded
  let s := if need ≤ s.survival.room then s
    else
      let rs := s.survival.regions.map (fun r => if r.method = 1 then { r with method := 2 } else r)
      { s with survival := { s.survival with regions := rs } }.event 0x8005 EV_RESERVE_SHORT noDomain
        (leBytes 8 s.partnerId ++ leBytes 8 need ++ leBytes 8 s.survival.room)
  let s := { s with survival := { s.survival with regions := s.survival.regions.map (fun (r : Protect) => { r with streams := 0, sent := [] }) } }
  s.domIds.foldl (fun (s : State) d =>
    (s.setDom d { s.dom d with mirrorDue := [], mirrorCount := 0, mirroredStep := none }).setReg (CTL_SRV_DOM_MIRROR d) 0#64) s

/-- A partner kept is given the plan of the mirrored regions anew. -/
def State.sendPlan (s : State) : State :=
  match s.survival.partner with
  | some r => let s := s.setUpMirror; s.sendTo r 6 (.mirrorPlan s.mirrorPlan)
  | none => s

/-- The method of the AUTO regions of a domain as its step opens (R393): for 16 steps the changed blocks of the bank just written are
counted, and the seventeenth step chooses. -/
def State.countChanged (s : State) (d : Nat) : State :=
  let x := s.dom d
  ((s.protects d).filter (fun r => r.method == 0)).foldl (fun s r =>
    let n := x.lastStep
    let diff := (List.range r.blocks).filter (fun b =>
      s.bytesAt (r.bankAt n + 4096 * b) 4096 != s.bytesAt (r.bankAt (n + 1) + 4096 * b) 4096)
    let r := { r with changed := r.changed + diff.length }
    if x.stepsOpened < 17 then s.putProtect r
    else
      let mean := r.changed * 65536 / (16 * max 1 r.blocks)
      let m := if r.changed * 65536 ≤ s.preField secSurvival 4 2 1024 * (16 * r.blocks) then 1 else 2
      (s.putProtect { r with method := m }).event 0x8005 EV_METHOD_CHOSEN d (leBytes 4 r.tensor ++ leBytes 1 m ++ zeros 3 ++ leBytes 4 mean)) s

/-- The same; once a region has become MIRROR the partner lays its banks out anew. -/
def State.chooseMethods (s : State) (d : Nat) : State :=
  let u := s.countChanged d
  if u.mirrorPlan = s.mirrorPlan then u else u.sendPlan

/-! ## Snapshots (R397 to R400), at the source -/

/-- STEP SNAPSHOT (R397, R405): served at the next boundary that opens a step of the domain, and asked of every member; without a partner
it completes at once. -/
def execStepSnapshot (h : Word) (s : State) : Out :=
  match s.ready h 4 4 with
  | none => .next s
  | some p =>
    let s := s.begin p
    if s.survival.partner.isNone then .next (s.finishWith h ST_PARTNER_NONE)
    else
      let x := s.dom p.domain
      .next (s.setDom p.domain { x with snapBy := x.snapBy ++ [h] }).requestSnapshots

/-- Whether a boundary that opens step `n` serves a request of the domain. -/
def Dom.snapDue (x : Dom) (n : Nat) : Bool := x.snapWanted || !x.snapBy.isEmpty || x.snapAt.any (fun t => decide (t ≤ n))

/-- The stored bytes of a region's bank as it is streamed, exponent-coded as FP32 (R303). -/
def codedSize (bank : Bytes) : Nat := (encodePart 0 1 bank []).1.length

/-- Whether a region of a snapshot after step `n` is copied by the partner from its mirror banks. -/
def State.copied (s : State) (d n : Nat) (r : Protect) : Bool := r.method == 1 && (s.dom d).mirroredStep == some n

/-- The stored bytes of a snapshot: its banks, its front part, and 1 MiB for the domain record. -/
def State.snapSize (s : State) (d n : Nat) (f : Front) : Nat :=
  ((s.protects d).map (fun r => if s.copied d n r then r.bank else codedSize (s.bytesAt (r.bankAt n) r.bank))).sum + f.size + 2 ^ 20

/-- A snapshot streamed to the partner (R398). -/
def State.streamSnapshot (s : State) (d : Nat) (p : Snap) : State :=
  let s := s.toPartner 7 (.snapOpen d p.step p.slot (s.snapSize d p.step p.front))
  let s := s.toPartner 7 (.snapFront d p.step p.record p.front)
  let s := (s.protects d).foldl (fun s r =>
    if s.copied d p.step r then s.toPartner 7 (.snapCopy d p.step r.index (r.bankAt p.step))
    else s.toPartner 7 (.snapBank d p.step (r.bankAt p.step) (s.bytesAt (r.bankAt p.step) r.bank))) s
  s.toPartner 7 (.snapClose d p.step s.imageId)

/-- The module's own SNAPSHOT regions as the decode sees them. -/
def State.ownSnapshot (s : State) : List HbmRegion :=
  s.hbmMap.regions.filter (fun r => fieldAt ((s.entries secMemory).getD r.index []) 0 1 == 6)

/-- Where the front part of a snapshot lies in the front staging, at the start of the module's own SNAPSHOT region (R398), and how much of it
has room. DESIGN CHOICE: its pieces follow one another, and the snapshots in progress do too. -/
def State.staging (s : State) (p : Snap) : Option (Nat × Nat) :=
  s.ownSnapshot.head?.map (fun r => (hbmBase + r.base + p.staged, min p.front.size (r.size - p.staged)))

/-- A front part copied into the front staging. -/
def State.stageFront (s : State) (p : Snap) : State :=
  match s.staging p with
  | some (a, n) => s.devWrite a (takeAt (p.front.pieces.flatMap (·.2)) 0 n)
  | none => s

/-- The place after the front parts of the snapshots in progress. -/
def State.nextStaged (s : State) : Nat :=
  (s.domIds.filterMap (fun d => (s.dom d).snap)).foldl (fun m (p : Snap) => max m (p.staged + p.front.size)) 0

/-- A snapshot taken at the boundary that opens step `n` (R397, R398): the front part is copied into the front staging; one above 4 MiB holds
the domain while it is copied, a smaller one is streamed at once. A step that was replayed is not copied (`replay`, R409). -/
def State.startSnapshot (s : State) (d n : Nat) (replay : Bool) : State :=
  let x := s.dom d
  if x.snapDue n = false ∨ x.snap.isSome ∨ replay = true then s
  else
    let s := s.setDom d { x with snapWanted := false, snapBy := [], snapAt := x.snapAt.filter (fun t => decide (n < t)) }
    if s.survival.partner.isNone then x.snapBy.foldl (fun s h => s.finishWith h ST_PARTNER_NONE) s
    else
      let f := s.front d
      let p : Snap := { step := x.lastStep, record := s.domRecord d, front := f, handles := x.snapBy, start := s.now,
                        holding := decide (2 ^ 22 < f.size), slot := if x.wholeStep.isSome then 1 - x.wholeSlot else 0,
                        staged := s.nextStaged }
      let s := s.setDom d { s.dom d with snap := some p }
      if p.holding then (match s.staging p with | some (a, n) => s.openAt a n | none => s) else (s.stageFront p).streamSnapshot d p

/-- SNAPSHOT_FRONT_COPY_END (R398): the domain is no longer held, and the stream begins. -/
def execSnapshotFrontCopyEnd (d : Fin 64) (found : List Found) (s : State) : Out :=
  let s := s.findErrors found
  match (s.dom d.val).snap with
  | some p =>
    if p.holding then .next ((s.setDom d.val { s.dom d.val with snap := some { p with holding := false } }).stageFront p |>.streamSnapshot d.val p)
    else .next s
  | none => .next s

/-- The latest whole snapshot shown. -/
def State.showWhole (s : State) (d : Nat) : State := s.setReg (CTL_SRV_DOM_SNAP d) (word ((s.dom d).wholeStep.getD 0))

/-- SNAPSHOT_WHOLE (R400, R402): the partner has written the descriptor; the source keeps it, and the snapshot is whole. -/
def execSnapshotWhole (d : Fin 64) (s : State) : Out :=
  match (s.dom d.val).snap with
  | none => .next s
  | some p =>
    match p.descriptor with
    | none => .next s
    | some b =>
      let s := { s with survival := { s.survival with area := smapIns s.survival.area d.val b, lastStart := p.start } }
      let s := (s.setDom d.val { s.dom d.val with snap := none, wholeStep := some p.step, wholeSlot := p.slot }).showWhole d.val
      let s := (s.addFld (CTL_SRV_DOM_COUNTS_WHOLE d.val) 1).setFld CTL_SRV_SPOOL_GAP 0
      let s := s.event 0x8005 EV_SNAPSHOT_WHOLE d.val (leBytes 8 p.step ++ leBytes 1 p.slot ++ zeros 7 ++ leBytes 8 (fieldAt b 40 8))
      .next (p.handles.foldl (fun s h => s.finishWith h ST_OK) s)

/-- SNAPSHOT_INTERVAL_EXPIRY (R397): on the time master, SNAPSHOT_INTERVAL seconds after the start of the last whole snapshot. -/
def execSnapshotIntervalExpiry (s : State) : Out :=
  let busy := s.domIds.any (fun d => (s.dom d).snap.isSome || !(s.dom d).snapAt.isEmpty)
  if s.image.isSome ∧ s.isTimeMaster = true ∧ busy = false ∧
      s.survival.lastStart + s.preField secSurvival 6 2 300 * 10 ^ 9 ≤ s.now then .next s.requestSnapshots
  else .next s

/-! ## The partner (R395, R400, R401) -/

/-- What is kept for a domain of the source. -/
def State.serving (s : State) (d : Nat) : Served := (smapFind s.survival.served d).getD {}
def State.putServing (s : State) (d : Nat) (x : Served) : State :=
  { s with survival := { s.survival with served := smapIns s.survival.served d x } }

/-- The front parts in the module's own front staging, written there again. -/
def State.keepStaged (s : State) : State :=
  (s.domIds.filterMap (fun d => (s.dom d).snap)).foldl (fun s p => if p.holding then s else s.stageFront p) s

/-- What the module keeps for its source in its SNAPSHOT region, after its own front staging, lies there in an order the spec does not give:
its bytes are unpredictable. -/
def State.blurSlots (s : State) : State := (s.ownSnapshot.foldl (fun s r => s.overRegion r State.scramble) s).keepStaged

/-- The bytes of the reserve that a domain of the source takes (R395, R396). -/
def Served.room (x : Served) : Nat := 3 * ((x.plan.map (·.2)).sum + 2 ^ 20)

/-- The address `n` bytes into ranges that follow one another. -/
def placeIn : List (Nat × Nat) → Nat → Option Nat
  | [], _ => none
  | (a, len) :: rs, n => if n < len then some (a + n) else placeIn rs (n - len)

/-- The address of byte `n` of the module's reserve. -/
def State.reserveAddr (s : State) (n : Nat) : Option Nat :=
  placeIn ((s.hbmMap.regions.filter (fun r => fieldAt ((s.entries secMemory).getD r.index []) 0 1 == 5)).map
    (fun r => (hbmBase + r.base, r.size))) n

/-- The first byte in the reserve of what it holds for a domain: the source's domains follow one another in ascending order (R395). -/
def State.reserveOf (s : State) (d : Nat) : Nat := ((s.survival.served.filter (fun e => decide (e.1 < d))).map (·.2.room)).sum

/-- The address of block `b` of bank `k` of a region: the regions of a domain stand in image order (R395), each with its three banks. None for
a region that is not mirrored, or past the reserve. DESIGN CHOICE: the banks of a region follow one another. -/
def State.blockAt (s : State) (d k region b : Nat) : Option Nat :=
  let x := s.serving d
  match x.plan.find? (fun p => p.1 == region) with
  | none => none
  | some p =>
    if p.2 ≤ 4096 * b then none
    else s.reserveAddr (s.reserveOf d + 3 * ((x.plan.takeWhile (fun q => q.1 != region)).map (·.2)).sum + k * p.2 + 4096 * b)

/-- The address of the domain record of bank `k`. DESIGN CHOICE: the records follow the domain's banks. -/
def State.recordAt (s : State) (d k : Nat) : Option Nat :=
  s.reserveAddr (s.reserveOf d + 3 * (((s.serving d).plan.map (·.2)).sum) + k * 2 ^ 20)

/-- A block of step `n` applied into bank n mod 3, decoded against bank (n − 1) mod 3 (R395). -/
def State.takeBlock (s : State) (d n region block : Nat) (whole : Bool) (bs : Bytes) : State :=
  let x := s.serving d
  let s := match s.blockAt d (n % 3) region block, s.blockAt d ((n + 2) % 3) region block with
    | some a, some b => s.devWrite a (if whole then bs else (bs.zip (s.bytesAt b 4096)).map (fun (p : Byte × Byte) => p.1 ^^^ p.2))
    | _, _ => s
  s.putServing d { x with whole := x.whole.set (n % 3) none }

/-- MIRROR_COMMIT of step `n` (R395, R405): its bank is whole, from the third committed step on; those of another image are no more. -/
def State.takeCommit (s : State) (d n image : Nat) (r : DomRecord) : State :=
  let x := s.serving d
  let s := match s.recordAt d (n % 3) with
    | some a => s.devWrite a (takeAt (Config.recordBytes r) 0 (min (2 ^ 20) (Config.recordBytes r).length))
    | none => s
  let old := if x.image = image then x.whole else [none, none, none]
  s.putServing d { x with commits := x.commits + 1, mirrored := n, image := image, records := x.records.set (n % 3) r,
                          whole := if 2 ≤ x.commits then old.set (n % 3) (some n) else old }

/-- Whether bank n mod 3 is whole for step `n` of an image, one of the latest two mirrored steps (R406). -/
def Served.holds (x : Served) (n image : Nat) : Bool :=
  x.whole.getD (n % 3) none == some n && x.image == image && decide (((x.whole.filterMap id).filter (fun m => decide (n < m))).length ≤ 1)

/-- What is kept for a source under a new plan of its mirrored regions (R395, R405): a source served before keeps its slots, its spool, and, where
nothing moves, its banks; MIRROR_COMMITs count afresh. -/
def Survival.planned (x : Survival) (plan : List (Nat × List (Nat × Nat))) : SMap Served :=
  let old := x.served.map (fun e => (e.1, { e.2 with plan := [] }))
  let new := plan.foldl (fun m p => smapIns m p.1 { (smapFind x.served p.1).getD {} with plan := p.2 }) old
  let still := new.map (fun e => (e.1, e.2.plan)) == x.served.map (fun e => (e.1, e.2.plan))
  new.map (fun e => (e.1, { e.2 with commits := 0, whole := if still then e.2.whole else [none, none, none] }))

/-- The bytes of a slot for one domain of the source (R400). -/
def State.slotRoom (s : State) : Nat :=
  let size := ((s.entries secMemory).filter (fun e => fieldAt e 0 1 == 6)).map (fun e => fieldAt e 16 8) |>.sum
  let staging := (s.domIds.map (fun d => (s.front d).size)).sum
  (size - staging) / (2 * max 1 s.survival.served.length)

/-- The module's reserve for its source's mirror banks. -/
def State.reserveRoom (s : State) : Nat :=
  (((s.entries secMemory).filter (fun e => fieldAt e 0 1 == 5)).map (fun e => fieldAt e 16 8)).sum

def State.slotAt (s : State) (d i : Nat) : PartnerSlot := (s.serving d).slots.getD i {}
def State.putSlot (s : State) (d i : Nat) (x : PartnerSlot) : State :=
  s.putServing d { s.serving d with slots := (s.serving d).slots.set i x }

/-- The slot that a snapshot after step `n` fills. -/
def State.fillingSlot (s : State) (d n : Nat) : Option Nat :=
  (List.range 2).find? (fun i => (s.slotAt d i).state == 1 && (s.slotAt d i).step == n)

/-- Banks or a front part added to the slot that a snapshot fills. -/
def State.fillSlot (s : State) (d n : Nat) (f : Basis → Basis) : State :=
  match s.fillingSlot d n with
  | some i => s.putSlot d i { s.slotAt d i with basis := f (s.slotAt d i).basis }
  | none => s

/-- The bytes of a region in mirror bank `k`. -/
def State.bankBytes (s : State) (d k region : Nat) : Bytes :=
  let size := ((s.serving d).plan.find? (fun p => p.1 == region)).elim 0 (·.2)
  (List.range (size / 4096)).flatMap (fun b => (s.blockAt d k region b).elim (zeros 4096) (fun a => s.bytesAt a 4096))

/-- The slot that a new snapshot fills: the one its source names, unless it holds the latest whole snapshot (R400). -/
def Served.freshSlot (x : Served) (slot : Nat) : Nat := if x.latest = some slot then 1 - slot else slot

/-- A slot that a snapshot was filling and no longer is, emptied. -/
def Served.emptyFilling (x : Served) : Served := { x with slots := x.slots.map (fun p => if p.state = 1 then {} else p) }

/-- A snapshot descriptor (Table SRV-1). -/
def State.descriptor (s : State) (basis d slot image bytes rank : Nat) (r : DomRecord) : Bytes :=
  let b := padTo 124 (leBytes 4 0x4E58444C ++ leBytes 1 1 ++ leBytes 1 basis ++ leBytes 1 d ++ leBytes 1 slot ++ leBytes 8 r.step ++
    leBytes 8 image ++ leBytes 8 (s.moduleId rank) ++ leBytes 8 ownModuleId ++ leBytes 8 bytes ++
    leBytes 8 (r.spoolSeq + 1) ++ leBytes 8 r.last.loss ++ leBytes 8 s.now)
  b ++ leBytes 4 (crc32c b)

/-- The spool records kept for the source: those from the older of its two whole snapshots on (R401). -/
def Served.prune (x : Served) : Served :=
  match (x.slots.filter (fun p => p.state == 2)).map (·.step) with
  | [a, b] => { x with spool := x.spool.filter (fun r => decide (min a b ≤ fieldAt r 8 8)) }
  | _ => x

/-- A survival frame of the source, or an answer of the partner. -/
def State.takeSurvival (s : State) (rank : Nat) : Body → State
  | .mirrorBlock d n region block whole bs => if s.survival.source = some rank then s.takeBlock d n region block whole bs else s
  | .mirrorCommit d n image r => if s.survival.source = some rank then s.takeCommit d n image r else s
  | .mirrorPlan plan =>
    if s.survival.source = some rank then { s with survival := { s.survival with served := s.survival.planned plan } } else s
  | .snapOpen d n slot size =>
    if s.survival.source ≠ some rank then s
    else
      let slot := (s.serving d).freshSlot slot
      let s := s.putServing d (s.serving d).emptyFilling
      if s.slotRoom < size then (s.putSlot d slot {}).sendTo rank 7 (.snapShort d n size s.slotRoom)
      else s.blurSlots.putSlot d slot { state := 1, step := n, size := size }
  | .snapFront d n r f => s.fillSlot d n (fun b => { b with record := r, front := f })
  | .snapBank d n a bs => s.fillSlot d n (fun b => { b with banks := b.banks ++ [(a, bs)] })
  | .snapCopy d n region a => s.fillSlot d n (fun b => { b with banks := b.banks ++ [(a, s.bankBytes d (n % 3) region)] })
  | .snapClose d n image =>
    match s.fillingSlot d n with
    | none => s
    | some i =>
      let x := s.slotAt d i
      let b := s.descriptor 1 d i image x.size rank x.basis.record
      let s := s.putSlot d i { x with state := 2, descriptor := b }
      (s.putServing d { (s.serving d).prune with latest := some i }).sendTo rank 7 (.snapWhole d n b)
  | .snapDrop d n => match s.fillingSlot d n with | some i => s.putSlot d i {} | none => s
  | .snapWhole d n b =>
    match (s.dom d).snap with
    | some p => if s.survival.partner = some rank ∧ p.step = n then s.setDom d { s.dom d with snap := some { p with descriptor := some b, slot := fieldAt b 7 1 } } else s
    | none => s
  | .snapShort d n need room =>
    match (s.dom d).snap with
    | some p =>
      if s.survival.partner = some rank ∧ p.step = n then
        (s.dropSnapshot d ST_RESERVE_SHORT).event 0x8005 EV_RESERVE_SHORT d (leBytes 8 s.partnerId ++ leBytes 8 need ++ leBytes 8 room)
      else s
    | none => s
  | .basisAsk d n a image =>
    let x := s.serving d
    if s.survival.source = some rank ∧ x.holds n image = true then
      s.store a (s.descriptor 2 d (n % 3) image ((x.plan.map (·.2)).sum) rank (x.records.getD (n % 3) {}))
    else s
  | .snapReq t => s.wantSnapshots t
  | .spool bs =>
    if s.survival.source = some rank then
      let d := fieldAt bs 6 1
      let before := (s.serving d).spool.filter (fun r => decide (fieldAt r 40 8 < fieldAt bs 40 8))
      s.putServing d { s.serving d with spool := before ++ [bs] }
    else s
  | _ => s

/-! ## Partners (R396, R405) -/

/-- The module id of PARTNERS place `i`; 0 for none. -/
def State.partnerAt (s : State) (i : Nat) : Nat := s.preField secSurvival (16 + 8 * i) 8 0

/-- The rank of a module id in the peer list. -/
def State.rankOf (s : State) (id : Nat) : Option Nat :=
  (List.range s.foundation.peers.length).find? (fun r => s.moduleId r == id)

/-- An offer made to the first module of PARTNERS from place `i` on; with none left there is no partner (R405). -/
def State.offer (s : State) (i : Nat) : State :=
  match (fromTo i (4 - i)).find? (fun j => s.partnerAt j != 0 && (s.rankOf (s.partnerAt j)).isSome) with
  | some j => { s with survival := { s.survival with asking := some j } }
  | none =>
    let s := { s with survival := { s.survival with asking := none, unsent := [] } }
    let s := s.setFld CTL_SRV_PARTNER_NONE 1
    s.event 0x8005 EV_PARTNER_NONE noDomain (leBytes 1 (s.fld CTL_SRV_PARTNER_REFUSED) ++ leBytes 1 s.survival.busy)

/-- The search for a partner begins: at the commit that first lists PARTNERS, and after a partner is lost. -/
def State.seekPartner (s : State) : State :=
  let s := { s with survival := { s.survival with partner := none, asking := none, busy := 0, room := 0 } }
  (s.setReg CTL_SRV_PARTNER 0#64).offer 0

/-- A partner is taken (R396, R401, R405): mirroring starts afresh, the spool records written during the search reach it, and the first
snapshot is requested. -/
def State.takePartner (s : State) (i rank room : Nat) (same : Bool) : State :=
  let waiting := s.survival.unsent
  let s := { s with survival := { s.survival with partner := some rank, asking := none, room := room, unsent := [] } }
  let s := ((s.setFld CTL_SRV_PARTNER_INDEX i).setFld CTL_SRV_PARTNER_NONE 0).setFld CTL_SRV_PARTNER_SAME_FEED (if same then 1 else 0)
  let s := waiting.foldl (fun s bs => s.sendTo rank 8 (.spool bs)) s.setUpMirror
  s.requestSnapshots

/-- The partner after a commit (R405): one taken before stays where the new image lists it, under its new plan; otherwise the search begins. -/
def State.recommitPartner (s : State) : State :=
  match s.survival.partner with
  | none => s.seekPartner
  | some r =>
    match (List.range 4).find? (fun i => s.partnerAt i != 0 && s.rankOf (s.partnerAt i) == some r) with
    | some i => (s.setFld CTL_SRV_PARTNER_INDEX i).sendPlan
    | none => s.seekPartner

/-- PARTNER_OFFER_ANSWER (R405): the module offered answers with its status, ids and reserve. -/
def execPartnerOfferAnswer (i : Fin 4) (status : BitVec 16) (feed loop : BitVec 32) (room : Nat) (s : State) : Out :=
  if s.survival.asking ≠ some i.val ∨ s.image.isNone then .next s
  else
    let id := s.partnerAt i.val
    let eq (own theirs : Nat) : Bool := own == theirs && own != 0
    let ownFeed := s.fld FAC_FEED_FEED_ID
    let ownLoop := s.fld FAC_FEED_LOOP_ID
    let f := eq ownFeed feed.toNat
    let l := eq ownLoop loop.toNat
    let strict := bitOf (s.preField secSurvival 10 1 0) 0
    let s := if ownFeed = 0 ∨ ownLoop = 0 ∨ feed = 0#32 ∨ loop = 0#32 then s.setFld CTL_SRV_PARTNER_UNKNOWN_FEED 1 else s
    let s := if f || l then
        s.event 0x8005 EV_PARTNER_SAME_FEED noDomain
          (leBytes 8 id ++ leBytes 1 ((if f then 1 else 0) + (if l then 2 else 0) + (if strict then 4 else 0)))
      else s
    if (f || l) && strict then .next ((s.addFld CTL_SRV_PARTNER_REFUSED 1).offer (i.val + 1))
    else if status.toNat = ST_PARTNER_BUSY then
      .next ({ s with survival := { s.survival with busy := s.survival.busy + 1 } }.offer (i.val + 1))
    else if status.toNat ≠ ST_OK then .next (s.offer (i.val + 1))
    else
      match s.rankOf id with
      | some r => .next (s.takePartner i.val r room (f || l))
      | none => .next (s.offer (i.val + 1))

/-- PARTNER_OFFER_RECEIVED (R405): another module offers itself as source, with its ids, the plan of its mirrored regions and STRICT_FEED. One
that serves another source refuses with PARTNER_BUSY; a source that refuses this module for an equal id is not served; a new source
starts with empty slots and reserve, and one served before finds what is kept for it. -/
def execPartnerOfferReceived (rank : Nat) (feed loop : BitVec 32) (plan : List (Nat × List (Nat × Nat))) (strict : Bool) (s : State) : Out :=
  let k := s.survival
  let busy := match k.source with | some r => r != rank | none => false
  let ids := (s.fld FAC_FEED_FEED_ID, s.fld FAC_FEED_LOOP_ID)
  let same := (feed != 0#32 && feed.toNat == ids.1) || (loop != 0#32 && loop.toNat == ids.2)
  if s.aloft = false then .next s
  else if busy then .next { s with survival := { k with offers := k.offers ++ [(rank, ST_PARTNER_BUSY, ids)] } }
  else if same && strict then .next { s with survival := { k with offers := k.offers ++ [(rank, ST_OK, ids)] } }
  else
    let served := if k.source = some rank then k.planned plan else { k with served := [] }.planned plan
    .next { s with survival := { k with source := some rank, served := served, offers := k.offers ++ [(rank, ST_OK, ids)] } }

/-- A copy of a domain's state on the partner is lost (R411). -/
def State.loseCopies (s : State) (d : Nat) : State :=
  let x := s.dom d
  let copies := [x.wholeStep, x.mirroredStep].filterMap id
  let s := s.setDom d { x with wholeStep := none, mirroredStep := none, mirrorDue := [], mirrorCount := 0 }
  let s := (s.showWhole d).setReg (CTL_SRV_DOM_MIRROR d) 0#64
  if copies = [] then s else s.event 0x8005 EV_UNPROTECTED d (leBytes 8 (copies.foldl max 0))

/-- A RESTORE whose basis was loading ends with the failure `status` that hit its source or target (R408, R410). -/
def State.endFill (s : State) (d : Nat) (r : Restore) (status : Nat) : State :=
  ((s.setDom d { s.dom d with restore := none }).event 0x8005 EV_RECOVERY_LONG d
    (leBytes 8 r.start ++ leBytes 8 s.now ++ leBytes 2 status)).finishWith r.handle status

/-- A RESTORE whose basis was loading from the lost partner ends. -/
def State.loseRestore (s : State) (d : Nat) : State :=
  match (s.dom d).restore with
  | some r => if r.loaded then s else s.endFill d r ST_PARTNER_LOST
  | none => s

/-- A peer is lost (R405, R410, R411): as partner, its copies are lost and a new one is sought. What is kept for a source that is lost stays,
to restore it from (R400, R406). -/
def State.losePartner (s : State) (rank : Nat) : State :=
  if s.survival.partner ≠ some rank then s
  else
    let s := s.domIds.foldl (fun s d => ((s.dropSnapshot d ST_SNAPSHOT_ABANDONED).loseCopies d).loseRestore d) s
    s.seekPartner

/-! ## Restore (R406 to R408) -/

/-- Whether domain `d` is quiescent, a command apart (R69). -/
def State.domQuiescent (s : State) (d : Nat) (h : Word) : Bool :=
  s.cmds.all (fun p => p.done.isSome || p.handle == h || p.domain != d || !(blockedByCommit p.cls p.entry)) &&
    s.colls.all (fun c => c.dom != d || c.launched.isNone || c.ended)

/-- The address that follows `n` bytes after `a`, around the host spool ring when `a` lies in it. -/
def State.spoolNext (s : State) (a n : Nat) : Nat :=
  let base := s.fld CTL_SRV_SPOOL_BASE * 4096
  if base ≤ a ∧ a < base + s.spoolSize then base + (a - base + n) % s.spoolSize else a + n

/-- `n` bytes of a spool from `a`. -/
def State.spoolBytes (s : State) : Nat → Nat → Bytes
  | _, 0 => []
  | a, n + 1 => s.bytesAt a 1 ++ s.spoolBytes (s.spoolNext a 1) n

/-- The records of domain `d` from sequence `q` on, read from address `a`: records of other domains are passed over, and the reading ends
at the first bytes that are no good record or do not follow; `fuel` bounds it. -/
def State.readSpool (s : State) (d : Nat) : Nat → Nat → Nat → List Bytes
  | 0, _, _ => []
  | fuel + 1, a, q =>
    let head := s.spoolBytes a 64
    let n := (64 + 8 * fieldAt head 16 4 + 63) / 64 * 64
    let r := s.spoolBytes a n
    if fieldAt head 0 4 ≠ 0x5058444C ∨ fieldAt r 20 4 ≠ crc32c (putAt r 20 (zeros 4)) then []
    else if fieldAt r 6 1 ≠ d then s.readSpool d fuel (s.spoolNext a n) q
    else if fieldAt r 40 8 < q then s.readSpool d fuel (s.spoolNext a n) q
    else if fieldAt r 40 8 = q then r :: s.readSpool d fuel (s.spoolNext a n) (q + 1)
    else []

/-- The last STEP_END of a step after `n`, and the records up to it. -/
def upToEnd (n : Nat) (rs : List Bytes) : Option (List Bytes × Bytes) :=
  let isEnd (r : Bytes) : Bool := fieldAt r 4 1 == 7 && decide (n < fieldAt r 8 8)
  match (rs.filter isEnd).getLast? with
  | some e => some (rs.filter (fun r => decide (fieldAt r 40 8 ≤ fieldAt e 40 8)), e)
  | none => none

/-- The first check of R406 that a RESTORE fails: its number, or the records and the STEP_END of its last step. -/
def State.checkRestore (s : State) (d : Nat) (h : Word) (a sp : Nat) (whole : Bool) : Except Nat (Nat × List Bytes × Bytes) :=
  let b := s.bytesAt a 128
  let n := fieldAt b 8 8
  let x := s.dom d
  let latest := match x.mirroredStep with | some m => n == m || n + 1 == m | none => true
  let mirrorOk := fieldAt b 5 1 != 2 ||
    ((x.stepsOpened == 0 || x.cleanSteps.contains n) && latest && (s.protects d).all (fun r => r.method == 1))
  if s.domQuiescent d h = false then .error 1
  else if fieldAt b 124 4 ≠ crc32c (b.take 124) ∨ fieldAt b 0 4 ≠ 0x4E58444C ∨ fieldAt b 16 8 ≠ s.imageId ∨ fieldAt b 6 1 % 64 ≠ d then
    .error 2
  else if !(whole && mirrorOk) then .error 3
  else
    match upToEnd n (s.readSpool d (2 ^ 25) sp (fieldAt b 48 8)) with
    | some (rs, e) => .ok (n, rs, e)
    | none => .error 4

/-- The tick at which the original run opened step n + 1: that of the STEP_END of step `n`, the record before the first one replayed, where the
spool still holds it. -/
def State.openedAt (s : State) (d a q n : Nat) : Option Nat :=
  match if q = 0 then [] else s.readSpool d (2 ^ 25) a (q - 1) with
  | r :: _ => if fieldAt r 4 1 = 7 ∧ fieldAt r 8 8 = n then some (fieldAt r 32 8) else none
  | [] => none

/-- STEP RESTORE (R406): `whole` is the partner's answer to the third check, which alone knows whether a boundary was clean when this module
has opened no step of the domain since its commit, and which steps are the latest two mirrored when it has mirrored none. -/
def execStepRestore (h : Word) (whole : Bool) (s : State) : Out :=
  match s.ready h 4 5 with
  | none => .next s
  | some p =>
    let s := s.begin p
    let d := p.domain
    match s.checkRestore d h (fieldAt p.entry 16 8) (fieldAt p.entry 24 8) whole with
    | .error 4 => .next (s.finishWith h ST_RESTORE_NO_STEP)
    | .error k => .next (s.finish h { status := ST_RESTORE_REFUSED, detail := k })
    | .ok (n, rs, e) =>
      .next (s.setDom d { s.dom d with
        restoreBad := false
        restore := some { handle := h, step := n, last := fieldAt e 8 8, spool := rs, start := s.now,
                          opened := s.openedAt d (fieldAt p.entry 24 8) (fieldAt (s.bytesAt (fieldAt p.entry 16 8) 128) 48 8) n } })

/-- The front part of a basis put back where it lay. -/
def State.loadFront (s : State) (d : Nat) (f : Front) : State :=
  let s := (s.handlesOf d).foldl (fun s h => s.freeHandle h true) s
  let s := f.pieces.foldl (fun s p => s.devWrite p.1 p.2) s
  let s := f.handles.foldl (fun s e =>
    let space := e.2.places.foldl (fun m a =>
      smapIns m a (((if a = e.2.pAddr then 16 * e.2.pStored else 16 * e.2.dStored) + 255) / 256 * 256)) s.stash.space
    { s with stash := { s.stash with space := space } }.setHandle e.1 { e.2 with move := none }) s
  if s.fld KVP_STATUS_STATE = 0 then s else f.ptes.foldl State.adoptEntry s

/-- The samples of a domain when a basis is taken over: its reserve queue is the record's, waiting to be decoded again, and the samples that
earlier steps listed are freed; a slot at a worker stays taken until the worker's completion arrives (R336). -/
def State.reloadSamples (s : State) (d : Nat) (reserve : List Sample) : State :=
  let k := s.intake
  let gone (x : Sample) : Bool := x.dom == d && (x.listed.isSome || x.reserve || x.deferred)
  let kept := k.samples.filterMap (fun e =>
    if !(gone e.2) then some e
    else if e.2.state = .worker then some (e.1, { e.2 with dom := noDomain, state := .orphan, reserve := false, deferred := false, listed := none })
    else none)
  let added := (List.range reserve.length).map (fun i => (k.count + i, { reserve.getD i {} with state := .waiting, slot := 0, token := 0 }))
  let s := { s with intake := { k with samples := kept ++ added, count := k.count + reserve.length } }
  (List.range 16).foldl (fun s e => s.setEngine e ((s.engine e).filter (fun i => (smapFind s.intake.samples i).isSome))) s

/-- The domain record of a basis taken over: the layer counters, the detector, the reserve queue, the tails, the collectives of the domain begun
afresh, and the seals of the steps that are to run again, which are to be made again (R340). -/
def State.loadRecord (s : State) (d : Nat) (r : DomRecord) : State :=
  let s := s.setDom d { s.dom d with last := r.last, lastStep := r.step, current := {}, tables := [], step := r.step, stepOpen := false, unsealed := [],
                                     update := none, updateBy := [], finals := [], finalsNow := [] }
  let s := s.setFld (CTL_DOM_NONFINITE_STEP_NF d) (bitsOf r.flags.toNat 0 1)
  let s := s.setFld (CTL_DOM_NONFINITE_LAST_NF d) (bitsOf r.flags.toNat 1 1)
  let s := ((s.setReg (CTL_SPIKE_MEAN d) r.mean).setReg (CTL_SPIKE_VAR d) r.var).setReg (CTL_SPIKE_STATUS d) r.spikes
  let s := s.reloadSamples d r.reserve
  let s := { s with intake := { s.intake with seals := s.intake.seals.filter (fun e => !(e.1 == d && decide (r.step < e.2))) },
                    tails := s.tails.filter (fun x => x.dom != d) ++ r.tails, colls := s.colls.filter (fun c => c.dom != d),
                    tailNotes := s.tailNotes.filter (fun e => e.1 / 4096 != d) }
  (List.range 4).foldl State.showTails s

/-- RESTORE_BASIS_LOADED (R407, R408): the basis is in place and the replay begins, the spool running on from its last record; or an
uncorrectable error struck it. -/
def execRestoreBasisLoaded (d : Fin 64) (outcome : BitVec 16) (basis : Basis) (s : State) : Out :=
  match (s.dom d.val).restore with
  | none => .next s
  | some r =>
    if r.loaded then .next s
    else if outcome.toNat ≠ ST_OK then
      .next (s.endFill d.val r outcome.toNat)
    else
      let s := basis.banks.foldl (fun s b => s.devWrite b.1 b.2) s
      let s := (s.loadFront d.val basis.front).loadRecord d.val basis.record
      let next := (r.spool.getLast?.map (fun e => fieldAt e 40 8 + 1)).getD 0
      let s := { s with spoolRing := s.spoolRing.filter (fun e => !(e.dom == d.val && decide (r.last < e.step))) }
      .next (s.setDom d.val { s.dom d.val with spoolSeq := next, restore := some { r with loaded := true } })

/-- Whether a replayed loss passes (R407). -/
def State.lossOk (s : State) (l want : Nat) : Bool :=
  if s.preField secDeterminism 0 1 0 = 1 then l == want
  else
    let a := fp64.decode l
    let b := fp64.decode want
    let bound := (fp32.decode (s.preField secSurvival 12 4 0)).mul (if b.abs.lt num1 then num1 else b.abs)
    let gap := (a.add b.neg).abs
    gap.isFin && bound.isFin && !(bound.lt gap)

/-- A layer counter whose sums are unpredictable. -/
def Layer.lost (x : Layer) (salt : Nat) : Layer :=
  { x with foot := (Config.freeWord salt).toNat, weight := (Config.freeWord (salt + 1)).toNat, update := (Config.freeWord (salt + 2)).toNat }

/-- A bank of layer counters that is unpredictable. -/
def Bank.lost (x : Bank) (salt : Nat) : Bank :=
  { x with loss := (Config.freeWord salt).toNat,
           layers := x.layers.map (fun e => (e.1, e.2.lost (salt + 1 + 3 * e.1))) }

/-- A handle whose entry is unpredictable: what it holds, and where. -/
def Handle.lost (x : Handle) (salt : Nat) : Handle :=
  let v (i n : Nat) : Nat := (Config.freeWord (salt + i)).toNat % 2 ^ n
  { x with cls := v 0 3, fmt := v 1 8, dualFmt := v 2 8, pAddr := v 3 44 * 16, pRaw := v 4 24, pStored := v 5 32, dAddr := v 6 44 * 16,
           dRaw := v 7 24, dStored := v 8 32, pCoded := decide (v 9 1 = 1), dCoded := decide (v 10 1 = 1) }

/-- Whether a record of unpredictable presence is there. -/
def present (salt : Nat) : Bool := (Config.freeWord salt).getLsbD 0

/-- The handles, reserve queue and tails of a domain, which of them are there and what they hold, unpredictable from `salt` on. -/
def State.loseRecords (s : State) (d salt : Nat) : State :=
  let s := (s.handlesOf d).foldl (fun s h =>
    if present (salt + 16 * h) then s.setHandle h ((s.handle h).lost (salt + 16 * h + 1)) else s.freeHandle h true) s
  let f := salt + 2 ^ 22
  let mine (x : Sample) : Bool := x.dom == d && x.listed == none && (x.reserve || x.deferred)
  let samples := (s.intake.samples.filter (fun e => !(mine e.2) || present (f + 2 * e.1))).map (fun e =>
    (e.1, if mine e.2 then { e.2 with record := (List.range e.2.record.length).map (Config.freeByte (f + 2 * e.1 + 1)) } else e.2))
  let g := f + 2 ^ 40
  let tail (i : Nat) (x : Tail) : List Tail :=
    if x.dom ≠ d then [x]
    else if present (g + 2 * i) then [{ x with parts := x.parts.map (fun e => (e.1, (List.range e.2.length).map (Config.freeByte (g + 2 * i + 1)))) }]
    else []
  let tails := (List.range s.tails.length).flatMap (fun i => (s.tails[i]?).elim [] (tail i))
  let s := { s with intake := { s.intake with samples := samples }, tails := tails, fresh := g + 2 ^ 40 }
  let s := (List.range 16).foldl (fun s e => s.setEngine e ((s.engine e).filter (fun i => (smapFind s.intake.samples i).isSome))) s
  (List.range 4).foldl State.showTails s

/-- The protected state of a domain is unpredictable (R408): its WEIGHT regions, its layer counters and detector, its front part, its reserve
queue and its tails. -/
def State.loseProtected (s : State) (d : Nat) : State :=
  let mine := s.hbmMap.regions.filter (fun r => (s.protects d).any (fun p => p.index == r.index))
  let s := (mine.foldl (fun s r => s.overRegion r State.scramble) s).scrambleAll ((s.front d).pieces.map (fun p => (p.1, p.2.length)))
  let s := s.setDom d { s.dom d with last := (s.dom d).last.lost s.fresh }
  let f := s.fresh + 2 ^ 16
  let v (i : Nat) : Nat := (Config.freeWord (f + i)).toNat
  let s := (s.setReg (CTL_SPIKE_MEAN d) (Config.freeWord f)).setReg (CTL_SPIKE_VAR d) (Config.freeWord (f + 1))
  let s := (s.setFld (CTL_DOM_NONFINITE_STEP_NF d) (v 2 % 2)).setFld (CTL_DOM_NONFINITE_LAST_NF d) (v 3 % 2)
  let s := ((s.setFld (CTL_SPIKE_STATUS_COUNT d) (v 4 % 2 ^ 16)).setFld (CTL_SPIKE_STATUS_CONSEC d) (v 5 % 2 ^ 4)).setFld
    (CTL_SPIKE_STATUS_SPIKES d) (v 6 % 2 ^ 16)
  s.loseRecords d (f + 7)

/-- The check of the step `n` that a replay has just ended, its loss in LAST (R407, R408). -/
def State.checkLoss (s : State) (d n : Nat) : State :=
  match (s.dom d).restore with
  | none => s
  | some r =>
    if r.loaded = false ∨ n ≤ r.step ∨ r.last < n then s
    else
      let want := (spooled r.spool 7 n).elim 0 (fun e => fieldAt e 48 8)
      if s.lossOk (s.dom d).last.loss want = false then
        ((s.setDom d { s.dom d with restore := none, restoreBad := true }).loseProtected d).finish r.handle { status := ST_RESTORE_MISMATCH, detail := n % 2 ^ 32 }
      else if n = r.last then (s.setDom d { s.dom d with restore := none }).finishWith r.handle ST_OK
      else s

/-- Whether every sample that the spool lists for a replayed step is ready (R340). -/
def State.replayReady (s : State) (d n : Nat) : Bool :=
  match s.replaying d n with
  | none => true
  | some rs =>
    match spooled rs 2 n with
    | none => true
    | some r =>
      (List.range (fieldAt r 16 4)).all (fun i =>
        s.intake.samples.any (fun e => e.2.dom == d && e.2.index == fieldAt r (64 + 8 * i) 8 && e.2.listed == none &&
          e.2.state == SampleState.ready))

/-- The tick at which the original run opened step `n`, as the spool shows it: that of the STEP_END before it. DESIGN CHOICE: without that record,
the tick of the step's first one. -/
def Restore.openTick (x : Restore) (n : Nat) : Nat :=
  match (spooled x.spool 7 (n - 1)).map (fun r => fieldAt r 32 8), x.opened with
  | some k, _ => k
  | none, some k => k
  | none, none => ((x.spool.find? (fun r => fieldAt r 8 8 == n)).map (fun r => fieldAt r 32 8)).getD 0

/-- The CHANGE records of a replayed step due at this boundary, applied (R407). -/
def State.replayChanges (s : State) (d : Nat) : State :=
  let x := s.dom d
  match s.replaying d x.step with
  | none => s
  | some rs =>
    if x.stepOpen = false then s
    else
      (rs.filter (fun r => fieldAt r 4 1 == 6 && fieldAt r 8 8 == x.step &&
          fieldAt r 32 8 + x.stepTick == (x.restore.elim 0 (·.openTick x.step)) + s.tick)).foldl
        (fun s r => s.applyChange (fieldAt r 48 1) (fieldAt r 52 4) (fieldAt r 56 4) (fieldAt r 49 1) (fieldAt r 64 8)) s

/-! ## The health monitor (R403, R404) -/

/-- A score halved `n` times. -/
def halved (v n : Nat) : Nat := v / 2 ^ n

/-- The risk estimate. -/
def State.riskNow (s : State) : Nat :=
  let v (k : Nat) := (smapFind s.risk k).getD 0
  min 1023 (((List.range 16).foldl (fun m k => max m (v k)) 0 + ((fromTo 16 7).map v).sum) / 2 ^ 32)

/-- The monitor at a boundary: scores halve every HALF_LIFE seconds of aligned time, the estimate is formed, and the ripcord is pulled or
armed again. -/
def State.healthTick (s : State) : State :=
  let life := max 1 (s.fld CTL_SRV_CONFIG_HALF_LIFE) * 10 ^ 9
  let n := (s.now - s.riskAt) / life
  let s := { s with risk := (s.risk.map (fun (e : Nat × Nat) => (e.1, halved e.2 n))).filter (fun e => e.2 != 0), riskAt := s.riskAt + n * life }
  let r := s.riskNow
  let cord := s.fld CTL_SRV_CONFIG_RIPCORD
  let s := s.setFld CTL_SRV_RISK_RISK r
  if s.image.isNone then s
  else if s.fld CTL_SRV_RISK_ARMED = 1 then
    if cord ≠ 0 ∧ cord ≤ r then
      ((s.event 0x8004 EV_RIPCORD noDomain (leBytes 2 r ++ leBytes 2 cord)).requestSnapshots).setFld CTL_SRV_RISK_ARMED 0
    else s
  else if r + 64 ≤ cord then s.setFld CTL_SRV_RISK_ARMED 1 else s

/-- Flow or inlet temperature outside its limits (R445). -/
def State.coolantOut (s : State) : Bool := s.facility.outOfRange

/-- RISK_SECOND (R403): each second of a continuing condition adds its weight. -/
def execRiskSecond (s : State) : Out :=
  let s := if s.coolantOut then s.addRisk riskCoolant else s
  .next (if s.fld FAC_STATE_FEED_STATE = 0 then s else s.addScore riskBattery 10)

end Sys2Proof.Machine
end

