-- ==== Sys2Proof/Machine/Power.lean ====
section
/-!
DEFINITION. F-steps, the cap and thermal controllers, agreement and local emergencies (R431 to R443).
-/
namespace Sys2Proof.Machine

/-! ## Steps -/

/-- The relative dynamic power of a step in tenths of a per cent (Table PWR-1). -/
def relPower (n : Nat) : Nat :=
  [1000, 926, 856, 789, 726, 665, 608, 553, 502, 453, 407, 364, 323, 285, 249, 216].getD n 216

/-- The fastest step of the part (R431). -/
def State.fastest (s : State) : Nat := if s.part.bin22 then 3 else 0

/-- A step clipped to what the part runs (R431). -/
def State.clipStep (s : State) (n : Nat) : Nat := max s.fastest (min 15 n)

/-- The emergency step in force; 0 none (R440). -/
def Power.emergency (p : Power) : Nat := if p.tripHeld then 15 else p.droopStep

/-- F15 while a leak action SLOW holds, else F0 (R433, R446). -/
def State.holdStep (s : State) : Nat := if s.facility.leakHold then 15 else 0

/-- The effective cap (W, R435, R447): the management cap, and a shed in force, 1 to 999 acting as 1,000. -/
def State.effectiveCap (s : State) : Nat :=
  let cap := s.fld PWR_CAP_CAP_W
  let shed := s.fld FAC_STATE_SHED_W
  if shed = 0 then cap else min cap (max 1000 shed)

/-- The limits of the request with their REASON codes (R433, Table PWR-8). -/
def State.limits (s : State) : List (Nat × Nat) :=
  let p := s.power
  [(1, s.fld PWR_FSTEP_RANGE_CEILING), (if s.effectiveCap < s.fld PWR_CAP_CAP_W then 6 else 2, p.capStep), (3, p.thermalStep),
    (7, s.holdStep), (if p.tripHeld then 5 else 4, p.emergency)]

/-- The module's request (R433, R438): the largest of its limits, the emergency step among them. -/
def State.request (s : State) : Nat := s.clipStep ((s.limits.map (·.2)).foldl max 0)

/-- Which limit binds: the first of the limits that has the requested step; none at the part's fastest step. -/
def State.binding (s : State) : Nat :=
  match s.limits.find? (fun l => decide (s.fastest < l.2) && l.2 == s.request) with
  | some l => l.1
  | none => 0

/-- The request and the limit that binds shown (R433). -/
def State.showRequest (s : State) : State :=
  ((s.setFld PWR_STATUS_REQUEST s.request).setFld PWR_STATUS_REASON s.binding).setFld PWR_STATUS_EMERGENCY
    (if s.power.emergency = 0 then 0 else 1)

/-- The REASON of a change of step: the emergency's cause for a drop that it makes, else the limit shown. -/
def State.stepReason (s : State) (urgent : Bool) : Nat :=
  if urgent then (if s.power.tripHeld then 5 else 4) else s.fld PWR_STATUS_REASON

/-- The step in force changes (R432, R433): counted, with FSTEP_CHANGE, and FSTEP_BELOW_FLOOR past the planned floor; no rise of the clock is
owed any more. -/
def State.setStep (s : State) (n : Nat) (agreed urgent : Bool) : State :=
  let old := s.fld PWR_STATUS_FSTEP
  let s := { s with power := { s.power with owed := false } }
  if old = n then s
  else
    let why := s.stepReason urgent
    let s := (s.setFld PWR_STATUS_FSTEP n).addFld PWR_COUNTS_CHANGES 1
    let s := s.trace 0x9F00 7 noDomain 0 (leBytes 1 old ++ leBytes 1 n ++ leBytes 1 why)
    let s := s.event 0x9F00 EV_FSTEP_CHANGE noDomain
      (leBytes 1 old ++ leBytes 1 n ++ leBytes 1 why ++ leBytes 1 ((if agreed then 1 else 0) + (if urgent then 2 else 0)))
    if n > s.fld PWR_FSTEP_RANGE_FLOOR then
      s.event 0x9F00 EV_FSTEP_BELOW_FLOOR noDomain (leBytes 1 n ++ leBytes 1 (s.fld PWR_FSTEP_RANGE_FLOOR))
    else s

/-! ## Clock and voltage (R432, R437) -/

/-- The step that the module runs apart from an emergency: the agreed one, or its own request until the first agreement. -/
def State.baseStep (s : State) : Nat := if s.power.agreed then s.fld PWR_STATUS_AGREED else s.fld PWR_STATUS_REQUEST

/-- The step that should be in force now. -/
def State.targetStep (s : State) : Nat := s.clipStep (max s.baseStep s.power.emergency)

/-- A voltage rise towards a faster step begins, the set points sent, unless the rails have that voltage or rise to a higher one. -/
def State.raiseVolts (s : State) (n : Nat) : State :=
  if n < s.power.volts then
    let n := s.power.rising.elim n (min n)
    { s with power := { s.power with rising := some n } }.sendPoints n
  else s

/-- The voltage after a slow-down to step `n` (R432): it follows the clock down, but no lower than a decision still to come needs, and a rise
under way for one goes on. -/
def State.lowerVolts (s : State) (n : Nat) : State :=
  let p := s.power
  let m := p.decisions.foldl (fun m d => min m d.2) n
  let rising := if m < p.volts then p.rising.map (max m) else none
  { s with power := { p with volts := max p.volts m, rising := rising } }.sendPoints (rising.getD (max p.volts m))

/-- The step of a boundary (R437): a slower one at once, then the voltage; a faster one only when the voltage has settled, until when the clock
owes the rise. -/
def State.seekStep (s : State) : State :=
  let n := s.targetStep
  let old := s.fld PWR_STATUS_FSTEP
  if old < n then (s.setStep n s.power.agreed false).lowerVolts n
  else if n < old then
    if s.power.volts ≤ n then s.setStep n s.power.agreed false
    else { s with power := { s.power with owed := true } }.raiseVolts n
  else s.setStep n s.power.agreed false

/-- VOLTAGE_SETTLED (R437): the raised voltage has settled, and the clock rises if the boundary of its decision has passed. -/
def execVoltageSettled (s : State) : Out :=
  match s.power.rising with
  | none => .next s
  | some n =>
    let s := { s with power := { s.power with volts := n, rising := none } }
    .next (if s.aloft ∧ s.power.owed = true ∧ s.targetStep < s.fld PWR_STATUS_FSTEP ∧ n ≤ s.targetStep then
      s.setStep s.targetStep s.power.agreed false else s)

/-! ## Agreement (R437 to R439) -/

/-- The members of the job: the peer list of the foundation image, or this module alone. -/
def State.members (s : State) : List Nat :=
  if s.foundation.peers = [] then [s.foundation.ownRank] else List.range s.foundation.peers.length

/-- A decision that has arrived, for the boundary at aligned time `at`: a late one is counted in MISSED and waits for the next boundary,
and a faster step's voltage begins to rise. -/
def State.takeDecision (s : State) (at_ n : Nat) : State :=
  let n := s.clipStep n
  let s := if at_ ≤ s.lastBoundary then s.addFld PWR_COUNTS_MISSED 1 else s
  ({ s with power := { s.power with decisions := s.power.decisions ++ [(at_, n)] } }).raiseVolts n

/-- A member's request held at the master (R437). -/
def State.takeRequest (s : State) (rank n : Nat) : State :=
  { s with power := { s.power with requests := smapIns s.power.requests rank (s.clipStep n) } }

/-- What an FSTEP frame brings (R437): a request to the master, or the master's decision. -/
def State.takeFstep (s : State) (rank : Nat) : Body → State
  | .fstepRequest n _ => if s.isTimeMaster then s.takeRequest rank n else s
  | .fstepApply n t => if rank = s.timeMaster then s.takeDecision t.toNat n else s
  | _ => s

/-- The master's decision at a boundary (R437, R439): the slowest of the live members' latest requests, sent when it differs from
the one last sent. -/
def State.decideStep (s : State) (t : Nat) : State :=
  let agreed := (s.members.filter s.live).foldl (fun m r => max m ((smapFind s.power.requests r).getD 0)) 0
  if s.power.lastSent = some agreed then s
  else
    let at_ := t + 4 * s.periodNs
    let s := { s with power := { s.power with lastSent := some agreed } }
    (s.otherRanks.foldl (fun s r => s.sendTo r 10 (.fstepApply agreed (word at_))) s).takeDecision at_ agreed

/-- Step 5 of a boundary at aligned time `t` (R433, R437, Table TCK-2): the request, formed in every mode; in Aloft the decisions that are due,
the step in force, and this boundary's request and decision sent. -/
def State.stepBoundary (s : State) (t : Nat) : State :=
  if s.aloft = false then s.showRequest
  else
    let due := s.power.decisions.filter (fun d => decide (d.1 ≤ t))
    let s := { s with power := { s.power with decisions := s.power.decisions.filter (fun d => !(decide (d.1 ≤ t))) } }
    let s := match due.getLast? with
      | some d => ({ s with power := { s.power with agreed := true } }).setFld PWR_STATUS_AGREED d.2
      | none => s
    let s := s.showRequest.seekStep
    let own := s.foundation.ownRank
    if s.isTimeMaster then (s.takeRequest own s.request).decideStep t
    else s.sendTo s.timeMaster 10 (.fstepRequest s.request (word t))

/-- The agreement passes to a new master (R439): requests held are discarded. -/
def State.newMaster (s : State) : State := { s with power := { s.power with requests := [], lastSent := none } }

/-! ## Emergencies (R440) -/

/-- An emergency begins: the step at once, without agreement, and then its voltage; the next request will say it. -/
def State.takeEmergency (s : State) : State :=
  let s := (s.setFld PWR_STATUS_EMERGENCY 1).addFld PWR_COUNTS_EMERGENCIES 1
  if s.aloft ∧ s.fld PWR_STATUS_FSTEP < s.power.emergency then
    let n := s.power.emergency
    let s := s.setStep n false true
    { s with power := { s.power with volts := max n s.power.volts, rising := none } }.sendPoints (max n s.power.volts)
  else { s with power := { s.power with owed := false } }

/-- DROOP (R440): the rail of compute die `k` has fallen `depth` mV below its set point for 20 ns. -/
def execDroop (k : Fin 4) (depth : BitVec 16) (s : State) : Out :=
  if s.phase ≠ .running ∨ bitOf s.railPg k.val = false ∨ depth.toNat < 50 then .next s
  else
    let old := s.fld PWR_STATUS_FSTEP
    let n := max (min 15 (old + 4)) s.power.droopStep
    let s := { s with power := { s.power with droopStep := n, droopAt := some s.localNs } }
    let s := (s.addFld PWR_COUNTS_DROOPS 1).event (0x9000 + k.val) EV_DROOP noDomain
      (leBytes 1 k.val ++ leBytes 1 old ++ leBytes 1 n ++ leBytes 1 0 ++ leBytes 2 depth.toNat)
    .next (s.takeEmergency.addRisk riskDroop)

/-- Every die junction at the last reading: kind (0 compute, 1 host, 2 link), index, °C. -/
def Power.junctions (p : Power) : List (Nat × Nat × Nat) :=
  (List.range p.compute.length).map (fun k => (0, k, p.compute.getD k 0)) ++ [(1, 0, p.host)] ++
    (List.range p.link.length).map (fun n => (2, n, p.link.getD n 0))

/-- The droop's step once its hold may have ended (R440): it holds until no droop has come for 1 ms. -/
def State.droopHeld (s : State) : Nat :=
  if s.power.droopAt.any (fun t => decide (s.localNs < t + 1000000)) then s.power.droopStep else 0

/-- EMERGENCY_HOLD_END (R440): no droop for 1 ms ends a droop's hold; a trip's ends once every junction is below 100 °C. The agreed step
returns at the next boundary, its voltage rising from now on. -/
def execEmergencyHoldEnd (s : State) : Out :=
  let p := s.power
  if p.emergency = 0 then .next s
  else
    let cool := p.junctions.all (fun j => decide (j.2.2 < 100))
    let s := { s with power := { p with droopStep := s.droopHeld, tripHeld := p.tripHeld && !cool } }
    let s := s.setFld PWR_STATUS_EMERGENCY (if s.power.emergency = 0 then 0 else 1)
    .next (if s.aloft then s.raiseVolts s.targetStep else s)

/-! ## Temperatures (R434) -/

/-- The rail of the core supply of a die by kind (R434, Table PWR-6); stacks have rail 9. -/
def kindRail (kind index : Nat) : Nat :=
  if kind = 0 then index else if kind = 1 then 8 else if kind = 2 then 4 + index else 9

/-- The hottest of a list of readings. -/
def hottest : List (Nat × Nat × Nat) → Option (Nat × Nat × Nat)
  | [] => none
  | j :: js => match hottest js with
    | some k => if k.2.2 > j.2.2 then some k else some j
    | none => some j

/-- The stacks at the last reading, as kind 3. -/
def Power.hbmStacks (p : Power) : List (Nat × Nat × Nat) := (List.range p.hbm.length).map (fun x => (3, x, p.hbm.getD x 0))

/-- Junctions above THROTTLE_C and stacks above 90 °C (R434). -/
def State.tooHot (s : State) : List (Nat × Nat × Nat) :=
  s.power.junctions.filter (fun j => decide (s.foundation.throttleC < j.2.2)) ++ s.power.hbmStacks.filter (fun j => decide (90 < j.2.2))

/-- A junction at or above 115 °C (R434): a FATAL record and THERMAL_CRITICAL, THERMTRIP_N low, and every supply removed. -/
def State.thermalCritical (s : State) (j : Nat × Nat × Nat) : State :=
  let unit := 0x9000 + kindRail j.1 j.2.1
  let s := s.fault unit 3 { code := ST_THERMAL_CRITICAL }
  let s := s.event unit EV_THERMAL_CRITICAL noDomain (leBytes 1 j.1 ++ leBytes 1 j.2.1 ++ leBytes 1 j.2.2)
  let s := s.setRails 0
  { s with outs := { s.outs with thermtripN := false, pwrOffReqN := false } }

/-- A junction at or above 105 °C (R434, R440): a local emergency at F15. -/
def State.thermalTrip (s : State) (j : Nat × Nat × Nat) : State :=
  if s.power.tripHeld then s
  else
    let s := { s with power := { s.power with tripHeld := true } }
    (s.event (0x9000 + kindRail j.1 j.2.1) EV_THERMAL_TRIP noDomain
      (leBytes 1 j.1 ++ leBytes 1 j.2.1 ++ leBytes 1 j.2.2 ++ leBytes 1 15)).takeEmergency

/-- Whether the module's supplies are on. -/
def State.supplied (s : State) : Bool := s.phase == .running && s.outs.pwrOffReqN

/-- THERMAL_SAMPLE (R434): the sensors of the compute, host and link dies and of the stacks, and of the outlet (0.01 °C), read every 1 ms. -/
def execThermalSample (compute link hbm : List (Fin 256)) (host : Fin 256) (outlet : BitVec 16) (s : State) : Out :=
  if s.supplied = false then .next s
  else
    let c := (compute.take 4).map (·.val)
    let l := (link.take 4).map (·.val)
    let h := (hbm.take 16).map (·.val)
    let s := { s with power := { s.power with compute := c, link := l, host := host.val, hbm := h } }
    let s := (s.setFld PWR_THERMAL_TJ_COMPUTE (c.foldl max 0)).setFld PWR_THERMAL_TJ_HOST host.val
    let s := (s.setFld PWR_THERMAL_TJ_LINK (l.foldl max 0)).setFld PWR_THERMAL_T_HBM (h.foldl max 0)
    let s := s.setFld PWR_THERMAL_OUTLET outlet.toNat
    match hottest s.power.junctions with
    | none => .next s
    | some j =>
      let s := if 105 ≤ j.2.2 then s.thermalTrip j else s
      .next (if 115 ≤ j.2.2 then s.thermalCritical j else s)

/-- THERMAL_STEP_PERIOD (R434), every 10 ms: thermal_step rises while a reading is too hot, and falls once in ten periods while every
reading is at least 3 K below its threshold; THERMAL_THROTTLE names the hottest at the start of an episode. -/
def execThermalStepPeriod (s : State) : Out :=
  if s.supplied = false then .next s
  else
    match hottest s.tooHot with
    | some j =>
      let n := s.power.thermalStep
      let s := { s with power := { s.power with thermalStep := min 15 (n + 1), cool := 0 } }
      .next (if n = 0 then
          s.event (0x9000 + kindRail j.1 j.2.1) EV_THERMAL_THROTTLE noDomain
            (leBytes 1 j.1 ++ leBytes 1 j.2.1 ++ leBytes 1 j.2.2 ++ leBytes 1 1)
        else s)
    | none =>
      let cool := s.power.junctions.all (fun j => decide (j.2.2 + 3 ≤ s.foundation.throttleC)) &&
        s.power.hbmStacks.all (fun j => decide (j.2.2 + 3 ≤ 90))
      let n := if cool then s.power.cool + 1 else 0
      .next { s with power :=
        if 10 ≤ n then { s.power with cool := 0, thermalStep := s.power.thermalStep - 1 } else { s.power with cool := n } }

/-! ## Power (R435) -/

/-- The sum of a list. -/
def total (xs : List Nat) : Nat := xs.foldl (· + ·) 0

/-- The mean of a list, rounded down. -/
def mean (xs : List Nat) : Nat := total xs / max 1 xs.length

/-- POWER_SAMPLE (R435, R484): the voltages (mV) and currents (A) of rails 0 to 13, and of VDDC_HBM, the second supply of rail 9, read over
AVSBus every 1 ms. -/
def execPowerSample (rails : List (BitVec 16 × BitVec 16)) (vddc : BitVec 16 × BitVec 16) (s : State) : Out :=
  if s.phase ≠ .running then .next s
  else
    let rs := rails.take 14
    let watts := total ((vddc :: rs).map (fun r => r.1.toNat * r.2.toNat)) / 1000
    let s := (List.range rs.length).foldl (fun s r =>
      let x := rs.getD r (0#16, 0#16)
      (s.setFld (PWR_RAIL_MV r) x.1.toNat).setFld (PWR_RAIL_AMPS r) x.2.toNat) s
    let samples := (watts :: s.power.samples).take (1000 * max 1 (s.fld PWR_CAP_WINDOW_S))
    let second := samples.take 1000
    let s := { s with power := { s.power with samples := samples } }.count 64 13 (1000 * watts)
    let s := s.setFld PWR_POWER_P_1S (satTo 0xFFFF (mean second))
    let s := s.setFld PWR_POWER_P_WINDOW (satTo 0xFFFF (mean samples))
    .next (s.setFld PWR_POWER_P_PEAK (satTo 0xFFFF (second.foldl max 0)))

/-- CAP_CONTROLLER_PERIOD (R435), every 100 ms of aligned time: cap_step by the means over the window and over the last second, and
CAP_UNREACHABLE, once in 60 s, while F15 leaves the module above the effective cap. -/
def execCapControllerPeriod (s : State) : Out :=
  if s.phase ≠ .running ∨ s.power.samples = [] then .next s
  else
    let p := s.power
    let eff := s.effectiveCap
    let (w, nw) := (total p.samples, p.samples.length)
    let second := p.samples.take 1000
    let (w1, n1) := (total second, second.length)
    let isOver := decide (w > eff * nw)
    let c := p.capStep
    let next :=
      if isOver ∨ w1 * 10 > eff * 11 * n1 then min 15 (c + 1)
      else if w * 20 < eff * 19 * nw ∧ w1 * relPower (c - 1) * 20 < eff * 19 * n1 * relPower c then max s.fastest (c - 1)
      else c
    let stuck := isOver && c == 15
    let s := { s with power := { p with capStep := next, ballastOff := stuck } }
    let s := s.setFld PWR_STATUS_OVER_CAP (if stuck then 1 else 0)
    let quiet := match p.unreachable with | some t => decide (s.now < t + 60000000000) | none => false
    .next (if stuck && !quiet then
        ({ s with power := { s.power with unreachable := some s.now } }).event 0x9F00 EV_CAP_UNREACHABLE noDomain
          (leBytes 2 eff ++ leBytes 2 (satTo 0xFFFF (w / nw)))
      else s)

/-! ## Domain envelopes (R436) -/

/-- The ENVELOPE of a domain (Table STR-5): its POWER entry's, or the management cap shared in proportion to tile count. -/
def State.envelope (s : State) (d : Nat) : Nat :=
  match (s.entries secPower).find? (fun e => fieldAt e 0 1 == d) with
  | some e => fieldAt e 2 2
  | none => s.fld PWR_CAP_CAP_W * (s.workers d).length / max 1 (total (s.domIds.map (fun d => (s.workers d).length)))

/-- The sum of the envelopes. -/
def State.envelopes (s : State) : Nat := total (s.domIds.map s.envelope)

/-- Effective envelopes shown: scaled by the effective cap over their sum when that is larger (R436). -/
def State.showEnvelopes (s : State) : State :=
  let sum := s.envelopes
  let eff := s.effectiveCap
  s.domIds.foldl (fun s d =>
    s.setFld (PWR_DOM_POWER_ENVELOPE d) (if sum > eff then s.envelope d * eff / sum else s.envelope d)) s

/-- The envelopes after a cap change or a shed, with ENVELOPE_SCALED when they are scaled (R436). -/
def State.scaleEnvelopes (s : State) : State :=
  let sum := s.envelopes
  let eff := s.effectiveCap
  let s := s.showEnvelopes
  if sum > eff then
    s.event 0x9F00 EV_ENVELOPE_SCALED noDomain (leBytes 2 eff ++ leBytes 2 (satTo 0xFFFF sum) ++
      leBytes 4 (fp32.encode (fp32.fit ((numOfInt eff).div (numOfInt sum)))))
  else s

/-- The power estimates of a tick (R436), and the energy they make in µJ (R471): a domain's window average is not a function of this model's state, so it is a free value; above
its effective envelope, a free number of clk of delay is counted. -/
def State.estimatePower (s : State) : State :=
  s.domIds.foldl (fun s d =>
    let (e, s) := s.freshWord
    let (g, s) := s.freshWord
    let s := s.setFld (PWR_DOM_POWER_ESTIMATE d) (e.toNat % 2 ^ 16)
    let s := { s with counts := tally s.counts (16 * d + 13) (s.fld (PWR_DOM_POWER_ESTIMATE d) * s.periodNs / 1000) }
    if s.fld (PWR_DOM_POWER_ESTIMATE d) > s.fld (PWR_DOM_POWER_ENVELOPE d) then s.addFld (PWR_DOM_GATE_DELAY_CLK d) (g.toNat % 2 ^ 20)
    else s) s

/-- The envelopes at a boundary (R436): one that its changes brought above the cap is announced; a scaling that stands is shown anew. -/
def State.reviewEnvelopes (s : State) (before : Bool) : State := if before then s.showEnvelopes else s.scaleEnvelopes

/-- Whether the envelopes are scaled: they sum to more than the effective cap (R436). -/
def State.scaled (s : State) : Bool := decide (s.effectiveCap < s.envelopes)

/-! ## Management Port (R435, R450) -/

/-- SET_CAP (R435): cap and averaging window, or CAP_RANGE. -/
def execSetCap (cap : BitVec 16) (window : BitVec 8) (full : Bool) (s : State) : Out :=
  s.manage 0x10 full <|
  if s.phase ≠ .running then .next s
  else if cap.toNat < 1000 ∨ s.part.tdp < cap.toNat ∨ window.toNat < 1 ∨ 30 < window.toNat then .next (s.answer 0x10 ST_CAP_RANGE [])
  else
    let s := ((s.answer 0x10 ST_OK []).setFld PWR_CAP_CAP_W cap.toNat).setFld PWR_CAP_WINDOW_S window.toNat
    .next s.scaleEnvelopes

/-- CLEAR_SHED (R450): a facility shed ends. -/
def execClearShed (full : Bool) (s : State) : Out :=
  s.manage 0x11 full <|
  if s.phase ≠ .running then .next s
  else .next (((s.answer 0x11 ST_OK []).setFld FAC_STATE_SHED_W 0).scaleEnvelopes)

end Sys2Proof.Machine
end

