-- ==== Sys2Proof/Machine/Security.lean ====
section
/-!
DEFINITION. Security and management (chapter 21): debug grants, the owner key, the log, PLDM, firmware updates, SPDM, and the SECURE
commands.
-/
namespace Sys2Proof.Machine

/-! ## Debug grants (R467) -/

/-- DEBUG_NONCE: a 32-byte nonce, replacing the one that was valid. -/
def execDebugNonce (full : Bool) (s : State) : Out :=
  s.manage 0x20 full <|
  if s.phase ≠ .running then .next s
  else
    let n := padTo 32 (Config.nonce s.security.nonces)
    let s := { s with security := { s.security with nonce := some n, nonces := s.security.nonces + 1 } }
    .next (s.answer 0x20 ST_OK n)

/-- The key that a KEY_ID names: the vendor key, or the owner key. -/
def State.keyNamed (s : State) (k : Nat) : Option Bytes :=
  if k = keyId Config.vendorKey then some Config.vendorKey
  else match s.security.owner with
    | some o => if k = keyId o then some o else none
    | none => none

/-- The status of a debug grant (R467): its layout, then the four conditions in order. -/
def State.grantStatus (s : State) (g : Bytes) : Nat :=
  if g.length ≠ 192 ∨ fieldAt g 0 4 ≠ 0x4758444C then ST_IMAGE_INVALID
  else if !(allZero (takeAt g 5 3)) || !(allZero (takeAt g 28 36)) || !(allZero (takeAt g 96 32)) || decide (16 ≤ fieldAt g 4 1) then
    ST_REJECTED_RESERVED
  else if fieldAt g 8 8 ≠ ownModuleId then ST_IDENTITY_MISMATCH
  else if s.security.nonce ≠ some (takeAt g 64 32) then ST_NONCE_STALE
  else if fieldAt g 16 4 < 1 ∨ 86400 < fieldAt g 16 4 then ST_FIELD_RANGE
  else match s.keyNamed (fieldAt g 20 8) with
    | some k => if Config.ed25519Verify k (sha512 (takeAt g 0 128)) (takeAt g 128 64) then ST_OK else ST_SIGNATURE_INVALID
    | none => ST_SIGNATURE_INVALID

/-- DEBUG_GRANT: a grant accepted replaces the one in force. -/
def execDebugGrant (g : Bytes) (full : Bool) (s : State) : Out :=
  s.manage 0x21 full <|
  if s.phase ≠ .running then .next s
  else
    let st := s.grantStatus g
    let s := s.answer 0x21 st []
    if st ≠ ST_OK then .next s
    else
      let s := s.endGrant 2
      let life := fieldAt g 16 4
      let n : Grant := { scope := fieldAt g 4 1, keyId := fieldAt g 20 8, lifetime := life, ends := s.localNs + life * 1000000000 }
      let s := { s with security := { s.security with grant := some n, nonce := none } }
      .next (s.event 0xA000 EV_DEBUG_GRANTED noDomain
        (leBytes 1 n.scope ++ zeros 3 ++ leBytes 4 life ++ leBytes 8 n.keyId))

/-- DEBUG_REVOKE: the grant in force ends. -/
def execDebugRevoke (full : Bool) (s : State) : Out :=
  s.manage 0x22 full <|
  if s.phase ≠ .running then .next s else .next ((s.answer 0x22 ST_OK []).endGrant 1)

/-- DEBUG_GRANT_EXPIRY: the lifetime of the grant in force has passed on local time. -/
def execDebugGrantExpiry (s : State) : Out := .next (s.endGrant 0)

/-- DEBUG_NONCE_EXPIRY: a nonce is 300 s old. -/
def execDebugNonceExpiry (s : State) : Out := .next { s with security := { s.security with nonce := none } }

/-! ## Owner key and log (R462, R464) -/

/-- ENROL_OWNER (R462): the first record is accepted unsigned; a later one is signed by the key it replaces and takes effect at the next
boot. -/
def execEnrolOwner (key signature : Bytes) (full : Bool) (s : State) : Out :=
  s.manage 0x30 full <|
  if s.phase ≠ .running then .next s
  else
    let c := s.security
    match c.ownerNext.orElse (fun _ => c.owner) with
    | none => .next ({ s with security := { c with owner := some key } }.answer 0x30 ST_OK [])
    | some old =>
      if Config.ed25519Verify old key signature then .next ({ s with security := { c with ownerNext := some key } }.answer 0x30 ST_OK [])
      else .next (s.answer 0x30 ST_SIGNATURE_INVALID [])

/-- The 64 bytes of entry `i` of the internal log. -/
def State.logEntry (s : State) (i : Nat) : Bytes := (List.range 8).flatMap (fun w => leBytes 8 (s.reg (CTL_ERR_LOG (i % 1024) w)).toNat)

/-- READ_LOG (Table SEC-4): 1 to 16 entries of the internal log; in recovery after a PUF failure too, whose record is readable there
(R463). -/
def execReadLog (first : BitVec 16) (count : BitVec 8) (full : Bool) (s : State) : Out :=
  s.manage 0x40 full <|
  if s.phase ≠ .running ∧ ¬ (s.phase = .recovery ∧ s.security.pufFailed = true) then .next s
  else if 1024 ≤ first.toNat ∨ count.toNat < 1 ∨ 16 < count.toNat then .next (s.answer 0x40 ST_FIELD_RANGE [])
  else .next (s.answer 0x40 ST_OK ((List.range count.toNat).flatMap (fun i => s.logEntry (first.toNat + i))))

/-! ## MCTP and PLDM Type 2 (R464, R465) -/

/-- A status and data returned to the management bus outside Table SEC-4. -/
def State.reply (s : State) (status : Nat) (data : Bytes) : State :=
  { s with outs := { s.outs with mgmtStatus := status, mgmtData := data } }

/-- The I3C static address of the endpoint (R464), in service and in recovery (R459). -/
def State.staticAddress (s : State) : Nat := 0x30 + s.security.mgmtAddr

/-- The I3C address that the endpoint answers: the dynamic one once assigned, else the static one (R464). -/
def State.i3cAddress (s : State) : Nat := if s.fld MGT_STATUS_I3C_ADDR = 0 then s.staticAddress else s.fld MGT_STATUS_I3C_ADDR

/-- MCTP_CONTROL (R464): the bus owner assigns the dynamic address or the endpoint id; the recovery service answers it too. -/
def execMctpControl (addr : Option (BitVec 7)) (eid : Option (BitVec 8)) (s : State) : Out :=
  if s.phase ≠ .running ∧ s.phase ≠ .recovery then .next s
  else
    let s := match addr with | some a => s.setFld MGT_STATUS_I3C_ADDR a.toNat | none => s
    let s := match eid with | some e => s.setFld MGT_STATUS_EID e.toNat | none => s
    .next (s.reply ST_OK [])

/-- The alarm bits (Table PWR-4). -/
def State.alarms (s : State) : Nat :=
  let p := s.power
  let droop := match p.droopAt with | some t => decide (s.localNs < t + 1000000000) | none => false
  [p.thermalStep != 0, p.tripHeld, !s.outs.thermtripN, droop, s.facility.outOfRange, s.facility.leakHold,
    s.fld FAC_STATE_SHED_W != 0, s.fld PWR_STATUS_OVER_CAP == 1, s.fld FAC_STATUS_STALE == 1, s.inMode 0xF].zipIdx.foldl
    (fun m b => if b.1 then withBit m b.2 else m) 0

/-- The sensors of R465, in its order: power, cap, F-step, hottest compute, host and link junctions, inlet, flow, mode, alarms. -/
def State.sensorValues (s : State) : List Nat :=
  [s.fld PWR_POWER_P_1S, s.effectiveCap, s.fld PWR_STATUS_FSTEP, s.fld PWR_THERMAL_TJ_COMPUTE, s.fld PWR_THERMAL_TJ_HOST,
    s.fld PWR_THERMAL_TJ_LINK, s.fld FAC_COOLANT_INLET, s.fld FAC_COOLANT_FLOW, s.mode, s.alarms]

/-- PLDM_SENSOR_REFRESH (R465), every 100 ms. -/
def execPldmSensorRefresh (s : State) : Out :=
  if s.phase ≠ .running then .next s else .next { s with security := { s.security with sensors := s.sensorValues } }

/-- PLDM_SENSOR_READ: the value last refreshed of sensor `i`. -/
def execPldmSensorRead (i : Fin 10) (s : State) : Out :=
  if s.phase ≠ .running then .next s else .next (s.reply ST_OK (leBytes 4 (s.security.sensors.getD i.val 0)))

/-- PLDM_START_REPORT_READ: bytes of the start report (R46), read as a PLDM file. -/
def execPldmStartReportRead (off len : Nat) (s : State) : Out :=
  if s.phase ≠ .running then .next s
  else
    let file := (List.range 32).flatMap (fun w => leBytes 8 (s.reg (CTL_START_REPORT w)).toNat)
    .next (s.reply ST_OK ((file.drop off).take len))

/-! ## Firmware updates (R460, R461, R459) -/

/-- The slot of a KIND that an update writes: the inactive one, or A in recovery. -/
def State.updateSlotB (s : State) (kind : Nat) : Bool := s.phase != .recovery && !(s.security.slotB kind)

/-- A slot of a KIND set. -/
def Security.setSlot (c : Security) (kind : Nat) (b : Bool) (x : FlashSlot) : Security :=
  if kind = 1 then (if b then { c with vendorB := x } else { c with vendorA := x })
  else (if b then { c with platformB := x } else { c with platformA := x })

/-- The component of a KIND being received. -/
def State.transfer (s : State) (kind : Nat) : Option Transfer := s.security.transfers.find? (fun x => x.kind == kind)

/-- The component of a KIND set, or removed. -/
def State.setTransfer (s : State) (kind : Nat) (x : Option Transfer) : State :=
  { s with security := { s.security with transfers := s.security.transfers.filter (fun y => y.kind != kind) ++ x.toList } }

/-- FIRMWARE_UPDATE_TRANSFER (R460): the first data of a component begin an update, which erases the slot it writes and replaces a pending
update of its KIND; further data follow. -/
def execFirmwareUpdateTransfer (component : BitVec 16) (first : Bool) (data : Bytes) (floor : Option (Nat × Bytes)) (s : State) : Out :=
  let kind := component.toNat
  if s.phase ≠ .running ∧ s.phase ≠ .recovery then .next s
  else if kind ≠ 1 ∧ kind ≠ 2 then .next (s.reply ST_FIELD_RANGE [])
  else
    match s.transfer kind, first with
    | some _, true => .next (s.reply ST_UPDATE_BUSY [])
    | none, false => .next (s.reply ST_REJECTED_OPERATION [])
    | none, true =>
      let b := s.updateSlotB kind
      let c := s.security.setSlot kind b {}
      let c := { c with updates := c.updates.filter (· != kind), pendingFloor := c.pendingFloor.filter (fun f => f.1 != kind),
                        untried := c.untried.filter (· != (kind, b)) }
      .next (({ s with security := c }.setTransfer kind (some { kind := kind, bytes := data, floor := floor })).reply ST_OK [])
    | some x, false => .next ((s.setTransfer kind (some { x with bytes := x.bytes ++ data })).reply ST_OK [])

/-- The bytes signed by a floor record. -/
def floorMessage (kind v : Nat) : Bytes := leBytes 1 kind ++ leBytes 4 v

/-- What VerifyComplete reports of a component (R458, R460, R461, R37). -/
def State.transferStatus (s : State) (x : Transfer) : Nat :=
  let c := s.security
  let owner := c.owner
  let floor := if x.kind = 1 then c.floorVendor else c.floorPlatform
  let floorOk := match x.floor with
    | some (v, sig) => Config.ed25519Verify (imageKey x.kind owner) (floorMessage x.kind v) sig
    | none => true
  if imageLayoutOk x.kind x.bytes = false then ST_IMAGE_INVALID
  else if !(imageDigestOk x.bytes) || !(imageSignatureOk x.kind owner x.bytes) || !floorOk then ST_SIGNATURE_INVALID
  else if imageVersion x.bytes < floor then ST_ROLLBACK
  else if imageSettingsOk s.ddrSize x.kind x.bytes = false then ST_IMAGE_INVALID
  else ST_OK

/-- VERIFY_COMPLETE (R460): a failed image's slot is erased. -/
def execVerifyComplete (component : BitVec 16) (s : State) : Out :=
  let kind := component.toNat
  match s.transfer kind with
  | none => .next s
  | some x =>
    let st := s.transferStatus x
    if st = ST_OK then
      let c := s.security.setSlot kind (s.updateSlotB kind) { bytes := x.bytes }
      .next (({ s with security := c }.setTransfer kind (some { x with verified := true })).reply st [])
    else .next (({ s with security := s.security.setSlot kind (s.updateSlotB kind) {} }.setTransfer kind none).reply st [])

/-- A verified component marked for the next reset, with its floor record kept pending (R460, R461). -/
def Security.applied (c : Security) (x : Transfer) (slotB : Bool) : Security :=
  { c with updates := c.updates ++ [x.kind], untried := c.untried ++ [(x.kind, slotB)],
           pendingFloor := c.pendingFloor ++ (match x.floor with | some (v, _) => [(x.kind, v, slotB)] | none => []) }

/-- A verified component applied. -/
def State.applied (s : State) (x : Transfer) : State :=
  let s' := (s.setTransfer x.kind none).addFld MGT_COUNTS_UPDATES 1
  { s' with security := s'.security.applied x (s.updateSlotB x.kind) }.reply ST_OK []

/-- APPLY_COMPLETE (R460, R459): the update is marked and takes effect at the next reset; in recovery the image is booted at once from
slot A, with slot A forced for both KINDs where BOOT_SRC says so. -/
def execApplyComplete (component : BitVec 16) (s : State) : Out :=
  match s.transfer component.toNat with
  | none => .next s
  | some x =>
    if x.verified = false then .next s
    else if s.phase = .recovery ∧ s.security.pufFailed = false then 
      .next ((s.applied x).bootWith (x.kind == 1 || s.security.bootSrc == 1) (x.kind == 2 || s.security.bootSrc == 1))
    else .next (s.applied x)

/-! ## Identity and measurements (R463, R466) -/

/-- Seconds left of the grant in force. -/
def State.grantLeft (s : State) : Nat :=
  match s.security.grant with
  | some g => (g.ends - s.localNs) / 1000000000
  | none => 0

/-- The DIGESTs of the images that run. -/
def Security.vendorDigest (c : Security) : Bytes := takeAt c.vendor 64 64
def Security.platformDigest (c : Security) : Bytes := takeAt c.platform 64 64

/-- The six measurements of R466, in its order. -/
def State.measurements (s : State) : List Bytes :=
  let c := s.security
  let image := match s.image with
    | some i => leBytes 8 i.id ++ i.digest ++ leBytes 8 (s.reg CTL_STRUCT_COMMIT_TICK).toNat
    | none => zeros 80
  [Config.bootRomVersion, c.vendorDigest, c.platformDigest, leBytes 4 c.floorVendor ++ leBytes 4 c.floorPlatform, image,
    leBytes 1 s.scope ++ leBytes 4 s.grantLeft]

/-- Data signed with the alias key of this boot over a nonce. -/
def State.signed (s : State) (nonce data : Bytes) : Bytes :=
  data ++ Config.aliasSign s.security.vendorDigest s.security.platformDigest (nonce ++ data)

/-- The certificate chain in slot 0 (R463). -/
def State.chain (s : State) : Bytes :=
  Config.deviceChain ++ Config.aliasCertificate s.security.vendorDigest s.security.platformDigest

/-- An SPDM request answered and counted. -/
def State.spdm (s : State) (data : Bytes) : Out :=
  if s.phase ≠ .running then .next s else .next ((s.addFld MGT_COUNTS_SPDM 1).reply ST_OK data)

/-- GET_VERSION: SPDM 1.3. -/
def execGetVersion (s : State) : Out := s.spdm [byte 0x13]
/-- The capability flags of the responder (SPDM 1.3: CERT 1, CHAL 2, MEAS 4:3, ENCRYPT 6, MAC 7, KEY_EX 9, PSK 11:10), over free bits: it
has certificates, challenge and signed measurements, and neither a key exchange nor a secured session. -/
def capabilityFlags (free : Nat) : Nat :=
  setBits (setBits (setBits (setBits (setBits free 1 1 1) 2 1 1) 3 2 2) 6 2 0) 9 3 0
/-- GET_CAPABILITIES. -/
def execGetCapabilities (s : State) : Out :=
  { s with fresh := s.fresh + 1 }.spdm (leBytes 4 (capabilityFlags (Config.freeWord s.fresh).toNat))
/-- NEGOTIATE_ALGORITHMS: the selected signature algorithm, EdDSA Ed25519 (bit 9), and hash, SHA-512 (bit 2). -/
def execNegotiateAlgorithms (s : State) : Out := s.spdm (leBytes 4 0x200 ++ leBytes 4 4)
/-- GET_DIGESTS: the digest of the chain in slot 0. -/
def execGetDigests (s : State) : Out := s.spdm (sha512 s.chain)
/-- GET_CERTIFICATE: bytes of the chain in slot 0. -/
def execGetCertificate (off len : Nat) (s : State) : Out := s.spdm ((s.chain.drop off).take len)
/-- CHALLENGE: the digest of the chain and all measurements, signed over the nonce. -/
def execChallenge (nonce : Bytes) (s : State) : Out := s.spdm (s.signed nonce (sha512 s.chain ++ s.measurements.flatten))
/-- GET_MEASUREMENTS: measurement `index`, or all (0xFF), signed when a nonce comes with the request. -/
def execGetMeasurements (index : Nat) (nonce : Option Bytes) (s : State) : Out :=
  let ms := s.measurements
  let data := if index = 0xFF then ms.flatten else if index = 0 then [byte ms.length] else ms.getD (index - 1) []
  s.spdm (match nonce with | some n => s.signed n data | none => data)

/-! ## SECURE commands (Table CMD-7) -/

/-- Data written to the output buffer of a command, with their length as RESULT. -/
def State.putOutput (s : State) (h : Word) (a size : Nat) (data : Bytes) : State :=
  if size < data.length then s.finishWith h ST_OUTPUT_SHORT
  else if s.mappedAll a data.length = false then (s.engineFault a data.length).finishWith h ST_ADDRESS_UNMAPPED
  else (s.devWrite a data).finishOk h data.length

/-- IDENTITY_GET: the certificate chain. -/
def execIdentityGet (h : Word) (s : State) : Out :=
  match s.ready h 5 1 with
  | none => .next s
  | some p => .next ((s.begin p).putOutput h (fieldAt p.entry 16 8) (fieldAt p.entry 24 4) s.chain)

/-- ATTEST_GET: the measurements signed over the host's nonce. -/
def execAttestGet (h : Word) (found : List Found) (s : State) : Out :=
  let s := s.findErrors found
  match s.ready h 5 2 with
  | none => .next s
  | some p =>
    let s := s.begin p
    let a := fieldAt p.entry 16 8
    if s.mappedAll a 32 = false then .next ((s.engineFault a 32).finishWith h ST_ADDRESS_UNMAPPED)
    else
      match s.poisonedIn a 32 with
      | some x => .next (s.finish h { status := ST_POISONED, detail := x % 2 ^ 32 })
      | none => .next (s.putOutput h (fieldAt p.entry 24 8) (fieldAt p.entry 32 4) (s.signed (s.physRead a 32) s.measurements.flatten))

end Sys2Proof.Machine
end

