-- ==== Sys2Proof/Machine/Access.lean ====
section
/-!
DEFINITION. Register accesses (R5, R6, R8, R496), and the accesses of host cores and PCIe devices to the physical address map (R96 to
R102).
-/
namespace Sys2Proof.Machine

/-! ## Registers that show other state -/

/-- The index of element `a` of an array of `n` registers from `base`, `stride` apart. -/
def indexIn (base stride n a : Nat) : Option Nat :=
  if base ≤ a ∧ a < base + stride * n ∧ (a - base) % stride = 0 then some ((a - base) / stride) else none

/-- Whether a compute die decides at the last beat (R326): in ASCENT, and from a fault in a domain with tiles there until its replay
starts. -/
def State.lastBeat (s : State) (k : Nat) : Bool :=
  s.inMode 2 || s.domIds.any (fun d => (s.dom d).faulted && ((s.workers d) ++ (s.domSpares d)).any (fun t => dieOf t == k))

/-- The arbiters' way in use, per die (R326). -/
def State.arbMode (s : State) : Nat :=
  ((List.range 4).filter s.lastBeat).foldl withBit 0 +
    16 * ((List.range s.part.links).filter (fun _ => s.inMode 2)).foldl withBit 0

/-- A layer counter of the bank shown (R219). -/
def State.shownLayer (s : State) (l : Nat) : Layer := (smapFind (s.dom (s.fld CTL_LAYER_SEL_DOMAIN)).last.layers l).getD {}

/-- The slot state shown: SLIPPED while a core of the domain is halted (R475). -/
def State.shownDom (s : State) (d : Nat) : Nat :=
  let v := (s.reg (CTL_DOM_STATE d)).toNat
  if s.domState d = 1 ∧ (s.workers d).any (fun t => (s.tile t).run == .halted) = true then setBits v 0 2 2 else v

/-- `CTL_ERR_RECOVERY`: ACTIVE while a recovery is in steps 1 to 5, QUEUED while another one of its domain waits (R427, R430). -/
def State.shownRecovery (s : State) : Nat :=
  let v := (s.reg CTL_ERR_RECOVERY).toNat / 4 * 4
  v + (if s.doms.any (fun e => e.2.recovering != []) then 1 else 0) +
    (if s.doms.any (fun e => decide (2 ≤ e.2.recovering.length)) then 2 else 0)

/-- Registers of CTL that show other state. -/
def State.viewCtl (s : State) (a : Nat) : Option Nat :=
  let x := s.dom (s.fld CTL_LAYER_SEL_DOMAIN)
  if a = CTL_TIME then some s.now
  else if a = CTL_TIME_LOCAL then some (s.localNs % 2 ^ 64)
  else if a = CTL_STRUCT_STAGE_BASE then some s.stageBase
  else if a = CTL_ERR_RING then some (s.errRingBase + s.foundation.errRingLog2 * 2 ^ 48)
  else if a = CTL_ERR_AREA then some (s.errAreaBase + s.foundation.errAreaMib * 2 ^ 48)
  else if a = CTL_ARB_MODE then some s.arbMode
  else if a = CTL_ERR_RECOVERY then some s.shownRecovery
  else if a = CTL_LAYER_STEP then some x.lastStep
  else if a = CTL_LAYER_LOSS then some x.last.loss
  else if 0x20000 ≤ a then
    let y := s.shownLayer ((a - 0x20000) / 32)
    some (if a % 32 = 0 then y.foot else if a % 32 = 8 then y.weight else if a % 32 = 16 then y.update else y.flags)
  else (indexIn (CTL_DOM_STATE 0) 0x10 64 a).map s.shownDom

/-- Registers of HST that the foundation image sets (R92 to R94, Table HST-9). -/
def State.viewHst (s : State) (a : Nat) : Option Nat :=
  let b := s.board
  let ds := b.devices s.foundation.bifurcation
  if a = HST_DDR_CONFIG then some (b.channels + (if b.mrdimm then 2 ^ 12 else 0) + b.ddrRate * 2 ^ 16 + b.ddrGib * 2 ^ 32)
  else if a = HST_CXL_MAP then
    some (s.cxlGib % 2 ^ 16 + s.cxlMapped.length * 2 ^ 16 + (ds.length - s.cxlMapped.length) * 2 ^ 24)
  else if a = HST_PCIE_CONFIG then
    some (s.foundation.bifurcation % 2 ^ 8 + (ds.map (·.link)).foldl withBit 0 * 2 ^ 8)
  else if a = HST_OUTSTANDING then some s.cmds.length
  else none

/-- The ticket of the operation that engine `e` of a tile runs; 0 when idle. -/
def Tile.ticketOn (x : Tile) (e : Nat) : Nat :=
  match x.ops.find? (fun p => p.2.started && p.2.engine == e) with
  | some (i, o) => mkTicket i o.gen
  | none => 0

/-- The operation that engine `e` of a tile runs. -/
def Tile.opOn (x : Tile) (e : Nat) : Op := ((x.ops.find? (fun p => p.2.started && p.2.engine == e)).map (·.2)).getD {}

/-- The generators in use by a vector operation: those it names, when it draws (R160, R244, R388): MASK always, QUANT and the copies of an
UPD_PASS2 under a format with stochastic rounding. -/
def State.generators (s : State) (t : Nat) (o : Op) : Nat :=
  let draws (f : Option Format) : Bool := match f with | some f => f.stochastic | none => false
  if o.code = 0x23 then o.genMask
  else if o.code = 0x20 then (if draws (s.format o.format) then o.genMask else 0)
  else if o.code = 0x31 && !o.updNull then
    let x := s.shard t o
    if draws (s.format x.fFormat) || draws (s.format x.bFormat) then o.updGen else 0
  else 0

/-- Registers of tile `t` that show other state, at offset `r` of its block. -/
def State.viewTile (s : State) (t r : Nat) : Option Nat :=
  let x := s.tile t
  let bits (f : Nat → Bool) (n : Nat) : Nat := ((List.range n).filter f).foldl withBit 0
  if r = 0x0 then some (t + dieOf t * 2 ^ 9 + t % 24 % 12 * 2 ^ 11 + t / 24 % 8 * 2 ^ 15 + s.fld (TIL_ID_USABLE t) * 2 ^ 18)
  else if r = 0x10 then some (if x.run = .trapped then (s.reg (TIL_CORE_PC t)).toNat
    else setBits (s.reg (TIL_CORE_PC t)).toNat 0 32 x.pc.toNat)
  else if r = 0x18 then
    ((s.domOf t).bind (fun d => s.program (s.logicalOf d t))).map (fun e =>
      fieldAt e 0 2 + fieldAt e 2 1 % 64 * 2 ^ 16 + fieldAt e 24 2 % 512 * 2 ^ 32)
  else if r = 0x20 then some (x.ops.length + satTo 0xFFFF (x.fullStalls / 1024) * 2 ^ 16 +
    bits (fun e => x.ops.any (fun p => p.2.started && p.2.engine == e)) 16 * 2 ^ 32)
  else if r = 0x30 then some (((s.homeOf t).map s.slot).getD 0)
  else if r = 0x38 then some (((s.homeOf t).map (fun d => (s.dom d).epoch)).getD 0)
  else if r = 0x48 then some (((s.domOf t).map (fun d => s.startPc d (s.logicalOf d t) (s.slot d + 1))).getD 0)
  else if r = 0x4088 then some x.activeFlows
  else if r = 0x1000 then
    let clamp := match (s.homeOf t).bind s.domEntry with
      | some e => if bitOf (fieldAt e 1 1) 0 then fieldAt e 2 1 else 0
      | none => 0
    let v := setBits (s.reg (ARR_SHAPE t)).toNat 24 7 clamp
    some (if s.fld (TIL_ID_USABLE t) = 0 then setBits v 0 7 0 else v)
  else if r = 0x1020 then
    some (bits (fun a => x.running a != 0) 3 + bits (fun a => (smapFind x.held a).isSome) 3 * 8 + min 2 x.places * 64 +
      x.ticketOn 0 * 2 ^ 16 + x.ticketOn 1 * 2 ^ 32 + x.ticketOn 2 * 2 ^ 48)
  else if r = 0x2000 then some (x.ticketOn 5 + (x.opOn 5).code * 2 ^ 16 + s.generators t (x.opOn 5) * 2 ^ 24)
  else if r = 0x3000 then some (x.ticketOn 8 + (x.opOn 8).code * 2 ^ 16)
  else none

/-- The units of 2^20 bytes that `n` bytes take. -/
def mib (n : Nat) : Nat := (n + 2 ^ 20 - 1) / 2 ^ 20

/-- Registers of the page engine and the stash that show other state. -/
def State.viewStore (s : State) (a : Nat) : Option Nat :=
  let kv (m : SMap Nat) : Nat := mib ((m.map (·.2)).sum * 256)
  let area (i : Nat) : Nat := mib (s.usedIn ((s.hostRanges.filter (fun r => decide (cxlBase ≤ r.1) == (i == 1)))))
  let ids := s.domIds
  if a = KVP_SPILL_USED then some (kv s.kvp.ddr + kv s.kvp.cxl * 2 ^ 32)
  else if a = STH_STATUS then
    some ((if s.stashBase.isSome then 1 else 0) +
      satTo 262143 (s.stash.handles.filter (fun e => e.2.state != 0)).length * 2 ^ 32)
  else if a = STH_TABLE_BASE then some (s.stashBase.getD 0)
  else if a = STH_HOST_USED then some (area 0 + area 1 * 2 ^ 32)
  else
    match indexIn (KVP_POOL_FREE 0) 0x20 8 a, indexIn (STH_DIE_HBM 0) 0x20 4 a with
    | some p, _ => some (if (s.poolEntry p).isSome then s.freePages p + s.poolBlocks p * 16 * 2 ^ 32 else 0)
    | none, some k =>
      some (mib (ids.map (fun d => s.usedIn (s.stashRanges d k))).sum + mib (ids.map (fun d => rangesSize (s.stashRanges d k))).sum * 2 ^ 32)
    | none, none => none

/-- Registers of link die `n` that show other state, at offset `r` of its block. -/
def State.viewLink (s : State) (n r : Nat) : Option Nat :=
  let f := s.foundation
  if r = 0x8 then some (f.udpPort + f.dscp * 2 ^ 16 + (if f.ipv4 then 2 ^ 22 else 0) + zwineMinor * 2 ^ 24 + f.peerTimeoutMs * 2 ^ 32 +
    f.payloadMax * 2 ^ 48)
  else if r = 0x18 then
    some (satTo 0xFFFFFFFF ((s.sramUsed n + 1023) / 1024) + satTo 0xFFFFFFFF ((s.tailBytesAt n true + 2 ^ 20 - 1) / 2 ^ 20) * 2 ^ 32)
  else if r = 0x48 then
    let x := s.peerState (s.fld (LNK_PEER_SEL_RANK n))
    some (x.state + x.minor * 2 ^ 8 + satTo 0xFFFF x.rtt * 2 ^ 16 + satTo 0xFFFFFFFF x.retx * 2 ^ 32)
  else (indexIn 0x100 0x10 12 r).map (fun p =>
    let c := s.portCfg n p
    c.speed + c.pmd * 4 + c.firstLane * 2 ^ 8 + c.mac * 2 ^ 16)

/-- Whether stack `x` trains in the HBM stage of an Ascent (R40). -/
def State.trains (s : State) (x : Nat) : Bool :=
  s.inMode 2 && s.ascent.any (fun a => decide (a.unit < 4) && a.stage == 2 && 4 * a.unit + a.site == x)

/-- Registers of stack `x` that show other state, at offset `r` of its block. -/
def State.viewStack (s : State) (x r : Nat) : Option Nat :=
  if r = 0 then
    let v := setBits (s.reg (HBM_STATUS x)).toNat 8 8 (if s.fld (HBM_STATUS_STATE x) = 0 then 0 else satTo 255 (s.power.hbm.getD x 0))
    some (if s.trains x then setBits v 0 2 3 else v)
  else (indexIn 0x100 8 64 r).map (fun p =>
    satTo (2 ^ 40 - 1) ((smapFind s.hbmSeen (64 * x + p)).getD 0) + satTo 0xFFFFFF ((smapFind s.hbmLast (64 * x + p)).getD 0) * 2 ^ 40)

/-- Registers of the security block (Table SEC-8). -/
def State.viewSec (s : State) (a : Nat) : Option Nat :=
  let c := s.security
  let bit (b : Bool) (i : Nat) : Nat := if b then 2 ^ i else 0
  if a = SEC_STATUS then
    some (bit c.vendorSlotB 0 + bit c.platformSlotB 1 + bit c.owner.isSome 2 + bit (c.updates != []) 3 + c.bootSrc * 2 ^ 4 +
      c.mgmtAddr * 2 ^ 6 + bit c.grant.isSome 9)
  else if a = SEC_VENDOR then some (imageVersion c.vendor + c.floorVendor * 2 ^ 32)
  else if a = SEC_PLATFORM then some (imageVersion c.platform + c.floorPlatform * 2 ^ 32)
  else if a = SEC_MODULE_ID then some ownModuleId
  else if a = SEC_DEBUG then some (s.scope + satTo 0xFFFFFFFF s.grantLeft * 2 ^ 32)
  else none

/-- One byte of the space that the peek window shows (R476): x0 to x31, instruction SRAM, data SRAM, or a foot accumulator (R200),
row by row. -/
def peekByte (x : Tile) (space o : Nat) : Byte :=
  if space = 0 then byte (((smapFind x.xreg (o / 8)).getD 0#64).toNat / 256 ^ (o % 8))
  else if space = 1 then (smapFind x.iram o).getD 0#8
  else if space = 2 then x.dramByte o
  else
    let f := (smapFind x.feet (space - 3)).getD {}
    match smapFind f.words (o / 4) with
    | some w => byte (w / 256 ^ (o % 4))
    | none => Config.freeByte f.seed o

/-- Whether the selected tile may be read (R476): halted, or its domain STOPPED. -/
def State.peekOpen (s : State) (t : Nat) : Bool :=
  (s.tile t).run == .halted || (match s.homeOf t with | some d => s.domState d == 3 | none => false)

/-- A word of the peek window (R476). -/
def State.peek (s : State) (w : Nat) : Nat × State :=
  let t := s.fld DBG_PEEK_SEL_TILE
  if !(bitOf s.scope 3) then (0, s)
  else if s.peekOpen t then
    let o := s.fld DBG_PEEK_SEL_OFFSET / 256 * 256 + 8 * w
    let sp := s.fld DBG_PEEK_SEL_SPACE
    (leNat ((List.range 8).map (fun i => peekByte (s.tile t) sp (o + i))), s)
  else (0, s.setFld DBG_STATUS_PEEK_BUSY 1)

/-- Registers of the debug block that show other state. -/
def State.viewDbg (s : State) (a : Nat) : Option Nat :=
  if a = DBG_STATUS then some (setBits (s.reg DBG_STATUS).toNat 0 4 s.scope)
  else if a = DBG_HALT then some (s.halted * 2 ^ 16)
  else none

/-- PWR_THERMAL_CFG (R454). -/
def State.viewPwr (s : State) (a : Nat) : Option Nat :=
  let f := s.foundation
  if a = PWR_THERMAL_CFG then some (f.throttleC + f.leakAction * 2 ^ 8 + f.facTimeout * 2 ^ 10) else none

/-- The blocks of Table HST-4 that are arrays of units: the base, the stride, and the unit that holds an offset. -/
def unitAt (base stride n a : Nat) : Option (Nat × Nat) :=
  if base ≤ a ∧ a < base + stride * n then some ((a - base) / stride, (a - base) % stride) else none

/-- The value of a register that shows other state; none for one that stands for itself. -/
def State.view (s : State) (a : Nat) : Option Nat :=
  if a < 0x100000 then s.viewCtl a
  else if a < 0x200000 then s.viewPwr a
  else if a < 0x300000 then s.viewSec a
  else if 0x500000 ≤ a ∧ a < 0x600000 then s.viewDbg a
  else if 0x600000 ≤ a ∧ a < 0x800000 then s.viewStore a
  else if 0xA00000 ≤ a ∧ a < 0xB00000 then s.viewHst a
  else
    match unitAt 0x1000000 0x100000 4 a, unitAt 0x2000000 0x10000 16 a, unitAt 0x10000000 0x10000 384 a with
    | some (n, r), _, _ => s.viewLink n r
    | _, some (x, r), _ => s.viewStack x r
    | _, _, some (t, r) => s.viewTile t r
    | _, _, _ => none

/-! ## Loads (R8, R496) -/

/-- Whether the Ascent in progress has left out the unit of report entry `i`, or its compute die (R8, R47). -/
def State.leftOut (s : State) (i : Nat) : Bool :=
  s.ascent.any (fun a => let e := a.entries.getD i {}; e.outcome == 1 || (e.outcome == 3 && e.reason != 0))

/-- Whether an offset lies in the block of a unit that is not there (R8, R99): not fitted, or left out at Ascent. -/
def State.blockAbsent (s : State) (a : Nat) : Bool :=
  let left (m k i : Nat) : Bool := ((s.mode == 3 || s.mode == 0xF) && !(bitOf m k)) || s.leftOut i
  match unitAt 0x1000000 0x100000 4 a, unitAt 0x2000000 0x10000 16 a, unitAt 0x10000000 0x10000 384 a with
  | some (n, _), _, _ => decide (s.part.links ≤ n) || left s.links n (20 + n)
  | _, some (x, _), _ => !(s.part.stackFitted x) || left s.hbmStacks x (4 + x)
  | _, _, some (t, _) => left s.dies (dieOf t) (dieOf t)
  | _, _, _ => false

/-- Whether an offset lies in some block of Table HST-4. -/
def inBlocks (a : Nat) : Bool :=
  decide (a < 0xB00000) || decide (0x1000000 ≤ a ∧ a < 0x1400000) || decide (0x2000000 ≤ a ∧ a < 0x2100000) ||
    decide (0x10000000 ≤ a ∧ a < 0x11800000)

/-- The write-only fields of a register hold unpredictable bits when read (Table SCO-2). -/
def openBits (free : Nat) : List FieldRow → Nat → Nat
  | [], v => v
  | f :: fs, v => openBits free fs (if f.acc = .wo then setBits v f.lo f.width (free / 2 ^ f.lo) else v)

/-- The value of the register at block offset `a`, a multiple of 8. An offset under no register of a block has no stated value. -/
def State.readReg (s : State) (a : Nat) : Word × State :=
  if s.blockAbsent a then (0#64, s)
  else
    match regRow? a with
    | none => s.freshWord
    | some r =>
      match indexIn (DBG_PEEK 0) 8 32 a with
      | some w => let p := s.peek w; (word p.1, p.2)
      | none =>
        let v := (s.view a).getD (s.reg a).toNat
        if r.fields.any (fun f => f.acc == .wo) then
          let (x, s) := s.freshWord
          (word (openBits x.toNat r.fields v), s)
        else (word v, s)

/-- A load of `size` bytes at block offset `a` (R496): the bytes of the register when the access is naturally aligned and of 1, 2, 4 or 8
bytes, otherwise an unpredictable value. -/
def State.loadReg (s : State) (a size : Nat) : Bytes × State :=
  if (size = 1 ∨ size = 2 ∨ size = 4 ∨ size = 8) ∧ a % size = 0 then
    let (v, s) := s.readReg (a / 8 * 8)
    (takeAt (leBytes 8 v.toNat) (a % 8) size, s)
  else (s.freeBytes size, { s with fresh := s.fresh + 1 })

/-! ## Stores (R6, R58, R496) -/

/-- Whether the block that uses the RWS fields of a register is stopped. -/
def State.staticOpen (s : State) (a : Nat) : Bool :=
  if a = CTL_TICK_CONFIG then false
  else if a = CTL_SRV_SPOOL then s.image.isNone
  else if 0x400000 ≤ a ∧ a < 0x500000 then !s.intakeOn
  else if 0x600000 ≤ a ∧ a < 0x700000 then s.image.isNone
  else if 0x700000 ≤ a ∧ a < 0x800000 then s.fld KVP_STATUS_STATE == 0
  else
    match unitAt (HST_Q_SQ_BASE 0) 0x80 256 a, unitAt 0x10000000 0x10000 384 a with
    | some (q, _), _ => s.fld (HST_Q_STATUS_STATE q) == 0
    | _, some (t, _) => match s.domOf t with | some d => !(s.blockRuns secPrograms (some d)) | none => true
    | _, _ => s.image.isNone

/-- One field of a register value written under its access code (Table SCO-2). -/
def writeField (old new : Nat) (f : FieldRow) : Nat :=
  let x := bitsOf new f.lo f.width
  match f.acc with
  | .ro => old
  | .wo => old
  | .rw1c => setBits old f.lo f.width (bitsOf old f.lo f.width &&& (2 ^ f.width - 1 - x))
  | .rws => setBits old f.lo f.width x
  | .rwt => old
  | .rwi => setBits old f.lo f.width x

/-- A store that no other rule of the register changes: each field under its code, an RWT field into its shadow; the whole store is
rejected while an RWS field's block runs. -/
def State.writePlain (s : State) (a : Nat) (r : RegRow) (v : Nat) : State :=
  if r.fields.any (fun f => f.acc == .rws) && !(s.staticOpen a) then
    { s with outs := { s.outs with hostStatus := ST_REJECTED_STATIC } }
  else
    let s := s.setReg a (word (r.fields.foldl (fun old f => writeField old v f) (s.reg a).toNat))
    if r.fields.any (fun f => f.acc == .rwt) then
      let old := ((smapFind s.regShadows a).getD (s.reg a)).toNat
      let new := r.fields.foldl (fun o f => if f.acc = .rwt then setBits o f.lo f.width (bitsOf v f.lo f.width) else o) old
      { s with regShadows := smapIns s.regShadows a (word new) }
    else s

/-- The state that a command's meaning leaves. -/
def Out.state (o : Out) (s : State) : State :=
  match o with
  | .next s' => s'
  | _ => s

/-- HST_Q_CTRL written (R112, R117): ENABLE set or cleared, and RESUME. -/
def State.writeQueueCtrl (s : State) (q : Fin 256) (v : Nat) : State :=
  let s := if bitOf v 0 then (execQueueEnable q s).state s else (execQueueDrain q s).state s
  if bitOf v 1 then (execQueueResume q s).state s else s

/-- A tile's mirror of its PROGRAMS entry written (R6, R58): the committed structure changes as though the image had carried the values. A
tile that runs no entry (free, spare, lost) has none to change. -/
def State.writeProgram (s : State) (t v : Nat) (r : RegRow) : State :=
  if s.staticOpen (TIL_PROGRAM t) then
    let s1 := s.writePlain (TIL_PROGRAM t) r v
    match s.domOf t with
    | none => s1
    | some d =>
      match (List.range (s.entries secPrograms).length).find? (fun i =>
          (bitmapOf (takeAt ((s.entries secPrograms).getD i []) 32 48)).contains (s.logicalOf d t)) with
      | none => s1
      | some i =>
        let s := ((s1.putField secPrograms i 0 2 (bitsOf v 0 16)).putField secPrograms i 2 1 (bitsOf v 16 6)).putField secPrograms i 24 2 (bitsOf v 32 9)
        (bitmapOf (takeAt ((s.entries secPrograms).getD i []) 32 48)).foldl (fun s x => s.setReg (TIL_PROGRAM (s.phys d x)) (s1.reg (TIL_PROGRAM t))) s
  else { s with outs := { s.outs with hostStatus := ST_REJECTED_STATIC } }

/-- A store to a CTL register with a rule of its own. -/
def State.writeCtl (s : State) (a v : Nat) (r : RegRow) : State :=
  if a = CTL_ERR_RING_PTR then (execErrRingHeadWrite (word v) s).state s
  else if a = CTL_SRV_CONFIG then
    let old := s.fld CTL_SRV_CONFIG_RIPCORD
    let s := s.writePlain a r v
    let new := bitsOf v 0 10
    if new ≠ old then s.applyChange secSurvival 0xFFFFFFFF 8 2 new else s
  else s.writePlain a r v

/-- A store to an HST register with a rule of its own. -/
def State.writeHst (s : State) (a v : Nat) (r : RegRow) : State :=
  if a = HST_PROTO then (execProtoNegotiate (word v) s).state s
  else
    match indexIn (HST_PUSH_CFG 0) 0x10 64 a, indexIn (HST_PUSH_SEAL 0) 8 64 a, indexIn (HST_Q_CTRL 0) 0x80 256 a,
        indexIn (HST_Q_CQ_HEAD 0) 0x80 256 a with
    | some n, _, _, _ => (execPushCfgWrite (Fin.ofNat 64 n) (word v) s).state s
    | _, some n, _, _ => (execPushSeal (Fin.ofNat 64 n) s).state s
    | _, _, some q, _ => s.writeQueueCtrl (Fin.ofNat 256 q) v
    | _, _, _, some q => (execCqHeadWrite (Fin.ofNat 256 q) (word v) s).state s
    | _, _, _, _ => s.writePlain a r v

/-- A store to a DBG register (R473 to R480): trace needs TRACE, halt needs HALT, the peek window MEMORY. -/
def State.writeDbg (s : State) (a v : Nat) (r : RegRow) : State :=
  if a = DBG_TRACE_CTRL then (execTraceEnable (word v) s).state s
  else if a = DBG_HALT then (execHaltResume (word v) s).state s
  else if a = DBG_TRACE_BASE then
    if !(bitOf s.scope 2) then s.deny
    else if s.fld DBG_TRACE_CTRL_ENABLE = 1 then s
    else s.writePlain a r v
  else if a = DBG_PEEK_SEL then (if bitOf s.scope 3 then s.writePlain a r v else s.deny)
  else s.writePlain a r v

/-- A store to a register of the intake or the page engine with a rule of its own (R285, R333, R336, R342); INIT takes its bit at once
(R6). -/
def State.writeEngine (s : State) (a v : Nat) (r : RegRow) : State :=
  if a = INT_CTRL then (if bitOf v 0 then execIntakeEnable (bitOf v 1) s else execIntakeDisable (bitOf v 1) s).state s
  else if a = INT_RING_PTR then (execIntakeRingTailWrite (word v) s).state s
  else if a = INT_WORKER_DONE then (execWorkerDone (word v) s).state s
  else if a = KVP_CTRL then ((if bitOf v 0 then execKvpEnable (bitOf v 1) [] s else execKvpDisable s).state s).setFld KVP_CTRL_INIT (bitsOf v 1 1)
  else s.writePlain a r v

/-- A store to a unit's register with a rule of its own (Tables MEM-6, TIL-12). -/
def State.writeUnit (s : State) (a v : Nat) (r : RegRow) : State :=
  match unitAt 0x2000000 0x10000 16 a, unitAt 0x10000000 0x10000 384 a with
  | some (x, o), _ =>
    if o = 0x10 ∧ bitsOf v 8 8 = 0 then s.setFld (HBM_SCRUB_ENABLE x) (bitsOf v 0 1)
    else
      match indexIn 0x100 8 64 o with
      | some p =>
        let k := 64 * x + p
        let n := satTo (2 ^ 40 - 1) ((smapFind s.hbmSeen k).getD 0)
        { s with hbmSeen := smapPut (fun _ => some 0) s.hbmSeen k (n &&& (2 ^ 40 - 1 - v % 2 ^ 40)) }
      | none => s.writePlain a r v
  | _, some (t, o) =>
    if o = 0x18 then s.writeProgram t v r
    else if o = 0x28 then (if bitOf v 32 then s.setReg a 0#64 else s)
    else s.writePlain a r v
  | _, _ => s.writePlain a r v

/-- An aligned 8-byte store at block offset `a` (R6, R496): it acts on each field under its code, after the rules of the registers that
have one; an absent unit's block and an offset without a register ignore it. -/
def State.storeReg (s : State) (a v : Nat) : State :=
  if s.blockAbsent a then s
  else
    match regRow? a with
    | none => s
    | some r =>
      if a < 0x100000 then s.writeCtl a v r
      else if a = PWR_FSTEP_RANGE then
        (if bitsOf v 0 4 > bitsOf v 8 4 then s else s.writePlain a r v)
      else if 0x500000 ≤ a ∧ a < 0x600000 then s.writeDbg a v r
      else if 0xA00000 ≤ a ∧ a < 0xB00000 then s.writeHst a v r
      else if 0x400000 ≤ a ∧ a < 0x800000 then s.writeEngine a v r
      else s.writeUnit a v r

/-- REGISTER_WRITE (R6, R496): a host store to a register block, at block offset `addr` from 0xF000_0000_0000; it acts only when it is of 8
bytes and aligned. -/
def execRegisterWrite (addr : BitVec 48) (size : Nat) (value : Word) (s : State) : Out :=
  if s.phase ≠ .running then .next s
  else
    let a := addr.toNat - blockBase
    let s := { s with outs := { s.outs with hostStatus := 0 } }
    if addr.toNat < blockBase ∨ 0x20000000 ≤ a ∨ size ≠ 8 ∨ a % 8 ≠ 0 then .next s
    else .next (s.storeReg a value.toNat)

/-! ## Host cores (R97 to R102) -/

/-- A host-core access takes an access fault (R98): HST_FAULT_ADDR names an unmapped address. -/
def State.hostFaults (s : State) (a : Nat) (unmapped : Bool) : State :=
  let s := if unmapped then (s.setFld HST_FAULT_ADDR_ADDR a).setFld HST_FAULT_ADDR_SOURCE 0 else s
  { s with outs := { s.outs with hostFault := true, hostData := [] } }

/-- A host-core load is answered. -/
def State.hostLoads (s : State) (bs : Bytes) : State := { s with outs := { s.outs with hostFault := false, hostData := bs } }

/-- The windows of Table HST-3 above the register blocks: queue page (0), parameter page (1), or push window (2), with its number and the
offset in it. -/
def windowAt (a : Nat) : Option (Nat × Nat × Nat) :=
  if 0xF000_4000_0000 ≤ a ∧ a < 0xF000_4010_0000 then some (0, (a - 0xF000_4000_0000) / 4096, a % 4096)
  else if 0xF000_4010_0000 ≤ a ∧ a < 0xF000_4014_0000 then some (1, (a - 0xF000_4010_0000) / 4096, a % 4096)
  else if 0xF000_4014_0000 ≤ a ∧ a < 0xF000_4020_0000 then some (3, 0, 0)
  else if 0xF000_8000_0000 ≤ a ∧ a < 0xF000_C000_0000 then some (2, (a - 0xF000_8000_0000) / 2 ^ 24, a % 2 ^ 24)
  else none

/-- A host load from a window (R100, R102): a push window reads zero, HST_SUBMIT_HANDLE and a parameter block their value; what else a page
reads as is not stated. -/
def State.loadWindow (s : State) (kind n o size : Nat) : Bytes × State :=
  if kind = 2 then (zeros size, s)
  else if kind = 0 ∧ 0x40 ≤ o ∧ o + size ≤ 0x48 then (takeAt (leBytes 8 (s.queue n).submitHandle.toNat) (o - 0x40) size, s)
  else if kind = 1 ∧ o + size ≤ 256 then (s.bytesAt (0xF000_4010_0000 + n * 4096 + o) size, s)
  else (s.freeBytes size, { s with fresh := s.fresh + 1 })

/-- A host store to a window (R101, R102, R111): the submit entry, the doorbell of 4 bytes, a parameter block, or a push. -/
def State.storeWindow (s : State) (kind n o : Nat) (bs : Bytes) : State :=
  if kind = 2 then (execPushWindowWrite (Fin.ofNat 64 n) (BitVec.ofNat 24 o) bs s).state s
  else if kind = 0 ∧ o + bs.length ≤ 64 then (execWindowSubmit (Fin.ofNat 256 n) (BitVec.ofNat 6 o) bs s).state s
  else if kind = 0 ∧ o = 0x80 ∧ bs.length = 4 then (execDoorbell (Fin.ofNat 256 n) (BitVec.ofNat 32 (leNat bs)) s).state s
  else if kind = 1 ∧ o + bs.length ≤ 256 then s.store (0xF000_4010_0000 + n * 4096 + o) bs
  else s

/-- A load or store of a host core, of `size` bytes (R97, R98, R100, R102, R321, R496). -/
def State.hostAccess (s : State) (dir : Dir) (addr : BitVec 48) (size : Nat) (value : Word) : Out :=
  let a := addr.toNat
  let bs := leBytes size value.toNat
  if s.phase ≠ .running then .next s
  else if blockBase ≤ a ∧ a + size ≤ blockBase + 0x20000000 then
    match dir with
    | .load => let (v, s) := s.loadReg (a - blockBase) size; .next (s.hostLoads v)
    | .store => (execRegisterWrite addr size value s).state s |> fun s => .next (s.hostLoads [])
  else
    match windowAt a with
    | some (kind, n, o) =>
      match dir with
      | .load => let (v, s) := s.loadWindow kind n o size; .next (s.hostLoads v)
      | .store => .next ((s.storeWindow kind n o bs).hostLoads [])
    | none =>
      if s.mappedAll a size = false then .next (s.hostFaults (s.unmappedAt a size) true)
      else
        match dir with
        | .load =>
          if (s.poisonedIn a size).isSome then .next (s.hostFaults a false)
          else .next ((s.countHbm a size).hostLoads (s.physRead a size))
        | .store => .next ((s.devWrite a bs).hostLoads [])

/-- HOST_CORE_ACCESS (R98): the words of HBM that it finds in error, and its access. -/
def execHostCoreAccess (dir : Dir) (addr : BitVec 48) (size : Nat) (value : Word) (found : List Found) (s : State) : Out :=
  (s.findErrors found).hostAccess dir addr size value

/-! ## PCIe devices (R96) -/

/-- An inbound request is an Unsupported Request: HST_FAULT_ADDR names its address. -/
def State.pcieFaults (s : State) (a : Nat) : State :=
  let s := (s.setFld HST_FAULT_ADDR_ADDR a).setFld HST_FAULT_ADDR_SOURCE 2
  { s with outs := { s.outs with pcieUnsupported := true, pcieData := [] } }

/-- An inbound request (R96 to R98): `target` is what the IOMMU makes of the address; none when it does not translate, which the
RISC-V IOMMU answers as unsupported. What a poisoned read delivers is not stated. -/
def State.pcieAccess (s : State) (dir : Dir) (target : Option (BitVec 48)) (size : Nat) (data : Bytes) : Out :=
  if s.phase ≠ .running then .next s
  else
    match target with
    | none => .next { s with outs := { s.outs with pcieUnsupported := true, pcieData := [] } }
    | some t =>
      let a := t.toNat
      let n := match dir with | .load => size | .store => data.length
      if s.mappedAll a n = false then .next (s.pcieFaults (s.unmappedAt a n))
      else
        match dir with
        | .load =>
          let poisoned := (s.poisonedIn a n).isSome
          .next { (s.countHbm a n) with
            fresh := if poisoned then s.fresh + 1 else s.fresh,
            outs := { s.outs with pcieUnsupported := false, pcieData := if poisoned then s.freeBytes n else s.physRead a n } }
        | .store => .next { (s.devWrite a data) with outs := { s.outs with pcieUnsupported := false, pcieData := [] } }

/-- PCIE_INBOUND_REQUEST (R96): the words of HBM that it finds in error, and its access. -/
def execPcieInboundRequest (dir : Dir) (target : Option (BitVec 48)) (size : Nat) (data : Bytes) (found : List Found) (s : State) : Out :=
  (s.findErrors found).pcieAccess dir target size data

end Sys2Proof.Machine
end

