-- ==== Sys2Proof/Machine/Memory.lean ====
section
/-!
DEFINITION. The scrubbers, the hotspot detectors and the shared arbiters (chapter 14).
-/
namespace Sys2Proof.Machine

/-! ## Scrubbing (R320 to R322) -/

/-- The words of a pseudo-channel. -/
def pcWords : Nat := pcBytes / 8

/-- A word of HBM kept at `k` was read with a corrected error by the scrubber (R320, R322). -/
def State.scrubFixed (s : State) (x k syndrome : Nat) : State := (s.addFld (HBM_ECC_SCRUB_FIXED x) 1).wordFixed x k syndrome

/-- HBM_SCRUB_READ (R322): the next word of stack `x`, and what the read found; scrubbing pauses while the stack is not ACTIVE. -/
def execHbmScrubRead (x : Fin 16) (ecc : Ecc) (syndrome : BitVec 15) (s : State) : Out :=
  if s.fld (HBM_STATUS_STATE x.val) ≠ 1 ∨ s.fld (HBM_SCRUB_ENABLE x.val) ≠ 1 then .next s
  else
    let w := (smapFind s.scrubAt x.val).getD 0
    let pc := 64 * x.val + w / pcWords
    let k := hbmBase + pc * pcBytes + w % pcWords * 8
    let last := decide (w + 1 = 64 * pcWords)
    let s := { s with scrubAt := smapPut (fun _ => some 0) s.scrubAt x.val (if last then 0 else w + 1),
                      hbmSeen := tally s.hbmSeen pc 1, hbmTick := tally s.hbmTick pc 1 }
    let s := if last then s.addFld (HBM_SCRUB_PASSES x.val) 1 else s
    match ecc with
    | .clean => .next s
    | .corrected => .next (s.scrubFixed x.val k syndrome.toNat)
    | .uncorrectable => .next (s.wordPoisoned x.val k syndrome.toNat)

/-! ## Hotspots (R317), at a boundary -/

/-- The busiest of a list of channels, the lowest on a tie. -/
def busiest (count : Nat → Nat) : List Nat → Nat
  | [] => 0
  | [p] => p
  | p :: ps => if count (busiest count ps) > count p then busiest count ps else p

/-- ACTIVE of the stacks of die `k` cleared. -/
def State.coolDie (s : State) (k : Nat) : State :=
  (List.range 4).foldl (fun s i => s.setFld (HBM_HOTSPOT_ACTIVE (4 * k + i)) 0) s

/-- The hotspot of die `k` becomes ACTIVE: registers of the stack it names, and event HOTSPOT. -/
def State.raiseHotspot (s : State) (k pc count imbalance : Nat) : State :=
  let x := pc / 64
  let s := (s.setFld (HBM_HOTSPOT_PC x) (pc % 64)).setFld (HBM_HOTSPOT_ACTIVE x) 1
  let s := (s.setFld (HBM_HOTSPOT_IMBALANCE x) (satTo 0xFFFF imbalance)).addFld (HBM_HOTSPOT_EVENTS x) 1
  s.event (0x3000 + pc) EV_HOTSPOT noDomain
    (leBytes 1 k ++ zeros 1 ++ leBytes 2 (satTo 0xFFFF imbalance) ++ leBytes 4 count ++ leBytes 8 s.tick)

/-- The detector of die `k` at the end of a tick. -/
def State.detectHotspot (s : State) (k : Nat) : State :=
  let pct := s.preField secMemory 16 1 0
  let ticks := s.preField secMemory 18 2 1
  let pcs := channelsOf (stacksOn k s.hbmStacks)
  let h := (smapFind s.hot k).getD {}
  if pct = 0 ∨ pcs = [] then { s with hot := smapDel s.hot k }.coolDie k
  else
    let count (p : Nat) := (smapFind s.hbmTick p).getD 0
    let top := busiest count pcs
    let total := (pcs.map count).sum
    let imbalance := 100 * (count top * pcs.length - total) / max 1 total
    let hit := decide (150 * s.fld CTL_TICK_CONFIG_PERIOD ≤ count top) && decide (pct < imbalance)
    let h := if hit then { h with above := h.above + 1, under := 0 } else { h with above := 0, under := h.under + 1 }
    let put (s : State) (h : HotRun) : State := { s with hot := smapPut (fun _ => some {}) s.hot k h }
    if !h.active && decide (ticks ≤ h.above) then (put s { h with active := true }).raiseHotspot k top (count top) imbalance
    else if h.active && decide (ticks ≤ h.under) then (put s { h with active := false }).coolDie k
    else put s { h with above := min ticks h.above, under := min ticks h.under }

/-- The detectors of all dies, and the counts of a new tick. -/
def State.hotspots (s : State) : State :=
  let s := (List.range 4).foldl State.detectHotspot s
  { s with hbmLast := s.hbmTick, hbmTick := [] }

/-! ## The shared arbiter (R323 to R327) -/

/-- An arbiter's key in the state. -/
def arbKey (a : ArbId) : Nat := (a.cls.val * 8 + a.die.val) * 65536 + a.index.val

def State.arb (s : State) (a : ArbId) : Arb := (smapFind s.arbs (arbKey a)).getD {}
def State.setArb (s : State) (a : ArbId) (x : Arb) : State := { s with arbs := smapPut (fun _ => some {}) s.arbs (arbKey a) x }

/-- The ARBITRATION entry of a class, in force. -/
def State.arbClass (s : State) (c : Nat) : Option Bytes := (s.entries secArbitration).find? (fun e => fieldAt e 0 1 == c)

/-- QUOTA of a class, 16 without an entry (Table STR-3). -/
def State.quota (s : State) (c : Nat) : Nat := ((s.arbClass c).map (fun e => fieldAt e 2 2)).getD 16

/-- The first member of an ascending tier after the last one granted from it. -/
def rrNext (last : Option Nat) (tier : List Nat) : Option Nat :=
  match last with
  | none => tier.head?
  | some r => (tier.find? (fun u => decide (r < u))).orElse (fun _ => tier.head?)

/-- WINDOW of a class, 256 clk without an entry (Table STR-3). -/
def State.window (s : State) (c : Nat) : Nat := ((s.arbClass c).map (fun e => fieldAt e 4 2)).getD 256

/-- A request as an arbiter sees it: the requester, its class, and whether the quota passes it by. -/
structure Req where
  unit : Nat
  high : Bool
  exempt : Bool
deriving DecidableEq, Repr

/-- The class of a request (R323, Table TIL-5): HIGH of the operation that made it, PRIORITY of the command (R122), high and exempt for a
Zwine control frame at link egress, low without such a source. -/
def State.arbRequest (s : State) (cls : Nat) (a : Ask) : Req :=
  match a.source with
  | .operation t i => ⟨a.unit, (s.op t.val i.val).any Op.high, false⟩
  | .collective d id step => ⟨a.unit, bitOf (fieldAt (s.coll d.val id step).post 2 1) 0, false⟩
  | .capture h => ⟨a.unit, (s.handle h).high, false⟩
  | .command h => ⟨a.unit, (s.cmd h).any Pending.priority, false⟩
  | .control => ⟨a.unit, cls == 3, cls == 3⟩
  | .other => ⟨a.unit, false, false⟩

/-- The grants a requester has used in the window. -/
def Arb.usedBy (x : Arb) (u : Nat) : Nat := (smapFind x.used u).getD 0

/-- The requesters of one tier, ascending. -/
def tierOf (p : Req → Bool) (asks : List Req) : List Nat := (asks.filter p).foldl (fun l a => insertAsc a.unit l) []

/-- A requester that asks and is not granted backs off (R324). -/
def Arb.lose (x : Arb) (u : Nat) : Arb :=
  let b := (smapFind x.backoff u).getD 0
  { x with backoff := smapIns x.backoff u (if b = 0 then 1 else min (2 * b) 64), waiting := insertAsc u x.waiting }

/-- Whom an arbiter grants (R324): a requester is masked once it has used QUOTA `q` of a window of `w` clk; a QUOTA at or above WINDOW
masks nobody. -/
def Arb.decide (x : Arb) (q w : Nat) (asks : List Req) : Option Nat × Arb :=
  let masked (a : Req) := !a.exempt && Nat.ble q (x.usedBy a.unit) && Nat.blt q w
  let free (g : Nat) : Bool := asks.any (fun a => a.unit == g && a.exempt)
  let t1 := tierOf (fun a => a.high && !(masked a)) asks
  let t2 := tierOf (fun a => !a.high) asks
  let t3 := tierOf (fun a => a.high && masked a) asks
  let parked := match x.owner with
    | some o => asks.any (·.unit == o) && asks.all (·.unit == o)
    | none => false
  let count (x : Arb) (g : Nat) : Arb :=
    if t1.contains g && !(free g) then { x with used := smapIns x.used g (x.usedBy g + 1) } else x
  if parked then (x.owner, match x.owner with | some g => count x g | none => x)
  else
    match rrNext x.last1 t1 with
    | some g => (some g, count { x with last1 := some g } g)
    | none =>
      match rrNext x.last2 t2 with
      | some g => (some g, { x with last2 := some g })
      | none =>
        match rrNext x.last3 t3 with
        | some g => (some g, { x with last3 := some g })
        | none => (none, x)

/-- The tile of a bank arbiter: the 32 banks of the tiles of its die follow one another (R144). -/
def bankTile (a : ArbId) : Nat := 96 * a.die.val + a.index.val / 32

/-- The clk for which the losers of a bank's decision wait now, counted for the tile, whichever the requester (R145). -/
def State.bankWaits (s : State) (a : ArbId) (waits : List Nat) : State :=
  if a.cls = 0 ∧ bankTile a < 384 then s.addFld (TIL_BANK_STALLS_STALLS (bankTile a)) waits.sum else s

/-- ARBITER_DECISION (R324, R325): among the requests present, those of requesters whose backoff has run out and that are not marked
faulted. -/
def execArbiterDecision (a : ArbId) (asks : List Ask) (s : State) : Out :=
  let x := s.arb a
  let live := (asks.filter (fun k => !(x.waiting.contains k.unit) && !(x.faulted.contains k.unit))).map (s.arbRequest a.cls.val)
  match x.decide (s.quota a.cls.val) (s.window a.cls.val) live with
  | (none, _) => .next s
  | (some g, x) =>
    let x := { x with owner := some g, granted := true, backoff := smapDel x.backoff g }
    let losers := tierOf (fun k => k.unit != g) live
    let x := losers.foldl Arb.lose x
    .next ((s.setArb a x).bankWaits a (losers.map (fun u => (smapFind x.backoff u).getD 0)))

/-- ARBITER_WINDOW_RESET (R324). -/
def execArbiterWindowReset (a : ArbId) (s : State) : Out := .next (s.setArb a { s.arb a with used := [] })

/-- ARBITER_BACKOFF_EXPIRY (R324). -/
def execArbiterBackoffExpiry (a : ArbId) (r : Nat) (s : State) : Out :=
  .next (s.setArb a { s.arb a with waiting := (s.arb a).waiting.filter (· != r) })

/-- Every window restarts at a boundary (R324). -/
def State.restartWindows (s : State) : State :=
  if s.arbs = [] then s else { s with arbs := (s.arbs.map (fun e => (e.1, { e.2 with used := [] }))).filter (fun e => e.2 != {}) }

/-- The counter of a class in `CTL_ARB_WATCHDOG`. -/
def watchdogFld (c : Nat) : Fld := ⟨CTL_ARB_WATCHDOG, 16 * c, 16⟩

end Sys2Proof.Machine
end

