-- ==== Sys2Proof/Machine/Seal.lean ====
section
/-!
DEFINITION. The seal of a batch table as a command (R340), in the first run of a step and in its replay.
-/
namespace Sys2Proof.Machine

/-- The sample of index `k` of a domain that is ready and listed by no table. -/
def State.readySample (s : State) (d k : Nat) : Option (Nat × Sample) :=
  s.intake.samples.find? (fun e => e.2.dom == d && e.2.index == k && e.2.listed == none && e.2.state == SampleState.ready)

/-- A sample listed for a step. -/
def State.listSample (s : State) (d step k : Nat) : State :=
  match s.readySample d k with
  | some (i, x) => s.setSample i { x with listed := some step }
  | none => s

/-- One position of an INTAKE record as it counts (Table SRV-3): dropped or deferred, replaced or short; a deferred sample joins the reserve
queue. -/
def State.replayNote (s : State) (d step : Nat) (note orig repl : Nat) : State :=
  let kind := bitsOf note 16 8
  let gone := kind == 2 || (kind == 3 && bitsOf note 24 16 != 0)
  let s := s.addFld (if gone then INT_COUNTS_DROPPED else INT_COUNTS_DEFERRED) 1
  let s := s.addFld (if kind = 3 then INT_COUNTS_SHORT else INT_COUNTS_REPLACED) 1
  match s.intake.samples.find? (fun e => e.2.dom == d && e.2.step == step && !e.2.reserve && e.2.index == orig && e.2.listed == none) with
  | some (i, x) => if gone ∨ kind = 3 ∧ repl = 0 then s else s.setSample i { x with deferred := true }
  | none => s

/-- The notes of an INTAKE record. -/
def State.replayNotes (s : State) (d step : Nat) (r : Bytes) : State :=
  (List.range (fieldAt r 16 4 / 3)).foldl (fun s i =>
    s.replayNote d step (fieldAt r (64 + 24 * i) 8) (fieldAt r (72 + 24 * i) 8) (fieldAt r (80 + 24 * i) 8)) s

/-- The seal of a replayed step (R340): the SEAL and INTAKE records of the original, not readiness, decide the table, and REPLAY is set
in it. -/
def State.replaySeal (s : State) (d step : Nat) (rs : List Bytes) : State :=
  match spooled rs 2 step with
  | none => s
  | some r =>
    let s := (List.range (fieldAt r 16 4)).foldl (fun s i => s.listSample d step (fieldAt r (64 + 8 * i) 8)) s
    let s := match spooled rs 3 step with
      | some r => s.replayNotes d step r
      | none => s
    (s.writeTable d step (fieldAt r 7 1 + 4) (s.listedFor d step)).endSeal d step

/-- The seal of step `step` of domain `d` made at boundary `n`, in its first run or in its replay (R340). -/
def State.makeSeal (s : State) (d step n : Nat) : State :=
  match s.replaying d step with
  | some rs => s.replaySeal d step rs
  | none => s.seal d step n

/-- The first step of a domain whose seal is due by boundary `n`: DEADLINE ticks after the boundary that opened it. -/
def State.sealDue (s : State) (d n : Nat) : Option Nat :=
  ((s.dom d).unsealed.find? (fun e => decide (e.2 + s.preField secIntake 2 2 0 ≤ n))).map (·.1)

/-- The seals of a domain due by boundary `n` that have not been made are made there, before new slots start; a seal due while the intake is
disabled is not made. -/
def State.makeSeals (s : State) (d n : Nat) : State :=
  ((s.dom d).unsealed.filter (fun e => decide (e.2 + s.preField secIntake 2 2 0 ≤ n))).foldl (fun s e =>
    if s.intakeOn then s.makeSeal d e.1 n
    else s.setDom d { s.dom d with unsealed := (s.dom d).unsealed.filter (fun f => f.1 != e.1) }) s

/-- INTAKE_SEAL (R340): the next boundary begins with the seal of domain `d` that is due there; TICK_BOUNDARY serves the rest of that
boundary, with the seals not made by then. -/
def execIntakeSeal (d : Fin 64) (s : State) : Out :=
  if s.intakeOn = false then .next s
  else
    match s.sealDue d.val (s.tick + 1) with
    | none => .next s
    | some n => .next ((s.runAligned (s.nextBoundary - s.now)).makeSeal d.val n (s.tick + 1))

end Sys2Proof.Machine
end

