-- ==== Sys2Proof/Machine/Watch.lean ====
section
/-!
DEFINITION. Tensor watch (R477, R478).
-/
namespace Sys2Proof.Machine

/-- The statistics of a reading as it goes: the least and greatest finite word, the FP64 sums, the counts and the CRC. -/
structure WatchAcc where
  lo : Option Nat := none
  hi : Option Nat := none
  sum : Nat := 0
  sumsq : Nat := 0
  nonfinite : Nat := 0
  zero : Nat := 0
  crc : Nat := 0
deriving DecidableEq, Repr

/-- One FP32 word of a bank taken into the statistics. -/
def WatchAcc.take (r : WatchAcc) (bs : Bytes) : WatchAcc :=
  let w := leNat bs
  let v := fp32.decode w
  let d := fp64.encode v
  let better (old : Option Nat) (p : Nat → Bool) : Option Nat :=
    if !v.isFin then old else match old with | some m => if p m then some w else old | none => some w
  { lo := better r.lo (fun m => v.lt (fp32.decode m)), hi := better r.hi (fun m => (fp32.decode m).lt v),
    sum := f64add r.sum d, sumsq := f64add r.sumsq (f64mul d d),
    nonfinite := if v.isFin then r.nonfinite else satTo 0xFFFFFFFF (r.nonfinite + 1),
    zero := if v.isZero then satTo 0xFFFFFFFF (r.zero + 1) else r.zero,
    crc := bs.foldl crc64Byte r.crc }

/-- `n` words from address `a`, in ascending order. -/
def State.watchWords (s : State) : Nat → Nat → WatchAcc → WatchAcc
  | _, 0, r => r
  | a, n + 1, r => s.watchWords (a + 4) n (r.take (s.bytesAt a 4))

/-- The 40 statistic bytes of a record: those that STATS selects, and free bytes elsewhere and for a MIN or MAX without a finite word. -/
def WatchAcc.bytes (r : WatchAcc) (stats salt : Nat) : Bytes :=
  let free (off n : Nat) : Bytes := (fromTo off n).map (Config.freeByte salt)
  let word4 (x : Option Nat) (off : Nat) : Bytes := match x with | some v => leBytes 4 v | none => free off 4
  (if bitOf stats 0 then word4 r.lo 0 ++ word4 r.hi 4 else free 0 8) ++ (if bitOf stats 1 then leBytes 8 r.sum else free 8 8) ++
    (if bitOf stats 2 then leBytes 8 r.sumsq else free 16 8) ++
    (if bitOf stats 3 then leBytes 4 r.nonfinite ++ leBytes 4 r.zero else free 24 8) ++ (if bitOf stats 4 then leBytes 8 r.crc else free 32 8)

/-- WATCH_READING_END (R477): the bank of the point's oldest reading has been read, and the point keeps the record. -/
def execWatchReadingEnd (point : Fin 256) (found : List Found) (s : State) : Out :=
  let s := s.findErrors found
  match s.readingsOf point.val with
  | [] => .next s
  | r :: rs =>
    let acc := s.watchWords r.base (r.len / 4) {}
    let bs := acc.bytes r.stats s.fresh
    let s := { s with fresh := s.fresh + 1, dbg := { s.dbg with readings := smapPut (fun _ => some []) s.dbg.readings point.val rs } }
    let s := s.countHbm r.base r.len
    .next (s.keepWatch point.val (s.watchRecord point.val r false bs))

/-- The readings that the opening of step `n` of domain `d` starts (R477): step n − 1 is a multiple of INTERVAL, and the bank holds the state
after it. -/
def State.startWatches (s : State) (d n : Nat) (replay : Bool) : State :=
  (s.entries secWatch).foldl (fun s e =>
    let interval := fieldAt e 8 4
    match (s.protects d).find? (fun r => r.tensor == fieldAt e 4 4) with
    | some r =>
      if fieldAt e 2 1 = 1 ∧ interval ≠ 0 ∧ 1 ≤ n ∧ (n - 1) % interval = 0 then
        let x : Reading := { step := n - 1, base := r.bankAt (n - 1), len := r.bank, tensor := r.tensor, stats := fieldAt e 3 1, dom := d, replay := replay }
        let point := fieldAt e 0 2
        { s with dbg := { s.dbg with readings := smapPut (fun _ => some []) s.dbg.readings point (s.readingsOf point ++ [x]) } }
      else s
    | none => s) s

/-- The eight or fewer records of a point, oldest first. -/
def State.watched (s : State) (point : Nat) : List Bytes := (smapFind s.dbg.points point).getD []

/-- WATCH READ (R478): the records of a point, oldest first, written to the output address; RESULT counts them. -/
def execWatchRead (h : Word) (s : State) : Out :=
  match s.ready h 6 1 with
  | none => .next s
  | some p =>
    let s := s.begin p
    let rs := s.watched (fieldAt p.entry 16 1)
    let a := fieldAt p.entry 24 8
    if s.mappedAll a (64 * rs.length) then .next ((s.devWrite a rs.flatten).finishOk h rs.length)
    else .next ((s.engineFault a (64 * rs.length)).finishWith h ST_ADDRESS_UNMAPPED)

/-- WATCH CLEAR (R478): the point is empty. -/
def execWatchClear (h : Word) (s : State) : Out :=
  match s.ready h 6 2 with
  | none => .next s
  | some p =>
    let s := s.begin p
    .next ({ s with dbg := { s.dbg with points := smapDel s.dbg.points (fieldAt p.entry 16 1) } }.finishWith h ST_OK)

end Sys2Proof.Machine
end

