-- ==== Sys2Proof/Machine/Boundary.lean ====
section
/-!
DEFINITION. The tick boundary (R74 to R89): time reaches the boundary, and the boundary actions run in the order of Table TCK-2.
-/
namespace Sys2Proof.Machine

/-! ## Time at a boundary (R74, R85, R87, R89) -/

/-- Local time moves on until aligned time, slewed on the way, is that of the next boundary; a boundary already past is served at once, and
time does not move for it. -/
def State.reachBoundary (s : State) : State :=
  { (s.runAligned (s.nextBoundary - s.now)) with lastBoundary := s.nextBoundary }

/-- The next boundary lies on the grid of the period in force (R89). -/
def State.planBoundary (s : State) : State :=
  let p := s.periodNs
  { s with nextBoundary := roundUp p (s.lastBoundary + p) }

/-- A boundary is counted (R74, R471), and what runs from boundary to boundary starts again. -/
def State.countBoundary (s : State) : State :=
  let s := s.hotspots.restartWindows
  let n := s.tick + 1
  let s := ({ s with onceTick := [] }.setReg CTL_TICK_COUNT (word n)).count 64 0 1
  let s := { s with counts := s.domIds.foldl (fun m d => tally m (d * 16) 1) s.counts }
  s.trace 0x8000 5 noDomain 0 (leBytes 8 n)

/-! ## Step 1: the overrun check -/

/-- Whether a core of a domain is halted: its overrun check is suspended (R475). -/
def State.coreHalted (s : State) (d : Nat) : Bool := (s.workers d).any (fun t => (s.tile t).run == .halted)

/-- Whether a domain's open slot is finished at this boundary. -/
def State.finishes (s : State) (d : Nat) : Bool :=
  let x := s.dom d
  x.slotOpen && x.recovering.isEmpty && !x.replayDue && s.domState d != 3 && !(s.coreHalted d) && (s.unfinished d).isEmpty

/-- The overrun check of a domain, and the end of its LAUNCH and its STOPs when no slot of it runs. -/
def State.checkSlot (s : State) (d : Nat) : State :=
  let done := s.finishes d
  let s := if s.coreHalted d then s else s.checkDomain d
  let s := if done then s.count d 1 1 else s
  if (s.dom d).slotOpen then s else (s.stopAtBoundary d).answerStops d

/-! ## Step 2: finished slots, and the opening of a step -/

/-- What a finished slot leaves (R222, R294, R387): its tap tables are merged, its handles committed, the update of the step completes
when it was the last of its FINAL slots, and what the step has written is mirrored (R394). -/
def State.closeSlot (s : State) (d : Nat) : State :=
  let open' (s : State) : Bool := (s.dom d).update.any (fun u => u.handle != 0#64)
  let s := (s.mergeTaps d).stashFinish d
  let before := open' s
  let s := s.completeUpdate d
  if before && !(open' s) then s.mirrorStep d else s.mirrorSlot d

/-- STEP_END of the step just ended (Table SRV-3), in the spool. -/
def State.spoolEnd (s : State) (d : Nat) : State :=
  let x := s.dom d
  let out := x.update.elim 0 Update.result
  s.spool d 7 0 (leBytes 8 x.last.loss ++ leBytes 1 (s.fld (CTL_DOM_NONFINITE_LAST_NF d)) ++ zeros 1 ++ leBytes 2 out) []

/-- The blocks written for step after step move on by one step (R394). -/
def State.rotateDirty (s : State) (d : Nat) : State :=
  { s with survival := { s.survival with regions := s.survival.regions.map (fun (r : Protect) =>
      if r.dom = d then { r with dirty := [] :: r.dirty.take 2, sent := [] } else r) } }

/-- The step just ended is left behind: its losses are checked in a replay (R407), its samples and update go, and a clean boundary is kept in
mind (R392, R406). An UPDATE still waiting for its FINAL slots ends with the outcome it has. -/
def State.leaveStep (s : State) (d : Nat) : State :=
  let x := s.dom d
  let s := if x.stepOpen then (s.spoolEnd d).checkLoss d x.step else s
  let s := match x.update with
    | some u => if u.handle = 0#64 then s else s.finishWith u.handle u.result
    | none => s
  let s := ((s.freeListed d).resetRegs [CTL_UPD_STATUS d]).rotateDirty d
  let clean := if s.clean d then [x.step] else []
  s.setDom d { s.dom d with launchedColls := [], update := none, finals := [], cleanSteps := clean ++ (s.dom d).cleanSteps.take 3 }

/-- Whether the step to be opened is the first that a RESTORE replays: its banks stand as restored. -/
def Dom.restored (x : Dom) (n : Nat) : Bool := x.restore.any (fun r => r.loaded && n == r.step + 1)

/-- Step `n` of domain `d` opens (R223, R392, R397, R477), and its BEGIN completes with the tick. -/
def State.openStep (s : State) (d : Nat) (h : Word) (n : Nat) : State :=
  let x := s.dom d
  let replay := (s.replaying d x.step).isSome
  let s := if x.restored n then s else s.rollBanks d
  let s := s.setDom d { s.dom d with stepsOpened := x.stepsOpened + 1 }
  let s := if x.stepsOpened = 0 then s else s.chooseMethods d
  let s := s.leaveStep d
  let s := s.setDom d { s.dom d with step := n, stepOpen := true, stepTick := s.tick, unsealed := (s.dom d).unsealed ++ [(n, s.tick)], beginBy := x.beginBy.drop 1 }
  let s := s.finishOk h s.tick
  (s.startSnapshot d n replay).startWatches d n replay

/-- The BEGIN at the front of a domain opens its step when the domain starts a new slot and, in a replay, its samples are ready (Table
CMD-6, R340). -/
def State.beginStep (s : State) (d : Nat) : State :=
  let x := s.dom d
  match x.beginBy with
  | (h, n) :: _ =>
    if s.starts d && !x.replayDue && x.resumeBy.isNone && s.replayReady d n then s.openStep d h n else s
  | [] => s

/-! ## Step 3: the effect of a COMMIT -/

/-- What counts from commit starts again (R208, R252, R287, R316, R343, R471, R478, and the registers of Tables TRN-6 and OPT-4). -/
def State.clearCounts (s : State) : State :=
  let s := (List.range 384).foldl (fun s t =>
    ((((s.resetRegRange (ARR_CNT_ROWS t 0) 0x60).resetRegRange (VEC_CNT_BEATS t) 0x18).resetRegRange (KVW_CNT_FETCH t) 0x18).resetRegs
      [TIL_TAP_STATUS t])) s
  let s := (List.range 64).foldl (fun s d => s.resetRegs
    [CTL_UPD_STATUS d, CTL_UPD_COUNTS d,
     CTL_SRV_DOM_SNAP d, CTL_SRV_DOM_MIRROR d, CTL_SRV_DOM_COUNTS d]) s
  let s := (List.range 16).foldl (fun s e => s.setFld (INT_ENGINE_SAMPLES e) 0) (s.resetRegs [INT_COUNTS])
  let s := s.resetRegRange (DBG_GCNT 0 0) (64 * 0x80)
  { s with tiles := s.tiles.map (fun e => (e.1, { e.2 with fullStalls := 0 })), hbmSeen := [], counts := s.counts.filter (fun e => decide (64 * 16 ≤ e.1)), dbg := { s.dbg with points := [], readings := [] },
           colls := [], tails := [], tailNotes := [] }

/-- The survival engine at commit (R393, R401, R405): an empty spool ring; without a partner, the search for one is to begin. -/
def State.freshSurvival (s : State) : State :=
  let s := { s with spoolRing := [], survival := { s.survival with regions := [], area := [], lastStart := s.now, unsent := [] } }
  let s := if s.survival.partner.isNone then s.setReg CTL_SRV_PARTNER 0#64 else s
  ((s.setFld CTL_SRV_SPOOL_PTR_HEAD 0).setFld CTL_SRV_SPOOL_PTR_TAIL 0).setFld CTL_SRV_SPOOL_GAP 0

/-- The protected regions of a new image, and its partner. -/
def State.protectImage (s : State) : State :=
  ({ s with survival := { s.survival with regions := s.weightRegions } }).recommitPartner

/-- Step 3: a prepared COMMIT takes effect at the boundary that opens tick `n` (R69, R300, R436); one that waits for quiescence has a
boundary less to wait. -/
def State.commitTurn (s : State) (n : Nat) : State :=
  match s.commit with
  | none => s
  | some c =>
    if c.phase = 2 then
      let s := ((s.clearCounts.freshSurvival.commitEffect n).stashOpen).protectImage
      ((List.range 4).foldl State.showTails s).scaleEnvelopes
    else if c.phase = 0 then { s with commit := some { c with wait := c.wait - 1 } }
    else s

/-! ## Steps 4 to 9 -/

/-- The domains that start a slot at this boundary. -/
def State.starting (s : State) : List Nat := s.domIds.filter s.starts

/-- Step 4: tick shadows (R58), RWT registers, the latch of STEP UPDATEs (R377), and the changes of a replayed step (R407). -/
def State.shadowTurn (s : State) (ds : List Nat) : State :=
  let s := (s.applyShadows ds).reviewEnvelopes s.scaled
  let s := s.regShadows.foldl (fun s e => s.setReg e.1 e.2) { s with regShadows := [] }
  let s := s.domIds.foldl State.latchUpdates s
  s.domIds.foldl State.replayChanges s

/-- Step 6: the posts of the domains that start are launched, and quorums are looked for (R357, R361). -/
def State.collTurn (s : State) (ds : List Nat) : State := (ds.foldl State.launchPosts s).collTick

/-- The number of the slot that a domain is about to start. -/
def State.comingSlot (s : State) (d : Nat) : Nat :=
  let x := s.dom d
  if x.replayDue || x.resumeBy.isSome then s.slot d else if x.fresh then 0 else s.slot d + 1

/-- The ticks for which a front part holds a domain (R398): its next slot starts no sooner than the next boundary, fault or none. -/
def State.holdTurn (s : State) (d : Nat) : State :=
  if (s.dom d).snap.any (·.holding) then
    (s.addFld (CTL_SRV_DOM_COUNTS_HOLD_TICKS d) 1).setDom d { s.dom d with recoverDue := max (s.dom d).recoverDue (s.tick + 1) }
  else s

/-- Steps 1 to 3. -/
def State.firstTurns (s : State) : State :=
  let done := s.domIds.filter s.finishes
  let s := s.domIds.foldl State.checkSlot s
  let s := done.foldl State.closeSlot s
  let s := s.domIds.foldl State.beginStep s
  s.commitTurn s.tick

/-- Steps 4 to 9, for the domains `ds` that start a slot; the seals due are made before step 9 (R340). -/
def State.laterTurns (s : State) (ds : List Nat) : State :=
  let s := ((s.shadowTurn ds).stepBoundary s.lastBoundary).collTurn ds
  let s := s.reclaim s.tick
  let s := ds.foldl (fun s d => s.stashMoves d (s.comingSlot d)) s
  let s := s.domIds.foldl (fun s d => s.makeSeals d s.tick) s
  ds.foldl State.enterDomain (s.domIds.foldl State.holdTurn s)

/-- The tick master runs from cold reset on (R74). -/
def State.ticking (s : State) : Bool := s.phase != .off && s.phase != .coldReset

/-- The boundary's actions (Table TCK-2). -/
def State.serveBoundary (s : State) : State :=
  let s := s.reachBoundary.countBoundary.firstTurns
  ((s.laterTurns s.starting).healthTick.estimatePower).planBoundary

/-- TICK_BOUNDARY (R83): the next boundary, and its actions in the order of Table TCK-2; then the health monitor (R403) and the power
estimates of the tick (R436). `control` names the unit of class 8 whose state is uncorrectable, or the agent that stopped carrying
ticks, if the tick finds one: CONTROL_FAULT, of class FATAL (Table ERR-2). `sram` is what the link dies found in buffer SRAM, sending new
frames since the last boundary (R356); `found` what the boundary's own reads find (R320). -/
def execTickBoundary (control : Option (Fin 64)) (sram : List (Fin 4 × Found)) (found : List Found) (s : State) : Out :=
  if s.ticking = false then .next s
  else
    let s := (sram.foldl (fun s x => s.sramRead x.1.val x.2) s).findErrors found
    match control with
    | none => .next s.serveBoundary
    | some u => .next (s.fault (0x8000 + u.val) 3 { code := ST_CONTROL_FAULT }).serveBoundary

end Sys2Proof.Machine
end

