-- ==== Sys2Proof/Machine/Cut.lean ====
section
/-!
DEFINITION. What becomes of transfers cut short: a revoked grant (R327), and the loss of the host link (R108).
-/
namespace Sys2Proof.Machine

/-- The destinations of one handle's capture or move. -/
def State.cutHandle (s : State) (x : Handle) : State :=
  match x.state, x.move with
  | 1, _ => (s.dropLines x.pAddr (16 * x.pStored)).dropLines x.dAddr (16 * x.dStored)
  | _, some m =>
    let s' := s.landBytes m.pAddr (s.movedPart x 0 m.pCoded).1
    if x.dual then s'.landBytes m.dAddr (s.movedPart x 1 m.dCoded).1 else s'
  | _, none => s

/-- The destination of a MOVE in progress. -/
def State.cutMove (s : State) (p : Pending) : State :=
  if p.op = 2 then s.landBytes p.src (fillBytes (fieldAt p.entry 24 8) p.len)
  else if p.codec = 1 ∨ p.codec = 3 then
    s.landBytes p.dst (encodePart (s.typeOf p.format) (if p.codec = 1 then 1 else 2) (s.physRead p.src p.len)
      (if p.codec = 3 then s.physRead p.base p.len else [])).1
  else if p.codec = 0 then s.landBytes p.dst (s.physRead p.src p.len)
  else s.dropLines p.dst p.len

/-- The results of a collective of which every block is there. -/
def State.cutColl (s : State) (c : Coll) : State :=
  match c.verdict.bind c.outcome with
  | some blocks => blocks.foldl (fun s b => s.landBytes (postDst c.post + b.1 * collSize (postOut c.post)) b.2) s
  | none => s

/-- The pages that the page engine moves. -/
def State.cutPages (s : State) : State :=
  s.kvp.moves.foldl (fun s m => m.pages.foldl (fun s x =>
    s.landBytes (frameAddr x.2.2.1) (s.bytesAt (frameAddr x.2.1) (s.pageBytes m.pool))) s) s

/-- Every transfer that a device engine has in flight, as the host link is lost: each 64-byte line is applied or not, as a whole (R108). -/
def State.cutAll (s : State) : State :=
  let s := s.tiles.foldl (fun s e => s.landRows e.1) s
  let s := (s.stash.handles.foldl (fun s e => s.cutHandle e.2) s).cutPages
  let s := (s.cmds.filter (fun p => p.cls == 2 && p.started && p.done.isNone)).foldl State.cutMove s
  (s.colls.filter (fun c => c.launched.isSome && !c.ended)).foldl State.cutColl s

/-- The transfers of unit `u` that its revoked grant ends: beats already taken are kept, line by line, and the rest are dropped
(R327). The transfers of a tile's units end as the tile is reset. -/
def State.cutGrants (s : State) (u : Nat) : State :=
  if u / 4096 = 0xC then
    (s.stash.handles.filter (fun e => stashUnit e.2.die == u)).foldl (fun s e => s.cutHandle e.2) s
  else if u = 0xD0FF then s.cutPages
  else
    let s := (s.cmds.filter (fun p => p.cls == 2 && p.started && p.done.isNone && s.movePort p == u)).foldl State.cutMove s
    (s.colls.filter (fun c => c.launched.isSome && !c.ended && c.unit == u)).foldl State.cutColl s

/-- ARBITER_WATCHDOG_EXPIRY (R327): a grant whose transfer has not ended is revoked and its requester marked faulted, with a CONTAINED
record and event ARB_REVOKED; a unit that is part of a tile is a tile fault (Table ERR-2). -/
def execArbiterWatchdogExpiry (a : ArbId) (s : State) : Out :=
  let x := s.arb a
  match x.owner with
  | none => .next s
  | some u =>
    if x.granted = false then .next s
    else
      let t := tileOfUnit u
      let d := (t.bind s.domOf).getD noDomain
      let s := s.setArb a { x with owner := none, granted := false, faulted := insertAsc u x.faulted }
      let s := (s.addFld (watchdogFld a.cls.val) 1).event u EV_ARB_REVOKED d
        (leBytes 1 a.cls.val ++ leBytes 1 a.die.val ++ leBytes 2 a.index.val ++ zeros 4 ++ leBytes 8 s.tick)
      match t with
      | some t => .next (s.unitFault u t { code := ST_GRANT_REVOKED })
      | none =>
        let up := s.escalated u 2
        let s := (s.cutGrants u).fault u 2 { code := ST_GRANT_REVOKED }
        .next (if up = 2 then s.contain u else s)

/-- The host-die port of compute die `k` down for more than 1 ms (R49, R50, R108): LOST, and a device reset without records;
during Ascent also a failed start. In a Halted that only a cold reset ends the dies reset likewise, and the module stays there. -/
def execHostLinkLoss (k : Fin 4) (s : State) : Out :=
  if s.phase = .running ∧ bitOf (s.fld HST_LINK_STATUS_UP) k.val = true then
    let s := s.cutAll.setFld HST_LINK_STATUS_LOST (withBit (s.fld HST_LINK_STATUS_LOST) k.val)
    if s.mode = 0xF ∧ s.haltCold = true then .next (s.resetHalted 8)
    else
      match s.ascent with
      | some a => .next (s.ascentFails (a.cut s.localNs) 0 true)
      | none => .next (s.deviceReset 8 false false).autoAscent
  else .next s

end Sys2Proof.Machine
end

