-- ==== Sys2Proof/Machine/Facility.lean ====
section
/-!
DEFINITION. Cooling and the facility port: its Modbus server on the field side, and the messages across the isolation die (R444 to
R450).
-/
namespace Sys2Proof.Machine

/-! ## The field side (R447, R448) -/

/-- Whether a holding register takes a value (Table PWR-4). -/
def holdingTakes (a v : Nat) : Bool := if a = 3 then decide (v ≤ 3) else if a = 6 then decide (v ≤ 2) else true

/-- The message that forwards holding register `a` (Tables PWR-3, PWR-4). -/
def holdingMessage (h : List Nat) (a : Nat) : Nat × Nat :=
  let at_ := fun i => h.getD i 0
  if a = 4 ∨ a = 5 then (5, at_ 4 * 65536 + at_ 5)
  else if a = 6 then (6, at_ 6)
  else if a = 7 ∨ a = 8 then (7, at_ 7 * 65536 + at_ 8)
  else if a < 4 then (a + 1, at_ a)
  else (a - 1, at_ a)

/-- The input registers (Table PWR-4). -/
def Facility.input (f : Facility) (a : Nat) : Nat :=
  if a = 11 then f.supply / 100 else if a = 12 then satTo 0xFFFF f.errors else f.relayed.getD a 0

/-- A 16-bit value, high byte first. -/
def hiLo (v : Nat) : Bytes := [byte (v / 256), byte v]

/-- The server's address (R447). -/
def serverAddress (pins : BitVec 3) : Nat := 0x10 + pins.toNat

/-- A reply on the bus: server address, function and data. -/
def State.modbusReply (s : State) (pins : BitVec 3) (fn : Nat) (data : Bytes) : State :=
  { s with outs := { s.outs with modbus := [byte (serverAddress pins), byte fn] ++ data } }

/-- An exception reply (R447). -/
def State.modbusRefuse (s : State) (pins : BitVec 3) (fn code : Nat) : State := s.modbusReply pins (128 + fn) [byte code]

/-- A read of `count` registers of a map of `size`. -/
def State.modbusRead (s : State) (unit : BitVec 8) (pins : BitVec 3) (fn addr count size : Nat) (get : Nat → Nat) : State :=
  if unit.toNat ≠ serverAddress pins then s
  else if count < 1 ∨ 125 < count then s.modbusRefuse pins fn 3
  else if size < addr + count then s.modbusRefuse pins fn 2
  else s.modbusReply pins fn (byte (2 * count) :: ((fromTo addr count).map (fun a => hiLo (get a))).flatten)

/-- A frame of a function that the server does not have is refused with exception 0x01 (R447). -/
def State.modbusOther (s : State) (unit : BitVec 8) (pins : BitVec 3) (fn : Nat) : State :=
  if [3, 4, 6, 16].contains fn || unit.toNat != serverAddress pins then s else s.modbusRefuse pins fn 1

/-- MODBUS_READ_HOLDING_REGISTERS (function 0x03); with `other`, a frame that carries that function code in its place. -/
def execModbusReadHoldingRegisters (unit : BitVec 8) (pins : BitVec 3) (other : Option (BitVec 8)) (addr count : BitVec 16) (s : State) : Out :=
  match other with
  | none => .next (s.modbusRead unit pins 3 addr.toNat count.toNat 11 (fun a => s.facility.holding.getD a 0))
  | some fn => .next (s.modbusOther unit pins fn.toNat)

/-- MODBUS_READ_INPUT_REGISTERS (function 0x04). -/
def execModbusReadInputRegisters (unit : BitVec 8) (pins : BitVec 3) (addr count : BitVec 16) (s : State) : Out :=
  .next (s.modbusRead unit pins 4 addr.toNat count.toNat 13 s.facility.input)

/-- A write of holding registers from `addr` (R447, R448): nothing is written when an address or a value is refused; otherwise the field
side forwards what was written. A broadcast has no reply. -/
def State.modbusWrite (s : State) (unit : BitVec 8) (pins : BitVec 3) (fn addr : Nat) (vals : List Nat) (reply : Bytes) : State :=
  let mine := unit.toNat == serverAddress pins
  if !mine && unit != 0#8 then s
  else
    let ix := List.range vals.length
    if 11 < addr + vals.length then (if mine then s.modbusRefuse pins fn 2 else s)
    else if ix.any (fun i => !(holdingTakes (addr + i) (vals.getD i 0))) then (if mine then s.modbusRefuse pins fn 3 else s)
    else
      let h := ix.foldl (fun h i => h.set (addr + i) (vals.getD i 0)) s.facility.holding
      let s := { s with facility := { s.facility with holding := h, inward := ix.map (fun i => holdingMessage h (addr + i)) } }
      if mine then s.modbusReply pins fn reply else s

/-- MODBUS_WRITE_SINGLE_REGISTER (function 0x06). -/
def execModbusWriteSingleRegister (unit : BitVec 8) (pins : BitVec 3) (addr value : BitVec 16) (s : State) : Out :=
  .next (s.modbusWrite unit pins 6 addr.toNat [value.toNat] (hiLo addr.toNat ++ hiLo value.toNat))

/-- MODBUS_WRITE_MULTIPLE_REGISTERS (function 0x10): 1 to 123 registers. -/
def execModbusWriteMultipleRegisters (unit : BitVec 8) (pins : BitVec 3) (addr : BitVec 16) (values : List (BitVec 16)) (s : State) : Out :=
  if values = [] ∨ 123 < values.length then
    .next (if unit.toNat = serverAddress pins then s.modbusRefuse pins 16 3 else s)
  else .next (s.modbusWrite unit pins 16 addr.toNat (values.map (·.toNat)) (hiLo addr.toNat ++ hiLo values.length))

/-- What FIELD_STATUS carries (Table PWR-3): field supply (mV), frame errors, and the field side's maximum minor with its major. -/
def Facility.status (f : Facility) : Nat := f.supply + 2 ^ 16 * satTo 0xFFFF f.errors + 2 ^ 32 * f.minor + 2 ^ 40 * f.major

/-- FIELD_REPEAT_PERIOD (R448): once per second the field side repeats every inbound value. -/
def execFieldRepeatPeriod (s : State) : Out :=
  .next { s with facility := { s.facility with
    inward := [0, 1, 2, 3, 4, 6, 7, 9, 10].map (holdingMessage s.facility.holding) ++ [(10, s.facility.status)] } }

/-- FIELD_VALUE_TIMEOUT (R448): without a frame from the module the field side clears the relayed values. -/
def execFieldValueTimeout (s : State) : Out :=
  .next { s with facility := { s.facility with relayed := List.replicate 11 0 } }

/-! ## Messages into the module (R448 to R450) -/

/-- A frame from the field side: the state after its checks, and whether its content takes effect (R448, R449): one that fails its check
is counted in CHECK_ERR and REFUSED, one of a type outside Table PWR-3 in REFUSED; the others are counted in FRAMES. -/
def State.takeField (s : State) (type : Nat) (f : FieldFrame) : State × Bool :=
  if s.phase ≠ .running then (s, false)
  else if f.ok = false then ((s.addFld FAC_COUNTS_CHECK_ERR 1).addFld FAC_COUNTS_REFUSED 1, false)
  else if f.kind.toNat < 1 ∨ 16 < f.kind.toNat then (s.addFld FAC_COUNTS_REFUSED 1, false)
  else if f.kind.toNat ≠ type then (s, false)
  else ((s.addFld FAC_COUNTS_FRAMES 1).setFld FAC_STATUS_LINK_UP 1, true)

/-- As `takeField`, for the values that STALE makes unknown (R450); a field side with another major is not served (R449). -/
def State.takeValue (s : State) (type : Nat) (f : FieldFrame) : State × Bool :=
  match s.takeField type f with
  | (s, ok) => (s, ok && s.fld FAC_STATUS_STALE == 0 && s.fld FAC_STATUS_MINOR != 0xFF)

/-- Whether the coolant is out of range (R445): a known inlet outside 15–40 °C, or a known flow below 90 % of rated flow. -/
def State.coolantBad (s : State) : Bool :=
  let inlet := s.fld FAC_COOLANT_INLET
  let flow := s.fld FAC_COOLANT_FLOW
  (inlet != 0x8000 && (decide (signedOf 16 inlet < 1500) || decide (4000 < signedOf 16 inlet))) ||
    (flow != 0xFFFF && decide (flow * 10 < s.part.ratedFlow * 9))

/-- The coolant judged again, with COOLANT_RANGE once per episode (R445). -/
def State.judgeCoolant (s : State) : State :=
  let bad := s.coolantBad
  let was := s.facility.outOfRange
  let s := { s with facility := { s.facility with outOfRange := bad } }
  if bad && !was then
    s.event 0xB000 EV_COOLANT_RANGE noDomain (leBytes 2 (s.fld FAC_COOLANT_INLET) ++ leBytes 2 (s.fld FAC_COOLANT_FLOW))
  else s

/-- INLET_TEMP (R445). -/
def execInletTemp (f : FieldFrame) (s : State) : Out :=
  match s.takeValue 1 f with
  | (s, ok) => .next (if ok then (s.setFld FAC_COOLANT_INLET f.value.toNat).judgeCoolant else s)

/-- FLOW (R445). -/
def execFlow (f : FieldFrame) (s : State) : Out :=
  match s.takeValue 2 f with
  | (s, ok) => .next (if ok then (s.setFld FAC_COOLANT_FLOW f.value.toNat).judgeCoolant else s)

/-- PRESSURE (R448). -/
def execPressure (f : FieldFrame) (s : State) : Out :=
  match s.takeValue 3 f with
  | (s, ok) => .next (if ok then s.setFld FAC_COOLANT_PRESSURE f.value.toNat else s)

/-- LEAK (R446): a leak alarm raises event LEAK and LEAK_ACTION follows; LEAK 0 ends the hold of SLOW. -/
def execLeak (f : FieldFrame) (s : State) : Out :=
  match s.takeField 4 f with
  | (s, false) => .next s
  | (s, true) =>
    if s.fld FAC_STATUS_MINOR = 0xFF then .next s
    else
      let v := f.value.toNat % 4
      let was := bitOf (s.fld FAC_COOLANT_LEAK) 0
      let s := s.setFld FAC_COOLANT_LEAK v
      let s := if v = 0 then { s with facility := { s.facility with leakHold := false } } else s
      if bitOf v 0 && !was then
        let action := s.foundation.leakAction
        let s := s.event 0xB000 EV_LEAK noDomain (leBytes 1 v ++ leBytes 1 action)
        if action = 1 then .next { s with facility := { s.facility with leakHold := true } }
        else if action = 2 then
          let s := (s.resetByRequest 4 false).setRails 0
          .next { s with outs := { s.outs with pwrOffReqN := false } }
        else .next s
      else .next s

/-- FEED_ID (R450). -/
def execFeedId (f : FieldFrame) (s : State) : Out :=
  match s.takeValue 5 f with
  | (s, ok) => .next (if ok then s.setFld FAC_FEED_FEED_ID f.value.toNat else s)

/-- FEED_STATE (R450): entry to 1 or 2 raises FEED_ON_BATTERY and feeds the BATTERY input. -/
def execFeedState (f : FieldFrame) (s : State) : Out :=
  match s.takeValue 6 f with
  | (s, false) => .next s
  | (s, true) =>
    let v := f.value.toNat
    let was := s.fld FAC_STATE_FEED_STATE
    let s := s.setFld FAC_STATE_FEED_STATE v
    .next (if v ≠ was ∧ (v = 1 ∨ v = 2) then
        (s.event 0xB000 EV_FEED_ON_BATTERY noDomain (leBytes 1 v)).addRisk riskBattery
      else s)

/-- LOOP_ID (R450). -/
def execLoopId (f : FieldFrame) (s : State) : Out :=
  match s.takeValue 7 f with
  | (s, ok) => .next (if ok then s.setFld FAC_FEED_LOOP_ID f.value.toNat else s)

/-- SHED (R450): a new W > 0 lowers the effective cap with event SHED, and 0 ends the shed; a repeated value changes nothing. -/
def execShed (f : FieldFrame) (s : State) : Out :=
  match s.takeField 8 f with
  | (s, false) => .next s
  | (s, true) =>
    let v := f.value.toNat % 65536
    if s.fld FAC_STATUS_MINOR = 0xFF ∨ v = s.facility.shedSeen then .next s
    else
      let w := if v = 0 then 0 else max 1000 v
      let s := ({ s with facility := { s.facility with shedSeen := v } }).setFld FAC_STATE_SHED_W w
      if w = 0 then .next s.scaleEnvelopes
      else .next (s.event 0xB000 EV_SHED noDomain (leBytes 2 w ++ leBytes 2 s.effectiveCap)).scaleEnvelopes

/-- FACILITY_HEARTBEAT (R450): a change ends STALE; the repeated values follow. -/
def execFacilityHeartbeat (f : FieldFrame) (s : State) : Out :=
  match s.takeField 9 f with
  | (s, false) => .next s
  | (s, true) =>
    if f.value.toNat = s.facility.beat then .next s
    else .next (({ s with facility := { s.facility with beat := f.value.toNat } }).setFld FAC_STATUS_STALE 0)

/-- FIELD_STATUS (R449): the field supply (mV, the frame's content) and its frame errors; the minor is the highest common one of major 1, or
none. -/
def execFieldStatus (f : FieldFrame) (errors : BitVec 16) (major minor : BitVec 8) (s : State) : Out :=
  match s.takeField 10 f with
  | (s, false) => .next s
  | (s, true) =>
    let s := { s with facility := { s.facility with supply := f.value.toNat % 65536, errors := errors.toNat, major := major.toNat, minor := minor.toNat } }
    let s := s.setFld FAC_STATUS_FIELD_SUPPLY f.value.toNat
    .next (s.setFld FAC_STATUS_MINOR (if major.toNat = 1 then min 2 minor.toNat else 0xFF))

/-- FACILITY_STALE_TIMEOUT (R450): an unchanged heartbeat for FAC_TIMEOUT makes every inbound value but SHED and LEAK unknown. -/
def execFacilityStaleTimeout (s : State) : Out :=
  if s.phase ≠ .running ∨ s.fld FAC_STATUS_STALE = 1 then .next s
  else
    let s := (s.setFld FAC_STATUS_STALE 1).setFld FAC_COOLANT_INLET 0x8000
    let s := (s.setFld FAC_COOLANT_FLOW 0xFFFF).setFld FAC_COOLANT_PRESSURE 0xFFFF
    let s := (s.setReg FAC_FEED 0#64).setFld FAC_STATE_FEED_STATE 0
    .next (s.judgeCoolant.event 0xB000 EV_FACILITY_STALE noDomain [])

/-! ## Messages out of the module (R448) -/

/-- FACILITY_OUTBOUND_PERIOD (R448), every 100 ms: the six outbound messages, relayed to the input registers; all zero for a field side of
another major (R449). -/
def execFacilityOutboundPeriod (s : State) : Out :=
  if s.phase ≠ .running then .next s
  else
    let id := ownModuleId
    let state := 1 + 16 * s.mode + 256 * s.fld PWR_STATUS_FSTEP
    let version := 256 + s.fld FAC_STATUS_MINOR
    let p1 := s.fld PWR_POWER_P_1S
    let pw := s.fld PWR_POWER_P_WINDOW
    let out := s.fld PWR_THERMAL_OUTLET
    let relayed := [version, state, p1, pw, s.effectiveCap, out, s.alarms, id / 2 ^ 48 % 65536, id / 2 ^ 32 % 65536, id / 65536 % 65536, id % 65536]
    let sent := [(0x0B, version), (0x0C, state + 65536 * s.effectiveCap), (0x0D, p1 + 65536 * pw), (0x0E, out), (0x0F, s.alarms), (0x10, id)]
    let served := s.fld FAC_STATUS_MINOR != 0xFF
    .next { s with facility := { s.facility with
      relayed := if served then relayed else List.replicate 11 0, outward := if served then sent else [] } }

end Sys2Proof.Machine
end

