-- ==== Sys2Proof/Machine/Frames.lean ====
section
/-!
DEFINITION. Frames of live peers and what they deliver, sends and remote messages, and the loss of a peer (R149 to R156, R351 to R354).
-/
namespace Sys2Proof.Machine

/-! ## Remote messages (R155, R156) -/

/-- The answer to a message whose channel is full: the sender sends it again. -/
def messageFull : Nat := 0xFFFF

/-- No answer to a message of a superseded placement (R153). -/
def messageStale : Nat := 0xFFFE

/-- A message of another module accepted, or the status with which its send ends (R153, R156). -/
def State.acceptRemote (s : State) (m : Bytes) : State × Nat :=
  let l := msgDst m
  let c := msgChan m
  match s.domOfLogical l with
  | none => (s, ST_UNDELIVERABLE)
  | some d =>
    let t := s.phys d l
    if msgEpoch m < (s.dom d).epoch then (s.addFld (TIL_MSG_STATUS_STALE_EPOCH t) 1, messageStale)
    else if s.tileState t ≠ 2 ∨ s.fld (TIL_MSG_CHAN_PERSIST t c) = 1 ∨ s.fld (TIL_MSG_CHAN_REMOTE_OK t c) = 0 then (s, ST_UNDELIVERABLE)
    else
      let held := s.chan t c
      if held.length < 16 then (s.setChan t c (held ++ [m]), ST_OK)
      else (s.addFld (TIL_MSG_STATUS_REFUSED t) 1, messageFull)

/-- The answer to a remote message: its send completes, or goes out again after a backoff. -/
def State.endRemote (s : State) (rank status : Nat) (m : Bytes) : State :=
  let d := fieldAt m 12 2
  if !(s.domTiles d).contains (msgSrc m) then s
  else
    let t := s.phys d (msgSrc m)
    match (s.tile t).flowTo rank (msgDst m) (msgChan m) with
    | none => s
    | some k =>
      let w := (s.tile t).flows.getD k {}
      match w.unacked with
      | [] => s
      | (i, b) :: rest =>
        if b ≠ m then s
        else if status = messageFull then
          s.putFlow t (some k) { w with resend := true, backoff := if w.backoff = 0 then 1 else min 64 (2 * w.backoff) }
        else
          let s := s.putFlow t (some k) { w with unacked := rest, backoff := 0 }
          if status = ST_OK then (s.count d 8 1).actedWith t i 0 else if status = ST_UNDELIVERABLE then s.undeliverable t i else s.actedWith t i status

/-! ## SEND (R149 to R156) -/

/-- Whether an earlier send of the same flow has not left yet. -/
def State.sendsBefore (s : State) (t : Nat) (o : Op) : Bool :=
  (s.tile t).ops.any (fun p => p.2.started && !p.2.acted && p.2.engineCode == 7 && p.2.aux == 0 && decide (p.2.order < o.order) &&
    p.2.field 8 3 == o.field 8 3 && p.2.field 12 2 == o.field 12 2)

/-- A send to another module leaves if its flow has its one credit; a lost or refused peer is unreachable. -/
def State.sendAway (s : State) (t i d l c rank : Nat) (o : Op) : State :=
  let x := s.tile t
  let k := x.flowTo rank l c
  let f := match k with | some j => x.flows.getD j {} | none => { dst := l, chan := c, module := rank }
  let own := rank == s.foundation.ownRank
  if !own && decide (3 ≤ (s.peerState rank).state) then s.actedWith t i ST_PEER_UNREACHABLE
  else if !s.live rank || f.unacked != [] || decide (64 ≤ x.activeFlows) then s
  else
    let m := messageBytes (s.logicalOf d t) l c 0 (o.field 11 1) f.nextSeq (s.dom d).epoch d s.foundation.ownRank (s.slot d) (takeAt o.desc 24 32)
    let s := s.putFlow t k { f with nextSeq := (f.nextSeq + 1) % 65536, unacked := [(i, m)] }
    let s := s.setOp t i { o with aux := 1 }
    if own then
      match s.acceptRemote m with
      | (s, status) => if status = messageStale then s else s.endRemote rank status m
    else s.sendRemote t d rank c m

/-- SEND (R149 to R152, R155, R156). -/
def execSend (t : Fin 384) (i : Fin 64) (s : State) : Out :=
  match s.held t.val i.val [7] 1 with
  | none => .next s
  | some o =>
    let l := o.field 8 2
    let rank := o.field 12 2
    if o.reservedOk [(8, 6), (24, 32)] = false ∨ 16 ≤ o.field 10 1 then .next (s.opFault t.val i.val ST_REJECTED_RESERVED)
    else if 383 < l ∨ o.field 11 1 < 1 ∨ 32 < o.field 11 1 ∨ (rank ≠ 0xFFFF ∧ s.foundation.peers.length ≤ rank) then
      .next (s.opFault t.val i.val ST_OP_DESCRIPTOR)
    else
      match s.domOf t.val with
      | none => .next s
      | some d =>
        let c := o.field 10 1
        if o.aux = 1 ∨ s.sendsBefore t.val o = true then .next s
        else if rank = 0xFFFF then
          .next (if s.deliverable d l c then s.sendLocal t.val i.val d l c o else s.undeliverable t.val i.val)
        else .next (s.sendAway t.val i.val d l c rank o)

/-! ## What frames deliver -/

/-- What a frame of peer `rank` that arrived at link die `n` delivers. -/
def State.deliver (s : State) (n rank : Nat) (b : Body) : State :=
  match b with
  | .collData d id step member _ chunk result nf _ kin bs =>
    if result then s.takeResult d id step member chunk bs else s.takePart d id step member chunk nf kin bs
  | .notice d id step member crc nf => s.takeNotice d id step member crc nf
  | .verdict d id step v => s.takeVerdict d id step v
  | .message m =>
    match s.acceptRemote m with
    | (s, status) => if status = messageStale then s else s.sendFrame n rank 5 (.messageEnd status m)
  | .messageEnd status m => s.endRemote rank status m
  | .fstepRequest .. => s.takeFstep rank b
  | .fstepApply .. => s.takeFstep rank b
  | _ => s.takeSurvival rank b

/-- Whether a frame that passed its checks brings something new: its peer is live, and its flow has not had its SEQ. -/
def State.isNew (s : State) (f : Frame) : Bool := (s.peerState f.srcRank).state == 2 && !((s.flowOfFrame f).has f.seq)

/-- The payload of a frame lost to an uncorrectable error: of a contribution that came late, its tail (R356, R365). -/
def State.loseBody (s : State) (b : Body) : State :=
  match b with
  | .collData d id step member _ _ false _ _ _ _ => s.losePart d id step member
  | _ => s

/-- A frame without its payload. -/
def emptied (f : Frame) : Frame := { f with body := .fragment (bodyType f.body) 0 1 (bodyDom f.body) 0 [] [] }

/-- What a frame delivers, and those that waited behind it, in SEQ order. -/
def State.takeInOrder (s : State) (n : Nat) (f : Frame) : State :=
  match s.receive n f with
  | (s, bs) => bs.foldl (fun s b => (s.countLink n b).deliver n f.srcRank b) s

/-- A data-carrying frame of TYPE `type`: its checks, the reading of its payload from buffer SRAM with outcome `ecc` unless it is a duplicate,
and what it and the frames behind it deliver. An uncorrectable payload is lost and recorded as DEFERRED (R356). -/
def State.takeFrame (s : State) (n : Nat) (f : Frame) (type : Nat) (ecc : Found) : State :=
  match s.checkFrame n f type with
  | (s, false) => s
  | (s, true) =>
    if s.isNew f = false then s.takeInOrder n f
    else if ecc.ecc = .uncorrectable then ((s.sramLost n ecc).loseBody f.body).takeInOrder n (emptied f)
    else (s.sramRead n ecc).takeInOrder n f

/-- COLL_DATA: TYPE 0x03. -/
def execCollData (n : Fin 4) (f : Frame) (ecc : Found) (s : State) : Out := .next (s.takeFrame n.val f 3 ecc)

/-- COLL_CTRL: TYPE 0x04. -/
def execCollCtrl (n : Fin 4) (f : Frame) (ecc : Found) (s : State) : Out := .next (s.takeFrame n.val f 4 ecc)

/-- REMOTE_MSG: TYPE 0x05. -/
def execRemoteMsg (n : Fin 4) (f : Frame) (ecc : Found) (s : State) : Out := .next (s.takeFrame n.val f 5 ecc)

/-- MIRROR: TYPE 0x06. -/
def execMirrorFrame (n : Fin 4) (f : Frame) (ecc : Found) (s : State) : Out := .next (s.takeFrame n.val f 6 ecc)

/-- SNAPSHOT: TYPE 0x07. -/
def execSnapshotFrame (n : Fin 4) (f : Frame) (ecc : Found) (s : State) : Out := .next (s.takeFrame n.val f 7 ecc)

/-- SNAP_REQ (R397): the SNAPSHOT frame that brings a request. -/
def execSnapReq (n : Fin 4) (f : Frame) (ecc : Found) (s : State) : Out :=
  match f.body, f.crcOk with
  | .snapReq _, _ => .next (s.takeFrame n.val f 7 ecc)
  | _, false => .next (s.takeFrame n.val f 7 ecc)
  | _, true => .next s

/-- SPOOL: TYPE 0x08. -/
def execSpoolFrame (n : Fin 4) (f : Frame) (ecc : Found) (s : State) : Out := .next (s.takeFrame n.val f 8 ecc)

/-- FSTEP: TYPE 0x0A (R437). -/
def execFstepFrame (n : Fin 4) (f : Frame) (ecc : Found) (s : State) : Out := .next (s.takeFrame n.val f 10 ecc)

/-- TIME: TYPE 0x09 (R86), `ns` nanoseconds later, but not past the next boundary. A request carries the sender's time of sending and is
answered with the times of its arrival and of the answer, both now; an answer of the time master ends the round trip in progress. -/
def execTimeFrame (n : Fin 4) (f : Frame) (ns : Nat) (ecc : Found) (s : State) : Out :=
  let s := s.runAligned (min ns (s.nextBoundary - s.now))
  match s.readFrame n.val f 9 ecc, f.body with
  | (s, true), .time answer sent received returned =>
    if (s.peerState f.srcRank).state ≠ 2 then .next s
    else if answer = false then .next (s.emit n.val f.srcRank 0 0 false (.time true sent (word s.now) (word s.now)))
    else if f.srcRank = s.timeMaster ∧ s.measure.sent = some sent then
      .next (s.takeTrip (tripOffset sent.toNat received.toNat returned.toNat s.localNs))
    else .next s
  | (s, _), _ => .next s

/-! ## The loss of a peer (R353, R88, R439) -/

/-- Remote sends to a lost peer complete with PEER_UNREACHABLE (R353). -/
def State.dropSends (s : State) (rank : Nat) : State :=
  s.tiles.foldl (fun s e =>
    let sent := (e.2.flows.filter (fun w => w.module == rank)).flatMap (fun w => w.unacked.map (·.1))
    let s := sent.foldl (fun s i => s.actedWith e.1 i ST_PEER_UNREACHABLE) s
    let x := s.tile e.1
    s.setTile e.1 { x with flows := x.flows.map (fun w => if w.module = rank then { w with unacked := [], resend := false } else w) }) s

/-- Another time master (R88): the live module that stands first in the peer list; another module's offset is measured afresh. -/
def State.changeMaster (s : State) : State :=
  let r := (s.members.find? s.live).getD s.foundation.ownRank
  if r = s.foundation.ownRank then
    let t := s.newMaster.becomeMaster
    { t with measure := { t.measure with heir := some s.timeMaster } }
  else s.newMaster.followMaster r

/-! ## HELLO (R355, R88) -/

/-- Whether the time master that a HELLO of module `r` names is taken (R88): a listed module, when the module's own master is not live;
before Aloft, when it is not the one that the peer list names; and in Aloft by a module that is master without a live peer, as one that
joins again has none, unless the former master that it replaced names itself. -/
def State.adopts (s : State) (r master : Nat) : Bool :=
  let cut := s.aloft && s.timeMaster == s.foundation.ownRank && !(s.peers.any (fun e => e.2.state == 2))
  (s.peer master).isSome && master != s.timeMaster &&
    (!s.live s.timeMaster || (!s.aloft && master != 0) || (cut && !(r == master && s.measure.heir == some master)))

/-- The time master that a HELLO of module `r` names taken; a former master that greets again is one no longer replaced. -/
def State.adoptMaster (s : State) (r master : Nat) : State :=
  let s := if !s.adopts r master then s
    else if !s.aloft then { s with timeMaster := master }.newMaster
    else if master = s.foundation.ownRank then s.newMaster.becomeMaster
    else s.newMaster.followMaster master
  if s.measure.heir = some r then { s with measure := { s.measure with heir := none } } else s

/-- HELLO: TYPE 0x01 (R355). The first one of a peer is answered. The pair takes the highest minor both support; without a common version
the peer gets no other frame. -/
def execHello (n : Fin 4) (f : Frame) (ecc : Found) (s : State) : Out :=
  match s.readFrame n.val f 1 ecc, f.body with
  | (s, true), .hello moduleId major lo hi master =>
    let r := f.srcRank
    let x := s.peerState r
    let ok := major == 1 && decide (lo ≤ min hi zwineMinor)
    let s := if ok then s.adoptMaster r master else s
    let s := if x.state = 1 then s else s.sendHello n.val r
    let s := s.dropFlows r
    if ok then .next (s.setPeer r { x with state := 2, minor := min hi zwineMinor })
    else
      .next ((s.setPeer r { x with state := 4, minor := 0xFF }).event (0x4200 + n.val) EV_REJECTED_VERSION noDomain
        (leBytes 2 r ++ leBytes 1 major ++ leBytes 1 1 ++ zeros 4 ++ leBytes 8 moduleId.toNat))
  | (s, _), _ => .next s

/-- A lost peer is missing in every collective that has not been decided (R353). -/
def State.missPeer (s : State) (rank : Nat) : State :=
  { s with colls := s.colls.map (fun c => if c.verdict.isNone && !c.ended then { c with lost := insertAsc rank c.lost } else c) }

/-- PEER_TIMEOUT (R353): a live peer without a frame either way for PEER_TIMEOUT is lost, as link die `n` declares: an admitted one, or, once none
is admitted, the one that was. -/
def execPeerTimeout (n : Fin 4) (rank : Nat) (s : State) : Out :=
  if (bitOf s.links n.val = false ∧ s.links ≠ 0) ∨ (s.peerState rank).state ≠ 2 then .next s
  else
    let s := (s.setPeer rank { s.peerState rank with state := 3 }).missPeer rank
    let s := s.event (0x4200 + n.val) EV_PEER_LOST noDomain (leBytes 2 rank ++ zeros 6 ++ leBytes 8 (s.moduleId rank))
    let s := (s.dropFlows rank).dropSends rank
    let s := if s.timeMaster = rank then s.changeMaster else s
    let s := s.reNotice
    let s := s.colls.foldl (fun s c => if c.launched.isSome && c.verdict.isNone && !c.ended then s.weigh (s.coll c.dom c.id c.step) else s) s
    .next (s.losePartner rank)

end Sys2Proof.Machine
end

