-- ==== Sys2Proof/Machine/Races.lean ====
section
/-!
DEFINITION. The scratchpad bytes that a tile's operations touch, the rows they send elsewhere, their start
(R140), and the bytes left unpredictable when unordered operations, or an operation and a push, meet (R106, R141).
-/
namespace Sys2Proof.Machine

/-! ## What an operation touches -/

/-- Rows of `len` bytes, `stride` apart, as spans. -/
def rowSpans (write : Bool) (a stride len rows : Nat) : List Span := (List.range rows).map (fun r => ⟨a + r * stride, len, write⟩)

/-- The spans of an array operation (Table ARR-5, Table VEC-5). -/
def State.arraySpans (s : State) (t : Nat) (o : Op) : List Span :=
  match s.format o.format, s.format o.statFormat with
  | some fm, some fs =>
    let k := o.k64 * 64
    let mb := elemBits fm.ty
    let sb := elemBits fs.ty
    let band := s.winSpan t o mb
    (if o.windowed then [⟨o.movAddr, 128, false⟩, ⟨band.1.toNat, (band.2 - band.1).toNat, false⟩]
     else if o.turned then rowSpans false o.movAddr o.movStride (rowBytes mb o.m) k
     else rowSpans false o.movAddr o.movStride (rowBytes mb k) o.m) ++
    (if o.code = 2 then rowSpans false o.statAddr o.statStride (rowBytes sb k) o.n
     else rowSpans false o.statAddr o.statStride (rowBytes sb o.n) (if o.code = 4 then s.winKb t o else k)) ++
    (if fm.mode = 0 then [] else [⟨o.movScale, if o.windowed then 1 else o.m, false⟩]) ++
    (if fs.mode = 0 then [] else [⟨o.statScale, o.n, false⟩]) ++
    (if fm.escapes = 0 then [] else [⟨o.escAddr, o.m * o.k64 * fm.escapes * 4, false⟩]) ++
    (if o.accIn then rowSpans false o.accAddr o.outStride (o.n * 4) o.m else []) ++
    rowSpans true o.outAddr o.outStride (o.n * outSize o.outType) o.m ++
    (if o.windowed ∧ s.winArgmax t o ≠ 0 then [⟨s.winArgmax t o, 8 * o.m, true⟩] else [])
  | _, _ => []

/-- The spans of a vector operation (Tables VEC-1 and VEC-4). -/
def State.vecSpans (s : State) (t : Nat) (o : Op) : List Span :=
  let f := s.format o.format
  let ins := (inputsOf o.code).flatMap (fun i =>
    let x := o.stream i
    rowSpans false x.addr x.stride (if i = 0 then o.rowLenA f else x.rowLen o.cols) o.rows)
  let out := match o.dest f with
    | some (a, st, n, r) => rowSpans true a st n r
    | none => []
  let block := if o.hasBlock then [⟨(o.stream 2).addr, 64, false⟩] else []
  let writes := o.code == 0x20 || o.code == 0x21
  let tables := match f with
    | some g =>
      if 0x20 ≤ o.code ∧ o.code ≤ 0x22 then
        [⟨s.blkScale t o, if o.code = 0x21 then o.cols else if s.blkBcast t o then 1 else unitsOf g o, writes && !(s.blkSupplied t o)⟩] ++
          (if g.escapes = 0 ∨ o.code = 0x21 then [] else [⟨s.blkEsc t o, unitsOf g o * slicesOf g o * g.escapes * 4, writes⟩])
      else []
    | none => []
  ins ++ out ++ block ++ tables

/-- The spans of an update pass (Table OPT-3). -/
def State.updSpans (s : State) (t : Nat) (o : Op) : List Span :=
  if o.updNull then []
  else
    let x := s.shard t o
    let matrix (w : Bool) (a : Nat) := rowSpans w a x.stride (4 * x.cols) x.rows
    let second := o.code == 0x31
    let copy (fmt out scale : Nat) : List Span :=
      match s.format fmt with
      | some f => rowSpans true out (x.copyStride f) (rowBytes (elemBits f.ty) x.cols) x.rows ++ [⟨scale, max x.rows x.cols, true⟩]
      | none => []
    [⟨o.updBlock, 128, false⟩] ++ matrix false x.g ++ [⟨x.sums, 4 * (x.rows + x.cols), !second⟩] ++
      (if second then matrix true x.w ++ matrix true x.m ++ [⟨x.stat, 64 + 4 * (x.rows + x.cols), true⟩] ++
        copy x.fFormat x.fOut x.fScale ++ copy x.bFormat x.bOut x.bScale
      else [])

/-- The spans of a walker operation (Tables ATT-5 and ATT-6). -/
def State.walkSpans (s : State) (o : Op) : List Span :=
  let p := (s.seq (o.field 8 2)).pool
  let row := s.poolD p * s.poolElem p
  match o.code with
  | 1 =>
    let g := o.gather
    (if g.keys then rowSpans true g.kDst g.stride row g.count ++ [⟨g.kScale, if s.poolFp8 p then g.count else 0, true⟩] else []) ++
      (if g.values then rowSpans true g.vDst g.stride row g.count ++ [⟨g.vScale, if s.poolFp8 p then 4 * g.count else 0, true⟩] else [])
  | 2 =>
    let n := o.field 16 2
    let scale := if s.poolFp8 p then n else 0
    rowSpans false (o.field 20 4) (o.field 36 4) row n ++ rowSpans false (o.field 24 4) (o.field 36 4) row n ++
      [⟨o.field 28 4, scale, false⟩, ⟨o.field 32 4, scale, false⟩]
  | 6 => [⟨o.field 12 4, 4 + 2 * o.field 16 2, true⟩]
  | _ => []

/-- The spans of an operation whose ends are addresses of the map: those that lie in scratchpads, at their physical places. -/
def State.mapSpans (s : State) (t : Nat) (xs : List Span) : List Span :=
  (xs.filter (fun x => inPads x.lo)).map (fun x => { x with lo := s.tileAddr t x.lo })

/-- The scratchpad bytes that an operation of tile `t` touches, at their physical addresses. -/
def State.spans (s : State) (t : Nat) (o : Op) : List Span :=
  let own (xs : List Span) : List Span := xs.map (fun x => { x with lo := padAddr t + x.lo })
  let e := o.engineCode
  if e ≤ 3 then (if o.frozen then [] else own (s.arraySpans t o))
  else if e = 4 then
    let bits := turnBits (o.field 20 1)
    own (rowSpans false (o.field 8 4) (o.field 24 4) (rowBytes bits (o.field 18 2)) (o.field 16 2) ++
      rowSpans true (o.field 12 4) (o.field 28 4) (rowBytes bits (o.field 16 2)) (o.field 18 2))
  else if e = 5 then own (if o.code = 0x30 ∨ o.code = 0x31 then s.updSpans t o else s.vecSpans t o)
  else if e = 6 then
    let x := o.dma
    s.mapSpans t (rowSpans false x.src x.ss x.bytes x.rows ++ rowSpans true x.dst x.ds x.bytes x.rows)
  else if e = 8 then own (s.walkSpans o)
  else if e = 9 then
    let r := o.reg
    let f := o.fetch
    s.mapSpans t (if o.code = 1 then [⟨r.src, r.len, false⟩, ⟨r.dualSrc, r.dualLen, false⟩]
      else if o.code = 2 then [⟨f.dst, f.count * 4096, true⟩] else [])
  else []

/-- The rows of a DMA whose writes leave a scratchpad for another place (R146): not those within the tile's own. -/
def State.dmaRows (s : State) (t : Nat) (o : Op) : List (Nat × Option Nat × Nat) :=
  let x := o.dma
  let a := s.tileAddr t x.src
  let b := s.tileAddr t x.dst
  let outside := !(s.ownPad t x.dst) || (inPads x.src && !(s.ownPad t x.src))
  if (s.dmaFault t o).isNone ∧ outside = true ∧ (s.rowsMapped x.bytes a x.ss x.rows && s.rowsMapped x.bytes b x.ds x.rows) = true then
    (List.range x.rows).map (fun r => (b + r * x.ds, some (a + r * x.ss), x.bytes))
  else []

/-- The bytes that a FETCH of tile `t` writes outside its scratchpad (R293); those of a coded part, or of a part that is not in HBM yet, come
from no one place. -/
def State.fetchRows (s : State) (t d : Nat) (o : Op) : List (Nat × Option Nat × Nat) :=
  let f := o.fetch
  let x := s.handle f.handle
  let (a, _, coded) := x.part f.part
  if (s.fetchFault t d o).isNone ∧ s.ownPad t f.dst = false ∧ s.mappedAll (s.tileAddr t f.dst) (4096 * f.count) = true then
    [(s.tileAddr t f.dst, if coded || x.state == 1 || x.state == 4 || x.state == 5 then none else some (a + 4096 * f.first), 4096 * f.count)]
  else []

/-- What an operation of tile `t` sends to memory or to another tile: destination, source and bytes of each row. -/
def State.sends (s : State) (t : Nat) (o : Op) : List (Nat × Option Nat × Nat) :=
  if o.engineCode = 6 ∧ o.code = 1 then s.dmaRows t o
  else
    match s.domOf t with
    | none => []
    | some d =>
      if o.engineCode = 8 ∧ o.code = 2 then (s.appendRows t d o).map (fun r => (r.1, some r.2.1, r.2.2))
      else if o.engineCode = 9 ∧ o.code = 2 then s.fetchRows t d o
      else []

/-- OPERATION_START (R140): engine `engine` of tile `t` takes its next operation in issue order, once it is eligible and the engine
has room. `ecc` is the worst that the engine's reads of stored words find (R420): an uncorrectable word faults the tile, and the
engine is not given it. -/
def execOperationStart (t : Fin 384) (engine : BitVec 4) (ecc : Found) (s : State) : Out :=
  match firstOp (fun o => o.engineCode == engine.toNat && !o.started) (s.tile t.val).ops with
  | none => .next s
  | some (i, o) =>
    match s.engineFor t.val o with
    | some e =>
      if s.mayStart t.val o = false then .next s
      else
        match s.tileRead t.val ecc with
        | (s, true) => .next (s.startOp t.val i { o with sends := s.sends t.val o } e)
        | (s, false) => .next s
    | none => .next s

/-! ## Unordered operations (R141) -/

/-- The places in the issue order of the queued operations that complete before one with these prerequisites starts. -/
def Tile.before (x : Tile) (pre : Nat) : List Nat :=
  match smapFind x.ops (pre % 64) with
  | some o => if pre ≠ 0 ∧ o.gen = pre / 64 then o.order :: o.after else []
  | none => []

/-- An operation just issued: what it touches, what it comes after, and the bytes that it shares, one of them writing, with a queued operation it is
not ordered after (R141) or with a push of the slot (R106). The other operation shares the bytes too. -/
def State.noteSpans (s : State) (t i : Nat) : State :=
  match s.op t i with
  | none => s
  | some o =>
    let x := s.tile t
    let after := x.before o.pre1 ++ x.before o.pre2
    let mine := s.spans t o
    let shared (p : Op) : List (Nat × Nat) := if after.contains p.order then [] else meets mine p.spans
    let others := smapDel x.ops i
    let o := { o with after := after, spans := mine, races := others.flatMap (fun e => shared e.2) ++ meets mine x.pushed }
    let ops := smapIns (others.map (fun e => (e.1, { e.2 with races := e.2.races ++ shared e.2 }))) i o
    s.setTile t { x with ops := ops, touched := mine ++ x.touched }

end Sys2Proof.Machine
end

