-- ==== Sys2Proof/Machine/TileCore.lean ====
section
/-!
DEFINITION. The tile core (R133 to R137, R475): RV64IMAC in machine mode over the local map of Table TIL-2. The meanings of the base,
M, A and C instructions are those of the RISC-V standards that R133 names.
-/
namespace Sys2Proof.Machine

/-! ## Registers and fields -/

/-- A general register; x0 reads zero. -/
def Tile.x (c : Tile) (r : Nat) : Word := if r = 0 then 0#64 else (smapFind c.xreg r).getD 0#64

/-- A general register written; x0 discards it. -/
def Tile.putX (c : Tile) (r : Nat) (v : Word) : Tile :=
  if r = 0 then c else { c with xreg := smapPut (fun _ => some 0#64) c.xreg r v }

/-- An instruction's fields. -/
def fRd (w : Nat) : Nat := bitsOf w 7 5
def fRs1 (w : Nat) : Nat := bitsOf w 15 5
def fRs2 (w : Nat) : Nat := bitsOf w 20 5
def f3 (w : Nat) : Nat := bitsOf w 12 3
def f7 (w : Nat) : Nat := bitsOf w 25 7

/-- A two's-complement field of `n` bits as a word. -/
def sext (n v : Nat) : Word := word (unsignedOf 64 (signedOf n v))

/-- The immediates of the six formats. -/
def immI (w : Nat) : Word := sext 12 (bitsOf w 20 12)
def immS (w : Nat) : Word := sext 12 (f7 w * 32 + fRd w)
def immB (w : Nat) : Word := sext 13 (bitsOf w 8 4 * 2 + bitsOf w 25 6 * 32 + bitsOf w 7 1 * 2048 + bitsOf w 31 1 * 4096)
def immU (w : Nat) : Word := sext 32 (bitsOf w 12 20 * 4096)
def immJ (w : Nat) : Word := sext 21 (bitsOf w 21 10 * 2 + bitsOf w 20 1 * 2048 + bitsOf w 12 8 * 4096 + bitsOf w 31 1 * 2 ^ 20)

/-- The low 32 bits of a word, sign-extended. -/
def low32 (v : Word) : Word := sext 32 (v.toNat % 2 ^ 32)

/-! ## Compressed instructions -/

/-- Words of the formats, from fields. -/
def mkR (op f3 f7 rd rs1 rs2 : Nat) : Nat := op + rd * 2 ^ 7 + f3 * 2 ^ 12 + rs1 * 2 ^ 15 + rs2 * 2 ^ 20 + f7 * 2 ^ 25
def mkI (op f3 rd rs1 : Nat) (imm : Int) : Nat := op + rd * 2 ^ 7 + f3 * 2 ^ 12 + rs1 * 2 ^ 15 + unsignedOf 12 imm * 2 ^ 20
def mkS (f3 rs1 rs2 imm : Nat) : Nat := 0x23 + imm % 32 * 2 ^ 7 + f3 * 2 ^ 12 + rs1 * 2 ^ 15 + rs2 * 2 ^ 20 + imm / 32 * 2 ^ 25
def mkB (f3 rs1 rs2 : Nat) (imm : Int) : Nat :=
  let v := unsignedOf 13 imm
  0x63 + bitsOf v 11 1 * 2 ^ 7 + bitsOf v 1 4 * 2 ^ 8 + f3 * 2 ^ 12 + rs1 * 2 ^ 15 + rs2 * 2 ^ 20 + bitsOf v 5 6 * 2 ^ 25 + bitsOf v 12 1 * 2 ^ 31
def mkJ (rd : Nat) (imm : Int) : Nat :=
  let v := unsignedOf 21 imm
  0x6F + rd * 2 ^ 7 + bitsOf v 12 8 * 2 ^ 12 + bitsOf v 11 1 * 2 ^ 20 + bitsOf v 1 10 * 2 ^ 21 + bitsOf v 20 1 * 2 ^ 31

/-- Quadrant 0 of the C extension, as a 32-bit word. -/
def expand0 (h : Nat) : Option Nat :=
  let rd := 8 + bitsOf h 2 3
  let rs := 8 + bitsOf h 7 3
  let w := bitsOf h 10 3 * 8 + bitsOf h 6 1 * 4 + bitsOf h 5 1 * 64
  let d := bitsOf h 10 3 * 8 + bitsOf h 5 2 * 64
  match bitsOf h 13 3 with
  | 0 =>
    let n := bitsOf h 11 2 * 16 + bitsOf h 7 4 * 64 + bitsOf h 6 1 * 4 + bitsOf h 5 1 * 8
    if n = 0 then none else some (mkI 0x13 0 rd 2 n)
  | 2 => some (mkI 0x03 2 rd rs w)
  | 3 => some (mkI 0x03 3 rd rs d)
  | 6 => some (mkS 2 rs rd w)
  | 7 => some (mkS 3 rs rd d)
  | _ => none

/-- The register and shift forms of quadrant 1. -/
def expandAlu (h : Nat) : Option Nat :=
  let rd := 8 + bitsOf h 7 3
  let rs := 8 + bitsOf h 2 3
  let sh := bitsOf h 2 5 + bitsOf h 12 1 * 32
  match bitsOf h 10 2 with
  | 0 => some (mkI 0x13 5 rd rd sh)
  | 1 => some (mkI 0x13 5 rd rd (1024 + sh))
  | 2 => some (mkI 0x13 7 rd rd (signedOf 6 sh))
  | _ =>
    match bitsOf h 12 1, bitsOf h 5 2 with
    | 0, 0 => some (mkR 0x33 0 0x20 rd rd rs)
    | 0, 1 => some (mkR 0x33 4 0 rd rd rs)
    | 0, 2 => some (mkR 0x33 6 0 rd rd rs)
    | 0, _ => some (mkR 0x33 7 0 rd rd rs)
    | _, 0 => some (mkR 0x3B 0 0x20 rd rd rs)
    | _, 1 => some (mkR 0x3B 0 0 rd rd rs)
    | _, _ => none

/-- Quadrant 1. -/
def expand1 (h : Nat) : Option Nat :=
  let rd := bitsOf h 7 5
  let imm := signedOf 6 (bitsOf h 2 5 + bitsOf h 12 1 * 32)
  match bitsOf h 13 3 with
  | 0 => some (mkI 0x13 0 rd rd imm)
  | 1 => if rd = 0 then none else some (mkI 0x1B 0 rd rd imm)
  | 2 => some (mkI 0x13 0 rd 0 imm)
  | 3 =>
    if rd = 2 then
      let n := signedOf 10 (bitsOf h 6 1 * 16 + bitsOf h 2 1 * 32 + bitsOf h 5 1 * 64 + bitsOf h 3 2 * 128 + bitsOf h 12 1 * 512)
      if n = 0 then none else some (mkI 0x13 0 2 2 n)
    else if imm = 0 then none
    else some (0x37 + rd * 2 ^ 7 + unsignedOf 20 imm * 2 ^ 12)
  | 4 => expandAlu h
  | 5 =>
    some (mkJ 0 (signedOf 12 (bitsOf h 3 3 * 2 + bitsOf h 11 1 * 16 + bitsOf h 2 1 * 32 + bitsOf h 7 1 * 64 + bitsOf h 6 1 * 128 +
      bitsOf h 9 2 * 256 + bitsOf h 8 1 * 1024 + bitsOf h 12 1 * 2048)))
  | f =>
    some (mkB (f - 6) (8 + bitsOf h 7 3) 0 (signedOf 9 (bitsOf h 3 2 * 2 + bitsOf h 10 2 * 8 + bitsOf h 2 1 * 32 + bitsOf h 5 2 * 64 +
      bitsOf h 12 1 * 256)))

/-- Quadrant 2. -/
def expand2 (h : Nat) : Option Nat :=
  let rd := bitsOf h 7 5
  let rs := bitsOf h 2 5
  match bitsOf h 13 3 with
  | 0 => some (mkI 0x13 1 rd rd (bitsOf h 2 5 + bitsOf h 12 1 * 32))
  | 2 => if rd = 0 then none else some (mkI 0x03 2 rd 2 (bitsOf h 4 3 * 4 + bitsOf h 12 1 * 32 + bitsOf h 2 2 * 64))
  | 3 => if rd = 0 then none else some (mkI 0x03 3 rd 2 (bitsOf h 5 2 * 8 + bitsOf h 12 1 * 32 + bitsOf h 2 3 * 64))
  | 4 =>
    match bitsOf h 12 1, rs with
    | 0, 0 => if rd = 0 then none else some (mkI 0x67 0 0 rd 0)
    | 0, _ => some (mkR 0x33 0 0 rd 0 rs)
    | _, 0 => if rd = 0 then some 0x00100073 else some (mkI 0x67 0 1 rd 0)
    | _, _ => some (mkR 0x33 0 0 rd rd rs)
  | 6 => some (mkS 2 2 rs (bitsOf h 9 4 * 4 + bitsOf h 7 2 * 64))
  | 7 => some (mkS 3 2 rs (bitsOf h 10 3 * 8 + bitsOf h 7 3 * 64))
  | _ => none

/-- A compressed instruction as the 32-bit instruction it stands for; none when it is illegal. -/
def expand (h : Nat) : Option Nat :=
  match h % 4 with
  | 0 => expand0 h
  | 1 => expand1 h
  | 2 => expand2 h
  | _ => none

/-! ## Fetch -/

/-- Exception causes (`mcause`). -/
def CAUSE_FETCH : Nat := 1
def CAUSE_MISALIGNED_FETCH : Nat := 0
def CAUSE_ILLEGAL : Nat := 2
def CAUSE_BREAK : Nat := 3
def CAUSE_ECALL : Nat := 11

/-- `n` bytes of instruction SRAM from `a`. -/
def Tile.iramNum (c : Tile) (a n : Nat) : Nat := leNat ((List.range n).map (fun i => (smapFind c.iram (a + i)).getD 0#8))

/-- What the core fetches at its PC: a cause, or the instruction as a 32-bit word with its length. An odd PC, which only a start PC can
be, is misaligned (R134). -/
inductive Fetched where
  | fault (cause : Nat)
  | word (w len : Nat)
deriving DecidableEq, Repr

def Tile.fetch (c : Tile) : Fetched :=
  let pc := c.pc.toNat
  if pc % 2 = 1 then .fault CAUSE_MISALIGNED_FETCH
  else if 0x20000 < pc + 2 then .fault CAUSE_FETCH
  else if c.iramNum pc 2 % 4 = 3 then
    if 0x20000 < pc + 4 then .fault CAUSE_FETCH else .word (c.iramNum pc 4) 4
  else
    match expand (c.iramNum pc 2) with
    | some w => .word w 2
    | none => .fault CAUSE_ILLEGAL

/-! ## Loads and stores (R134, R161) -/

/-- Where a local address lies. -/
inductive Local where
  | iram | dram | pad | til | none
deriving DecidableEq, Repr

def localOf (a n : Nat) : Local :=
  if a + n ≤ 0x20000 then .iram
  else if 0x100000 ≤ a ∧ a + n ≤ 0x110000 then .dram
  else if 0x1000000 ≤ a ∧ a + n ≤ 0x1300000 then .pad
  else if 0x2000000 ≤ a ∧ a + n ≤ 0x2010000 then .til
  else .none

/-- `n` bytes of data SRAM from offset `o`. -/
def Tile.dramBytes (c : Tile) (o n : Nat) : Bytes := (List.range n).map (fun i => c.dramByte (o + i))

/-- Bytes written to data SRAM. -/
def Tile.dramPut (c : Tile) (o : Nat) : Bytes → Tile
  | [] => c
  | b :: bs =>
    Tile.dramPut { c with dramNew := smapIns c.dramNew o b } (o + 1) bs

/-- A load of the core: a cause, or the value with the state. -/
def State.coreLoad (s : State) (t a n : Nat) : Except Nat (Nat × State) :=
  if a % n ≠ 0 then .error 4
  else
    match localOf a n with
    | .iram => .ok ((s.tile t).iramNum a n, s)
    | .dram => .ok (leNat ((s.tile t).dramBytes (a - 0x100000) n), s)
    | .pad => .ok (leNat (s.pad t (a - 0x1000000) n), s)
    | .til =>
      if n = 8 then
        let r := s.readReg (0x10000000 + t * 0x10000 + (a - 0x2000000))
        .ok (r.1.toNat, r.2)
      else .error 5
    | .none => .error 5

/-- A store of the core; a register rejects it without an answer. -/
def State.coreStore (s : State) (t a n v : Nat) : Except Nat State :=
  if a % n ≠ 0 then .error 6
  else
    match localOf a n with
    | .dram => .ok (s.setTile t ((s.tile t).dramPut (a - 0x100000) (leBytes n v)))
    | .pad => .ok { s with mem := memWrite s.mem (padAddr t + (a - 0x1000000)) (leBytes n v) }
    | .til =>
      if n = 8 then
        let s' := s.storeReg (0x10000000 + t * 0x10000 + (a - 0x2000000)) v
        .ok { s' with outs := { s'.outs with hostStatus := s.outs.hostStatus } }
      else .error 7
    | _ => .error 7

/-! ## Traps (R137) -/

/-- An exception of the core: the domain stops, contained; the LAUNCH completes with PROGRAM_TRAP, and TIL_CORE_PC keeps the PC and
`mcause`. -/
def State.coreTrap (s : State) (t cause : Nat) : State :=
  let pc := (s.tile t).pc
  let s := s.setReg (TIL_CORE_PC t) (word (pc.toNat % 2 ^ 32 + cause * 2 ^ 32))
  let s := s.trapDomain t ST_PROGRAM_TRAP (s.fld (TIL_STATE_LOGICAL t) + cause * 2 ^ 9)
  s.setTile t { s.tile t with run := .trapped, pc := pc }

/-- What an instruction leads to: an exception, or the next state with a register to write and the next PC. -/
inductive Ran where
  | trap (cause : Nat)
  | done (s : State) (rd : Nat) (v : Word) (pc : Word)

/-- The core after an instruction. -/
def State.retireCore (s : State) (t : Nat) (r : Ran) : State :=
  match r with
  | .trap c => s.coreTrap t c
  | .done s rd v pc =>
    let c := s.tile t
    s.setTile t { (c.putX rd v) with pc := pc, mcycle := (c.mcycle + 1) % 2 ^ 64 }

/-! ## Computation -/

/-- The integer operations of I and M on 64-bit operands, by funct3 and funct7; none is illegal. -/
def alu64 (f3 f7 : Nat) (a b : Word) : Option Word :=
  let sh := b.toNat % 64
  let x := a.toInt
  let y := b.toInt
  match f7, f3 with
  | 0x00, 0 => some (a + b)
  | 0x20, 0 => some (a - b)
  | 0x00, 1 => some (a <<< sh)
  | 0x00, 2 => some (if x < y then 1#64 else 0#64)
  | 0x00, 3 => some (if a.toNat < b.toNat then 1#64 else 0#64)
  | 0x00, 4 => some (a ^^^ b)
  | 0x00, 5 => some (a >>> sh)
  | 0x20, 5 => some (a.sshiftRight sh)
  | 0x00, 6 => some (a ||| b)
  | 0x00, 7 => some (a &&& b)
  | 0x01, 0 => some (a * b)
  | 0x01, 1 => some (word (unsignedOf 64 (x * y / 2 ^ 64)))
  | 0x01, 2 => some (word (unsignedOf 64 (x * (b.toNat : Int) / 2 ^ 64)))
  | 0x01, 3 => some (word (a.toNat * b.toNat / 2 ^ 64))
  | 0x01, 4 => some (if y = 0 then word (2 ^ 64 - 1) else word (unsignedOf 64 (x.tdiv y)))
  | 0x01, 5 => some (if b.toNat = 0 then word (2 ^ 64 - 1) else word (a.toNat / b.toNat))
  | 0x01, 6 => some (if y = 0 then a else word (unsignedOf 64 (x.tmod y)))
  | 0x01, 7 => some (if b.toNat = 0 then a else word (a.toNat % b.toNat))
  | _, _ => none

/-- The 32-bit operations. -/
def alu32 (f3 f7 : Nat) (a b : Word) : Option Word :=
  let sh := b.toNat % 32
  let u := a.toNat % 2 ^ 32
  let w := b.toNat % 2 ^ 32
  let x := signedOf 32 u
  let y := signedOf 32 w
  match f7, f3 with
  | 0x00, 0 => some (low32 (a + b))
  | 0x20, 0 => some (low32 (a - b))
  | 0x00, 1 => some (low32 (a <<< sh))
  | 0x00, 5 => some (sext 32 (u / 2 ^ sh))
  | 0x20, 5 => some (word (unsignedOf 64 (x / 2 ^ sh)))
  | 0x01, 0 => some (low32 (a * b))
  | 0x01, 4 => some (if y = 0 then word (2 ^ 64 - 1) else sext 32 (unsignedOf 32 (x.tdiv y)))
  | 0x01, 5 => some (if w = 0 then word (2 ^ 64 - 1) else sext 32 (u / w))
  | 0x01, 6 => some (if y = 0 then sext 32 u else sext 32 (unsignedOf 32 (x.tmod y)))
  | 0x01, 7 => some (if w = 0 then sext 32 u else sext 32 (u % w))
  | _, _ => none

/-- The operations with an immediate: shifts take their amount and kind from its bits. -/
def aluImm (wide : Bool) (w : Nat) (a : Word) : Option Word :=
  let bits := if wide then 6 else 5
  let kind := if wide then bitsOf w 26 6 * 2 else f7 w
  let go (k : Nat) (b : Word) : Option Word := if wide then alu64 (f3 w) k a b else alu32 (f3 w) k a b
  if f3 w = 1 then (if kind = 0 then go 0 (word (bitsOf w 20 bits)) else none)
  else if f3 w = 5 then (if kind = 0 ∨ kind = 0x20 then go kind (word (bitsOf w 20 bits)) else none)
  else if wide ∨ f3 w = 0 then go 0 (immI w)
  else none

/-- Whether a branch is taken. -/
def branchTaken (f : Nat) (a b : Word) : Option Bool :=
  match f with
  | 0 => some (a == b)
  | 1 => some (a != b)
  | 4 => some (decide (a.toInt < b.toInt))
  | 5 => some (decide (b.toInt ≤ a.toInt))
  | 6 => some (decide (a.toNat < b.toNat))
  | 7 => some (decide (b.toNat ≤ a.toNat))
  | _ => none

/-! ## The A extension -/

/-- The value that an AMO stores, on `n`-byte operands. -/
def amoValue (f5 n a b : Nat) : Option Nat :=
  let sa := signedOf (8 * n) a
  let sb := signedOf (8 * n) b
  match f5 with
  | 0x01 => some b
  | 0x00 => some ((a + b) % 256 ^ n)
  | 0x04 => some (a ^^^ b)
  | 0x0C => some (a &&& b)
  | 0x08 => some (a ||| b)
  | 0x10 => some (if sb < sa then b else a)
  | 0x14 => some (if sa < sb then b else a)
  | 0x18 => some (min a b)
  | 0x1C => some (max a b)
  | _ => none

/-- Whether a reservation covers `n` bytes at `a`. -/
def Tile.reserves (c : Tile) (a n : Nat) : Bool :=
  match c.reserve with
  | some (b, m) => decide (b ≤ a ∧ a + n ≤ b + m)
  | Option.none => false

/-- The physical place of a local address, by which reservations are kept: a scratchpad's window, or the local address. -/
def reservePlace (t a : Nat) : Nat := if 0x1000000 ≤ a ∧ a < 0x1300000 then padAddr t + (a - 0x1000000) else a

/-- An atomic instruction on data SRAM or the scratchpad. -/
def State.runAtomic (s : State) (t w : Nat) (next : Word) : Ran :=
  let c := s.tile t
  let n := if f3 w = 2 then 4 else 8
  let f5 := bitsOf w 27 5
  let a := (c.x (fRs1 w)).toNat
  let b := (c.x (fRs2 w)).toNat % 256 ^ n
  let place := localOf a n
  let fault := if f5 = 2 then 5 else 7
  if (f3 w ≠ 2 ∧ f3 w ≠ 3) ∨ (f5 = 2 ∧ fRs2 w ≠ 0) ∨ (f5 ≠ 2 ∧ f5 ≠ 3 ∧ amoValue f5 n 0 0 = none) then .trap CAUSE_ILLEGAL
  else if a % n ≠ 0 then .trap (if f5 = 2 then 4 else 6)
  else if place ≠ .dram ∧ place ≠ .pad then .trap fault
  else if f5 = 2 then
    match s.coreLoad t a n with
    | .ok (v, s) => .done (s.setTile t { s.tile t with reserve := some (reservePlace t a, n) }) (fRd w) (sext (8 * n) v) next
    | .error e => .trap e
  else if f5 = 3 then
    let s1 := s.setTile t { c with reserve := Option.none }
    if c.reserves (reservePlace t a) n then
      match s1.coreStore t a n b with
      | .ok s => .done s (fRd w) 0#64 next
      | .error e => .trap e
    else .done s1 (fRd w) 1#64 next
  else
    match s.coreLoad t a n with
    | .error e => .trap e
    | .ok (v, s) =>
      match s.coreStore t a n ((amoValue f5 n v b).getD v) with
      | .ok s => .done s (fRd w) (sext (8 * n) v) next
      | .error e => .trap e

/-! ## CSRs (R133) -/

/-- A CSR instruction: `mcycle` reads and writes, `time` reads; the spec gives no other. Core cycles that pass without an instruction are
a free amount. -/
def State.runCsr (s : State) (t w : Nat) (next : Word) : Ran :=
  let c := s.tile t
  let n := bitsOf w 20 12
  let imm := f3 w / 4 = 1
  let src := if imm then word (fRs1 w) else c.x (fRs1 w)
  let kind := f3 w % 4
  let writes := kind = 1 ∨ fRs1 w ≠ 0
  if kind = 0 then .trap CAUSE_ILLEGAL
  else if n = 0xB00 then
    let x := s.freshWord.1
    let s := s.freshWord.2
    let old := word ((c.mcycle + x.toNat) % 2 ^ 64)
    let new := if kind = 1 then src else if kind = 2 then old ||| src else old &&& ~~~src
    .done (s.setTile t { c with mcycle := (if writes then new else old).toNat }) (fRd w) old next
  else if n = 0xC01 ∧ ¬ writes then .done s (fRd w) (word s.now) next
  else .trap CAUSE_ILLEGAL

/-! ## One instruction -/

/-- A load or store instruction. -/
def State.runAccess (s : State) (t w : Nat) (next : Word) : Ran :=
  let c := s.tile t
  let f := f3 w
  let n := 2 ^ (f % 4)
  if w % 128 = 0x03 then
    if f = 7 then .trap CAUSE_ILLEGAL
    else
      match s.coreLoad t (c.x (fRs1 w) + immI w).toNat n with
      | .ok (v, s) => .done s (fRd w) (if f < 4 then sext (8 * n) v else word v) next
      | .error e => .trap e
  else if f > 3 then .trap CAUSE_ILLEGAL
  else
    match s.coreStore t (c.x (fRs1 w) + immS w).toNat n (c.x (fRs2 w)).toNat with
    | .ok s => .done s 0 0#64 next
    | .error e => .trap e

/-- A register result, or an illegal instruction. -/
def ranOf (s : State) (rd : Nat) (next : Word) : Option Word → Ran
  | some v => .done s rd v next
  | none => .trap CAUSE_ILLEGAL

/-- SYSTEM instructions: `ecall`, `wfi` (which may end at once), and the CSR instructions. -/
def State.runSystem (s : State) (t w : Nat) (next : Word) : Ran :=
  if w = 0x00000073 then .trap CAUSE_ECALL
  else if w = 0x10500073 then .done s 0 0#64 next
  else if f3 w = 0 then .trap CAUSE_ILLEGAL
  else s.runCsr t w next

/-- One 32-bit instruction of RV64IMAC at the core of tile `t`, `len` bytes long as fetched. -/
def State.runWord (s : State) (t w len : Nat) : Ran :=
  let c := s.tile t
  let a := c.x (fRs1 w)
  let b := c.x (fRs2 w)
  let next := c.pc + word len
  match w % 128 with
  | 0x37 => .done s (fRd w) (immU w) next
  | 0x17 => .done s (fRd w) (c.pc + immU w) next
  | 0x6F => .done s (fRd w) next (c.pc + immJ w)
  | 0x67 => if f3 w = 0 then .done s (fRd w) next ((a + immI w) &&& ~~~1#64) else .trap CAUSE_ILLEGAL
  | 0x63 =>
    match branchTaken (f3 w) a b with
    | some yes => .done s 0 0#64 (if yes then c.pc + immB w else next)
    | none => .trap CAUSE_ILLEGAL
  | 0x03 => s.runAccess t w next
  | 0x23 => s.runAccess t w next
  | 0x13 => ranOf s (fRd w) next (aluImm true w a)
  | 0x1B => ranOf s (fRd w) next (aluImm false w a)
  | 0x33 => ranOf s (fRd w) next (alu64 (f3 w) (f7 w) a b)
  | 0x3B => ranOf s (fRd w) next (alu32 (f3 w) (f7 w) a b)
  | 0x0F => if f3 w = 0 then .done s 0 0#64 next else .trap CAUSE_ILLEGAL
  | 0x2F => s.runAtomic t w next
  | 0x73 => s.runSystem t w next
  | _ => .trap CAUSE_ILLEGAL

/-- Whether a word is an instruction of Table TIL-3. -/
def isCustom (w : Nat) : Bool :=
  w % 128 == 0x0B && [(0, 0), (0, 1), (1, 0), (1, 1), (1, 2), (2, 0), (2, 1), (3, 0), (3, 1), (4, 0), (4, 1), (5, 0)].contains (f3 w, f7 w)

/-- Whether the core of tile `t` executes: inside a LAUNCH, in a domain that runs (R135). -/
def State.coreRuns (s : State) (t : Nat) : Bool :=
  s.aloft && (s.tile t).run == .running && (match s.domOf t with | some d => s.domState d == 1 || s.domState d == 2 | none => false)

/-- The core executes the instruction at its PC, or takes its exception; the instructions of Table TIL-3 and `ebreak` are commands
of their own. -/
def State.coreStep (s : State) (t : Nat) : State :=
  match (s.tile t).fetch with
  | .fault c => s.coreTrap t c
  | .word w len => if isCustom w ∨ w = 0x00100073 then s else s.retireCore t (s.runWord t w len)

/-- CORE_INSTRUCTION (R133, R134, R137). `ecc` is the worst that its reads of stored words find (R420): a corrected word is
delivered, an uncorrectable one faults the tile. -/
def execCoreInstruction (t : Fin 384) (ecc : Found) (s : State) : Out :=
  if s.coreRuns t.val then
    match s.tileRead t.val ecc with
    | (s, true) => .next (s.coreStep t.val)
    | (s, false) => .next s
  else .next s

/-- EBREAK (R137, R475): under HALT the core halts at the instruction, and its domain shows SLIPPED; otherwise it is a program trap. -/
def execEbreak (t : Fin 384) (s : State) : Out :=
  if s.coreRuns t.val then
    match (s.tile t.val).fetch with
    | .word w _ =>
      if w ≠ 0x00100073 then .next s
      else if bitOf s.scope 1 then .next (s.setTile t.val { s.tile t.val with run := .halted })
      else .next (s.coreTrap t.val CAUSE_BREAK)
    | .fault _ => .next s
  else .next s

end Sys2Proof.Machine
end

