-- ==== Sys2Proof/Machine/Issue.lean ====
section
/-!
DEFINITION. The operation-issue instructions of the tile core (Table TIL-3, R138 to R143, R148, R157, R240).
-/
namespace Sys2Proof.Machine

/-- The word at the PC of a running core, when it is the instruction of Table TIL-3 with this funct3 and funct7. -/
def State.customAt (s : State) (t k j : Nat) : Option Nat :=
  if s.coreRuns t then
    match (s.tile t).fetch with
    | .word w _ => if w % 128 = 0x0B ∧ f3 w = k ∧ f7 w = j then some w else none
    | .fault _ => none
  else none

/-- The instruction retires: `rd` takes `v`, and the PC moves past it. -/
def State.retire4 (s : State) (t rd : Nat) (v : Nat) : State :=
  s.retireCore t (.done s rd (word v) ((s.tile t).pc + 4#64))

/-! ## Issue (R139, R142) -/

/-- The descriptor fault of an operation that is found at issue: an ENGINE without a meaning, the cases of R199, and those of R292. -/
def State.issueFault (s : State) (t : Nat) (o : Op) : Option Nat :=
  let e := o.engineCode
  if e ≥ 10 then some ST_OP_DESCRIPTOR
  else if e ≤ 3 then s.arrayFault t o
  else if e = 9 ∧ o.code = 1 then
    match s.domOf t with
    | some d => s.registerFault t d o
    | none => none
  else none

/-- The exception of a descriptor or message address: misaligned, or outside data SRAM. -/
def dramFault (a store : Nat) : Option Nat :=
  if a % 64 ≠ 0 then some (4 + store)
  else if localOf a 64 = .dram then none
  else some (5 + store)

/-- `op.issue` and `op.try` with room in the queue: the descriptor is copied to a free index and the ticket written to `rd`; a
descriptor fault found now stops the domain. -/
def State.issue (s : State) (t rd : Nat) (desc : Bytes) (pre i : Nat) : State :=
  let s := ({ s with fresh := s.fresh + 1 }.enqueue t i desc pre 0).noteSpans t i
  match s.op t i with
  | none => s
  | some o =>
    match s.issueFault t o with
    | some st => s.opFault t i st
    | none => s.retire4 t rd (mkTicket i o.gen)

/-- The core stalls on a full queue (Table TIL-12): the cycles it waits are a free amount. -/
def State.fullStall (s : State) (t : Nat) : State :=
  let x := s.freshWord.1
  let s := s.freshWord.2
  s.setTile t { s.tile t with fullStalls := (s.tile t).fullStalls + x.toNat }

/-- OP_ISSUE (R138, R139): the descriptor at rs1 is issued with the prerequisites in rs2; the core stalls while the queue is full. -/
def execOpIssue (t : Fin 384) (rd rs1 rs2 : Fin 32) (s : State) : Out :=
  match s.customAt t.val 0 0 with
  | none => .next s
  | some w =>
    if fRd w ≠ rd.val ∨ fRs1 w ≠ rs1.val ∨ fRs2 w ≠ rs2.val then .next s
    else
      let c := s.tile t.val
      let a := (c.x rs1.val).toNat
      match dramFault a 0, s.freeIndex t.val with
      | some e, _ => .next (s.coreTrap t.val e)
      | none, none => .next (s.fullStall t.val)
      | none, some i => .next (s.issue t.val rd.val (c.dramBytes (a - 0x100000) 64) (c.x rs2.val).toNat i)

/-- OP_TRY (R139): as `op.issue`, but rd ← 0 without issuing when the queue is full. -/
def execOpTry (t : Fin 384) (rd rs1 rs2 : Fin 32) (s : State) : Out :=
  match s.customAt t.val 0 1 with
  | none => .next s
  | some w =>
    if fRd w ≠ rd.val ∨ fRs1 w ≠ rs1.val ∨ fRs2 w ≠ rs2.val then .next s
    else
      let c := s.tile t.val
      let a := (c.x rs1.val).toNat
      match dramFault a 0, s.freeIndex t.val with
      | some e, _ => .next (s.coreTrap t.val e)
      | none, none => .next (s.retire4 t.val rd.val 0)
      | none, some i => .next (s.issue t.val rd.val (c.dramBytes (a - 0x100000) 64) (c.x rs2.val).toNat i)

/-! ## Tickets (R138, R142) -/

/-- The ticket in a register: 16 bits. -/
def ticketIn (v : Word) : Nat := v.toNat % 65536

/-- OP_WAIT (R138): the core goes on once the ticket in rs1 is complete. -/
def execOpWait (t : Fin 384) (rs1 : Fin 32) (s : State) : Out :=
  match s.customAt t.val 1 0 with
  | none => .next s
  | some w =>
    if fRs1 w = rs1.val ∧ (s.tile t.val).complete (ticketIn ((s.tile t.val).x rs1.val)) = true then .next (s.retire4 t.val 0 0)
    else .next s

/-- OP_TEST (R138): rd ← 1 when the ticket in rs1 is complete, else 0. -/
def execOpTest (t : Fin 384) (rd rs1 : Fin 32) (s : State) : Out :=
  match s.customAt t.val 1 1 with
  | none => .next s
  | some w =>
    if fRd w ≠ rd.val ∨ fRs1 w ≠ rs1.val then .next s
    else .next (s.retire4 t.val rd.val (if (s.tile t.val).complete (ticketIn ((s.tile t.val).x rs1.val)) then 1 else 0))

/-- The completion status of a ticket (R142): the transfer outcome while its generation is current, otherwise zero. -/
def Tile.outcome (x : Tile) (ticket : Nat) : Nat :=
  match smapFind x.lastStatus (ticket % 64) with
  | some (g, st) => if g = ticket / 64 then st else 0
  | none => 0

/-- OP_STATUS (R142): rd ← the completion status of the ticket in rs1. -/
def execOpStatus (t : Fin 384) (rd rs1 : Fin 32) (s : State) : Out :=
  match s.customAt t.val 1 2 with
  | none => .next s
  | some w =>
    if fRd w ≠ rd.val ∨ fRs1 w ≠ rs1.val then .next s
    else .next (s.retire4 t.val rd.val ((s.tile t.val).outcome (ticketIn ((s.tile t.val).x rs1.val))))

/-! ## Messages (R148) -/

/-- An index operand: a value outside its range names one that the spec does not give. -/
def State.indexOf (s : State) (v : Word) (n : Nat) : Nat × State :=
  if v.toNat < n then (v.toNat, s) else (Config.choice s.fresh % n, { s with fresh := s.fresh + 1 })

/-- The oldest message of channel `c` moved to data SRAM at `a`, its LENGTH to `rd`. -/
def State.takeMessage (s : State) (t c a rd : Nat) (m : Bytes) (ms : List Bytes) : State :=
  let s := s.setChan t c ms
  let s := s.setTile t ((s.tile t).dramPut (a - 0x100000) (padTo 64 m))
  s.retire4 t rd (fieldAt m 5 1)

/-- MSG_RECV (R148): the core waits for a message on channel rs1, and moves the oldest to data SRAM at rs2. -/
def execMsgRecv (t : Fin 384) (rd rs1 rs2 : Fin 32) (s : State) : Out :=
  match s.customAt t.val 2 0 with
  | none => .next s
  | some w =>
    if fRd w ≠ rd.val ∨ fRs1 w ≠ rs1.val ∨ fRs2 w ≠ rs2.val then .next s
    else
      let x := s.tile t.val
      let a := (x.x rs2.val).toNat
      match dramFault a 2 with
      | some e => .next (s.coreTrap t.val e)
      | none =>
        let (c, s1) := s.indexOf (x.x rs1.val) 16
        match s1.chan t.val c with
        | [] => .next s
        | m :: ms => .next (s1.takeMessage t.val c a rd.val m ms)

/-- MSG_POLL (R148): as `msg.recv`, but rd ← 0 without waiting when the channel is empty. -/
def execMsgPoll (t : Fin 384) (rd rs1 rs2 : Fin 32) (s : State) : Out :=
  match s.customAt t.val 2 1 with
  | none => .next s
  | some w =>
    if fRd w ≠ rd.val ∨ fRs1 w ≠ rs1.val ∨ fRs2 w ≠ rs2.val then .next s
    else
      let x := s.tile t.val
      let a := (x.x rs2.val).toNat
      match dramFault a 2 with
      | some e => .next (s.coreTrap t.val e)
      | none =>
        let (c, s1) := s.indexOf (x.x rs1.val) 16
        match s1.chan t.val c with
        | [] => .next (s1.retire4 t.val rd.val 0)
        | m :: ms => .next (s1.takeMessage t.val c a rd.val m ms)

/-! ## Barriers (R157) -/

/-- BAR_ARRIVE (R157): the tile arrives at barrier rs1; it stalls while an earlier arrival of it there is unreleased. -/
def execBarArrive (t : Fin 384) (rs1 : Fin 32) (s : State) : Out :=
  match s.customAt t.val 3 0, s.domOf t.val with
  | some w, some d =>
    if fRs1 w ≠ rs1.val then .next s
    else
      let (b, s1) := s.indexOf ((s.tile t.val).x rs1.val) 8
      match s1.arrive d b (s1.logicalOf d t.val) with
      | some s2 => .next (s2.retire4 t.val 0 0)
      | none => .next s
  | _, _ => .next s

/-- BAR_WAIT (R157): the core goes on once the tile has no unreleased arrival at barrier rs1. -/
def execBarWait (t : Fin 384) (rs1 : Fin 32) (s : State) : Out :=
  match s.customAt t.val 3 1, s.domOf t.val with
  | some w, some d =>
    if fRs1 w ≠ rs1.val then .next s
    else
      let (b, s1) := s.indexOf ((s.tile t.val).x rs1.val) 8
      if ((s1.dom d).barrier b).holds (s1.logicalOf d t.val) then .next s else .next (s1.retire4 t.val 0 0)
  | _, _ => .next s

/-! ## Control (R135, R143) -/

/-- A control operation issued by the core, which then waits; while the queue is full the core stalls. -/
def State.control (s : State) (t op aux : Nat) : State :=
  match s.freeIndex t with
  | none => s.fullStall t
  | some i =>
    let s := { s with fresh := s.fresh + 1 }.enqueue t i (controlDesc op) 0 aux
    s.setTile t { s.tile t with run := .waitSlot, mcycle := ((s.tile t).mcycle + 1) % 2 ^ 64 }

/-- SLOT_END (R135, R143): SLOT_END is issued with the start PC in rs1, and the core waits for the next slot. -/
def execSlotEnd (t : Fin 384) (rs1 : Fin 32) (s : State) : Out :=
  match s.customAt t.val 4 0 with
  | none => .next s
  | some w =>
    if fRs1 w ≠ rs1.val then .next s
    else .next (s.control t.val 1 (((s.tile t.val).x rs1.val).toNat % 2 ^ 32))

/-- PROG_END (R143): PROG_END is issued, and the core stops until the next LAUNCH. -/
def execProgEnd (t : Fin 384) (s : State) : Out :=
  match s.customAt t.val 4 1 with
  | none => .next s
  | some _ => .next (s.control t.val 2 0)

/-- SUM_READ (R240): rd ← the vector summary register rs1 as it stands; outside 0 to 15 the spec gives no value. -/
def execSumRead (t : Fin 384) (rd rs1 : Fin 32) (s : State) : Out :=
  match s.customAt t.val 5 0 with
  | none => .next s
  | some w =>
    if fRd w ≠ rd.val ∨ fRs1 w ≠ rs1.val then .next s
    else
      let v := (s.tile t.val).x rs1.val
      if v.toNat < 16 then .next (s.retire4 t.val rd.val (s.reg (VEC_SUM t.val v.toNat)).toNat)
      else
        let x := s.freshWord.1
        .next (s.freshWord.2.retire4 t.val rd.val x.toNat)

/-! ## Ballast (R442) -/

/-- Whether tile `t` waits in `bar.wait` or in `slot.end`. -/
def State.waitsIdle (s : State) (t : Nat) : Bool :=
  let x := s.tile t
  match s.domOf t with
  | none => false
  | some d =>
    (x.run == .waitSlot && !(x.ops.any (fun e => e.2.engineCode == 15 && e.2.code == 2))) ||
      (s.customAt t 3 1).any (fun w => ((s.dom d).barrier (x.x (fRs1 w)).toNat).holds (s.logicalOf d t))

/-- The ballast that the arrays of tile `t` run (R442), in per cent of the tile's share of die peak: none unless the tile waits with its arrays
idle, or while the cap controller has it off (R435). PCT above 70 acts as 70. -/
def State.ballast (s : State) (t : Nat) : Nat :=
  if s.waitsIdle t && ([0, 1, 2].all (fun a => (s.tile t).running a == 0)) && !s.power.ballastOff then
    min (Config.arrayDraw t s.localNs) (min 70 (s.fld PWR_BALLAST_PCT))
  else 0

end Sys2Proof.Machine
end

