-- ==== Sys2Proof/Machine/Dispatch.lean ====
section
/-!
DEFINITION. What each command does: one arm per constructor of Instr.
-/
namespace Sys2Proof.Machine

/-- The effect of a command on everything but the queue of waiting commands. -/
def exec (i : Instr) (s : State) : Host.Outcome State Fault Refusal :=
  match i with
  | .registerWrite addr size value => Sys2Proof.Machine.execRegisterWrite addr size value s
  | .pwrgoodRise bootSrc mgmtAddr pufOk => Sys2Proof.Machine.execPwrgoodRise bootSrc mgmtAddr pufOk s
  | .pwrgoodFall => Sys2Proof.Machine.execPwrgoodFall s
  | .rstNAssert ns => Sys2Proof.Machine.execRstNAssert ns s
  | .rstNDeassert bootSrc mgmtAddr pufOk => Sys2Proof.Machine.execRstNDeassert bootSrc mgmtAddr pufOk s
  | .tetheredEntry => Sys2Proof.Machine.execTetheredEntry s
  | .hostWatchdogExpiry pufOk => Sys2Proof.Machine.execHostWatchdogExpiry pufOk s
  | .ascend full => Sys2Proof.Machine.execAscend full s
  | .deviceReset holdHbm full => Sys2Proof.Machine.execDeviceReset holdHbm full s
  | .hostReset full => Sys2Proof.Machine.execHostReset full s
  | .startClear full => Sys2Proof.Machine.execStartClear full s
  | .powerDown full => Sys2Proof.Machine.execPowerDown full s
  | .retryDelayExpiry => Sys2Proof.Machine.execRetryDelayExpiry s
  | .ascentPowerStage reason ms => Sys2Proof.Machine.execAscentPowerStage reason ms s
  | .ascentHbmStack warmOk reason retries ms => Sys2Proof.Machine.execAscentHbmStack warmOk reason retries ms s
  | .ascentArrayStage unusable bad reason ms => Sys2Proof.Machine.execAscentArrayStage unusable bad reason ms s
  | .ascentMeshStage reason ms => Sys2Proof.Machine.execAscentMeshStage reason ms s
  | .ascentUcieStage failed ms => Sys2Proof.Machine.execAscentUcieStage failed ms s
  | .ascentLineStage sramOk ports failedLanes ms => Sys2Proof.Machine.execAscentLineStage sramOk ports failedLanes ms s
  | .ascentEntryStage ms => Sys2Proof.Machine.execAscentEntryStage ms s
  | .stageTimeout retries => Sys2Proof.Machine.execStageTimeout retries s
  | .railPgRise r => Sys2Proof.Machine.execRailPgRise r s
  | .railPgTimeout r => Sys2Proof.Machine.execRailPgTimeout r s
  | .railPgFall r => Sys2Proof.Machine.execRailPgFall r s
  | .hostPortRetrain k replays retrain => Sys2Proof.Machine.execHostPortRetrain k replays retrain s
  | .hostLinkLoss k => Sys2Proof.Machine.execHostLinkLoss k s
  | .hostAccessTimeout addr => Sys2Proof.Machine.execHostAccessTimeout addr s
  | .tickBoundary control sram found => Sys2Proof.Machine.execTickBoundary control sram found s
  | .timeMeasurementEnd => Sys2Proof.Machine.execTimeMeasurementEnd s
  | .timeMeasureRetry => Sys2Proof.Machine.execTimeMeasureRetry s
  | .timeRoundTripPeriod => Sys2Proof.Machine.execTimeRoundTripPeriod s
  | .structStage h => Sys2Proof.Machine.execStructStage h s
  | .stageCopyEnd => Sys2Proof.Machine.execStageCopyEnd s
  | .structValidate h => Sys2Proof.Machine.execStructValidate h s
  | .validationEnd => Sys2Proof.Machine.execValidationEnd s
  | .structCommit h => Sys2Proof.Machine.execStructCommit h s
  | .commitQuiescence => Sys2Proof.Machine.execCommitQuiescence s
  | .commitWaitExpiry => Sys2Proof.Machine.execCommitWaitExpiry s
  | .commitPreparationEnd ok => Sys2Proof.Machine.execCommitPreparationEnd ok s
  | .structDiscard h => Sys2Proof.Machine.execStructDiscard h s
  | .structUpdate h => Sys2Proof.Machine.execStructUpdate h s
  | .pushWindowWrite n off data => Sys2Proof.Machine.execPushWindowWrite n off data s
  | .pushCfgWrite n value => Sys2Proof.Machine.execPushCfgWrite n value s
  | .pushSeal n => Sys2Proof.Machine.execPushSeal n s
  | .pushSealApplied n => Sys2Proof.Machine.execPushSealApplied n s
  | .hostCoreAccess dir addr size value found => Sys2Proof.Machine.execHostCoreAccess dir addr size value found s
  | .pcieInboundRequest dir target size data found => Sys2Proof.Machine.execPcieInboundRequest dir target size data found s
  | .doorbell q tail => Sys2Proof.Machine.execDoorbell q tail s
  | .ringEntryFetch q => Sys2Proof.Machine.execRingEntryFetch q s
  | .staleSlotReread q => Sys2Proof.Machine.execStaleSlotReread q s
  | .windowSubmit q off data => Sys2Proof.Machine.execWindowSubmit q off data s
  | .queueEnable q => Sys2Proof.Machine.execQueueEnable q s
  | .queueDrain q => Sys2Proof.Machine.execQueueDrain q s
  | .queueResume q => Sys2Proof.Machine.execQueueResume q s
  | .cqHeadWrite q value => Sys2Proof.Machine.execCqHeadWrite q value s
  | .protoNegotiate value => Sys2Proof.Machine.execProtoNegotiate value s
  | .coalesceTimerExpiry q => Sys2Proof.Machine.execCoalesceTimerExpiry q s
  | .launch h found => Sys2Proof.Machine.execLaunch h found s
  | .stop h => Sys2Proof.Machine.execStop h s
  | .signal h => Sys2Proof.Machine.execSignal h s
  | .signalRetry h => Sys2Proof.Machine.execSignalRetry h s
  | .moveCopy h => Sys2Proof.Machine.execMoveCopy h s
  | .moveFill h => Sys2Proof.Machine.execMoveFill h s
  | .moveTransferDone h found => Sys2Proof.Machine.execMoveTransferDone h found s
  | .stepBegin h => Sys2Proof.Machine.execStepBegin h s
  | .stepUpdate h => Sys2Proof.Machine.execStepUpdate h s
  | .stepResume h => Sys2Proof.Machine.execStepResume h s
  | .stepSnapshot h => Sys2Proof.Machine.execStepSnapshot h s
  | .stepRestore h whole => Sys2Proof.Machine.execStepRestore h whole s
  | .restoreBasisLoaded d outcome basis => Sys2Proof.Machine.execRestoreBasisLoaded d outcome basis s
  | .identityGet h => Sys2Proof.Machine.execIdentityGet h s
  | .attestGet h found => Sys2Proof.Machine.execAttestGet h found s
  | .watchRead h => Sys2Proof.Machine.execWatchRead h s
  | .watchClear h => Sys2Proof.Machine.execWatchClear h s
  | .queryInfo h => Sys2Proof.Machine.execQueryInfo h s
  | .timeMeasure h => Sys2Proof.Machine.execTimeMeasure h s
  | .handleState h => Sys2Proof.Machine.execHandleState h s
  | .coreInstruction t ecc => Sys2Proof.Machine.execCoreInstruction t ecc s
  | .ebreak t => Sys2Proof.Machine.execEbreak t s
  | .opIssue t rd rs1 rs2 => Sys2Proof.Machine.execOpIssue t rd rs1 rs2 s
  | .opTry t rd rs1 rs2 => Sys2Proof.Machine.execOpTry t rd rs1 rs2 s
  | .opWait t rs1 => Sys2Proof.Machine.execOpWait t rs1 s
  | .opTest t rd rs1 => Sys2Proof.Machine.execOpTest t rd rs1 s
  | .opStatus t rd rs1 => Sys2Proof.Machine.execOpStatus t rd rs1 s
  | .msgRecv t rd rs1 rs2 => Sys2Proof.Machine.execMsgRecv t rd rs1 rs2 s
  | .msgPoll t rd rs1 rs2 => Sys2Proof.Machine.execMsgPoll t rd rs1 rs2 s
  | .barArrive t rs1 => Sys2Proof.Machine.execBarArrive t rs1 s
  | .barWait t rs1 => Sys2Proof.Machine.execBarWait t rs1 s
  | .slotEnd t rs1 => Sys2Proof.Machine.execSlotEnd t rs1 s
  | .progEnd t => Sys2Proof.Machine.execProgEnd t s
  | .sumRead t rd rs1 => Sys2Proof.Machine.execSumRead t rd rs1 s
  | .operationStart t engine ecc => Sys2Proof.Machine.execOperationStart t engine ecc s
  | .operationComplete t idx => Sys2Proof.Machine.execOperationComplete t idx s
  | .dmaCopy t idx found => Sys2Proof.Machine.execDmaCopy t idx found s
  | .send t idx => Sys2Proof.Machine.execSend t idx s
  | .collPost t idx found => Sys2Proof.Machine.execCollPost t idx found s
  | .mmaS t idx => Sys2Proof.Machine.execMmaS t idx s
  | .mmaT t idx => Sys2Proof.Machine.execMmaT t idx s
  | .mmaW t idx => Sys2Proof.Machine.execMmaW t idx s
  | .mmaD t idx => Sys2Proof.Machine.execMmaD t idx s
  | .turn t idx => Sys2Proof.Machine.execTurn t idx s
  | .vecCopy t idx => Sys2Proof.Machine.execVecCopy t idx s
  | .vecAdd t idx => Sys2Proof.Machine.execVecAdd t idx s
  | .vecSub t idx => Sys2Proof.Machine.execVecSub t idx s
  | .vecMul t idx => Sys2Proof.Machine.execVecMul t idx s
  | .vecFma t idx => Sys2Proof.Machine.execVecFma t idx s
  | .vecMul3 t idx => Sys2Proof.Machine.execVecMul3 t idx s
  | .vecDiv t idx => Sys2Proof.Machine.execVecDiv t idx s
  | .vecMax t idx => Sys2Proof.Machine.execVecMax t idx s
  | .vecMin t idx => Sys2Proof.Machine.execVecMin t idx s
  | .vecAbs t idx => Sys2Proof.Machine.execVecAbs t idx s
  | .vecCmp t idx => Sys2Proof.Machine.execVecCmp t idx s
  | .vecSelect t idx => Sys2Proof.Machine.execVecSelect t idx s
  | .vecSqrt t idx => Sys2Proof.Machine.execVecSqrt t idx s
  | .vecRsqrt t idx => Sys2Proof.Machine.execVecRsqrt t idx s
  | .vecRecip t idx => Sys2Proof.Machine.execVecRecip t idx s
  | .vecExp t idx => Sys2Proof.Machine.execVecExp t idx s
  | .vecLog t idx => Sys2Proof.Machine.execVecLog t idx s
  | .vecTanh t idx => Sys2Proof.Machine.execVecTanh t idx s
  | .vecSigmoid t idx => Sys2Proof.Machine.execVecSigmoid t idx s
  | .vecSilu t idx => Sys2Proof.Machine.execVecSilu t idx s
  | .vecGelu t idx => Sys2Proof.Machine.execVecGelu t idx s
  | .vecSin t idx => Sys2Proof.Machine.execVecSin t idx s
  | .vecCos t idx => Sys2Proof.Machine.execVecCos t idx s
  | .quant t idx => Sys2Proof.Machine.execQuant t idx s
  | .prepass t idx => Sys2Proof.Machine.execPrepass t idx s
  | .dequant t idx => Sys2Proof.Machine.execDequant t idx s
  | .mask t idx => Sys2Proof.Machine.execMask t idx s
  | .amaxMerge t idx => Sys2Proof.Machine.execAmaxMerge t idx s
  | .updPass1 t idx => Sys2Proof.Machine.execUpdPass1 t idx s
  | .updPass2 t idx found => Sys2Proof.Machine.execUpdPass2 t idx found s
  | .gather t idx found => Sys2Proof.Machine.execGather t idx found s
  | .append t idx found => Sys2Proof.Machine.execAppend t idx found s
  | .seqOpen t idx found => Sys2Proof.Machine.execSeqOpen t idx found s
  | .fork t idx found => Sys2Proof.Machine.execFork t idx found s
  | .seqClose t idx found => Sys2Proof.Machine.execSeqClose t idx found s
  | .kvpList t idx found => Sys2Proof.Machine.execKvpList t idx found s
  | .spillMoveEnd id found => Sys2Proof.Machine.execSpillMoveEnd id found s
  | .returnMoveEnd id found => Sys2Proof.Machine.execReturnMoveEnd id found s
  | .kvpEnable init found => Sys2Proof.Machine.execKvpEnable init found s
  | .kvpDisable => Sys2Proof.Machine.execKvpDisable s
  | .kvpDrainEnd => Sys2Proof.Machine.execKvpDrainEnd s
  | .stashRegister t idx found => Sys2Proof.Machine.execStashRegister t idx found s
  | .stashCaptureEnd id => Sys2Proof.Machine.execStashCaptureEnd id s
  | .stashFetch t idx found => Sys2Proof.Machine.execStashFetch t idx found s
  | .stashRelease t idx => Sys2Proof.Machine.execStashRelease t idx s
  | .stashMoveEnd id found => Sys2Proof.Machine.execStashMoveEnd id found s
  | .messageFlitArrival k => Sys2Proof.Machine.execMessageFlitArrival k s
  | .messageAck k => Sys2Proof.Machine.execMessageAck k s
  | .messageRefusal k => Sys2Proof.Machine.execMessageRefusal k s
  | .messageResendTimer t flow => Sys2Proof.Machine.execMessageResendTimer t flow s
  | .barrierRelease d b => Sys2Proof.Machine.execBarrierRelease d b s
  | .barrierGroupRelease d b g => Sys2Proof.Machine.execBarrierGroupRelease d b g s
  | .heartbeatSend t => Sys2Proof.Machine.execHeartbeatSend t s
  | .heartbeatTimeout t => Sys2Proof.Machine.execHeartbeatTimeout t s
  | .tileRecoveryEnd d => Sys2Proof.Machine.execTileRecoveryEnd d s
  | .d2dPortRetrain p replays retrain => Sys2Proof.Machine.execD2dPortRetrain p replays retrain s
  | .d2dPortLoss p => Sys2Proof.Machine.execD2dPortLoss p s
  | .linkDiePortLoss n ecc => Sys2Proof.Machine.execLinkDiePortLoss n ecc s
  | .errRingHeadWrite value => Sys2Proof.Machine.execErrRingHeadWrite value s
  | .hbmScrubRead x ecc syndrome => Sys2Proof.Machine.execHbmScrubRead x ecc syndrome s
  | .arbiterDecision a asks => Sys2Proof.Machine.execArbiterDecision a asks s
  | .arbiterWindowReset a => Sys2Proof.Machine.execArbiterWindowReset a s
  | .arbiterBackoffExpiry a r => Sys2Proof.Machine.execArbiterBackoffExpiry a r s
  | .arbiterWatchdogExpiry a => Sys2Proof.Machine.execArbiterWatchdogExpiry a s
  | .intakeEnable workers => Sys2Proof.Machine.execIntakeEnable workers s
  | .intakeDisable workers => Sys2Proof.Machine.execIntakeDisable workers s
  | .intakeRingTailWrite value => Sys2Proof.Machine.execIntakeRingTailWrite value s
  | .batchRecordFetch => Sys2Proof.Machine.execBatchRecordFetch s
  | .sampleDispatch => Sys2Proof.Machine.execSampleDispatch s
  | .sampleDecodeEnd e => Sys2Proof.Machine.execSampleDecodeEnd e s
  | .workerDone value => Sys2Proof.Machine.execWorkerDone value s
  | .intakeSeal d => Sys2Proof.Machine.execIntakeSeal d s
  | .portLinkUp n p => Sys2Proof.Machine.execPortLinkUp n p s
  | .portLinkDown n p failed ecc => Sys2Proof.Machine.execPortLinkDown n p failed ecc s
  | .portDownTimeout n p => Sys2Proof.Machine.execPortDownTimeout n p s
  | .hello n f ecc => Sys2Proof.Machine.execHello n f ecc s
  | .sack n f ecc resent => Sys2Proof.Machine.execSack n f ecc resent s
  | .collData n f ecc => Sys2Proof.Machine.execCollData n f ecc s
  | .collCtrl n f ecc => Sys2Proof.Machine.execCollCtrl n f ecc s
  | .remoteMsg n f ecc => Sys2Proof.Machine.execRemoteMsg n f ecc s
  | .mirrorFrame n f ecc => Sys2Proof.Machine.execMirrorFrame n f ecc s
  | .snapshotFrame n f ecc => Sys2Proof.Machine.execSnapshotFrame n f ecc s
  | .spoolFrame n f ecc => Sys2Proof.Machine.execSpoolFrame n f ecc s
  | .timeFrame n f ns ecc => Sys2Proof.Machine.execTimeFrame n f ns ecc s
  | .fstepFrame n f ecc => Sys2Proof.Machine.execFstepFrame n f ecc s
  | .retransmitTimer n k seq ecc => Sys2Proof.Machine.execRetransmitTimer n k seq ecc s
  | .sackTimer n k => Sys2Proof.Machine.execSackTimer n k s
  | .peerTimeout n rank => Sys2Proof.Machine.execPeerTimeout n rank s
  | .collGraceExpiry d c => Sys2Proof.Machine.execCollGraceExpiry d c s
  | .collHardTimeout d c => Sys2Proof.Machine.execCollHardTimeout d c s
  | .collComplete d c => Sys2Proof.Machine.execCollComplete d c s
  | .mirrorCommit d => Sys2Proof.Machine.execMirrorCommit d s
  | .snapshotIntervalExpiry => Sys2Proof.Machine.execSnapshotIntervalExpiry s
  | .snapReq n f ecc => Sys2Proof.Machine.execSnapReq n f ecc s
  | .snapshotFrontCopyEnd d found => Sys2Proof.Machine.execSnapshotFrontCopyEnd d found s
  | .snapshotWhole d => Sys2Proof.Machine.execSnapshotWhole d s
  | .partnerOfferAnswer idx status feed loop room => Sys2Proof.Machine.execPartnerOfferAnswer idx status feed loop room s
  | .riskSecond => Sys2Proof.Machine.execRiskSecond s
  | .powerSample rails vddc => Sys2Proof.Machine.execPowerSample rails vddc s
  | .capControllerPeriod => Sys2Proof.Machine.execCapControllerPeriod s
  | .thermalSample compute link hbm host outlet => Sys2Proof.Machine.execThermalSample compute link hbm host outlet s
  | .thermalStepPeriod => Sys2Proof.Machine.execThermalStepPeriod s
  | .droop k depth => Sys2Proof.Machine.execDroop k depth s
  | .emergencyHoldEnd => Sys2Proof.Machine.execEmergencyHoldEnd s
  | .voltageSettled => Sys2Proof.Machine.execVoltageSettled s
  | .setCap cap window full => Sys2Proof.Machine.execSetCap cap window full s
  | .clearShed full => Sys2Proof.Machine.execClearShed full s
  | .modbusReadHoldingRegisters unit pins other addr count => Sys2Proof.Machine.execModbusReadHoldingRegisters unit pins other addr count s
  | .modbusReadInputRegisters unit pins addr count => Sys2Proof.Machine.execModbusReadInputRegisters unit pins addr count s
  | .modbusWriteSingleRegister unit pins addr value => Sys2Proof.Machine.execModbusWriteSingleRegister unit pins addr value s
  | .modbusWriteMultipleRegisters unit pins addr values => Sys2Proof.Machine.execModbusWriteMultipleRegisters unit pins addr values s
  | .inletTemp f => Sys2Proof.Machine.execInletTemp f s
  | .flow f => Sys2Proof.Machine.execFlow f s
  | .pressure f => Sys2Proof.Machine.execPressure f s
  | .leak f => Sys2Proof.Machine.execLeak f s
  | .feedId f => Sys2Proof.Machine.execFeedId f s
  | .feedState f => Sys2Proof.Machine.execFeedState f s
  | .loopId f => Sys2Proof.Machine.execLoopId f s
  | .shed f => Sys2Proof.Machine.execShed f s
  | .facilityHeartbeat f => Sys2Proof.Machine.execFacilityHeartbeat f s
  | .fieldStatus f errors major minor => Sys2Proof.Machine.execFieldStatus f errors major minor s
  | .facilityStaleTimeout => Sys2Proof.Machine.execFacilityStaleTimeout s
  | .facilityOutboundPeriod => Sys2Proof.Machine.execFacilityOutboundPeriod s
  | .fieldRepeatPeriod => Sys2Proof.Machine.execFieldRepeatPeriod s
  | .fieldValueTimeout => Sys2Proof.Machine.execFieldValueTimeout s
  | .debugNonce full => Sys2Proof.Machine.execDebugNonce full s
  | .debugGrant grant full => Sys2Proof.Machine.execDebugGrant grant full s
  | .debugRevoke full => Sys2Proof.Machine.execDebugRevoke full s
  | .debugGrantExpiry => Sys2Proof.Machine.execDebugGrantExpiry s
  | .debugNonceExpiry => Sys2Proof.Machine.execDebugNonceExpiry s
  | .enrolOwner key signature full => Sys2Proof.Machine.execEnrolOwner key signature full s
  | .readLog first count full => Sys2Proof.Machine.execReadLog first count full s
  | .mctpControl addr eid => Sys2Proof.Machine.execMctpControl addr eid s
  | .pldmSensorRead idx => Sys2Proof.Machine.execPldmSensorRead idx s
  | .pldmSensorRefresh => Sys2Proof.Machine.execPldmSensorRefresh s
  | .pldmStartReportRead off len => Sys2Proof.Machine.execPldmStartReportRead off len s
  | .firmwareUpdateTransfer component first data floor => Sys2Proof.Machine.execFirmwareUpdateTransfer component first data floor s
  | .verifyComplete component => Sys2Proof.Machine.execVerifyComplete component s
  | .applyComplete component => Sys2Proof.Machine.execApplyComplete component s
  | .getVersion => Sys2Proof.Machine.execGetVersion s
  | .getCapabilities => Sys2Proof.Machine.execGetCapabilities s
  | .negotiateAlgorithms => Sys2Proof.Machine.execNegotiateAlgorithms s
  | .getDigests => Sys2Proof.Machine.execGetDigests s
  | .getCertificate off len => Sys2Proof.Machine.execGetCertificate off len s
  | .challenge nonce => Sys2Proof.Machine.execChallenge nonce s
  | .getMeasurements index nonce => Sys2Proof.Machine.execGetMeasurements index nonce s
  | .jtagBypass tdi => Sys2Proof.Machine.execJtagBypass tdi s
  | .jtagIdcode tdi => Sys2Proof.Machine.execJtagIdcode tdi s
  | .jtagSamplePreload tdi pins => Sys2Proof.Machine.execJtagSamplePreload tdi pins s
  | .jtagExtest tdi pins => Sys2Proof.Machine.execJtagExtest tdi pins s
  | .jtagClamp tdi => Sys2Proof.Machine.execJtagClamp tdi s
  | .instrumentAccess tdi capture => Sys2Proof.Machine.execInstrumentAccess tdi capture s
  | .haltResume value => Sys2Proof.Machine.execHaltResume value s
  | .traceEnable value => Sys2Proof.Machine.execTraceEnable value s
  | .debugCounterUpdate => Sys2Proof.Machine.execDebugCounterUpdate s
  | .watchReadingEnd point found => Sys2Proof.Machine.execWatchReadingEnd point found s
  | .partnerOfferReceived rank feed loop plan strict => Sys2Proof.Machine.execPartnerOfferReceived rank feed loop plan strict s

end Sys2Proof.Machine
end

