-- ==== Sys2Proof/WellFormed.lean ====
section
/-!
DEFINITION. Which operands a command may carry: what the spec bounds and the operand's type does not. The step does not look at it;
statements and senders may.
-/
namespace Sys2Proof

/-- A host core loads and stores 1, 2, 4 or 8 bytes (PRESUMED: the word sizes of a 64-bit core; a register takes 8 only, R496). -/
def accessOk (size : Nat) : Bool := [1, 2, 4, 8].contains size

/-- Host writes reach a window as 1 to 64 bytes within one 64-byte line (R101, R102, R118). -/
def lineWriteOk (off : Nat) (data : Bytes) : Bool := decide (1 ≤ data.length) && decide (off % 64 + data.length ≤ 64)

/-- The fields that every Zwine frame carries have their widths (Table LIN-2). -/
def Frame.ok (f : Frame) : Bool :=
  decide (f.srcIp < 2 ^ 32) && decide (f.kind < 256) && decide (f.srcRank < 65536) && decide (f.dstRank < 65536) &&
    decide (f.flow < 4096) && decide (f.seq < 2 ^ 32)

/-- A request names no requester twice (R323). -/
def asksOk (asks : List Ask) : Bool := (asks.map (fun x => x.unit)).Nodup

/-- An arbiter's die fits its class (Table MEM-3). -/
def ArbId.ok (a : ArbId) : Bool := if a.cls = 3 then decide (4 ≤ a.die.val) else decide (a.die.val < 4)

/-- The operands of a command are of a form that the spec gives it; an SPDM nonce has 32 bytes (PRESUMED: the SPDM standard of R466). -/
def Instr.wellFormed : Instr → Bool
  | .registerWrite _ size _ => accessOk size
  | .hostCoreAccess _ _ size _ _ => accessOk size
  | .pcieInboundRequest dir _ size data _ => decide (1 ≤ size) && (dir == .load || data.length == size)
  | .pushWindowWrite _ off data => lineWriteOk off.toNat data
  | .windowSubmit _ off data => lineWriteOk off.toNat data
  | .arbiterDecision a asks => a.ok && asksOk asks
  | .arbiterWindowReset a => a.ok
  | .arbiterBackoffExpiry a _ => a.ok
  | .arbiterWatchdogExpiry a => a.ok
  | .hello _ f _ | .sack _ f _ _ | .collData _ f _ | .collCtrl _ f _ | .remoteMsg _ f _ | .mirrorFrame _ f _ | .snapshotFrame _ f _
  | .spoolFrame _ f _ | .timeFrame _ f _ _ | .fstepFrame _ f _ | .snapReq _ f _ => f.ok
  | .powerSample rails _ => rails.length == 14
  | .thermalSample compute _ _ _ _ => compute.length == 4
  | .challenge nonce => nonce.length == 32
  | .getMeasurements _ (some nonce) => nonce.length == 32
  | .jtagExtest tdi pins => tdi.length == pins.length
  | _ => true

end Sys2Proof
end

