-- ==== Sys2Proof/Safety.lean ====
section
/-!
DEFINITION. What the statements speak of: the canonical form of a state, a decode of the HBM range that gives every
byte a place of its own, and what a command leaves alone.
-/
namespace Sys2Proof.Machine

/-- Memory and the registers are in their canonical form: keys strictly rising, and nothing listed that an unlisted key holds anyway. -/
def State.canonical (s : State) : Bool := memWf s.mem && smapWf (fun k => some (regReset k)) s.regs

/-- A region of a decode: its channels are distinct, of the 1,024 there are, and there is one, its size is whole granules, and its storage lies within each of its
channels (R310, R312, R313). -/
def HbmRegion.fits (r : HbmRegion) : Prop :=
  r.pcs ≠ [] ∧ r.pcs.Nodup ∧ r.size % 256 = 0 ∧ ∀ pc ∈ r.pcs, pc < 1024 ∧ r.bases.getD (pc / 256) 0 + r.depth ≤ pcGranules

/-- Two regions hold no granule of a channel in common (R313). -/
def HbmRegion.clearOf (r q : HbmRegion) : Prop :=
  ∀ pc ∈ r.pcs, pc ∈ q.pcs →
    r.bases.getD (pc / 256) 0 + r.depth ≤ q.bases.getD (pc / 256) 0 ∨ q.bases.getD (pc / 256) 0 + q.depth ≤ r.bases.getD (pc / 256) 0

/-- A decode whose regions fit and keep clear of each other. -/
def HbmMap.sound (m : HbmMap) : Prop :=
  (∀ r ∈ m.regions, r.fits) ∧ ∀ r ∈ m.regions, ∀ q ∈ m.regions, r ≠ q → r.clearOf q

/-- `t` differs from `s` in its registers only, and among those in the listed ones only. -/
def onlyRegs (s t : State) (as : List Nat) : Prop :=
  t = { s with regs := t.regs } ∧ ∀ a, a ∉ as → t.reg a = s.reg a

/-- Every byte of memory reads in `t` as it reads in `s`. -/
def sameMemory (s t : State) : Prop := ∀ k, memGet t.mem k = memGet s.mem k

/-- Every byte of memory reads in `t` as in `s`, except where the `n` bytes from physical address `a` are kept in `s`. -/
def sameMemoryBut (s t : State) (a n : Nat) : Prop :=
  ∀ k, (∀ j, j < n → k ≠ s.loc (a + j)) → memGet t.mem k = memGet s.mem k

/-- Every register reads in `t` as it reads in `s`. -/
def sameRegs (s t : State) : Prop := ∀ a, t.reg a = s.reg a

end Sys2Proof.Machine
end

