-- ==== Sys2Proof/Certificates/Slice0/Obligations.lean ====
section
/-!
DEFINITION. The statements for the provers: what the commands of each family do, what they leave alone, and what holds of the whole block.
-/

open Sys2Proof Sys2Proof.Machine




/-! ## The block -/

/-- A step runs the command at the front of the queue on the state with the rest of the queue; on an empty queue the block idles (the model's
choice: log entry 1). -/
def Obligations.StepRunsFront : Prop :=
  (∀ (s : State) (c : Instr) (cs : List Instr), s.pending = c :: cs → step s = exec c { s with pending := cs }) ∧
  ∀ s : State, s.pending = [] → step s = .next s

/-- No command ends a run: whatever the state and the operands, it answers a next state. -/
def Obligations.EveryCommandAnswers : Prop := ∀ (c : Instr) (s : State), ∃ t, exec c s = .next t

/-- Reset: no command waits, the host complex boots with power and reset high, every register reads its reset value, and the state is in
canonical form (which boot state reset is: log entry 2). Where the spec leaves a reading open it follows the model's, log entries 4 and 5. -/
def Obligations.ResetHoldsResetValues : Prop :=
  State.reset.pending = [] ∧ State.reset.phase = .booting ∧ State.reset.pwrgood = true ∧ State.reset.rstN = true ∧
  (∀ a, State.reset.reg a = regReset a) ∧ State.reset.fld CTL_RESET_CAUSE_POWER_ON = 1 ∧ State.reset.canonical = true

/-- Memory and registers stay in canonical form through every step. Where the spec leaves a reading open it follows the model's, log entry
8. -/
def Obligations.StepKeepsCanonical : Prop :=
  ∀ s t : State, s.canonical = true → step s = .next t → t.canonical = true

/-- The queue is first in, first out: a step takes the command at its front and leaves the rest as it is, and no command of the block puts one
into it; and the part is the same after every step: no command changes the fitted units, the bin or the part's own identity. -/
def Obligations.StepKeepsQueueAndPart : Prop :=
  (∀ s t : State, step s = .next t → t.pending = s.pending.tail) ∧
  (∀ s t : State, step s = .next t → t.part = s.part)

/-! ## Registers and memory -/

/-- What is written reads back and the rest stays: a register, a field modulo its width, and a byte string in mapped memory when no two of
its bytes share a place and none lies in the reserved part of a scratchpad slot, which reads as zero and ignores writes (R97). Where the
spec leaves a reading open it follows the model's, log entries 8 and 32. -/
def Obligations.WrittenStateReadsBack : Prop :=
  ((∀ (s : State) (a : Nat) (v : Word), (s.setReg a v).reg a = v ∧ ∀ b, b ≠ a → (s.setReg a v).reg b = s.reg b) ∧
   (∀ (s : State) (f : Fld) (v : Nat), f.lo + f.width ≤ 64 → (s.setFld f v).fld f = v % 2 ^ f.width ∧
     (∀ g : Fld, g.lo + g.width ≤ 64 → (g.reg ≠ f.reg ∨ g.lo + g.width ≤ f.lo ∨ f.lo + f.width ≤ g.lo) →
       (s.setFld f v).fld g = s.fld g) ∧
     onlyRegs s (s.setFld f v) [f.reg])) ∧
  ((∀ (s : State) (a : Nat) (bs : Bytes), (∀ j, j < bs.length → padReserved (a + j) = false) →
     (∀ i j, i < bs.length → j < bs.length → s.loc (a + i) = s.loc (a + j) → i = j) →
     (s.physWrite a bs).physRead a bs.length = bs) ∧
   (∀ (s : State) (a : Nat) (bs : Bytes), sameMemoryBut s (s.physWrite a bs) a bs.length ∧
     s.physWrite a bs = { s with mem := (s.physWrite a bs).mem }) ∧
   ∀ (s : State) (a : Nat), padReserved a = true → s.physByte a = 0#8 ∧ ∀ b, s.physWrite a [b] = s)

/-- The decode of R314 and the inverse of R322 agree: under regions that fit and keep clear of each other, the place of an address leads back to that
address, so that no two addresses share a byte; the regions of a MEMORY section are placed clear of each other (R313), and so is the decode without a
job image (R315). -/
def Obligations.HbmDecodeIsOneToOne : Prop :=
  (∀ m : HbmMap, m.sound → ∀ a k, m.place a = some k →
     m.unplace k = some a ∧ k < 1024 * pcBytes ∧ ∀ b, m.place b = some k → b = a) ∧
  ((∀ (mask key : Nat) (es : List Bytes), (∀ r ∈ (mapOf mask key es).regions, r.fits) → (mapOf mask key es).sound) ∧
   ∀ mask, mask < 2 ^ 16 → mask ≠ 0 → (plainMap mask).sound)

/-! ## Pins, boot and modes (chapters 02 and 23) -/

/-- PWRGOOD, RST_N, the end of boot and the host-die watchdog complete (R48, R488, R490): a rise of PWRGOOD from off and the fall of
either pin begin a cold reset, a pulse of RST_N below 1 µs does nothing, cold reset ends with the straps sampled once both pins are high,
and the end of boot brings Tethered, with LIMIT shown and EXHAUSTED set once FAILED has reached it (R45), unless the DDR5 population is
outside the rules (R92). Where the spec leaves a reading open it follows the model's, log entries 10, 25, 216 and 218. -/
def Obligations.PinsAndBootComplete : Prop :=
  (∀ (s : State) (src : BitVec 2) (addr : BitVec 3) (ok : Bool), s.pwrgood = false →
    exec (.pwrgoodRise src addr ok) s = .next
      (if s.rstN then (({ s with pwrgood := true }).coldReset true 1).endColdReset src.toNat addr.toNat ok
       else ({ s with pwrgood := true }).coldReset true 1)) ∧
  (∀ s : State, exec .pwrgoodFall s = .next { (({ s with pwrgood := false }).coldReset true 1) with phase := .off }) ∧
  (∀ (s : State) (ns : Nat), ns < 1000 → exec (.rstNAssert ns) s = .next s) ∧
  (∀ (s : State) (ns : Nat), 1000 ≤ ns → s.pwrgood = true →
    exec (.rstNAssert ns) s = .next (({ s with rstN := false }).coldReset false 2)) ∧
  (∀ (s : State) (ns : Nat), 1000 ≤ ns → s.pwrgood = false → exec (.rstNAssert ns) s = .next { s with rstN := false }) ∧
  (∀ (s : State) (src : BitVec 2) (addr : BitVec 3) (ok : Bool), s.rstN = false → s.pwrgood = false →
    exec (.rstNDeassert src addr ok) s = .next { s with rstN := true }) ∧
  (∀ (s : State) (src : BitVec 2) (addr : BitVec 3) (ok : Bool), s.rstN = false → s.pwrgood = true →
    exec (.rstNDeassert src addr ok) s = .next (({ s with rstN := true }).endColdReset src.toNat addr.toNat ok)) ∧
  (∀ s : State, s.phase = .booting → s.board.populationOk = true → s.coldBoot = false →
    exec .tetheredEntry s = .next
      ((({ s with phase := .running, coldBoot := false }).showLimit).tetherTick).imagesReached.autoAscent) ∧
  (∀ s : State, s.phase = .booting → s.board.populationOk = true → s.coldBoot = true →
    exec .tetheredEntry s = .next
      (((({ s with phase := .running, coldBoot := false }).showLimit).tetherTick).firstTethered s.coldCause).imagesReached.autoAscent) ∧
  (∀ s : State, s.phase = .booting → s.board.populationOk = false → exec .tetheredEntry s = .next s) ∧
  (∀ s : State, let t := s.showLimit
    t.fld CTL_START_COUNT_LIMIT = s.foundation.startLimit % 2 ^ CTL_START_COUNT_LIMIT.width ∧
    (t.fld CTL_START_COUNT_LIMIT ≤ t.fld CTL_START_COUNT_FAILED → t.fld CTL_START_COUNT_EXHAUSTED = 1) ∧
    t.fld CTL_START_COUNT_FAILED = s.fld CTL_START_COUNT_FAILED) ∧
  ∀ (s : State) (pufOk : Bool), s.phase ≠ .off → s.phase ≠ .coldReset →
    exec (.hostWatchdogExpiry pufOk) s = .next ((s.coldReset false 0x80).bootRom pufOk)

/-- What a cold reset and the start of an Ascent leave (R34, R38, R48, R54, R487): a cold reset keeps the part, its flash and the waiting
commands, and at power-on its causes and counts return to reset with POWER_ON alone set; an Ascent begins in mode ASCENT at the first
compute die's POWER stage, with nothing admitted and the first rail of R487 enabled. Where the spec leaves a reading open it follows the
model's, log entries 29 and 31. -/
def Obligations.ResetAndAscentLeave : Prop :=
  (∀ (s : State) (powerOn : Bool) (bits : Nat),
     let t := s.coldReset powerOn bits
     t.phase = .coldReset ∧ t.cmds = [] ∧ t.queues = [] ∧ t.image = none ∧ t.tiles = [] ∧ t.doms = [] ∧ t.hbmStacks = 0 ∧
     t.mem.cells = [] ∧ t.localNs = 0 ∧ t.part = s.part ∧ t.security.vendorA = s.security.vendorA ∧ t.pending = s.pending ∧
     t.mode = 1 ∧ t.fld CTL_INCARNATION_INCARNATION = 1 ∧ t.fld PWR_CAP_CAP_W = s.part.tdp % 2 ^ 16 ∧
     (powerOn = true → t.reg CTL_RESET_CAUSE = regReset CTL_RESET_CAUSE ∧ t.reg CTL_START_COUNT = regReset CTL_START_COUNT) ∧
     (powerOn = false → t.reg CTL_RESET_CAUSE = (s.reg CTL_RESET_CAUSE ||| word bits) ∧ t.reg CTL_START_COUNT = s.reg CTL_START_COUNT)) ∧
  (∀ s : State, let t := s.startAscent
     t.attempts = s.attempts + 1 ∧ t.retryPending = false ∧ t.dies = 0 ∧ t.links = 0 ∧ t.hbmStacks = 0 ∧
     (∃ n, t.ascent = some { unit := 0, stage := 1, start := n, since := s.localNs, entries := freshEntries s.part }) ∧
     (bitOf s.railPg 9 = false → t.outs.railEn = withBit s.outs.railEn 9) ∧
     (bitOf s.railPg 9 = true → bitOf s.railPg 14 = true → t.outs.railEn = withBit s.outs.railEn 0) ∧ t.mode = 2 ∧ t.fld CTL_MODE_PREV_MODE = s.mode ∧ t.fld CTL_MODE_STAGE = 1 ∧
     t.fld CTL_MODE_UNIT_KIND = 1 ∧ t.fld CTL_MODE_UNIT_INDEX = 0)

/-- The mode requests of the Management Port complete (R34, R45, R48, R53): where Table MOD-3 accepts one it is answered OK and has its
effect; DEVICE_RESET in Tethered has none; the retry of a failed start begins a new Ascent; and a rejected request, one out of mode with
REJECTED_MODE, one that finds four waiting with REJECTED_FULL, changes nothing but the port's own counts. Where the spec leaves a reading
open it follows the model's, log entries 61, 210 and 213. -/
def Obligations.ModeRequestsComplete : Prop :=
  ((∀ s : State, s.phase = .running → s.mode = 1 → s.fld CTL_START_COUNT_EXHAUSTED = 0 →
     exec (.ascend false) s = .next (s.answer 0x01 ST_OK []).startAscent) ∧
   (∀ (s : State) (hold : Bool), s.phase = .running → s.mode = 1 → exec (.deviceReset hold false) s = .next (s.answer 0x02 ST_OK [])) ∧
   (∀ (s : State) (hold : Bool), s.phase = .running → s.mode ≠ 1 → (s.mode = 0xF → s.haltCold = false) →
     exec (.deviceReset hold false) s = .next ((s.answer 0x02 ST_OK []).resetByRequest 4 hold).autoAscent) ∧
   (∀ s : State, s.phase = .running → (s.mode = 0xF → s.haltCold = false) →
     let u := s.answer 0x03 ST_OK []
     let v := (((u.abortAscent).resetQueues).scramble ddrBase (3 * 2 ^ 40)).scramble cxlBase (4 * 2 ^ 40)
     let w := (((v.newIncarnation).endImage).dropDies 0 false).addCause (u.resetBits 0x10)
     exec (.hostReset false) s = .next (((w.toTethered (u.resetBits 0x10)).endGrant 3).bootRom true)) ∧
   (∀ s : State, s.phase = .running → s.mode ≠ 2 →
     exec (.startClear false) s =
       .next (((s.answer 0x04 ST_OK []).setFld CTL_START_COUNT_FAILED 0).setFld CTL_START_COUNT_EXHAUSTED 0)) ∧
   (∀ s : State, s.phase = .running →
     let u := ((s.answer 0x05 ST_OK []).resetByRequest 4 false).setRails 0
     exec (.powerDown false) s = .next { u with outs := { u.outs with pwrOffReqN := false } } ∧ u.outs.railEn = 0) ∧
   ∀ s : State, s.retryPending = true → s.foundation.autoAscent = true → s.inMode 1 = true → s.fld CTL_START_COUNT_EXHAUSTED = 0 →
     exec .retryDelayExpiry s = .next s.startAscent) ∧
  ((∀ s : State, s.phase = .running → (s.mode ≠ 1 ∨ s.fld CTL_START_COUNT_EXHAUSTED ≠ 0) →
     exec (.ascend false) s = .next (s.answer 0x01 ST_REJECTED_MODE [])) ∧
   (∀ (s : State) (hold : Bool), s.phase = .running → s.mode = 0xF → s.haltCold = true →
     exec (.deviceReset hold false) s = .next (s.answer 0x02 ST_REJECTED_MODE [])) ∧
   (∀ s : State, s.phase = .running → s.mode = 0xF → s.haltCold = true → exec (.hostReset false) s = .next (s.answer 0x03 ST_REJECTED_MODE [])) ∧
   (∀ s : State, s.phase = .running → s.mode = 2 → exec (.startClear false) s = .next (s.answer 0x04 ST_REJECTED_MODE [])) ∧
   (∀ (s : State) (hold : Bool) (cap first : BitVec 16) (window count : BitVec 8) (g key signature : Bytes), s.phase = .running →
     ∀ e ∈ [(0x01, Instr.ascend true), (0x02, .deviceReset hold true), (0x03, .hostReset true), (0x04, .startClear true),
       (0x05, .powerDown true), (0x10, .setCap cap window true), (0x11, .clearShed true), (0x20, .debugNonce true),
       (0x21, .debugGrant g true), (0x22, .debugRevoke true), (0x30, .enrolOwner key signature true), (0x40, .readLog first count true)],
     exec e.2 s = .next (s.answer e.1 ST_REJECTED_FULL [])) ∧
   ∀ (s : State) (request status : Nat) (data : Bytes),
     let t := s.answer request status data
     t = { s with regs := t.regs, outs := { s.outs with mgmtStatus := status, mgmtData := data } } ∧
     t.fld MGT_LAST_STATUS = status % 2 ^ 16 ∧ t.fld MGT_LAST_REQUEST = request % 2 ^ 16 ∧
     ∀ a, a ≠ MGT_COUNTS → a ≠ MGT_LAST → t.reg a = s.reg a)

/-! ## Ascent, rails and host-die ports (chapters 02 and 23) -/

/-- The stages of Ascent complete (R38 to R43, R47): in its stage, the unit in progress passes on, or is left out with the stage's reason;
a stage that ran past its maximum ends with STAGE_TIMEOUT, a UCIE stage without an admitted neighbour passes; when a stage ends, local
time has reached its start and the stage's time. Where the spec leaves a reading open it follows the model's, log entries 30, 215 and 267. -/
def Obligations.AscentStagesComplete : Prop :=
  (∀ (s : State) (a : Ascent) (ms : Nat), s.inStage 1 = some a → s.railsGood a = true → ms ≤ 1000 → a.unit < 4 →
    exec (.ascentPowerStage 0#12 ms) s = .next
      ((((s.stageEnds a ms).setFld HST_LINK_STATUS_UP (withBit ((s.stageEnds a ms).fld HST_LINK_STATUS_UP) a.unit)).measureOffset a.unit).showAscent
        { a.spend ms with stage := 2, stageMs := 0, site := (nextSite s.part a.unit 0).getD 0 })) ∧
  (∀ (s : State) (a : Ascent) (ms : Nat), s.inStage 1 = some a → s.railsGood a = true → ms ≤ 1000 → 4 ≤ a.unit →
    exec (.ascentPowerStage 0#12 ms) s = .next ((s.stageEnds a ms).nextStage (a.spend ms) 6)) ∧
  (∀ (s : State) (a : Ascent) (r : BitVec 12) (ms : Nat), s.inStage 1 = some a → r ≠ 0#12 → ms ≤ 1000 →
    exec (.ascentPowerStage r ms) s = .next ((s.stageEnds a ms).leaveOut (a.spend ms) (0x1000 + r.toNat))) ∧
  (∀ (s : State) (a : Ascent) (r : BitVec 12) (ms : Nat), s.inStage 1 = some a → 1000 < ms →
    exec (.ascentPowerStage r ms) s = .next ((s.stageEnds a ms).leaveOut (a.spend ms) 0x1FFF)) ∧
  (∀ (s : State) (a : Ascent) (warm : Bool) (r : BitVec 12) (n : BitVec 8) (ms : Nat), s.inStage 2 = some a → ms ≤ 3000 →
    bitOf s.selfRefresh (4 * a.unit + a.site) = false →
    exec (.ascentHbmStack warm r n ms) s = .next
      ((s.stageEnds a ms).endStack (a.spend ms) (if r = 0#12 then 0 else 0x2000 + r.toNat) n.toNat ms)) ∧
  (∀ (s : State) (a : Ascent) (r : BitVec 12) (n : BitVec 8) (ms : Nat), s.inStage 2 = some a → ms ≤ 3000 →
    bitOf s.selfRefresh (4 * a.unit + a.site) = true →
    exec (.ascentHbmStack true r n ms) s = .next ((s.stageEnds a ms).endStack (a.spend ms) 0 n.toNat ms)) ∧
  (∀ (s : State) (a : Ascent) (bad : List BadColumns) (ms : Nat), s.inStage 3 = some a → ms ≤ 8000 →
    let tiles := tilesOfDie a.unit
    let out := tiles.filter (fun t => [0, 1, 2].any (fun x => decide (usableWidth (badMask bad t x) < 56)))
    let u := s.stageEnds a ms
    out.length ≤ s.foundation.maxTileHoles →
    exec (.ascentArrayStage [] bad 0#12 ms) s = .next
      ((tiles.foldl (fun (w : State) t => w.showTile bad t (!out.contains t)) { u with unusable := u.unusable ++ out }).nextStage
        { a.spend ms with holes := out.length } 4)) ∧
  (∀ (s : State) (a : Ascent) (ms : Nat), s.inStage 4 = some a → ms ≤ 1500 →
    exec (.ascentMeshStage 0#12 ms) s = .next ((s.stageEnds a ms).nextStage (a.spend ms) 5)) ∧
  (∀ (s : State) (a : Ascent) (ms : Nat), s.inStage 5 = some a → ms ≤ 1000 →
    let u := s.stageEnds a ms
    exec (.ascentUcieStage [] ms) s = .next
      ({ u with d2dUp := (portsOf s.dies a.unit).foldl withBit u.d2dUp }.admitUnit (a.spend ms) a.holes)) ∧
  (∀ (s : State) (a : Ascent) (ports : BitVec 12) (failed : List (Fin 12 × BitVec 8)) (ms : Nat), s.inStage 6 = some a → ms ≤ 4500 →
    exec (.ascentLineStage false ports failed ms) s = .next ((s.stageEnds a ms).leaveOut
      { a.spend ms with holes := popcount (s.portsTrained (a.unit - 4) ports.toNat failed) } RS_SRAM_BIST)) ∧
  (∀ (s : State) (a : Ascent) (ports : BitVec 12) (failed : List (Fin 12 × BitVec 8)) (ms : Nat), s.inStage 6 = some a → ms ≤ 4500 →
    s.portsTrained (a.unit - 4) ports.toNat failed = 0 →
    exec (.ascentLineStage true ports failed ms) s =
      .next ((s.stageEnds a ms).leaveOut { a.spend ms with holes := 0 } RS_NO_PORT_UP)) ∧
  (∀ (s : State) (a : Ascent) (ports : BitVec 12) (failed : List (Fin 12 × BitVec 8)) (ms : Nat), s.inStage 6 = some a → ms ≤ 4500 →
    let up := s.portsTrained (a.unit - 4) ports.toNat failed
    up ≠ 0 → s.peerRejected = true →
    exec (.ascentLineStage true ports failed ms) s =
      .next ((s.stageEnds a ms).leaveOut { a.spend ms with holes := popcount up } RS_ZWINE_VERSION)) ∧
  (∀ (s : State) (a : Ascent) (ports : BitVec 12) (failed : List (Fin 12 × BitVec 8)) (ms : Nat), s.inStage 6 = some a → ms ≤ 4500 →
    let n := a.unit - 4
    let up := s.portsTrained n ports.toNat failed
    up ≠ 0 → s.peerRejected = false →
    exec (.ascentLineStage true ports failed ms) s = .next
      (((((s.stageEnds a ms).showPorts n up failed).setFld (LNK_STATUS_ADMITTED n) 1).admitUnit
        { a.spend ms with holes := popcount up } (popcount up)).greetPeers n)) ∧
  (∀ (s : State) (a : Ascent) (ms : Nat), s.inStage 7 = some a → ms ≤ 1000 → (s.stageEnds a ms).entryReason = 0 →
    exec (.ascentEntryStage ms) s = .next ((s.stageEnds a ms).enterAloft (a.spend ms))) ∧
  (∀ (s : State) (a : Ascent) (n : BitVec 8), s.ascent = some a → s.inMode 2 = true → a.stage ≠ 7 → a.stage ≠ 2 → a.stage ≠ 6 →
    (a.stage = 5 → portsOf s.dies a.unit ≠ []) →
    exec (.stageTimeout n) s = .next
      ((s.stageEnds a (stageMax a.stage)).leaveOut (a.spend (stageMax a.stage)) (a.stage * 0x1000 + 0xFFF))) ∧
  (∀ (s : State) (a : Ascent) (n : BitVec 8), s.ascent = some a → s.inMode 2 = true → a.stage = 5 → portsOf s.dies a.unit = [] →
    exec (.stageTimeout n) s = .next ((s.stageEnds a 1000).admitUnit (a.spend 1000) a.holes)) ∧
  (∀ (s : State) (a : Ascent) (n : BitVec 8), s.ascent = some a → s.inMode 2 = true → a.stage = 2 →
    bitOf s.selfRefresh (4 * a.unit + a.site) = false →
    exec (.stageTimeout n) s = .next ((s.stageEnds a 3000).endStack (a.spend 3000) 0x2FFF n.toNat 3000)) ∧
  (∀ (s : State) (a : Ascent) (n : BitVec 8), s.ascent = some a → s.inMode 2 = true → a.stage = 6 →
    exec (.stageTimeout n) s = .next ((s.stageEnds a 4500).leaveOut
      { a.spend 4500 with holes := popcount (s.fld (LNK_STATUS_PORTS_UP (a.unit - 4))) } 0x6FFF)) ∧
  ∀ (s : State) (a : Ascent) (n : BitVec 8), s.ascent = some a → s.inMode 2 = true → a.stage = 7 →
    exec (.stageTimeout n) s = .next ((s.stageEnds a 1000).ascentFails (a.spend 1000) 0x7FFF false)

/-- Rail supervision, host-die ports and host access timeouts complete (R48, R50, R487): a good rail is noted and lets the next one of the
unit in POWER be enabled; one not good within 20 ms leaves the unit out; a rail lost in Aloft or Halted is disabled and a FATAL fault; a
replay and a retrain are counted while the port exists; a port down for more than 1 ms device-resets the dies; an access that waited too
long faults where it lies behind such a port, and one behind none waits for none. Where the spec leaves a reading open it follows the
model's, log entry 209. -/
def Obligations.RailsAndPortsComplete : Prop :=
  (∀ (s : State) (r : Fin 15) (a : Ascent), bitOf s.outs.railEn r.val = true → s.inStage 1 = some a →
    exec (.railPgRise r) s = .next ({ s with railPg := withBit s.railPg r.val }.enableRails a)) ∧
  (∀ (s : State) (r : Fin 15), bitOf s.outs.railEn r.val = true → s.inStage 1 = none →
    exec (.railPgRise r) s = .next { s with railPg := withBit s.railPg r.val }) ∧
  (∀ (s : State) (r : Fin 15) (a : Ascent), s.inStage 1 = some a → bitOf s.outs.railEn r.val = true → bitOf s.railPg r.val = false →
    exec (.railPgTimeout r) s = .next ((s.stageEnds a 20).leaveOut (a.spend 20) RS_RAIL_TIMEOUT)) ∧
  (∀ (s : State) (r : Fin 15), bitOf s.railPg r.val = true → s.inMode 3 = false → s.inMode 0xF = false →
    exec (.railPgFall r) s = .next { s with railPg := withoutBit s.railPg r.val }) ∧
  (∀ (s : State) (r : Fin 15), 4 ≤ r.val → r.val ≠ 9 → r.val ≠ 14 → bitOf s.railPg r.val = true → s.inMode 3 = true →
    let u := { s with railPg := withoutBit s.railPg r.val }
    exec (.railPgFall r) s = .next ((u.setRails (withoutBit s.outs.railEn r.val)).fault (0x9000 + r.val) 3 { code := ST_UNIT_FAULT })) ∧
  (∀ (s : State) (k : Fin 4) (replays : Nat), bitOf (s.fld HST_LINK_STATUS_UP) k.val = true →
    exec (.hostPortRetrain k replays true) s = .next ((s.addFld HST_LINK_STATUS_RETRAINS 1).portReplay (0x7300 + k.val) replays true) ∧
    exec (.hostPortRetrain k replays false) s = .next (s.portReplay (0x7300 + k.val) replays false)) ∧
  (∀ (s : State) (k : Fin 4) (replays : Nat) (retrain : Bool), bitOf (s.fld HST_LINK_STATUS_UP) k.val = false →
    exec (.hostPortRetrain k replays retrain) s = .next s) ∧
  (∀ (s : State) (k : Fin 4), s.phase = .running → bitOf (s.fld HST_LINK_STATUS_UP) k.val = true → s.ascent = none →
    (s.mode = 0xF → s.haltCold = false) →
    exec (.hostLinkLoss k) s = .next
      (((s.cutAll.setFld HST_LINK_STATUS_LOST (withBit (s.cutAll.fld HST_LINK_STATUS_LOST) k.val)).deviceReset 8 false false).autoAscent)) ∧
  (∀ (s : State) (k : Fin 4), s.phase = .running → bitOf (s.fld HST_LINK_STATUS_UP) k.val = true → s.mode = 0xF → s.haltCold = true →
    exec (.hostLinkLoss k) s = .next
      ((s.cutAll.setFld HST_LINK_STATUS_LOST (withBit (s.cutAll.fld HST_LINK_STATUS_LOST) k.val)).resetHalted 8)) ∧
  (∀ (s : State) (addr : BitVec 48) (k : Nat), s.phase = .running → s.dieBehind addr.toNat = some k →
    bitOf (s.fld HST_LINK_STATUS_UP) k = true →
    let u := (s.setFld HST_FAULT_ADDR_ADDR addr.toNat).setFld HST_FAULT_ADDR_SOURCE 0
    exec (.hostAccessTimeout addr) s = .next { u with outs := { u.outs with hostFault := true, hostData := [] } }) ∧
  ∀ (s : State) (addr : BitVec 48), s.dieBehind addr.toNat = none → exec (.hostAccessTimeout addr) s = .next s

/-! ## Tick and time (chapter 04) -/

/-- The time commands complete (R74, R83, R86 to R88): a boundary runs the actions of Table TCK-2; an accepted measurement steps the
aligned time once and later ones slew it; a rejected one changes no time and is repeated; a round trip of a measurement adds its offset,
and the single one of every 1,000 ticks slews by it. The tick counter counts boundaries, and the boundary planned next lies after the last
one and on a multiple of the period in force (R89). Where the spec leaves a reading open it follows the model's, log entries 42, 43, 45,
224, 225 and 226. -/
def Obligations.TimeCommandsComplete : Prop :=
  ((∀ (s : State) (sram : List (Fin 4 × Found)) (fs : List Found), s.ticking = true →
     let v := (sram.foldl (fun (u : State) x => u.sramRead x.1.val x.2) s).findErrors fs
     exec (.tickBoundary none sram fs) s = .next v.serveBoundary ∧
     ∀ u : Fin 64, exec (.tickBoundary (some u) sram fs) s = .next (v.fault (0x8000 + u.val) 3 { code := ST_CONTROL_FAULT }).serveBoundary) ∧
   (∀ s : State, let o := medianOf s.measure.trips
     let sp := spreadOf s.measure.trips
     s.fld CTL_TIME_STATUS_MEASURING = 1 → s.measure.trips.length = 16 → sp ≤ 100 → s.aligned = true →
     let v := { s with measure := { s.measure with trips := [], sent := none, due := false, tripTick := s.tick } }
     let u := (v.setFld CTL_TIME_STATUS_MEASURING 0).setFld CTL_TIME_STATUS_SPREAD (satTo 0xFFFF sp)
     exec .timeMeasurementEnd s = .next ((u.slewTo o sp).endMeasures sp)) ∧
   (∀ s : State, let o := medianOf s.measure.trips
     let sp := spreadOf s.measure.trips
     s.fld CTL_TIME_STATUS_MEASURING = 1 → s.measure.trips.length = 16 → sp ≤ 100 → s.aligned = false →
     let w := { s with measure := { s.measure with trips := [], sent := none, due := false, tripTick := s.tick } }
     let u := (w.setFld CTL_TIME_STATUS_MEASURING 0).setFld CTL_TIME_STATUS_SPREAD (satTo 0xFFFF sp)
     let v := ({ (u.stepOffset o) with aligned := true, slew := 0, slewAt := u.localNs,
                                       measure := { u.measure with errAt := u.localNs } }).setFld CTL_TIME_STATUS_ALIGNED 1
     exec .timeMeasurementEnd s = .next ((v.event 0x8000 EV_TIME_ALIGNED noDomain
       (leBytes 8 (unsignedOf 64 u.offset) ++ leBytes 8 (unsignedOf 64 o) ++ leBytes 2 (satTo 0xFFFF sp) ++
         leBytes 2 v.timeMaster)).endMeasures sp)) ∧
   (∀ s : State, let o := medianOf s.measure.trips
     let sp := spreadOf s.measure.trips
     s.fld CTL_TIME_STATUS_MEASURING = 1 → s.measure.trips.length = 16 → 100 < sp →
     let v := { s with measure := { s.measure with trips := [], sent := none, due := true, tripTick := s.tick } }
     let u := ((v.setFld CTL_TIME_STATUS_MEASURING 0).setFld CTL_TIME_STATUS_SPREAD (satTo 0xFFFF sp)).setFld CTL_TIME_STATUS_POOR 1
     exec .timeMeasurementEnd s = .next ((u.event 0x8000 EV_TIME_ALIGN_POOR noDomain
       (leBytes 8 (unsignedOf 64 (o - s.offset)) ++ leBytes 2 (satTo 0xFFFF sp) ++ leBytes 2 s.timeMaster)).endMeasures sp)) ∧
   (∀ s : State, s.aloft = true → s.isTimeMaster = false → s.fld CTL_TIME_STATUS_MEASURING ≠ 1 → s.measure.due = true →
     exec .timeMeasureRetry s = .next s.startMeasure) ∧
   (∀ s : State, s.aloft = true → s.isTimeMaster = false → s.fld CTL_TIME_STATUS_MEASURING = 1 → s.measure.trips.length < 16 →
     exec .timeMeasureRetry s = .next s.askTime) ∧
   (∀ s : State, s.aloft = true → s.isTimeMaster = false → s.aligned = true → s.fld CTL_TIME_STATUS_MEASURING = 0 →
     s.measure.tripTick + 1000 ≤ s.tick →
     exec .timeRoundTripPeriod s = .next { s with measure := { s.measure with single := true, tripTick := s.tick } }.askTime) ∧
   (∀ (s : State) (o : Int), s.measure.single = true →
     s.takeTrip o = { s with measure := { s.measure with sent := none, single := false } }.slewTo o 0) ∧
   ∀ (s : State) (o : Int), s.measure.single = false →
     (s.takeTrip o).measure.trips = s.measure.trips ++ [o]) ∧
  ((∀ s : State, (s.reg CTL_TICK_COUNT).toNat + 1 < 2 ^ 64 → s.countBoundary.tick = s.tick + 1) ∧
   ∀ s : State, 0 < s.periodNs →
     let t := s.planBoundary
     t.nextBoundary % s.periodNs = 0 ∧ s.lastBoundary < t.nextBoundary ∧ t.nextBoundary < s.lastBoundary + 2 * s.periodNs ∧
       t = { s with nextBoundary := t.nextBoundary })

/-! ## The structure image (chapter 03) -/

/-- The STRUCT commands and the phases of a commit complete (R63 to R69, R498): staging, validation, commit from quiescence to the end of
preparation, discard, and the three ways in which an accepted UPDATE takes effect. Where the spec leaves a reading open it follows the
model's, log entries 12, 35, 37, 40, 231 and 233. -/
def Obligations.StructureCommandsComplete : Prop :=
  (∀ (s : State) (h : Word) (p : Pending), s.ready h 3 1 = some p → (s.begin p).structBusy = false →
    128 ≤ fieldAt p.entry 24 4 → fieldAt p.entry 24 4 ≤ 2 ^ 28 → (s.begin p).isDdr (fieldAt p.entry 16 8) = true →
    (s.begin p).isDdr (fieldAt p.entry 16 8 + fieldAt p.entry 24 4 - 1) = true →
    exec (.structStage h) s = .next ({ s.begin p with stageBy := some h }.setStage 6)) ∧
  (∀ (s : State) (h : Word) (p : Pending), s.stageBy = some h → s.cmd h = some p → bitOf (fieldAt p.entry 28 1) 0 = false →
    let u := s.store s.stageBase (s.bytesAt (fieldAt p.entry 16 8) (fieldAt p.entry 24 4))
    exec .stageCopyEnd s = .next
      (({ u with stageBy := none, stagedLen := fieldAt p.entry 24 4 }.setStage 1).finishStruct h ST_OK 0 0)) ∧
  (∀ (s : State) (h : Word) (p : Pending), s.stageBy = some h → s.cmd h = some p → bitOf (fieldAt p.entry 28 1) 0 = true →
    let u := s.store s.stageBase (s.bytesAt (fieldAt p.entry 16 8) (fieldAt p.entry 24 4))
    exec .stageCopyEnd s = .next
      ({ u with stageBy := none, stagedLen := fieldAt p.entry 24 4, validateBy := some h }.setStage 2)) ∧
  (∀ (s : State) (h : Word) (p : Pending), s.ready h 3 2 = some p → (s.begin p).structBusy = false → (s.begin p).stageState ≠ 0 →
    exec (.structValidate h) s = .next ({ s.begin p with validateBy := some h }.setStage 2)) ∧
  (∀ (s : State) (h : Word), s.validateBy = some h →
    let u := { s with validateBy := none }
    exec .validationEnd s = .next (match validateImage s.part u.units u.staged with
      | none => (u.setStage 3).finishStruct h ST_OK 0 0
      | some x => (u.setStage 4).finishStruct h x.1 x.2 0)) ∧
  (∀ (s : State) (h : Word) (p : Pending), s.ready h 3 3 = some p → (s.begin p).structBusy = false → (s.begin p).stageState = 3 →
    unitChecks (s.begin p).units (trim (s.begin p).staged) = none →
    exec (.structCommit h) s = .next
      ({ s.begin p with commit := some { handle := h, wait := fieldAt p.entry 16 2, image := imageOf (trim (s.begin p).staged),
                                         had := (s.begin p).image.isSome } }.setStage 5)) ∧
  (∀ (s : State) (c : Commit), s.commit = some c → c.phase = 0 → s.quiescent = true →
    exec .commitQuiescence s = .next { s.retire with commit := some { c with phase := 1 } }) ∧
  (∀ (s : State) (c : Commit), s.commit = some c → c.phase = 0 → c.wait = 0 → s.quiescent = false →
    exec .commitWaitExpiry s = .next (({ s with commit := none }.setStage 3).finishStruct c.handle ST_COMMIT_BUSY 0 0)) ∧
  (∀ (s : State) (c : Commit), s.commit = some c → c.phase = 1 →
    exec (.commitPreparationEnd true) s = .next { s.prepare c.image with commit := some { c with phase := 2 } }) ∧
  (∀ (s : State) (h : Word) (p : Pending), s.ready h 3 4 = some p → (s.begin p).structBusy = false →
    exec (.structDiscard h) s = .next (({ s.begin p with stagedLen := 0 }.setStage 0).finishWith h ST_OK)) ∧
  ∀ (s : State) (h : Word) (p : Pending) (k : ChangeClass), s.ready h 3 5 = some p → (s.begin p).image.isSome = true →
    let u := s.begin p
    let sec := fieldAt p.entry 16 1
    let width := fieldAt p.entry 17 1
    let i := fieldAt p.entry 20 4
    let off := fieldAt p.entry 24 4
    let value := fieldAt p.entry 32 8
    u.updateStatus sec width i off value = ST_OK →
    ((fieldsOf sec (i == 0xFFFFFFFF)).find? (fun f => f.off == off)).map (·.cls) = some k →
    exec (.structUpdate h) s = .next (match k with
      | .tick => { u with shadows := u.shadows ++ [⟨sec, i, off, width, value, some h⟩] }
      | .live => (u.applyChange sec i off width value).finishWith h ST_OK
      | _ => (u.writeStatic sec i off width value).finishWith h ST_OK)

/-! ## Windows, host accesses and registers (chapters 00 and 05) -/

/-- Push windows and host and PCIe accesses complete (R96 to R98, R101, R104, R106, R321): an access of mapped memory is made there; what
is not mapped is dropped and recorded, a host fault or an Unsupported Request; a push to a tile that was reset is dropped and counted; the
words of HBM that an access finds in error are handled first; a window's configuration is taken while its byte count is zero and refused
with PUSH_BUSY otherwise; and a seal is requested once and, applied, shows SEALED with the count back at zero. Where the spec leaves a
reading open it follows the model's, log entries 26, 184 and 185. -/
def Obligations.HostAccessesComplete : Prop :=
  ((∀ (s : State) (n : Fin 64) (off : BitVec 24) (data : Bytes) (a : Nat), s.phase = .running →
     s.pushTarget n.val off.toNat = some a → s.mappedAll a data.length = true → off.toNat + data.length ≤ 2 ^ 24 →
     s.pushStale a = false →
     exec (.pushWindowWrite n off data) s = .next ((s.pushBytes a data).addFld (HST_PUSH_STATUS_COUNT n.val) data.length)) ∧
   (∀ (s : State) (n : Fin 64) (off : BitVec 24) (data : Bytes) (a : Nat), s.phase = .running →
     s.pushTarget n.val off.toNat = some a → s.mappedAll a data.length = true → off.toNat + data.length ≤ 2 ^ 24 →
     s.pushStale a = true →
     exec (.pushWindowWrite n off data) s = .next (s.addFld (HST_PUSH_STATUS_DROPPED n.val) 1)) ∧
   (∀ (s : State) (a : Nat) (data : Bytes), a < padBase → s.pushBytes a data = s.devWrite a data) ∧
   (∀ (s : State) (n : Fin 64) (off : BitVec 24) (data : Bytes) (a : Nat), s.phase = .running →
     s.pushTarget n.val off.toNat = some a → s.mappedAll a data.length = false →
     exec (.pushWindowWrite n off data) s = .next ((s.addFld (HST_PUSH_STATUS_DROPPED n.val) 1).report 0x7400 0
       { code := ST_ADDRESS_UNMAPPED, addr := a, aux := n.val })) ∧
   (∀ (s : State) (n : Fin 64) (v : Word), s.phase = .running → s.fld (HST_PUSH_STATUS_COUNT n.val) = 0 →
     exec (.pushCfgWrite n v) s = .next
       ((((s.setFld (HST_PUSH_CFG_TYPE n.val) (bitsOf v.toNat 0 2)).setFld (HST_PUSH_CFG_NOTIFY n.val) (bitsOf v.toNat 2 1)).setFld
         (HST_PUSH_CFG_CHANNEL n.val) (bitsOf v.toNat 4 4)).setFld (HST_PUSH_CFG_TARGET n.val) (bitsOf v.toNat 16 16))) ∧
   (∀ (s : State) (n : Fin 64) (v : Word), s.phase = .running → s.fld (HST_PUSH_STATUS_COUNT n.val) ≠ 0 →
     exec (.pushCfgWrite n v) s = .next { s with outs := { s.outs with hostStatus := ST_PUSH_BUSY } }) ∧
   (∀ (s : State) (n : Fin 64), s.phase = .running → n.val ∉ s.sealing →
     exec (.pushSeal n) s = .next { s with sealing := s.sealing ++ [n.val] }) ∧
   (∀ (s : State) (n : Fin 64), s.phase = .running → n.val ∈ s.sealing → exec (.pushSeal n) s = .next s) ∧
   ∀ (s : State) (n : Fin 64), n.val ∈ s.sealing → s.fld (HST_PUSH_CFG_TYPE n.val) ≠ 3 →
     exec (.pushSealApplied n) s = .next
       (({ s with sealing := s.sealing.filter (· != n.val) }.setFld (HST_PUSH_STATUS_SEALED n.val) 1).setFld
         (HST_PUSH_STATUS_COUNT n.val) 0)) ∧
  ((∀ (s : State) (addr : BitVec 48) (size : Nat) (v : Word) (fs : List Found), let u := s.findErrors fs
     u.phase = .running → addr.toNat < 0x4000_0000_0000 → u.mappedAll addr.toNat size = true → u.poisonedIn addr.toNat size = none →
     exec (.hostCoreAccess .load addr size v fs) s = .next ((u.countHbm addr.toNat size).hostLoads (u.physRead addr.toNat size))) ∧
   (∀ (s : State) (addr : BitVec 48) (size : Nat) (v : Word) (fs : List Found), let u := s.findErrors fs
     u.phase = .running → addr.toNat < 0x4000_0000_0000 → u.mappedAll addr.toNat size = true →
     exec (.hostCoreAccess .store addr size v fs) s = .next ((u.devWrite addr.toNat (leBytes size v.toNat)).hostLoads [])) ∧
   (∀ (s : State) (dir : Dir) (addr : BitVec 48) (size : Nat) (v : Word) (fs : List Found), let u := s.findErrors fs
     u.phase = .running → addr.toNat < 0x4000_0000_0000 → u.mappedAll addr.toNat size = false →
     exec (.hostCoreAccess dir addr size v fs) s = .next (u.hostFaults (u.unmappedAt addr.toNat size) true)) ∧
   (∀ (s : State) (t : BitVec 48) (size : Nat) (data : Bytes) (fs : List Found), let u := s.findErrors fs
     u.phase = .running → u.mappedAll t.toNat size = true → u.poisonedIn t.toNat size = none →
     exec (.pcieInboundRequest .load (some t) size data fs) s = .next { u.countHbm t.toNat size with
       fresh := u.fresh, outs := { u.outs with pcieUnsupported := false, pcieData := u.physRead t.toNat size } }) ∧
   (∀ (s : State) (t : BitVec 48) (size : Nat) (data : Bytes) (fs : List Found), let u := s.findErrors fs
     u.phase = .running → u.mappedAll t.toNat data.length = true →
     exec (.pcieInboundRequest .store (some t) size data fs) s = .next { u.devWrite t.toNat data with
       outs := { u.outs with pcieUnsupported := false, pcieData := [] } }) ∧
   (∀ (s : State) (t : BitVec 48) (size : Nat) (data : Bytes) (fs : List Found), let u := s.findErrors fs
     u.phase = .running → u.mappedAll t.toNat size = false →
     exec (.pcieInboundRequest .load (some t) size data fs) s = .next (u.pcieFaults (u.unmappedAt t.toNat size))) ∧
   ∀ s : State, s.findErrors [] = s)

/-- A store of mapped memory, by a host core, a PCIe device or a push window, changes no byte of memory outside the stored ones,
once the words of HBM that the access finds in error are handled. -/
def Obligations.StoresChangeTheirBytesOnly : Prop :=
  (∀ (s t : State) (addr : BitVec 48) (size : Nat) (v : Word) (fs : List Found), let u := s.findErrors fs
    u.phase = .running → addr.toNat < 0x4000_0000_0000 →
    u.mappedAll addr.toNat size = true → exec (.hostCoreAccess .store addr size v fs) s = .next t →
    sameMemoryBut u t addr.toNat size ∧ sameRegs u t ∧ t.pending = u.pending ∧ t.cmds = u.cmds) ∧
  (∀ (s t : State) (a : BitVec 48) (size : Nat) (data : Bytes) (fs : List Found), let u := s.findErrors fs
    u.phase = .running → u.mappedAll a.toNat data.length = true →
    exec (.pcieInboundRequest .store (some a) size data fs) s = .next t →
    sameMemoryBut u t a.toNat data.length ∧ sameRegs u t ∧ t.pending = u.pending ∧ t.cmds = u.cmds) ∧
  ∀ (s t : State) (n : Fin 64) (off : BitVec 24) (data : Bytes) (a : Nat), s.phase = .running →
    s.pushTarget n.val off.toNat = some a → s.mappedAll a data.length = true → off.toNat + data.length ≤ 2 ^ 24 →
    exec (.pushWindowWrite n off data) s = .next t →
    sameMemoryBut s t a data.length ∧ t.cmds = s.cmds ∧ ∀ r, r ≠ HST_PUSH_STATUS n.val → t.reg r = s.reg r

/-- A host store to a register block acts when it is of 8 bytes and aligned, and otherwise does nothing (R496); each field is written
under its access code (R6, Table SCO-2): a read-only field, a write-only field and the shadowed value of a tick field keep what they show,
a bit written as one clears a clear-on-one field's bit, the other fields take the bits written, and no code touches a bit outside its
field. Where the spec leaves a reading open it follows the model's, log entries 21 and 23. -/
def Obligations.RegisterStoresFollowAccessCodes : Prop :=
  (∀ (s : State) (addr : BitVec 48) (v : Word), s.phase = .running → blockBase ≤ addr.toNat → addr.toNat - blockBase < 0x20000000 →
    (addr.toNat - blockBase) % 8 = 0 →
    exec (.registerWrite addr 8 v) s = .next ({ s with outs := { s.outs with hostStatus := 0 } }.storeReg (addr.toNat - blockBase) v.toNat)) ∧
  (∀ (s : State) (addr : BitVec 48) (size : Nat) (v : Word), s.phase = .running → (size ≠ 8 ∨ (addr.toNat - blockBase) % 8 ≠ 0) →
    exec (.registerWrite addr size v) s = .next { s with outs := { s.outs with hostStatus := 0 } }) ∧
  ∀ (old new : Nat) (f : FieldRow),
    (∀ lo w, (lo + w ≤ f.lo ∨ f.lo + f.width ≤ lo) → bitsOf (writeField old new f) lo w = bitsOf old lo w) ∧
    bitsOf (writeField old new f) f.lo f.width = (match f.acc with
      | .ro => bitsOf old f.lo f.width
      | .wo => bitsOf old f.lo f.width
      | .rwt => bitsOf old f.lo f.width
      | .rw1c => bitsOf old f.lo f.width &&& (2 ^ f.width - 1 - bitsOf new f.lo f.width)
      | .rws => bitsOf new f.lo f.width
      | .rwi => bitsOf new f.lo f.width)

/-! ## Queues and completions (chapter 06) -/

/-- The queue commands complete (R61, R112, R113, R116, R117, R119, R120, R124): a doorbell moves the tail of an enabled ring queue, or is
counted as bad when out of range; a fresh head slot is taken and a stale one re-read up to eight times, after which the queue is STALE;
the last bytes of a submission window submit it; ENABLE, drain, resume, a CQ head write, the coalescing timer, and the choice of the
protocol version. Where the spec leaves a reading open it follows the model's, log entries 62 and 63. -/
def Obligations.QueueCommandsComplete : Prop :=
  (∀ (s : State) (q : Fin 256) (tail : BitVec 32), s.phase = .running → s.fld (HST_Q_STATUS_STATE q.val) = 1 →
    s.fld (HST_Q_CONFIG_MODE q.val) = 0 → tail.toNat < 2 ^ s.fld (HST_Q_CONFIG_SQ_LOG2 q.val) → tail.toNat ≠ s.headSlot q.val →
    exec (.doorbell q tail) s = .next (s.setQueue q.val { s.queue q.val with tail := tail.toNat })) ∧
  (∀ (s : State) (q : Fin 256) (tail : BitVec 32), s.phase = .running → s.fld (HST_Q_STATUS_STATE q.val) = 1 →
    s.fld (HST_Q_CONFIG_MODE q.val) = 0 → 2 ^ s.fld (HST_Q_CONFIG_SQ_LOG2 q.val) ≤ tail.toNat →
    exec (.doorbell q tail) s = .next (s.addFld (HST_Q_STATUS_BAD_DOORBELL q.val) 1)) ∧
  (∀ (s : State) (q : Fin 256), s.mayFetch q.val = true → (s.queue q.val).stale = false → s.headFresh q.val = true →
    exec (.ringEntryFetch q) s = .next (s.takeHead q.val)) ∧
  (∀ (s : State) (q : Fin 256), s.mayFetch q.val = true → (s.queue q.val).stale = false → s.headFresh q.val = false →
    exec (.ringEntryFetch q) s = .next (s.setQueue q.val { s.queue q.val with stale := true, rereads := 0 })) ∧
  (∀ (s : State) (q : Fin 256), (s.queue q.val).stale = true → s.fld (HST_Q_STATUS_STATE q.val) = 1 → s.headFresh q.val = true →
    s.hasRoom q.val = true → exec (.staleSlotReread q) s = .next (s.takeHead q.val)) ∧
  (∀ (s : State) (q : Fin 256), (s.queue q.val).stale = true → s.fld (HST_Q_STATUS_STATE q.val) = 1 → s.headFresh q.val = true →
    s.hasRoom q.val = false →
    exec (.staleSlotReread q) s = .next (s.setQueue q.val { s.queue q.val with stale := false, rereads := 0 })) ∧
  (∀ (s : State) (q : Fin 256), (s.queue q.val).stale = true → s.fld (HST_Q_STATUS_STATE q.val) = 1 → s.headFresh q.val = false →
    (s.queue q.val).rereads = 7 →
    let u := s.setQueue q.val { s.queue q.val with stale := false, rereads := 0 }
    let v := (u.setFld (HST_Q_STATUS_STATE q.val) 3).setFld (HST_Q_STATUS_STALE_SLOT q.val) (s.headSlot q.val)
    exec (.staleSlotReread q) s = .next (v.event 0x7400 EV_QUEUE_STALE noDomain
      (leBytes 1 q.val ++ zeros 1 ++ leBytes 2 (s.headSlot q.val) ++ leBytes 4 (v.nextSequence q.val) ++ leBytes 2 (v.headPass q.val)))) ∧
  (∀ (s : State) (q : Fin 256) (off : BitVec 6) (data : Bytes), s.phase = .running → off.toNat ≤ 56 → 64 ≤ off.toNat + data.length →
    exec (.windowSubmit q off data) s = .next
      ((s.setQueue q.val { s.queue q.val with submit := putAt (padTo 64 (s.queue q.val).submit) off.toNat data }).takeWindow q.val)) ∧
  (∀ (s : State) (q : Fin 256) (off : BitVec 6) (data : Bytes), s.phase = .running → off.toNat + data.length < 64 →
    exec (.windowSubmit q off data) s = .next
      (s.setQueue q.val { s.queue q.val with submit := putAt (padTo 64 (s.queue q.val).submit) off.toNat data })) ∧
  (∀ (s : State) (q : Fin 256), s.phase = .running → s.fld (HST_Q_STATUS_STATE q.val) = 0 → s.queueOk q.val = true →
    let u := s.setQueue q.val { firstSeq := s.fld (HST_Q_CONFIG_START_SEQ q.val) }
    let v := (u.setFld (HST_Q_CTRL_ENABLE q.val) 1).setFld (HST_Q_STATUS_STATE q.val) 1
    exec (.queueEnable q) s = .next ((v.setReg (HST_Q_SQ_HEAD q.val) 0#64).setReg (HST_Q_CQ_HEAD q.val) 0#64)) ∧
  (∀ (s : State) (q : Fin 256), s.phase = .running → s.fld (HST_Q_STATUS_STATE q.val) = 0 → s.queueOk q.val = false →
    exec (.queueEnable q) s = .next (s.setFld (HST_Q_STATUS_LAST_REJECT q.val) ST_QUEUE_CONFIG)) ∧
  (∀ (s : State) (q : Fin 256), s.phase = .running → s.fld (HST_Q_STATUS_STATE q.val) = 1 →
    let u := (s.setFld (HST_Q_CTRL_ENABLE q.val) 0).setQueue q.val
      { (s.setFld (HST_Q_CTRL_ENABLE q.val) 0).queue q.val with stale := false, rereads := 0 }
    exec (.queueDrain q) s = .next
      (u.setFld (HST_Q_STATUS_STATE q.val) (if u.fld (HST_Q_STATUS_OUTSTANDING q.val) = 0 then 0 else 2))) ∧
  (∀ (s : State) (q : Fin 256), s.phase = .running → s.fld (HST_Q_STATUS_STATE q.val) = 3 → s.headFresh q.val = true →
    let u := s.setFld (HST_Q_STATUS_STATE q.val) 1
    exec (.queueResume q) s = .next (if u.hasRoom q.val then u.takeHead q.val else u)) ∧
  (∀ (s : State) (q : Fin 256) (value : Word), s.phase = .running →
    let v := bitsOf value.toNat 0 16
    let cap := 2 ^ s.fld (HST_Q_CONFIG_CQ_LOG2 q.val)
    v < cap → v ≠ s.fld (HST_Q_CQ_HEAD_HEAD q.val) →
    exec (.cqHeadWrite q value) s = .next ((s.setFld (HST_Q_CQ_HEAD_HEAD q.val) v).setQueue q.val
      { s.queue q.val with unread := ((s.queue q.val).written + cap - v) % cap })) ∧
  (∀ (s : State) (value : Word), s.phase = .running → (∀ q, q < 256 → s.fld (HST_Q_STATUS_STATE q) = 0) →
    ∃ t, exec (.protoNegotiate value) s = .next t ∧ onlyRegs s t [HST_PROTO] ∧
      t.fld HST_PROTO_MAJOR = bitsOf value.toNat 0 8 ∧
      t.fld HST_PROTO_CHOSEN_MINOR = (if bitsOf value.toNat 0 8 = 1 ∧ bitsOf value.toNat 8 8 ≤ min 2 (bitsOf value.toNat 16 8)
        then min 2 (bitsOf value.toNat 16 8) else 0xFF) ∧
      t.fld HST_PROTO_STATUS = (if bitsOf value.toNat 0 8 = 1 ∧ bitsOf value.toNat 8 8 ≤ min 2 (bitsOf value.toNat 16 8)
        then ST_OK else ST_REJECTED_VERSION)) ∧
  ∀ (s : State) (q : Fin 256), s.phase = .running → (s.queue q.val).unsignalled ≠ 0 → s.fld (HST_Q_IRQ_COALESCE_US q.val) ≠ 0 →
    exec (.coalesceTimerExpiry q) s = .next (s.interrupt q.val)

/-- A queue command changes nothing but its own queue's registers and state (chapter 06): no other queue, no command accepted before,
no byte of memory. -/
def Obligations.QueueCommandsKeepOthers : Prop :=
  ∀ (s t : State) (q : Fin 256) (c : Instr),
    (∃ v, c = .doorbell q v) ∨ c = .queueEnable q ∨ c = .queueDrain q ∨ (∃ v, c = .cqHeadWrite q v) ∨
      (∃ off data, c = .windowSubmit q off data ∧ off.toNat + data.length < 64) →
    exec c s = .next t →
    (∀ r : Fin 256, r ≠ q → t.queue r.val = s.queue r.val ∧ t.fld (HST_Q_STATUS_STATE r.val) = s.fld (HST_Q_STATUS_STATE r.val)) ∧
    t.cmds = s.cmds ∧ sameMemory s t ∧ t.phase = s.phase ∧ t.doms = s.doms ∧ t.tiles = s.tiles

/-- A handle completes once (promise 1 of Table ERR-7), and records are written in an order that R121 allows: of the ended commands of a
queue, one that carries neither FENCE nor ORDERED is released whatever came before, and one that carries either only if no earlier FENCE
or ORDERED command of the queue still lacks its record; a command whose record is written is no longer outstanding. Where the spec leaves
a reading open it follows the model's, log entries 62 and 64. -/
def Obligations.CompletionsOnceAndInOrder : Prop :=
  (∀ (q : Nat) (cs : List Pending) (p : Pending), p.queue = q → p.done.isSome = true →
     ∀ before after, cs = before ++ p :: after → (cs.map (·.handle)).Nodup →
       (p ∈ releasable q false cs ↔ ((p.fence = false ∧ p.ordered = false) ∨
         ∀ x ∈ before, x.queue = q → (x.fence = true ∨ x.ordered = true) → x ∈ releasable q false cs))) ∧
  ((∀ (s : State) (h : Word) (c : Completion) (p : Pending), s.cmd h = some p → p.done.isSome = true → s.finish h c = s) ∧
   (∀ (s : State) (h : Word) (c : Completion), s.cmd h = none → s.finish h c = s) ∧
   ∀ (s : State) (h : Word) (c : Completion) (p : Pending), s.cmd h = some p → p.done = none → p.fence = false → p.ordered = false →
     (s.finish h c).cmd h = none)

/-! ## Commands of classes COMPUTE, MOVE and STEP (chapters 06, 13, 17 and 18) -/

/-- LAUNCH, STOP and SIGNAL complete their start (R126, R149, R154, Table CMD-4): a LAUNCH waits while another runs, refuses a domain
without a spare, and otherwise takes its arguments and runs from the next slot; a STOP waits for the running LAUNCH; a SIGNAL is offered
to the channel of the tile that runs its logical tile: its last message while fewer than 16 are held, waiting otherwise, UNDELIVERABLE on
a SLOT-scoped channel. Where the spec leaves a reading open it follows the model's, log entries 46, 48, 66 and 234. -/
def Obligations.ComputeCommandsComplete : Prop :=
  ((∀ (s : State) (h : Word) (p : Pending), s.ready h 1 1 = some p → s.launchBusy p.domain h = false → rangeFlaw p.entry = none →
     ((s.begin p).dom p.domain).noSpare = false → fieldAt p.entry 16 8 = 0 →
     let u := s.begin p
     exec (.launch h []) s = .next (u.setDom p.domain
       { u.dom p.domain with launchNext := some { handle := h, limit := fieldAt p.entry 28 4, args := false } })) ∧
   (∀ (s : State) (h : Word) (p : Pending), s.ready h 1 1 = some p → s.launchBusy p.domain h = false → rangeFlaw p.entry = none →
     ((s.begin p).dom p.domain).noSpare = false → fieldAt p.entry 16 8 ≠ 0 →
     (s.begin p).mappedAll (fieldAt p.entry 16 8) (fieldAt p.entry 24 4) = true →
     (s.begin p).poisonedIn (fieldAt p.entry 16 8) (fieldAt p.entry 24 4) = none →
     let u := (s.begin p).devWrite ((s.begin p).argArea p.domain) ((s.begin p).physRead (fieldAt p.entry 16 8) (fieldAt p.entry 24 4))
     exec (.launch h []) s = .next (u.setDom p.domain
       { u.dom p.domain with launchNext := some { handle := h, limit := fieldAt p.entry 28 4, args := fieldAt p.entry 16 8 != 0 } })) ∧
   (∀ (s : State) (h : Word) (fs : List Found), exec (.launch h fs) s = exec (.launch h []) (s.findErrors fs)) ∧
   (∀ (s : State) (h : Word) (p : Pending), s.ready h 1 1 = some p → s.launchBusy p.domain h = true →
     exec (.launch h []) s = .next s) ∧
   (∀ (s : State) (d : Nat) (h : Word) (q : Pending), q ∈ s.cmds → q.handle ≠ h → q.started = true → q.cls = 1 → q.op = 1 → q.domain = d →
     s.launchBusy d h = true) ∧
   (∀ (s : State) (h : Word) (p : Pending) (st : Nat), s.ready h 1 1 = some p → s.launchBusy p.domain h = false → rangeFlaw p.entry = some st →
     exec (.launch h []) s = .next ((s.begin p).finishWith p.handle st)) ∧
   (∀ (s : State) (h : Word) (p : Pending), s.ready h 1 2 = some p → ((s.begin p).dom p.domain).launchNext = none →
     ((s.begin p).dom p.domain).launch = none → exec (.stop h) s = .next ((s.begin p).finishWith h ST_OK)) ∧
   (∀ (s : State) (h : Word) (p : Pending), s.ready h 1 2 = some p → ((s.begin p).dom p.domain).launchNext.isSome = true →
     let x := (s.begin p).dom p.domain
     exec (.stop h) s = .next ((s.begin p).setDom p.domain { x with stops := x.stops ++ [h] })) ∧
   (∀ (s : State) (h : Word) (p : Pending) (st : Nat), s.ready h 1 3 = some p → rangeFlaw p.entry = some st →
     exec (.signal h) s = .next ((s.begin p).finishWith p.handle st)) ∧
   (∀ (s : State) (h : Word) (p : Pending), s.ready h 1 3 = some p → rangeFlaw p.entry = none →
     ((s.begin p).domTiles p.domain).contains (fieldAt p.entry 16 2) = true →
     exec (.signal h) s = .next ((s.begin p).offerHost ⟨(s.begin p).phys p.domain (fieldAt p.entry 16 2), fieldAt p.entry 18 1,
       messageBytes 0xFFFF (fieldAt p.entry 16 2) (fieldAt p.entry 18 1) 3 (fieldAt p.entry 20 2) 0 0 0xFFFF 0xFFFF 0 (takeAt p.entry 24 32), h,
       some (p.domain, fieldAt p.entry 16 2)⟩)) ∧
   (∀ (s : State) (h : Word) (p : Pending), s.ready h 1 3 = some p → rangeFlaw p.entry = none →
     ((s.begin p).domTiles p.domain).contains (fieldAt p.entry 16 2) = false →
     exec (.signal h) s = .next ((s.begin p).finishWith h ST_UNDELIVERABLE)) ∧
   (∀ (s : State) (h : Word), s.phase = .running → exec (.signalRetry h) s = .next (s.retryHost h)) ∧
   ∀ (s : State) (m : HostMsg) (d l : Nat), m.logical = some (d, l) → (s.redirect m).tile = s.phys d l) ∧
  ((∀ (s : State) (m : HostMsg), s.tileUsable m.tile = true → s.fld (TIL_MSG_CHAN_PERSIST m.tile m.chan) = 1 →
     (s.chan m.tile m.chan).length < 16 →
     s.offerHost m = (s.setChan m.tile m.chan (s.chan m.tile m.chan ++ [m.bytes])).finishOk m.handle 0 ∧
     (s.setChan m.tile m.chan (s.chan m.tile m.chan ++ [m.bytes])).chan m.tile m.chan = s.chan m.tile m.chan ++ [m.bytes]) ∧
   (∀ (s : State) (m : HostMsg), s.tileUsable m.tile = true → s.fld (TIL_MSG_CHAN_PERSIST m.tile m.chan) = 1 →
     16 ≤ (s.chan m.tile m.chan).length → s.offerHost m = { s with hostMsgs := s.hostMsgs ++ [m] }) ∧
   ∀ (s : State) (m : HostMsg), s.fld (TIL_MSG_CHAN_PERSIST m.tile m.chan) = 0 →
     s.offerHost m = s.finishWith m.handle ST_UNDELIVERABLE)

/-- The commands of classes MOVE, SECURE, WATCH and QUERY complete (Table CMD-5, R86, R127, R463, R466, R478): a transfer over mapped
memory starts and takes effect at its end, and over memory that is not mapped ends with ADDRESS_UNMAPPED; the certificate chain, the
signed measurements, a point's readings and 512 bytes of information (free values) are written; TIME_MEASURE ends at once on the time
master and waits for a measurement elsewhere, which it begins if none runs. Where the spec leaves a reading open it follows the model's,
log entries 12, 45, 65 and 177. -/
def Obligations.MoveAndReportCommandsComplete : Prop :=
  ((∀ (s : State) (h : Word) (p : Pending) (st : Nat), rangeFlaw p.entry = some st →
     (s.ready h 2 1 = some p → exec (.moveCopy h) s = .next ((s.begin p).finishWith p.handle st)) ∧
     (s.ready h 2 2 = some p → exec (.moveFill h) s = .next ((s.begin p).finishWith p.handle st))) ∧
   (∀ (s : State) (h : Word) (p : Pending), s.ready h 2 1 = some p → rangeFlaw p.entry = none → p.codec < 3 →
     (s.begin p).mappedAll p.src ((s.begin p).copyReads p) = true → (s.begin p).mappedAll p.dst (copyWrites p) = true →
     exec (.moveCopy h) s = .next (s.begin p)) ∧
   (∀ (s : State) (h : Word) (p : Pending), s.ready h 2 2 = some p → rangeFlaw p.entry = none → (s.begin p).mappedAll p.src p.len = true →
     exec (.moveFill h) s = .next (s.begin p)) ∧
   (∀ (s : State) (h : Word) (p : Pending), s.ready h 2 2 = some p → rangeFlaw p.entry = none → (s.begin p).mappedAll p.src p.len = false →
     exec (.moveFill h) s = .next (((s.begin p).engineFault p.src p.len).finishWith h ST_ADDRESS_UNMAPPED)) ∧
   (∀ (s : State) (h : Word) (p : Pending), s.cmd h = some p → p.cls = 2 → p.op = 1 → p.started = true → p.done = none →
     s.revoked (s.movePort p) = false → s.moveTurn p = true →
     exec (.moveTransferDone h []) s = .next (s.endCopy p)) ∧
   (∀ (s : State) (h : Word) (p : Pending), s.cmd h = some p → p.cls = 2 → p.op = 2 → p.started = true → p.done = none →
     s.revoked (s.movePort p) = false → s.moveTurn p = true →
     exec (.moveTransferDone h []) s = .next ((s.devWrite p.src (fillBytes (fieldAt p.entry 24 8) p.len)).finishOk h p.len)) ∧
   (∀ (s : State) (h : Word) (p : Pending), s.cmd h = some p → s.moveTurn p = false → exec (.moveTransferDone h []) s = .next s) ∧
   (∀ (s : State) (h : Word) (fs : List Found), exec (.moveTransferDone h fs) s = exec (.moveTransferDone h []) (s.findErrors fs)) ∧
   ∀ (v n i : Nat), i < n → (fillBytes v n)[i]? = some (BitVec.ofNat 8 (bitsOf v (8 * (i % 8)) 8))) ∧
  ((∀ (s : State) (h : Word) (p : Pending), s.ready h 5 1 = some p →
     exec (.identityGet h) s = .next ((s.begin p).putOutput h (fieldAt p.entry 16 8) (fieldAt p.entry 24 4) s.chain)) ∧
   (∀ (s : State) (h : Word) (p : Pending), s.ready h 5 2 = some p → (s.begin p).mappedAll (fieldAt p.entry 16 8) 32 = true →
     (s.begin p).poisonedIn (fieldAt p.entry 16 8) 32 = none →
     let u := s.begin p
     exec (.attestGet h []) s = .next (u.putOutput h (fieldAt p.entry 24 8) (fieldAt p.entry 32 4)
       (u.signed (u.physRead (fieldAt p.entry 16 8) 32) u.measurements.flatten))) ∧
   (∀ (s : State) (h : Word) (fs : List Found), exec (.attestGet h fs) s = exec (.attestGet h []) (s.findErrors fs)) ∧
   (∀ (s : State) (h : Word) (p : Pending), s.ready h 6 1 = some p →
     let u := s.begin p
     let rs := u.watched (fieldAt p.entry 16 1)
     u.mappedAll (fieldAt p.entry 24 8) (64 * rs.length) = true →
     exec (.watchRead h) s = .next ((u.devWrite (fieldAt p.entry 24 8) rs.flatten).finishOk h rs.length)) ∧
   (∀ (s : State) (h : Word) (p : Pending), s.ready h 6 2 = some p →
     let u := s.begin p
     exec (.watchClear h) s = .next
       ({ u with dbg := { u.dbg with points := smapDel u.dbg.points (fieldAt p.entry 16 1) } }.finishWith h ST_OK)) ∧
   (∀ (s : State) (h : Word) (p : Pending), s.ready h 7 1 = some p → (s.begin p).mappedAll (fieldAt p.entry 16 8) 512 = true →
     let u := s.begin p
     exec (.queryInfo h) s = .next
       ({ (u.devWrite (fieldAt p.entry 16 8) (u.freeBytes 512)) with fresh := u.fresh + 1 }.finishOk h 512)) ∧
   (∀ (s : State) (h : Word) (p : Pending), s.ready h 7 3 = some p →
     exec (.handleState h) s = .next ((s.begin p).finishOk h ((s.begin p).handleState (word (fieldAt p.entry 16 8))))) ∧
   (∀ (s : State) (h : Word) (p : Pending), s.ready h 7 2 = some p → (s.begin p).isTimeMaster = true →
     exec (.timeMeasure h) s = .next ((s.begin p).finishOk h 0)) ∧
   ∀ (s : State) (h : Word) (p : Pending), s.ready h 7 2 = some p → (s.begin p).isTimeMaster = false →
     let u := s.begin p
     let v := { u with measureBy := u.measureBy ++ [h] }
     exec (.timeMeasure h) s = .next (if u.fld CTL_TIME_STATUS_MEASURING = 1 then v else v.startMeasure))

/-- The STEP commands complete their start (R128, R377, R397, R405, R406, R426): BEGIN joins its domain's waiting openings; UPDATE waits
once per step and ends with UPDATE_DUPLICATE for a step it has, RESTORE_MISMATCH after a restore that failed; SNAPSHOT needs a partner;
RESTORE begins or says why not, and its basis is loaded into memory and the domain's later records of the spool ring discarded. Where the
spec leaves a reading open it follows the model's, log entries 134, 140, 149 and 244. -/
def Obligations.StepCommandsComplete : Prop :=
  (∀ (s : State) (h : Word) (p : Pending), s.ready h 4 1 = some p →
    let u := s.begin p
    exec (.stepBegin h) s = .next (u.setDom p.domain
      { u.dom p.domain with beginBy := (u.dom p.domain).beginBy ++ [(h, fieldAt p.entry 16 8)] })) ∧
  (∀ (s : State) (h : Word) (p : Pending), s.ready h 4 2 = some p → ((s.begin p).dom p.domain).restoreBad = false →
    ((s.begin p).dom p.domain).update = none → (∀ x ∈ ((s.begin p).dom p.domain).updateBy, x.step ≠ fieldAt p.entry 16 8) →
    let u := s.begin p
    exec (.stepUpdate h) s = .next (u.setDom p.domain { u.dom p.domain with
      updateBy := (u.dom p.domain).updateBy ++ [{ handle := h, step := fieldAt p.entry 16 8, set := fieldAt p.entry 24 4 }] })) ∧
  (∀ (s : State) (h : Word) (p : Pending), s.ready h 4 2 = some p → ((s.begin p).dom p.domain).restoreBad = false →
    (∃ x ∈ ((s.begin p).dom p.domain).updateBy, x.step = fieldAt p.entry 16 8) →
    exec (.stepUpdate h) s = .next ((s.begin p).finishWith h ST_UPDATE_DUPLICATE)) ∧
  (∀ (s : State) (h : Word) (p : Pending) (x : Update), s.ready h 4 2 = some p → ((s.begin p).dom p.domain).restoreBad = false →
    ((s.begin p).dom p.domain).update = some x → x.step = fieldAt p.entry 16 8 →
    exec (.stepUpdate h) s = .next ((s.begin p).finishWith h ST_UPDATE_DUPLICATE)) ∧
  (∀ (s : State) (h : Word) (p : Pending), s.ready h 4 2 = some p → ((s.begin p).dom p.domain).restoreBad = true →
    exec (.stepUpdate h) s = .next ((s.begin p).finishWith h ST_RESTORE_MISMATCH)) ∧
  (∀ (s : State) (h : Word) (p : Pending), s.ready h 4 3 = some p → (s.begin p).domState p.domain = 3 →
    ((s.begin p).dom p.domain).resumeBy = none → ((s.begin p).dom p.domain).noSpare = false →
    let u := s.begin p
    exec (.stepResume h) s = .next (u.setDom p.domain { u.dom p.domain with resumeBy := some h, recoverDue := u.tick + 2 })) ∧
  (∀ (s : State) (h : Word) (p : Pending), s.ready h 4 4 = some p → (s.begin p).survival.partner = none →
    exec (.stepSnapshot h) s = .next ((s.begin p).finishWith h ST_PARTNER_NONE)) ∧
  (∀ (s : State) (h : Word) (p : Pending), s.ready h 4 4 = some p → (s.begin p).survival.partner.isSome = true →
    let u := s.begin p
    exec (.stepSnapshot h) s = .next
      (u.setDom p.domain { u.dom p.domain with snapBy := (u.dom p.domain).snapBy ++ [h] }).requestSnapshots) ∧
  (∀ (s : State) (h : Word) (whole : Bool) (p : Pending) (n : Nat) (rs : List Bytes) (e : Bytes), s.ready h 4 5 = some p →
    let u := s.begin p
    u.checkRestore p.domain h (fieldAt p.entry 16 8) (fieldAt p.entry 24 8) whole = .ok (n, rs, e) →
    exec (.stepRestore h whole) s = .next (u.setDom p.domain { u.dom p.domain with
      restoreBad := false, restore := some
        { handle := h, step := n, last := fieldAt e 8 8, spool := rs, start := u.now,
          opened := u.openedAt p.domain (fieldAt p.entry 24 8) (fieldAt (u.bytesAt (fieldAt p.entry 16 8) 128) 48 8) n } })) ∧
  (∀ (s : State) (h : Word) (whole : Bool) (p : Pending), s.ready h 4 5 = some p →
    (s.begin p).checkRestore p.domain h (fieldAt p.entry 16 8) (fieldAt p.entry 24 8) whole = .error 4 →
    exec (.stepRestore h whole) s = .next ((s.begin p).finishWith h ST_RESTORE_NO_STEP)) ∧
  (∀ (s : State) (d : Fin 64) (basis : Basis) (r : Restore), (s.dom d.val).restore = some r → r.loaded = false →
    let u := basis.banks.foldl (fun (w : State) b => w.devWrite b.1 b.2) s
    let w := (u.loadFront d.val basis.front).loadRecord d.val basis.record
    let v := { w with spoolRing := w.spoolRing.filter (fun e => !(e.dom == d.val && decide (r.last < e.step))) }
    exec (.restoreBasisLoaded d (BitVec.ofNat 16 ST_OK) basis) s = .next (v.setDom d.val { v.dom d.val with
      spoolSeq := (r.spool.getLast?.map (fun e => fieldAt e 40 8 + 1)).getD 0, restore := some { r with loaded := true } })) ∧
  ∀ (s : State) (d : Fin 64) (outcome : BitVec 16) (basis : Basis) (r : Restore), (s.dom d.val).restore = some r → r.loaded = false →
    outcome.toNat ≠ ST_OK →
    exec (.restoreBasisLoaded d outcome basis) s = .next
      (((s.setDom d.val { s.dom d.val with restore := none }).event 0x8005 EV_RECOVERY_LONG d.val
        (leBytes 8 r.start ++ leBytes 8 s.now ++ leBytes 2 outcome.toNat)).finishWith r.handle outcome.toNat)

/-- RESUME on a domain that is not STOPPED, and a second RESUME before the replay boundary, end at once with NOT_STOPPED and have no other
effect (R128). -/
def Obligations.ResumeNeedsAStoppedDomain : Prop :=
  ST_NOT_STOPPED = 0x0106 ∧
  (∀ (s : State) (h : Word) (p : Pending), s.ready h 4 3 = some p → (s.begin p).domState p.domain ≠ 3 →
    exec (.stepResume h) s = .next ((s.begin p).finishWith h ST_NOT_STOPPED)) ∧
  ∀ (s : State) (h : Word) (p : Pending), s.ready h 4 3 = some p → ((s.begin p).dom p.domain).resumeBy.isSome = true →
    exec (.stepResume h) s = .next ((s.begin p).finishWith h ST_NOT_STOPPED)

/-! ## Tile cores and their operation queue (chapter 07) -/

/-- A running core executes the instruction at its PC (R133, R134, R420, R475): its result goes to `rd`, which stays zero for x0, and the
PC moves on; a corrected word is counted first; an uncorrectable one is a tile fault; and what RV64IMAC calls an exception stops the
domain (R137). Where the spec leaves a reading open it follows the model's, log entries 17, 189, 190 and 191. -/
def Obligations.CoreInstructionsComplete : Prop :=
  (∀ (s u : State) (t : Fin 384) (w len rd : Nat) (v pc : Word), s.coreRuns t.val = true → (s.tile t.val).fetch = .word w len →
    isCustom w = false → w ≠ 0x00100073 → s.runWord t.val w len = .done u rd v pc →
    exec (.coreInstruction t .clean) s = .next
      (u.setTile t.val { ((u.tile t.val).putX rd v) with pc := pc, mcycle := ((u.tile t.val).mcycle + 1) % 2 ^ 64 })) ∧
  (∀ (s : State) (t : Fin 384) (f : Found), s.coreRuns t.val = true → f.ecc = .corrected →
    exec (.coreInstruction t f) s = .next ((s.correctedWord t.val f).coreStep t.val)) ∧
  (∀ (s : State) (t : Fin 384) (f : Found), s.coreRuns t.val = true → f.ecc = .uncorrectable →
    exec (.coreInstruction t f) s = .next (s.tileFault t.val (foundInfo f ST_ECC_UNCORRECTABLE))) ∧
  (∀ (s : State) (t : Fin 384) (w len c : Nat), s.coreRuns t.val = true → (s.tile t.val).fetch = .word w len →
    isCustom w = false → w ≠ 0x00100073 → s.runWord t.val w len = .trap c →
    exec (.coreInstruction t .clean) s = .next (s.coreTrap t.val c)) ∧
  (∀ (s : State) (t : Fin 384) (len : Nat), s.coreRuns t.val = true → (s.tile t.val).fetch = .word 0x00100073 len →
    bitOf s.scope 1 = true → exec (.ebreak t) s = .next (s.setTile t.val { s.tile t.val with run := .halted })) ∧
  ∀ (s : State) (t : Fin 384) (len : Nat), s.coreRuns t.val = true → (s.tile t.val).fetch = .word 0x00100073 len →
    bitOf s.scope 1 = false → exec (.ebreak t) s = .next (s.coreTrap t.val CAUSE_BREAK)

/-- The integer instructions of the core compute as RV64IM says (R133), for every operand: sums, differences and products modulo 2^64,
comparisons, shifts by the low six bits, and division with its two corner cases; registers read back what was written, and x0 reads zero. -/
def Obligations.CoreArithmetic : Prop :=
  (∀ (s : State) (t w len : Nat), w % 128 = 0x33 →
    let c := s.tile t
    let a := c.x (fRs1 w)
    let b := c.x (fRs2 w)
    let next := c.pc + word len
    (f3 w = 0 → f7 w = 0 → s.runWord t w len = .done s (fRd w) (a + b) next) ∧
    (f3 w = 0 → f7 w = 0x20 → s.runWord t w len = .done s (fRd w) (a - b) next) ∧
    (f3 w = 0 → f7 w = 1 → s.runWord t w len = .done s (fRd w) (a * b) next) ∧
    (f3 w = 5 → f7 w = 0x20 → s.runWord t w len = .done s (fRd w) (a.sshiftRight (b.toNat % 64)) next) ∧
    (f3 w = 3 → f7 w = 0 → s.runWord t w len = .done s (fRd w) (if a.toNat < b.toNat then 1#64 else 0#64) next) ∧
    (f3 w = 4 → f7 w = 1 → s.runWord t w len = .done s (fRd w) (if b = 0#64 then BitVec.allOnes 64 else a.sdiv b) next) ∧
    (f3 w = 6 → f7 w = 1 → s.runWord t w len = .done s (fRd w) (a.srem b) next) ∧
    (f3 w = 7 → f7 w = 1 → s.runWord t w len = .done s (fRd w) (a.umod b) next)) ∧
  (∀ (c : Tile) (r q : Nat) (v : Word), (c.putX r v).x q = if q = 0 then 0#64 else if q = r then v else c.x q) ∧
  ∀ (c : Tile) (v : Word), c.putX 0 v = c

/-- The tickets of a tile's queue (R138): a ticket holds its index in bits 5:0 and its generation in bits 15:6 and is never zero; the generation
of an index rises by one each time it is allocated, 1,023 followed by 1; and a ticket is complete when its index is free or of another generation. -/
def Obligations.TicketsNameOperations : Prop :=
  (∀ i gen, i < 64 → 1 ≤ gen → gen ≤ 1023 →
    bitsOf (mkTicket i gen) 0 6 = i ∧ bitsOf (mkTicket i gen) 6 10 = gen ∧ mkTicket i gen ≠ 0 ∧ mkTicket i gen < 2 ^ 16) ∧
  (∀ (x : Tile) (i : Nat), 1 ≤ x.nextGen i ∧ x.nextGen i ≤ 1023 ∧
    (∀ g, smapFind x.gens i = some g → g < 1023 → x.nextGen i = g + 1) ∧ (smapFind x.gens i = some 1023 → x.nextGen i = 1)) ∧
  (∀ (s : State) (t i pre aux : Nat) (desc : Bytes), smapFind ((s.enqueue t i desc pre aux).tile t).gens i = some ((s.tile t).nextGen i)) ∧
  ∀ (x : Tile) (ticket : Nat), x.complete ticket = true ↔
    (smapFind x.ops (ticket % 64) = none ∨ ∃ o, smapFind x.ops (ticket % 64) = some o ∧ o.gen ≠ ticket / 64)

/-- The instructions of Table TIL-3 complete at the core whose PC holds their word (R138, R139, R142, R143, R240): op.issue and op.try
place a descriptor and give its ticket, op.try gives 0 on a full queue, op.wait passes once its ticket is complete, op.test and op.status
give its state. Where the spec leaves a reading open it follows the model's, log entry 67. -/
def Obligations.QueueInstructionsComplete : Prop :=
  (∀ (s : State) (t : Fin 384) (rd rs1 rs2 : Fin 32) (w i : Nat), s.customAt t.val 0 0 = some w → fRd w = rd.val → fRs1 w = rs1.val →
    fRs2 w = rs2.val → dramFault ((s.tile t.val).x rs1.val).toNat 0 = none → s.freeIndex t.val = some i →
    exec (.opIssue t rd rs1 rs2) s = .next (s.issue t.val rd.val
      ((s.tile t.val).dramBytes (((s.tile t.val).x rs1.val).toNat - 0x100000) 64) ((s.tile t.val).x rs2.val).toNat i)) ∧
  (∀ (s : State) (t : Fin 384) (rd rs1 rs2 : Fin 32) (w i : Nat), s.customAt t.val 0 1 = some w → fRd w = rd.val → fRs1 w = rs1.val →
    fRs2 w = rs2.val → dramFault ((s.tile t.val).x rs1.val).toNat 0 = none → s.freeIndex t.val = some i →
    exec (.opTry t rd rs1 rs2) s = .next (s.issue t.val rd.val
      ((s.tile t.val).dramBytes (((s.tile t.val).x rs1.val).toNat - 0x100000) 64) ((s.tile t.val).x rs2.val).toNat i)) ∧
  (∀ (s : State) (t : Fin 384) (rd rs1 rs2 : Fin 32) (w : Nat), s.customAt t.val 0 1 = some w → fRd w = rd.val → fRs1 w = rs1.val →
    fRs2 w = rs2.val → dramFault ((s.tile t.val).x rs1.val).toNat 0 = none → s.freeIndex t.val = none →
    exec (.opTry t rd rs1 rs2) s = .next (s.retire4 t.val rd.val 0)) ∧
  (∀ (s : State) (t : Fin 384) (rs1 : Fin 32) (w : Nat), s.customAt t.val 1 0 = some w → fRs1 w = rs1.val →
    (s.tile t.val).complete (ticketIn ((s.tile t.val).x rs1.val)) = true →
    exec (.opWait t rs1) s = .next (s.retire4 t.val 0 0)) ∧
  (∀ (s : State) (t : Fin 384) (rs1 : Fin 32) (w : Nat), s.customAt t.val 1 0 = some w → fRs1 w = rs1.val →
    (s.tile t.val).complete (ticketIn ((s.tile t.val).x rs1.val)) = false → exec (.opWait t rs1) s = .next s) ∧
  (∀ (s : State) (t : Fin 384) (rd rs1 : Fin 32) (w : Nat), s.customAt t.val 1 1 = some w → fRd w = rd.val → fRs1 w = rs1.val →
    exec (.opTest t rd rs1) s = .next
      (s.retire4 t.val rd.val (if (s.tile t.val).complete (ticketIn ((s.tile t.val).x rs1.val)) then 1 else 0))) ∧
  (∀ (s : State) (t : Fin 384) (rd rs1 : Fin 32) (w : Nat), s.customAt t.val 1 2 = some w → fRd w = rd.val → fRs1 w = rs1.val →
    exec (.opStatus t rd rs1) s = .next
      (s.retire4 t.val rd.val ((s.tile t.val).outcome (ticketIn ((s.tile t.val).x rs1.val))))) ∧
  (∀ (s : State) (t : Fin 384) (rs1 : Fin 32) (w : Nat), s.customAt t.val 4 0 = some w → fRs1 w = rs1.val →
    exec (.slotEnd t rs1) s = .next (s.control t.val 1 (((s.tile t.val).x rs1.val).toNat % 2 ^ 32))) ∧
  (∀ (s : State) (t : Fin 384) (w : Nat), s.customAt t.val 4 1 = some w → exec (.progEnd t) s = .next (s.control t.val 2 0)) ∧
  (∀ (s : State) (t : Fin 384) (rd rs1 : Fin 32) (w : Nat), s.customAt t.val 5 0 = some w → fRd w = rd.val → fRs1 w = rs1.val →
    ((s.tile t.val).x rs1.val).toNat < 16 →
    exec (.sumRead t rd rs1) s = .next
      (s.retire4 t.val rd.val (s.reg (VEC_SUM t.val ((s.tile t.val).x rs1.val).toNat)).toNat)) ∧
  ∀ (s : State) (t rd v : Nat), s.retire4 t rd v =
    s.setTile t { ((s.tile t).putX rd (word v)) with pc := (s.tile t).pc + 4#64, mcycle := ((s.tile t).mcycle + 1) % 2 ^ 64 }

/-- The mailbox and barrier instructions complete (R148, R157): msg.recv and msg.poll move the oldest message of a channel to data SRAM,
msg.poll gives 0 on an empty one and msg.recv waits there; bar.arrive records the tile's arrival once per generation; bar.wait passes when
it is released. Where the spec leaves a reading open it follows the model's, log entry 68. -/
def Obligations.MailboxAndBarrierInstructionsComplete : Prop :=
  (∀ (s : State) (t : Fin 384) (rd rs1 rs2 : Fin 32) (w : Nat) (m : Bytes) (ms : List Bytes), s.customAt t.val 2 0 = some w →
    fRd w = rd.val → fRs1 w = rs1.val → fRs2 w = rs2.val → dramFault ((s.tile t.val).x rs2.val).toNat 2 = none →
    ((s.tile t.val).x rs1.val).toNat < 16 → s.chan t.val ((s.tile t.val).x rs1.val).toNat = m :: ms →
    exec (.msgRecv t rd rs1 rs2) s = .next
      (s.takeMessage t.val ((s.tile t.val).x rs1.val).toNat ((s.tile t.val).x rs2.val).toNat rd.val m ms)) ∧
  (∀ (s : State) (t : Fin 384) (rd rs1 rs2 : Fin 32) (w : Nat) (m : Bytes) (ms : List Bytes), s.customAt t.val 2 1 = some w →
    fRd w = rd.val → fRs1 w = rs1.val → fRs2 w = rs2.val → dramFault ((s.tile t.val).x rs2.val).toNat 2 = none →
    ((s.tile t.val).x rs1.val).toNat < 16 → s.chan t.val ((s.tile t.val).x rs1.val).toNat = m :: ms →
    exec (.msgPoll t rd rs1 rs2) s = .next
      (s.takeMessage t.val ((s.tile t.val).x rs1.val).toNat ((s.tile t.val).x rs2.val).toNat rd.val m ms)) ∧
  (∀ (s : State) (t : Fin 384) (rd rs1 rs2 : Fin 32) (w : Nat), s.customAt t.val 2 1 = some w →
    fRd w = rd.val → fRs1 w = rs1.val → fRs2 w = rs2.val → dramFault ((s.tile t.val).x rs2.val).toNat 2 = none →
    ((s.tile t.val).x rs1.val).toNat < 16 → s.chan t.val ((s.tile t.val).x rs1.val).toNat = [] →
    exec (.msgPoll t rd rs1 rs2) s = .next (s.retire4 t.val rd.val 0)) ∧
  (∀ (s u : State) (t : Fin 384) (rs1 : Fin 32) (w d : Nat), s.customAt t.val 3 0 = some w → s.domOf t.val = some d →
    fRs1 w = rs1.val → ((s.tile t.val).x rs1.val).toNat < 8 →
    s.arrive d ((s.tile t.val).x rs1.val).toNat (s.logicalOf d t.val) = some u →
    exec (.barArrive t rs1) s = .next (u.retire4 t.val 0 0)) ∧
  (∀ (s : State) (t : Fin 384) (rs1 : Fin 32) (w d : Nat), s.customAt t.val 3 1 = some w → s.domOf t.val = some d →
    fRs1 w = rs1.val → ((s.tile t.val).x rs1.val).toNat < 8 →
    ((s.dom d).barrier ((s.tile t.val).x rs1.val).toNat).holds (s.logicalOf d t.val) = false →
    exec (.barWait t rs1) s = .next (s.retire4 t.val 0 0)) ∧
  (∀ (s : State) (t : Fin 384) (rs1 : Fin 32) (w d : Nat), s.customAt t.val 3 1 = some w → s.domOf t.val = some d →
    fRs1 w = rs1.val → ((s.tile t.val).x rs1.val).toNat < 8 →
    ((s.dom d).barrier ((s.tile t.val).x rs1.val).toNat).holds (s.logicalOf d t.val) = true →
    exec (.barWait t rs1) s = .next s) ∧
  (∀ (s : State) (d b : Fin 64), let x := (s.dom d.val).barrier b.val
    ∀ l, x.holds l = false → ∃ u, s.arrive d.val b.val l = some u ∧
      ((u.dom d.val).barrier b.val).gen = x.gen ∧ (l ∈ ((u.dom d.val).barrier b.val).arrived)) ∧
  ∀ (s : State) (d b l : Nat), ((s.dom d).barrier b).holds l = true → s.arrive d b l = none

/-- Operations start and complete (R140 to R143), and a DMA copy, a send and a collective's post have their effects (R146, R151, R155,
R357): an eligible operation is started by its engine and, its effects done, leaves the queue with its ticket complete, the bytes it
shared with unordered operations unpredictable; a copy waits while an earlier one has yet to write a line of host memory that it writes
(R107). Where the spec leaves a reading open it follows the model's, log entries 12, 13, 17, 59, 192 and 238. -/
def Obligations.OperationsComplete : Prop :=
  (∀ (s : State) (t : Fin 384) (engine : BitVec 4) (i e : Nat) (o : Op),
    firstOp (fun o => o.engineCode == engine.toNat && !o.started) (s.tile t.val).ops = some (i, o) →
    s.engineFor t.val o = some e → s.mayStart t.val o = true →
    exec (.operationStart t engine .clean) s = .next (s.startOp t.val i { o with sends := s.sends t.val o } e) ∧
    ∀ f : Found, (f.ecc = .corrected →
        let u := s.correctedWord t.val f
        exec (.operationStart t engine f) s = .next (u.startOp t.val i { o with sends := u.sends t.val o } e)) ∧
      (f.ecc = .uncorrectable →
        exec (.operationStart t engine f) s = .next (s.tileFault t.val (foundInfo f ST_ECC_UNCORRECTABLE)))) ∧
  (∀ (s : State) (t : Fin 384) (i : Fin 64) (o : Op), s.op t.val i.val = some o → o.engineCode ≠ 15 → o.acted = true →
    exec (.operationComplete t i) s = .next (((s.scrambleAll o.races).dequeue t.val i.val o).waited t.val o)) ∧
  (∀ (s : State) (t : Fin 384) (i : Fin 64) (o : Op) (d : Nat), s.op t.val i.val = some o → o.engineCode = 15 → o.started = true →
    (s.dequeue t.val i.val o).domOf t.val = some d → o.code = 1 →
    exec (.operationComplete t i) s = .next ((s.dequeue t.val i.val o).slotEnded d t.val o.aux)) ∧
  (∀ (s : State) (t : Fin 384) (i : Fin 64) (o : Op) (d : Nat), s.op t.val i.val = some o → o.engineCode = 15 → o.started = true →
    (s.dequeue t.val i.val o).domOf t.val = some d → o.code = 2 →
    exec (.operationComplete t i) s = .next ((s.dequeue t.val i.val o).progEnded d t.val)) ∧
  (∀ (s : State) (t : Fin 384) (i : Fin 64) (o : Op), s.held t.val i.val [6] 1 = some o → s.dmaFault t.val o = none →
    let x := o.dma
    let a := s.tileAddr t.val x.src
    let b := s.tileAddr t.val x.dst
    s.rowsMapped x.bytes a x.ss x.rows = true → s.rowsMapped x.bytes b x.ds x.rows = true → s.rowsPoisoned x.bytes a x.ss x.rows = none →
    s.dmaTurn t.val o = true →
    exec (.dmaCopy t i []) s = .next (((s.copyRows x.bytes a x.ss b x.ds x.rows).countDma t.val x a b).actedWith t.val i.val 0)) ∧
  (∀ (s : State) (t : Fin 384) (i : Fin 64) (o : Op), s.held t.val i.val [6] 1 = some o → s.dmaTurn t.val o = false →
    exec (.dmaCopy t i []) s = .next s) ∧
  (∀ (s : State) (t : Fin 384) (i : Fin 64) (fs : List Found), exec (.dmaCopy t i fs) s = exec (.dmaCopy t i []) (s.findErrors fs) ∧
    exec (.collPost t i fs) s = exec (.collPost t i []) (s.findErrors fs)) ∧
  (∀ (s : State) (t : Fin 384) (i : Fin 64) (o : Op) (d : Nat), s.held t.val i.val [7] 1 = some o →
    o.reservedOk [(8, 6), (24, 32)] = true → o.field 10 1 < 16 → o.field 8 2 ≤ 383 → 1 ≤ o.field 11 1 → o.field 11 1 ≤ 32 →
    o.field 12 2 = 0xFFFF → s.domOf t.val = some d → o.aux ≠ 1 → s.sendsBefore t.val o = false →
    s.deliverable d (o.field 8 2) (o.field 10 1) = true →
    exec (.send t i) s = .next (s.sendLocal t.val i.val d (o.field 8 2) (o.field 10 1) o)) ∧
  (∀ (s : State) (t : Fin 384) (i : Fin 64) (o : Op) (d : Nat), s.held t.val i.val [7] 2 = some o → s.domOf t.val = some d →
    s.postFault o = none → (s.dom d).launchedColls.contains (postId o.desc) = false →
    (s.dom d).posts.any (fun q => postId q.desc == postId o.desc) = false →
    exec (.collPost t i []) s = .next
      ((s.setDom d { s.dom d with posts := (s.dom d).posts ++ [⟨t.val, (s.dom d).step, o.desc⟩] }).actedWith t.val i.val 0)) ∧
  (∀ (s : State) (t i status : Nat) (o : Op), s.op t i = some o →
    s.actedWith t i status = s.setOp t i { o with acted := true, status := status }) ∧
  ∀ (s : State) (t : Nat) (i : Fin 64) (o : Op), ((s.dequeue t i.val o).tile t).complete (mkTicket i.val o.gen) = true

/-- A DMA copy over mapped memory changes no byte of memory outside its destination rows, and no command (R146); an untapped element-wise operation
(Table VEC-3) that completes changes memory in its own tile's scratchpad only, and neither the queues, the commands nor another tile. -/
def Obligations.OperationsKeepOthers : Prop :=
  (∀ (s t : State) (k : Fin 384) (i : Fin 64) (o : Op), s.held k.val i.val [6] 1 = some o → s.dmaFault k.val o = none →
     let x := o.dma
     s.rowsMapped x.bytes (s.tileAddr k.val x.src) x.ss x.rows = true →
     s.rowsMapped x.bytes (s.tileAddr k.val x.dst) x.ds x.rows = true →
     s.rowsPoisoned x.bytes (s.tileAddr k.val x.src) x.ss x.rows = none →
     exec (.dmaCopy k i []) s = .next t →
     (∀ c, (∀ r, r < x.rows → ∀ j, j < x.bytes → c ≠ s.loc (s.tileAddr k.val x.dst + r * x.ds + j)) → memGet t.mem c = memGet s.mem c) ∧
     t.cmds = s.cmds ∧ t.queues = s.queues ∧ t.phase = s.phase) ∧
  (∀ (s t : State) (k : Fin 384) (i : Fin 64) (o : Op) (op : Nat), op ≤ 0x1A → s.held k.val i.val [5] op = some o → s.vecFault o = none →
     o.tapKind = 0 → s.tapTurn k.val o = true → s.vecPlain k.val i.val op = t →
     sameMemoryBut s t (padAddr k.val) padEnd ∧ t.cmds = s.cmds ∧ t.queues = s.queues ∧ t.phase = s.phase ∧ t.image = s.image ∧
     ∀ j, j ≠ k.val → t.tile j = s.tile j)

/-! ## Arrays, vector engine and quantiser (chapters 08 to 11) -/

/-- The array operations complete (R196 to R203, R221): in its turn an operation that passes its checks computes its rows; a FROZEN one
ends with no effect; one that fails a check is a descriptor fault; and TURN writes the block's columns as rows. Where the spec leaves a
reading open it follows the model's, log entries 71, 72 and 73. -/
def Obligations.ArrayOperationsComplete : Prop :=
  (∀ x ∈ ([(Instr.mmaS, 1), (Instr.mmaT, 2), (Instr.mmaW, 3), (Instr.mmaD, 4)] : List ((Fin 384 → Fin 64 → Instr) × Nat)),
    ∀ (s : State) (t : Fin 384) (i : Fin 64) (o : Op), s.held t.val i.val [0, 1, 2, 3] x.2 = some o →
      (∀ (fm fs : Format), s.arrayFault t.val o = none → o.frozen = false → s.tapTurn t.val o = true →
        s.format o.format = some fm → s.format o.statFormat = some fs →
        exec (x.1 t i) s = .next (s.runArray t.val i.val o fm fs)) ∧
      (s.arrayFault t.val o = none → o.frozen = true → exec (x.1 t i) s = .next (s.actedWith t.val i.val 0)) ∧
      (s.arrayFault t.val o = none → o.frozen = false → s.tapTurn t.val o = false → exec (x.1 t i) s = .next s) ∧
      ∀ st, s.arrayFault t.val o = some st → exec (x.1 t i) s = .next (s.opFault t.val i.val st)) ∧
  ∀ (s : State) (t : Fin 384) (i : Fin 64) (o : Op), s.held t.val i.val [4] 1 = some o → o.turnFault = none →
    let bits := turnBits (o.field 20 1)
    exec (.turn t i) s = .next (((List.range (o.field 18 2)).foldl (fun (u : State) c => u.padPut t.val (o.field 12 4 + c * o.field 28 4)
      (packRow bits ((List.range (o.field 16 2)).map (fun r => s.elemRaw t.val bits (o.field 8 4 + r * o.field 24 4) c)))) s).actedWith
      t.val i.val 0)

/-- The vector operations complete (Table VEC-3, R232 to R241): in its turn an operation whose descriptor passes its checks writes its
cells and counts its beats; a tapped one waits for its turn; a failing descriptor is a descriptor fault. VEC_COPY and AMAX_MERGE move
8-byte records, each with its index as it stands and its value by the rules of a written result. Where the spec leaves a reading open it
follows the model's, log entries 78, 79, 80, 81 and 237. -/
def Obligations.VectorOperationsComplete : Prop :=
  (∀ x ∈ ([(Instr.vecAdd, 0x02), (Instr.vecSub, 0x03), (Instr.vecMul, 0x04), (Instr.vecFma, 0x05), (Instr.vecMul3, 0x06),
      (Instr.vecDiv, 0x07), (Instr.vecMax, 0x08), (Instr.vecMin, 0x09), (Instr.vecAbs, 0x0A), (Instr.vecCmp, 0x0B),
      (Instr.vecSelect, 0x0C), (Instr.vecSqrt, 0x10), (Instr.vecRsqrt, 0x11), (Instr.vecRecip, 0x12), (Instr.vecExp, 0x13),
      (Instr.vecLog, 0x14), (Instr.vecTanh, 0x15), (Instr.vecSigmoid, 0x16), (Instr.vecSilu, 0x17), (Instr.vecGelu, 0x18),
      (Instr.vecSin, 0x19), (Instr.vecCos, 0x1A)] : List ((Fin 384 → Fin 64 → Instr) × Nat)),
    ∀ (s : State) (t : Fin 384) (i : Fin 64) (o : Op), s.held t.val i.val [5] x.2 = some o →
      (s.vecFault o = none → s.tapTurn t.val o = true →
        exec (x.1 t i) s = .next (((s.vecWrite t.val o (s.vecCells t.val o)).vecBeats t.val o 1 none).actedWith t.val i.val 0)) ∧
      (s.vecFault o = none → s.tapTurn t.val o = false → exec (x.1 t i) s = .next s) ∧
      ∀ st, s.vecFault o = some st → exec (x.1 t i) s = .next (s.opFault t.val i.val st)) ∧
  (∀ (s : State) (t : Fin 384) (i : Fin 64) (o : Op), s.held t.val i.val [5] 1 = some o → s.vecFault o = none →
    s.tapTurn t.val o = true → (o.stream 0).ty ≠ 4 →
    exec (.vecCopy t i) s = .next (((s.vecWrite t.val o (s.vecCells t.val o)).vecBeats t.val o 1 none).actedWith t.val i.val 0)) ∧
  (∀ (s : State) (t : Fin 384) (i : Fin 64) (o : Op), s.held t.val i.val [5] 1 = some o → s.vecFault o = none →
    s.tapTurn t.val o = true → (o.stream 0).ty = 4 → o.noOut = false →
    let row (r : Nat) := (List.range o.cols).map (fun c => writeRec (s.padNum t.val ((o.stream 0).at r c) 8))
    exec (.vecCopy t i) s = .next ((((List.range o.rows).foldl (fun (u : State) r =>
      (u.padPut t.val ((o.stream 3).addr + r * (o.stream 3).stride) ((row r).flatMap (fun w => leBytes 8 w.1))).vecCount t.val o
        ((row r).map (·.2))) s).vecBeats t.val o 1 none).actedWith t.val i.val 0)) ∧
  (∀ (s : State) (t : Fin 384) (i : Fin 64) (o : Op), s.held t.val i.val [5] 0x24 = some o → s.vecFault o = none →
    s.tapTurn t.val o = true → o.noOut = false →
    let row (r : Nat) := (List.range o.cols).map (fun c =>
      writeRec (mergeRec (s.padNum t.val ((o.stream 0).at r c) 8) (s.padNum t.val ((o.stream 1).at r c) 8)))
    exec (.amaxMerge t i) s = .next ((((List.range o.rows).foldl (fun (u : State) r =>
      (u.padPut t.val ((o.stream 3).addr + r * (o.stream 3).stride) ((row r).flatMap (fun w => leBytes 8 w.1))).vecCount t.val o
        ((row r).map (·.2))) s).vecBeats t.val o 1 none).actedWith t.val i.val 0)) ∧
  ∀ x : Nat, (writeRec x).1 = (writeNum fp32 false (fp32.decode (bitsOf x 0 32))).1 + bitsOf x 32 32 * 2 ^ 32

/-- The quantiser's operations and the two optimiser passes complete (R173 to R180, R242 to R244, R381 to R388): in its turn, with a
format and a block that pass their checks, QUANT quantises, PREPASS writes its columns' scale bytes, DEQUANT its values, and MASK keeps or
drops; pass 1 adds its shard's contribution; pass 2 with the step's record written writes its shard, and a null descriptor only takes its
final part. Where the spec leaves a reading open it follows the model's, log entries 69, 136, 138 and 235. -/
def Obligations.QuantiserAndOptimiserComplete : Prop :=
  ((∀ (s : State) (t : Fin 384) (i : Fin 64) (o : Op) (f : Format), s.held t.val i.val [5] 0x20 = some o → s.vecFault o = none →
     s.tapTurn t.val o = true → s.format o.format = some f → s.blkFault t.val o f = none →
     exec (.quant t i) s = .next ((s.runQuant t.val o f).actedWith t.val i.val 0)) ∧
   (∀ (s : State) (t : Fin 384) (i : Fin 64) (o : Op) (f : Format), s.held t.val i.val [5] 0x21 = some o → s.vecFault o = none →
     s.tapTurn t.val o = true → s.format o.format = some f → s.blkFault t.val o f = none →
     let bs := (List.range o.cols).map (fun c =>
       let b := s.columnScale t.val o f c
       byte (if s.blkMerge t.val o then max b (s.padNum t.val (s.blkScale t.val o + c) 1) else b))
     exec (.prepass t i) s = .next (((s.padPut t.val (s.blkScale t.val o) bs).vecBeats t.val o 1 none).actedWith t.val i.val 0)) ∧
   (∀ (s : State) (t : Fin 384) (i : Fin 64) (o : Op) (f : Format), s.held t.val i.val [5] 0x22 = some o → s.vecFault o = none →
     s.tapTurn t.val o = true → s.format o.format = some f → s.blkFault t.val o f = none → o.noOut = false →
     let d := o.stream 3
     let cells (r : Nat) := (List.range o.cols).map (fun c => writeOnce (tyFmt d.ty) o.saturate (s.dequantValue t.val o f r c))
     exec (.dequant t i) s = .next ((((List.range o.rows).foldl (fun (u : State) r =>
       (u.padPut t.val (d.addr + r * d.stride) ((cells r).flatMap (fun c => leBytes (tySize d.ty) c.1))).vecCount t.val o
         ((cells r).map (·.2))) s).vecBeats t.val o 1 none).actedWith t.val i.val 0)) ∧
   ∀ (s : State) (t : Fin 384) (i : Fin 64) (o : Op), s.held t.val i.val [5] 0x23 = some o → s.vecFault o = none →
     s.tapTurn t.val o = true → s.blkFault t.val o ⟨0, 0, 0, false, false, false⟩ = none →
     let g := max 1 (s.blkGranule t.val o)
     let value (r c : Nat) : Lane :=
       if s.kept t.val o (s.globalIndex t.val o r c / g) then
         (if o.subOp = 1 then lane1 true
          else match s.lane t.val (o.stream 0) r c with
            | .num x => .num (x.mul (fp32.decode (s.blk t.val o 44 4)))
            | .int v => .num ((numOfInt v).mul (fp32.decode (s.blk t.val o 44 4))))
       else .num .zero
     let rows := (List.range o.rows).map (fun r => (List.range o.cols).map (fun c => cellOf o (some (value r c)) 0))
     exec (.mask t i) s = .next
       (((s.vecWrite t.val o rows).vecBeats t.val o 1 (some (o.genRate g))).actedWith t.val i.val 0)) ∧
  ((∀ (s : State) (t : Fin 384) (i : Fin 64) (o : Op), s.held t.val i.val [5] 0x30 = some o → s.pass1Fault t.val o = none →
     exec (.updPass1 t i) s = .next ((s.runPass1 t.val o).actedWith t.val i.val 0)) ∧
   (∀ (s : State) (t : Fin 384) (i : Fin 64) (o : Op) (d : Nat), s.held t.val i.val [5] 0x31 = some o → s.domOf t.val = some d →
     o.updReserved = true → o.updNull = true →
     exec (.updPass2 t i []) s = .next ((s.noteFinal d t.val o).actedWith t.val i.val 0)) ∧
   (∀ (s : State) (t : Fin 384) (i : Fin 64) (fs : List Found), exec (.updPass2 t i fs) s = exec (.updPass2 t i []) (s.findErrors fs)) ∧
   ∀ (s : State) (t : Fin 384) (i : Fin 64) (o : Op) (d : Nat) (f b : Format), s.held t.val i.val [5] 0x31 = some o →
     s.domOf t.val = some d → o.updReserved = true → o.updNull = false → o.updBlock % 64 = 0 → o.updBlock + 128 ≤ padEnd →
     s.shardReserved t.val o = true → s.format (s.shard t.val o).fFormat = some f → s.format (s.shard t.val o).bFormat = some b →
     s.pass2Fault t.val o f b = none → s.numAt ((s.shard t.val o).record + 2) 1 ≠ 0 → (s.decided d t.val o).tapTurn t.val o = true →
     exec (.updPass2 t i []) s = .next (s.runPass2 d t.val i.val o f b))

/-! ## Page engine (chapter 12) -/

/-- The walker operations complete (R254 to R274, R279, R280): with the page engine enabled, GATHER reads its pages, APPEND writes its
tokens, SEQ_OPEN and SEQ_CLOSE open and close a sequence, FORK shares pages, and KVP_LIST writes the sequences of a bucket. Where the spec
leaves a reading open it follows the model's, log entries 83, 88, 89, 239 and 240. -/
def Obligations.WalkerOperationsComplete : Prop :=
  (∀ (s : State) (t : Fin 384) (i : Fin 64) (o : Op) (d : Nat), s.held t.val i.val [8] 1 = some o → s.domOf t.val = some d →
    s.fld KVP_STATUS_STATE ≠ 0 → o.reservedOk [(8, 33)] = true → o.field 40 1 < 8 →
    let g := o.gather
    let q := s.seq g.seq
    s.owns d g.seq = true → g.stream < q.streams → 1 ≤ g.count → g.count ≤ 8192 → g.t0 + g.count ≤ q.maxRuns * 256 →
    g.placeOk (s.poolD q.pool * s.poolElem q.pool) (s.poolFp8 q.pool) = true →
    (∀ v ∈ q.walkPages g, (s.pte v).tier ≠ 3) →
    exec (.gather t i []) s = .next ((s.runGather t.val i.val q g).1.actedWith t.val i.val (s.runGather t.val i.val q g).2)) ∧
  (∀ c ∈ ([Instr.gather, Instr.append, Instr.seqOpen, Instr.fork, Instr.seqClose, Instr.kvpList] :
      List (Fin 384 → Fin 64 → List Found → Instr)),
    ∀ (s : State) (t : Fin 384) (i : Fin 64) (fs : List Found), exec (c t i fs) s = exec (c t i []) (s.findErrors fs)) ∧
  (∀ (s : State) (t : Fin 384) (i : Fin 64) (o : Op) (d : Nat), s.held t.val i.val [8] 2 = some o → s.domOf t.val = some d →
    s.fld KVP_STATUS_STATE ≠ 0 → o.reservedOk [(8, 11), (20, 20)] = true → o.field 18 1 < 2 →
    let q := s.seq (o.field 8 2)
    let start := if q.slot = s.slot d then q.l0 else q.length
    let pos := if o.field 12 4 = 0xFFFFFFFF then start else o.field 12 4
    let n := o.field 16 2
    let vs := (fromTo (pos / 16) ((pos + n + 15) / 16 - pos / 16)).map (q.vpn (o.field 10 2))
    s.owns d (o.field 8 2) = true → o.field 10 2 < q.streams → s.appendPlaceOk o q.pool = true → pos ≤ start →
    pos + n ≤ q.maxRuns * 256 → (∀ v ∈ vs, (s.pte v).tier ≠ 3) → (∀ v ∈ vs, (s.pte v).cow = false) → (s.writableAll q.pool vs).2 = true →
    let u := (List.range n).foldl (fun (w : State) k => w.appendToken t.val q.pool o q (o.field 10 2) pos k) (s.writableAll q.pool vs).1
    let v := (vs.foldl (fun (w : State) p => w.touch p) u).appendRaces t.val i.val d o
    exec (.append t i []) s = .next
      ((if bitOf (o.field 18 1) 0 then v.putSeq (o.field 8 2) (q.advance (s.slot d) (pos + n)) else v).actedWith t.val i.val 0)) ∧
  (∀ (s : State) (t : Fin 384) (i : Fin 64) (o : Op) (d : Nat), s.held t.val i.val [8] 3 = some o → s.domOf t.val = some d →
    s.fld KVP_STATUS_STATE ≠ 0 → o.reservedOk [(8, 2), (12, 7), (20, 4)] = true →
    let base := o.field 12 4
    let streams := o.field 16 2
    let maxTok := o.field 20 4
    base % 16 = 0 → 1 ≤ streams → streams ≤ 4096 → o.field 18 1 < 8 → (s.poolEntry (o.field 18 1)).isSome = true →
    maxTok % 256 = 0 → 256 ≤ maxTok → maxTok ≤ 1048576 → base + streams * (maxTok / 16) ≤ 4194304 →
    (s.seq (o.field 8 2)).state = 0 →
    (∀ j, j < 65536 → (s.seq j).state = 0 ∨ (s.seq j).base + (s.seq j).entries ≤ base ∨
      base + streams * (maxTok / 16) ≤ (s.seq j).base) →
    exec (.seqOpen t i []) s = .next (((s.putSeq (o.field 8 2)
      { base := base, streams := streams, pool := o.field 18 1, state := 1, domain := d, maxRuns := maxTok / 256, slot := s.slot d }).addFld
        KVP_STATUS_OPEN_SEQS 1).actedWith t.val i.val 0)) ∧
  (∀ (s : State) (t : Fin 384) (i : Fin 64) (o : Op) (d : Nat), s.held t.val i.val [8] 4 = some o → s.domOf t.val = some d →
    s.fld KVP_STATUS_STATE ≠ 0 → o.reservedOk [(8, 8)] = true →
    let q := s.seq (o.field 8 2)
    let r := s.seq (o.field 10 2)
    let pre := o.field 12 4
    s.owns d (o.field 8 2) = true → s.owns d (o.field 10 2) = true → o.field 8 2 ≠ o.field 10 2 → q.pool = r.pool →
    q.streams = r.streams → r.length = 0 → pre ≠ 0 → pre ≤ r.maxRuns * 256 → pre ≤ q.length →
    let pages := (List.range q.streams).flatMap (fun st => (List.range ((pre + 15) / 16)).map (fun n =>
      (q.vpn st n, r.vpn st n, decide (16 * n + 16 ≤ pre) && !(o.met.contains (q.vpn st n)))))
    (∀ x ∈ pages, (s.pte x.1).tier ≠ 3 ∧ (s.pte x.2.1).tier ≠ 3) → (s.forkAll q.pool pages).2 = true →
    exec (.fork t i []) s = .next (((s.forkAll q.pool pages).1.putSeq (o.field 10 2)
      { r with length := pre, l0 := pre, bucket := bucketOf pre, slot := s.slot d }).actedWith t.val i.val 0)) ∧
  (∀ (s : State) (t : Fin 384) (i : Fin 64) (o : Op) (d : Nat), s.held t.val i.val [8] 5 = some o → s.domOf t.val = some d →
    s.fld KVP_STATUS_STATE ≠ 0 → o.reservedOk [(8, 2)] = true → s.owns d (o.field 8 2) = true → (s.seq (o.field 8 2)).state = 1 →
    (∀ v ∈ fromTo (s.seq (o.field 8 2)).base (s.seq (o.field 8 2)).entries, (s.pte v).tier ≠ 3) →
    let q := s.seq (o.field 8 2)
    let r := (fromTo q.base q.entries).foldl (fun (x : State × Nat) v =>
      ((x.1.release v).1, x.2 + if (x.1.release v).2 then 1 else 0)) (s, 0)
    let u := r.1.putSeq (o.field 8 2) { q with state := if r.2 = 0 then 0 else 2, held := r.2, slot := s.slot d }
    exec (.seqClose t i []) s = .next ((if r.2 = 0 then u.subFld KVP_STATUS_OPEN_SEQS 1 else u).actedWith t.val i.val 0)) ∧
  ∀ (s : State) (t : Fin 384) (i : Fin 64) (o : Op) (d : Nat), s.held t.val i.val [8] 6 = some o → s.domOf t.val = some d →
    s.fld KVP_STATUS_STATE ≠ 0 → o.reservedOk [(8, 1), (12, 6)] = true → o.field 8 1 ≤ 12 → o.field 12 4 % 4 = 0 →
    o.field 12 4 + 4 + 2 * o.field 16 2 ≤ padEnd →
    let ids := (List.range 65536).filter (fun j => s.owns d j && (s.seq j).bucket == o.field 8 1)
    exec (.kvpList t i []) s = .next ((s.padPut t.val (o.field 12 4)
      (leBytes 4 ids.length ++ (ids.take (o.field 16 2)).flatMap (leBytes 2))).actedWith t.val i.val 0)

/-- The page engine's own commands complete (R262, R276, R278, R280, R285): the end of a move gives its pages their new places, counts
them and forgets the move, a spill giving up the reservation of its run and a return of a whole run taking one; ENABLE with INIT clears
the tables and enables the engine, without INIT it adopts the entries it finds, and reports a configuration it refuses; DISABLE begins to
drain it, and the end of the drain disables it. Where the spec leaves a reading open it follows the model's, log entries 86, 91, 241 and
242. -/
def Obligations.PageEngineCommandsComplete : Prop :=
  ((∀ (s : State) (id : Nat) (m : PageMove), s.kvp.moves.find? (fun x => x.id == id && x.spill == true) = some m →
     s.revoked 0xD0FF = false →
     let u := { s with kvp := { s.kvp with moves := s.kvp.moves.filter (fun x => x.id != id) } }
     let v := m.pages.foldl (fun (w : State) x => w.endPage m x) u
     let t := (match v.reservedFor m.group with
       | some (f, _) => v.unreserve f
       | none => v.changePte m.group { v.pte m.group with runStart := false }).addFld (KVP_POOL_STATS_SPILLED m.pool) m.pages.length
     exec (.spillMoveEnd id []) s = .next t ∧ t.kvp.moves = s.kvp.moves.filter (fun x => x.id != id)) ∧
   (∀ (s : State) (id : Nat) (m : PageMove), s.kvp.moves.find? (fun x => x.id == id && x.spill == false) = some m →
     s.revoked 0xD0FF = false →
     let u := { s with kvp := { s.kvp with moves := s.kvp.moves.filter (fun x => x.id != id) } }
     let v := m.pages.foldl (fun (w : State) x => w.endPage m x) u
     let f := v.blockOf m.pool (v.pte m.group).frame
     let r := v.changePte m.group { v.pte m.group with runStart := true }
     let a := { r with kvp := { r.kvp with age := r.kvp.age + 1 } }
     let t := (if m.intact then a.putBlock f { a.block f with resv := some m.group, age := a.kvp.age } else v).addFld
       (KVP_POOL_STATS_RETURNED m.pool) m.pages.length
     exec (.returnMoveEnd id []) s = .next t ∧ t.kvp.moves = s.kvp.moves.filter (fun x => x.id != id)) ∧
   (∀ (s : State) (id : Nat) (fs : List Found), exec (.spillMoveEnd id fs) s = exec (.spillMoveEnd id []) (s.findErrors fs) ∧
     exec (.returnMoveEnd id fs) s = exec (.returnMoveEnd id []) (s.findErrors fs)) ∧
   ∀ (s : State) (id : Nat), s.kvp.moves.all (fun x => x.id != id) = true →
     exec (.spillMoveEnd id []) s = .next s ∧ exec (.returnMoveEnd id []) s = .next s) ∧
  ((∀ s : State, s.phase = .running → s.fld KVP_STATUS_STATE = 0 → (s.setFld KVP_CTRL_INIT 1).kvpOk = true →
     let u := { s.setFld KVP_CTRL_INIT 1 with kvp := { tables := true } }
     let v := ((u.setFld KVP_CTRL_ENABLE 1).setFld KVP_STATUS_STATE 1).setReg KVP_TABLE_BASE (word u.tableBase)
     exec (.kvpEnable true []) s = .next ((match v.hbmMap.regions.find? (fun (r : HbmRegion) => r.base == v.tableBase - hbmBase) with
       | some r => v.clearHead r kvpTables
       | none => v).setFld KVP_STATUS_OPEN_SEQS 0)) ∧
   (∀ s : State, s.phase = .running → s.fld KVP_STATUS_STATE = 0 → (s.setFld KVP_CTRL_INIT 0).kvpOk = true →
     let u := { s.setFld KVP_CTRL_INIT 0 with kvp := { tables := true } }
     let v := ((u.setFld KVP_CTRL_ENABLE 1).setFld KVP_STATUS_STATE 1).setReg KVP_TABLE_BASE (word u.tableBase)
     let w := (List.range 4194304).foldl State.adoptEntry v
     exec (.kvpEnable false []) s = .next
       (w.setFld KVP_STATUS_OPEN_SEQS ((List.range 65536).filter (fun i => (w.seq i).state != 0)).length)) ∧
   (∀ (s : State) (init : Bool) (fs : List Found), exec (.kvpEnable init fs) s = exec (.kvpEnable init []) (s.findErrors fs)) ∧
   (∀ (s : State) (init : Bool), s.phase = .running → s.fld KVP_STATUS_STATE = 0 →
     let u := s.setFld KVP_CTRL_INIT (if init then 1 else 0)
     u.kvpOk = false → exec (.kvpEnable init []) s = .next (u.setFld KVP_STATUS_LAST_ERROR 0x040A)) ∧
   (∀ s : State, s.phase = .running → s.fld KVP_STATUS_STATE = 1 →
     exec .kvpDisable s = .next ((s.setFld KVP_STATUS_STATE 2).setFld KVP_CTRL_ENABLE 0)) ∧
   (∀ s : State, s.fld KVP_STATUS_STATE = 2 → s.walkers = [] → s.kvp.moves = [] →
     exec .kvpDrainEnd s = .next (s.setFld KVP_STATUS_STATE 0)) ∧
   ∀ s : State, s.fld KVP_STATUS_STATE = 2 → (s.walkers ≠ [] ∨ s.kvp.moves ≠ []) → exec .kvpDrainEnd s = .next s)

/-! ## Stash (chapter 13) -/

/-- The stash commands complete (R289 to R298): a REGISTER that passes its checks makes its handle, none for a recomputed class, and one
that finds no space ends with STASH_FULL and says so; a capture ends in its tier; a FETCH gives its blocks and, with RELEASE set, marks
its handle whatever its outcome, as a RELEASE does; a move ends. Where the spec leaves a reading open it follows the model's, log entries
99, 101, 102 and 242. -/
def Obligations.StashCommandsComplete : Prop :=
  (∀ (s : State) (t : Fin 384) (i : Fin 64) (o : Op) (d : Nat), s.held t.val i.val [9] 1 = some o → s.domOf t.val = some d →
    s.registerFault t.val d o = none → s.classPolicy o.reg.cls = 3 →
    exec (.stashRegister t i []) s = .next
      ((s.setHandle o.reg.handle { s.newHandle t.val d o with state := 6 }).actedWith t.val i.val 0)) ∧
  (∀ (s v : State) (t : Fin 384) (i : Fin 64) (o : Op) (d : Nat), s.held t.val i.val [9] 1 = some o → s.domOf t.val = some d →
    s.registerFault t.val d o = none → s.classPolicy o.reg.cls ≠ 3 → (s.newHandle t.val d o).dual = false →
    let a := s.tileAddr t.val o.reg.src
    let b := s.tileAddr t.val o.reg.dualSrc
    s.mappedAll a o.reg.len = true → s.mappedAll b 0 = true → s.poisonedIn a o.reg.len = none →
    ((s.readHbm d a o.reg.len).readHbm d b 0).placeCapture o.reg.handle d (s.newHandle t.val d o) (s.physRead a o.reg.len) (s.physRead b 0) =
      some v →
    exec (.stashRegister t i []) s = .next (v.actedWith t.val i.val 0)) ∧
  (∀ (s : State) (t : Fin 384) (i : Fin 64) (fs : List Found),
    exec (.stashRegister t i fs) s = exec (.stashRegister t i []) (s.findErrors fs) ∧
    exec (.stashFetch t i fs) s = exec (.stashFetch t i []) (s.findErrors fs)) ∧
  (∀ (s : State) (id : Nat), (s.handle id).state = 1 → s.revoked (stashUnit (s.handle id).die) = false →
    exec (.stashCaptureEnd id) s = .next (s.setHandle id { s.handle id with state := if inHbm (s.handle id).pAddr then 2 else 3 })) ∧
  (∀ (s : State) (t : Fin 384) (i : Fin 64) (o : Op) (d : Nat), s.held t.val i.val [9] 2 = some o → s.domOf t.val = some d →
    s.fetchFault t.val d o = none →
    let f := o.fetch
    let u := s.noteFetch f.handle f.part
    let x := u.handle f.handle
    x.state ≠ 1 → x.state ≠ 4 → x.state ≠ 5 →
    let dst := u.tileAddr t.val f.dst
    let r := if u.mappedAll dst (4096 * f.count) then u.runFetch t.val i.val f x
      else (u.engineFault dst (4096 * f.count), ST_ADDRESS_UNMAPPED)
    exec (.stashFetch t i []) s = .next ((if f.release then r.1.markRelease f.handle else r.1).actedWith t.val i.val r.2)) ∧
  (∀ (s : State) (t : Fin 384) (i : Fin 64) (o : Op) (d : Nat), s.held t.val i.val [9] 3 = some o → s.domOf t.val = some d →
    o.reservedOk [(8, 4)] = true → o.field 8 4 < 2 ^ 18 → s.stashBase.isSome = true → (s.handle (o.field 8 4)).state ≠ 0 →
    (s.handle (o.field 8 4)).dom = d →
    exec (.stashRelease t i) s = .next ((s.markRelease (o.field 8 4)).actedWith t.val i.val 0)) ∧
  (∀ (s : State) (id : Nat) (e : Nat × List Nat), s.stash.orphans.find? (fun e => e.1 == id) = some e →
    exec (.stashMoveEnd id []) s = .next
      (({ s with stash := { s.stash with orphans := s.stash.orphans.erase e } }).freeSpace e.2)) ∧
  (∀ (s : State) (id : Nat) (fs : List Found), exec (.stashMoveEnd id fs) s = exec (.stashMoveEnd id []) (s.findErrors fs)) ∧
  (∀ (s : State) (id : Nat), s.stash.orphans.find? (fun e => e.1 == id) = none → (s.handle id).move = none →
    exec (.stashMoveEnd id []) s = .next s) ∧
  ∀ (s : State) (id : Nat) (m : HandleMove), s.stash.orphans.find? (fun e => e.1 == id) = none → (s.handle id).move = some m →
    s.revoked (stashUnit (s.handle id).die) = false → (s.handle id).dual = false → (s.handle id).state ≠ 5 →
    let u := (s.endPart (s.handle id) 0 m.pAddr m.pCoded).freeSpace (s.handle id).places
    exec (.stashMoveEnd id []) s = .next (u.setHandle id { s.handle id with
      state := 3, move := none, pAddr := m.pAddr, pStored := m.pStored, pCoded := m.pCoded, dAddr := m.dAddr, dStored := m.dStored,
      dCoded := m.dCoded })

/-! ## Messages and barriers (chapter 07) -/

/-- Messages between tiles and barriers complete (R150 to R153, R157, R158): a data flit in its turn is accepted and acknowledged,
refused, or discarded without an answer when its placement epoch is lower than its receiver's; an answer ends its message or starts its
resending; and a barrier that every working tile reached releases its eight groups in order. Where the spec leaves a reading open it
follows the model's, log entries 10 and 122. -/
def Obligations.MessagesAndBarriersComplete : Prop :=
  ((∀ (s : State) (k : Nat) (f : Flit) (d : Nat), s.flitAt k (· == .data) = some f →
     let u := s.dropFlit k
     let c := msgChan f.bytes
     let key := msgSrc f.bytes * 16 + c
     u.domOf f.dst = some d → (u.dom d).epoch ≤ msgEpoch f.bytes → u.fld (TIL_MSG_CHAN_PERSIST f.dst c) ≠ 1 → u.tileState f.dst = 2 →
     msgSeq f.bytes = (smapFind (u.tile f.dst).expect key).getD 0 → (u.chan f.dst c).length < 16 →
     let v := u.setTile f.dst { u.tile f.dst with
       expect := smapPut (fun _ => some 0) (u.tile f.dst).expect key (((smapFind (u.tile f.dst).expect key).getD 0 + 1) % 65536) }
     exec (.messageFlitArrival k) s = .next ((v.setChan f.dst c (u.chan f.dst c ++ [f.bytes])).answerFlit f .ack)) ∧
   (∀ (s : State) (k : Nat) (f : Flit) (d : Nat), s.flitAt k (· == .data) = some f →
     let u := s.dropFlit k
     let c := msgChan f.bytes
     u.domOf f.dst = some d → (u.dom d).epoch ≤ msgEpoch f.bytes → u.fld (TIL_MSG_CHAN_PERSIST f.dst c) ≠ 1 → u.tileState f.dst = 2 →
     16 ≤ (u.chan f.dst c).length →
     exec (.messageFlitArrival k) s = .next ((u.addFld (TIL_MSG_STATUS_REFUSED f.dst) 1).answerFlit f .refusal)) ∧
   (∀ (s : State) (k : Nat) (f : Flit) (j m : Nat) (w : Flow), s.flitAt k FlitKind.answers = some f → s.answered f = some (j, w, m) →
     f.kind = .ack →
     let u := (s.putFlow f.dst (some j) { w with unacked := w.unacked.eraseIdx m, backoff := 0 }).dropFlit k
     exec (.messageAck k) s = .next ((u.count (u.setOf f.dst) 8 1).actedWith f.dst (w.unacked.getD m (0, [])).1 0)) ∧
   (∀ (s : State) (k : Nat) (f : Flit), s.flitAt k FlitKind.answers = some f → f.kind ≠ .refusal → s.answered f = none →
     exec (.messageAck k) s = .next (s.dropFlit k)) ∧
   (∀ (s : State) (k : Nat) (f : Flit) (j : Nat) (w : Flow), s.flitAt k FlitKind.answers = some f → f.kind = .refusal → s.answered f = some (j, w, 0) →
     w.resend = false →
     exec (.messageRefusal k) s = .next ((s.putFlow f.dst (some j)
       { w with resend := true, backoff := if w.backoff = 0 then 1 else min 64 (2 * w.backoff) }).dropFlit k)) ∧
   (∀ (s : State) (t : Fin 384) (flow d : Nat) (w : Flow), (s.tile t.val).flows[flow]? = some w → w.resend = true →
     s.domOf t.val = some d → w.module = 0xFFFF →
     let u := (s.putFlow t.val (some flow) { w with resend := false }).addFld (TIL_MSG_STATUS_RETRIES t.val) w.unacked.length
     exec (.messageResendTimer t flow) s = .next { u with
       net := u.net ++ w.unacked.map (fun m => { kind := .data, src := t.val, dst := u.phys d w.dst, bytes := m.2 }) }) ∧
   (∀ (s : State) (d : Fin 64) (b : Fin 8), ((s.dom d.val).barrier b.val).groups = 0 → s.domTiles d.val ≠ [] →
     (∀ l ∈ s.domTiles d.val, l ∈ ((s.dom d.val).barrier b.val).arrived) →
     exec (.barrierRelease d b) s = .next (s.setBarrier d.val b.val { (s.dom d.val).barrier b.val with groups := 1 })) ∧
   (∀ (s : State) (d : Fin 64) (b : Fin 8) (l : Nat), l ∈ s.domTiles d.val → l ∉ ((s.dom d.val).barrier b.val).arrived →
     exec (.barrierRelease d b) s = .next s) ∧
   (∀ (s : State) (d : Fin 64) (b g : Fin 8), let x := (s.dom d.val).barrier b.val
     0 < g.val → g.val < 7 → x.groups = g.val →
     exec (.barrierGroupRelease d b g) s = .next (s.setBarrier d.val b.val { x with groups := x.groups + 1 })) ∧
   ∀ (s : State) (d : Fin 64) (b : Fin 8), let x := (s.dom d.val).barrier b.val
     x.groups = 7 →
     exec (.barrierGroupRelease d b 7) s = .next (s.setBarrier d.val b.val { gen := x.gen + 1, arrived := x.next })) ∧
  (∀ (s : State) (k : Nat) (f : Flit) (d : Nat), s.flitAt k (· == .data) = some f → (s.dropFlit k).domOf f.dst = some d →
     msgEpoch f.bytes < ((s.dropFlit k).dom d).epoch →
     ∃ t, exec (.messageFlitArrival k) s = .next t ∧ t = (s.dropFlit k).addFld (TIL_MSG_STATUS_STALE_EPOCH f.dst) 1 ∧
       t.net = s.net.eraseIdx k ∧ t.tiles = s.tiles ∧ t.doms = s.doms ∧ sameMemory s t)

/-! ## Recovery, HBM and arbitration (chapters 14 and 19) -/

/-- Heartbeats, migration, ports and the error ring complete (R418, R421 to R427): a tile that is to send heartbeats is heard, or faults
when it is not; the first failed tile of a domain moves to a free spare, on its own die whenever that die has one, or the domain stops
without one, once no RESTORE is loading its basis (R410); and a port that is up retrains or is lost. Where the spec leaves a reading open
it follows the model's, log entries 57, 59, 60 and 204. -/
def Obligations.RecoveryCommandsComplete : Prop :=
  ((∀ (s : State) (t : Fin 384), s.beats t.val = true →
     exec (.heartbeatSend t) s = .next (s.setTile t.val { s.tile t.val with beat := s.localNs })) ∧
   (∀ (s : State) (t : Fin 384), s.beats t.val = true →
     exec (.heartbeatTimeout t) s = .next (s.tileFault t.val { code := ST_HEARTBEAT_LOST })) ∧
   (∀ (s : State) (d : Fin 64) (old t : Nat), (s.dom d.val).recovering = [old] → s.filling = false → s.chooseSpare d.val old = some t →
     let u := (s.setDom d.val { s.dom d.val with recovering := [] }).migrate d.val old t
     exec (.tileRecoveryEnd d) s = .next
       ((u.setDom d.val { u.dom d.val with replayDue := decide (u.domState d.val ≠ 3) }).showRecovery d.val)) ∧
   (∀ (s : State) (d : Fin 64) (old : Nat) (rest : List Nat), (s.dom d.val).recovering = old :: rest → s.filling = false →
     s.chooseSpare d.val old = none → exec (.tileRecoveryEnd d) s = .next (s.stopForSpare d.val)) ∧
   (∀ (s : State) (d : Fin 64), (s.dom d.val).recovering ≠ [] → s.filling = true →
     exec (.tileRecoveryEnd d) s = .next (s.setDom d.val { s.dom d.val with recoverLong := 0x8005 })) ∧
   (∀ (s : State) (p : Fin 8) (replays : Nat) (retrain : Bool),
     (p.val < 4 → bitOf s.d2dUp p.val = true → exec (.d2dPortRetrain p replays retrain) s = .next (s.portReplay (0x8030 + p.val) replays retrain)) ∧
     (4 ≤ p.val → bitOf s.links (p.val - 4) = true →
       exec (.d2dPortRetrain p replays retrain) s = .next (s.portReplay (0x8020 + (p.val - 4)) replays retrain)) ∧
     ((s.d2dPort p.val).2 = false → exec (.d2dPortRetrain p replays retrain) s = .next s)) ∧
   (∀ (s : State) (p : Fin 4), bitOf s.d2dUp p.val = true →
     exec (.d2dPortLoss p) s = .next (s.fault (0x8030 + p.val) 3 { code := ST_LINK_LOST })) ∧
   (∀ (s : State) (n : Fin 4) (ecc : Found), bitOf s.links n.val = true →
     let u := s.endHome n.val
     let v := { u with links := withoutBit u.links n.val }.resetRegRange (LNK_STATUS n.val) 0x10_0000
     (∀ k, v.carrier n.val = some k → exec (.linkDiePortLoss n ecc) s = .next ((v.sramRead k ecc).resendVia (fun q => q.1 == n.val))) ∧
     (v.carrier n.val = none → exec (.linkDiePortLoss n ecc) s = .next (v.resendVia (fun q => q.1 == n.val)))) ∧
   ∀ (s : State) (value : Word), s.phase = .running →
     let cap := 2 ^ s.foundation.errRingLog2
     let v := bitsOf value.toNat 0 16
     v < cap → v ≠ s.fld CTL_ERR_RING_PTR_HEAD →
     exec (.errRingHeadWrite value) s = .next
       { (s.setFld CTL_ERR_RING_PTR_HEAD v) with ringUnread := ((s.setFld CTL_ERR_RING_PTR_HEAD v).ringWritten + cap - v) % cap }) ∧
  (∀ (s : State) (d t x : Nat), s.chooseSpare d t = some x →
     x ∈ s.freeSpares d ∧ ((∃ y ∈ s.freeSpares d, dieOf y = dieOf t) → dieOf x = dieOf t))

/-- The scrubber and the arbiters complete (R320 to R327): an enabled stack's next word is read and its position moves on, wrapping with a
pass counted; a correction is counted and a word beyond it poisoned; an arbiter grants one of the units that ask, a request without a
class of its own is low and a Zwine control frame high and exempt; and its windows, back-offs and watchdog act on it alone. Where the spec
leaves a reading open it follows the model's, log entries 108, 109 and 112. -/
def Obligations.ScrubAndArbitrationComplete : Prop :=
  (∀ (s : State) (x : Fin 16) (syndrome : BitVec 15), s.fld (HBM_STATUS_STATE x.val) = 1 → s.fld (HBM_SCRUB_ENABLE x.val) = 1 →
    let w := (smapFind s.scrubAt x.val).getD 0
    let pc := 64 * x.val + w / pcWords
    w + 1 ≠ 64 * pcWords →
    exec (.hbmScrubRead x .clean syndrome) s = .next { s with
      scrubAt := smapPut (fun _ => some 0) s.scrubAt x.val (w + 1), hbmSeen := tally s.hbmSeen pc 1, hbmTick := tally s.hbmTick pc 1 }) ∧
  (∀ (s : State) (x : Fin 16) (syndrome : BitVec 15), s.fld (HBM_STATUS_STATE x.val) = 1 → s.fld (HBM_SCRUB_ENABLE x.val) = 1 →
    let w := (smapFind s.scrubAt x.val).getD 0
    let pc := 64 * x.val + w / pcWords
    w + 1 ≠ 64 * pcWords →
    let u := { s with
      scrubAt := smapPut (fun _ => some 0) s.scrubAt x.val (w + 1), hbmSeen := tally s.hbmSeen pc 1, hbmTick := tally s.hbmTick pc 1 }
    let k := hbmBase + pc * pcBytes + w % pcWords * 8
    exec (.hbmScrubRead x .corrected syndrome) s = .next (u.scrubFixed x.val k syndrome.toNat) ∧
    exec (.hbmScrubRead x .uncorrectable syndrome) s = .next (u.wordPoisoned x.val k syndrome.toNat)) ∧
  (∀ (s : State) (a : ArbId) (asks : List Ask) (g : Nat) (y : Arb),
    let live := (asks.filter (fun k => !((s.arb a).waiting.contains k.unit) && !((s.arb a).faulted.contains k.unit))).map
      (s.arbRequest a.cls.val)
    (s.arb a).decide (s.quota a.cls.val) (s.window a.cls.val) live = (some g, y) →
    let losers := tierOf (fun k => k.unit != g) live
    let x := losers.foldl Arb.lose { y with owner := some g, granted := true, backoff := smapDel y.backoff g }
    exec (.arbiterDecision a asks) s =
      .next ((s.setArb a x).bankWaits a (losers.map (fun u => (smapFind x.backoff u).getD 0)))) ∧
  (∀ (s : State) (a : ArbId) (waits : List Nat), (a.cls = 0 → bankTile a < 384 →
      s.bankWaits a waits = s.addFld (TIL_BANK_STALLS_STALLS (bankTile a)) waits.sum) ∧ (a.cls ≠ 0 → s.bankWaits a waits = s)) ∧
  (∀ (x : Arb) (quota window g : Nat) (asks : List Req) (y : Arb), x.decide quota window asks = (some g, y) →
    ∃ k ∈ asks, k.unit = g) ∧
  (∀ (s : State) (cls u : Nat), (s.arbRequest cls ⟨u, .other⟩).high = false ∧ s.arbRequest 3 ⟨u, .control⟩ = ⟨u, true, true⟩) ∧
  (∀ (s : State) (a : ArbId), exec (.arbiterWindowReset a) s = .next (s.setArb a { s.arb a with used := [] })) ∧
  (∀ (s : State) (a : ArbId) (r : Nat),
    exec (.arbiterBackoffExpiry a r) s = .next (s.setArb a { s.arb a with waiting := (s.arb a).waiting.filter (· != r) })) ∧
  ∀ (s : State) (a : ArbId) (u : Nat), (s.arb a).owner = some u → (s.arb a).granted = true → tileOfUnit u = none →
    let v := s.setArb a { s.arb a with owner := none, granted := false, faulted := insertAsc u (s.arb a).faulted }
    let w := (v.addFld (watchdogFld a.cls.val) 1).event u EV_ARB_REVOKED noDomain
      (leBytes 1 a.cls.val ++ leBytes 1 a.die.val ++ leBytes 2 a.index.val ++ zeros 4 ++ leBytes 8 v.tick)
    let f := (w.cutGrants u).fault u 2 { code := ST_GRANT_REVOKED }
    exec (.arbiterWatchdogExpiry a) s = .next (if w.escalated u 2 = 2 then f.contain u else f)

/-! ## Intake (chapter 15) -/

/-- The intake's commands complete (R331 to R342): ENABLE with a configuration that holds, or one that does not, and DISABLE, the ring's
tail, a fetched batch record that is valid, invalid, a repeated or a late one, the dispatch of a sample to an engine, the end of decoding,
a worker's answer, and the seal that is due at the next boundary. Where the spec leaves a reading open it follows the model's, log entries
113, 116 and 119. -/
def Obligations.IntakeCommandsComplete : Prop :=
  ((∀ (s : State) (workers : Bool), s.phase = .running → s.intakeOk workers = true →
     exec (.intakeEnable workers) s = .next
       (((s.setFld INT_CTRL_WORKERS (if workers then 1 else 0)).setFld INT_CTRL_ENABLE 1).setFld INT_STATUS_STATE 1)) ∧
   (∀ (s : State) (workers : Bool), s.phase = .running → s.intakeOn = false → s.intakeOk workers = false →
     exec (.intakeEnable workers) s = .next
       ((s.setFld INT_CTRL_WORKERS (if workers then 1 else 0)).setFld INT_STATUS_LAST_ERROR ST_INTAKE_CONFIG)) ∧
   (∀ (s : State) (workers : Bool), s.phase = .running → s.intakeOn = true → s.intakeOk workers = false →
     exec (.intakeEnable workers) s = .next (s.setFld INT_STATUS_LAST_ERROR ST_INTAKE_CONFIG)) ∧
   (∀ (s : State) (workers : Bool), s.phase = .running →
     exec (.intakeDisable workers) s = .next (s.intakeOff.setFld INT_CTRL_WORKERS (if workers then 1 else 0))) ∧
   ∀ (s : State) (value : Word), s.phase = .running →
     exec (.intakeRingTailWrite value) s = .next (s.setFld INT_RING_PTR_TAIL (bitsOf value.toNat 0 12))) ∧
  ((∀ s : State, s.intakeOn = true → s.aloft = true →
     let cap := 2 ^ s.fld INT_CONFIG_RING_LOG2
     let head := s.fld INT_RING_PTR_HEAD
     head ≠ s.fld INT_RING_PTR_TAIL % cap →
     let r := s.bytesAt (s.fld INT_RING_BASE_BASE * 4096 + 64 * head) 64
     let u := s.setFld INT_RING_PTR_HEAD ((head + 1) % cap)
     let held := u.intake.batches.any (fun b => b.dom == fieldAt r 8 1 && b.step == fieldAt r 0 8)
     (u.batchOk r = false → exec .batchRecordFetch s =
       .next (u.batchEvent EV_BATCH_INVALID (bitsOf (fieldAt r 8 1) 0 6) (fieldAt r 0 8) 0 head)) ∧
     (u.batchOk r = true → held = true → exec .batchRecordFetch s =
       .next (u.batchEvent EV_BATCH_DUPLICATE (fieldAt r 8 1) (fieldAt r 0 8) 0 head)) ∧
     (u.batchOk r = true → held = false → u.intake.seals.contains (fieldAt r 8 1, fieldAt r 0 8) = true → exec .batchRecordFetch s =
       .next (u.batchEvent EV_BATCH_LATE (fieldAt r 8 1) (fieldAt r 0 8) 0 head)) ∧
     (u.batchOk r = true → held = false → u.intake.seals.contains (fieldAt r 8 1, fieldAt r 0 8) = false →
       let b : Batch := { dom := fieldAt r 8 1, step := fieldAt r 0 8, outType := fieldAt r 9 1, count := fieldAt r 10 2, mask := fieldAt r 24 8 }
       let v := { u with intake := { u.intake with batches := u.intake.batches ++ [b] } }
       let w := v.takeSamples b (fieldAt r 16 8) 0 (b.count + fieldAt r 12 4)
       exec .batchRecordFetch s = .next (w.setFld INT_STATUS_PENDING (satTo 0xFFFF w.intake.batches.length)))) ∧
   ∀ (s : State) (i a : Nat) (free : List Nat) (x : Sample), s.intakeOn = true → s.aloft = true →
     firstSample (s.intake.samples.filter (fun e => e.2.state == .waiting)) = some (i, x) → s.freePool = a :: free →
     x.format ≠ 8 → x.format ≠ 9 → x.hostOnly = false → s.preField secIntake 4 2 0 = 0 →
     let slot := s.freePool.getD (Config.choice s.fresh % s.freePool.length) a
     exec .sampleDispatch s = .next (({ s with fresh := s.fresh + 1 }.setSample i { x with state := .engine, slot := slot }).setEngine
       s.leastEngine (s.engine s.leastEngine ++ [i]))) ∧
  ((∀ (s : State) (e : Fin 16) (i : Nat) (rest : List Nat), s.engine e.val = i :: rest →
     let u := s.setEngine e.val rest
     (u.crcBad (u.sample i) = true → exec (.sampleDecodeEnd e) s = .next (u.dropSample i (0x5000 + e.val) ST_SAMPLE_CRC 0)) ∧
     (∀ r, u.crcBad (u.sample i) = false → u.decodeSample (u.sample i) = .error r →
       exec (.sampleDecodeEnd e) s = .next (u.dropSample i (0x5000 + e.val) r 0)) ∧
     ∀ (sh : Shape) (elems : List Nat), u.crcBad (u.sample i) = false → u.decodeSample (u.sample i) = .ok (sh, elems) →
       exec (.sampleDecodeEnd e) s = .next
         ((u.addFld (INT_ENGINE_SAMPLES e.val) 1).augmentSample i (0x5000 + e.val) 0 sh elems)) ∧
   (∀ (s : State) (value : Word) (i : Nat) (x : Sample), s.phase = .running →
     s.intake.samples.find? (fun e => (e.2.state == .worker || e.2.state == .orphan) && e.2.token == bitsOf value.toNat 0 32) = some (i, x) →
     let status := bitsOf value.toNat 32 16
     (x.state = .orphan → exec (.workerDone value) s =
       .next { s with intake := { s.intake with samples := s.intake.samples.filter (fun e => e.1 != i) } }) ∧
     (x.state ≠ .orphan → status ≠ 0 → exec (.workerDone value) s = .next (s.dropSample i 0x5101 status status)) ∧
     (∀ r, x.state ≠ .orphan → status = 0 → s.decodeSample x = .error r →
       exec (.workerDone value) s = .next (s.dropSample i 0x5101 r 0)) ∧
     ∀ (sh : Shape) (elems : List Nat), x.state ≠ .orphan → status = 0 → s.decodeSample x = .ok (sh, elems) →
       exec (.workerDone value) s = .next (s.augmentSample i 0x5101 0 sh (s.workerElems x sh elems))) ∧
   (∀ (s : State) (value : Word), s.phase = .running →
     s.intake.samples.find? (fun e => (e.2.state == .worker || e.2.state == .orphan) && e.2.token == bitsOf value.toNat 0 32) = none →
     exec (.workerDone value) s = .next (s.addFld INT_STATUS_STALE_DONE 1)) ∧
   (∀ (s : State) (d : Fin 64) (n : Nat), s.intakeOn = true → s.sealDue d.val (s.tick + 1) = some n →
     exec (.intakeSeal d) s = .next ((s.runAligned (s.nextBoundary - s.now)).makeSeal d.val n (s.tick + 1))) ∧
   (∀ (s : State) (d : Fin 64), s.sealDue d.val (s.tick + 1) = none → exec (.intakeSeal d) s = .next s) ∧
   ∀ (s : State) (d step n : Nat), s.replaying d step = none → s.makeSeal d step n = s.seal d step n)

/-! ## Line ports, Zwine and collectives (chapter 16) -/

/-- The ports and timers of the links complete (R346, R347, R351 to R353, R356): a port of an admitted die comes up and goes down, a port
with a failed lane stays down; the flows that a lost port carried resend their frames; an unacknowledged frame is resent with its timer
doubled, up to 2 ms; a flow that owes an acknowledgement sends it; and a peer not heard is LOST, with its flows dropped and its
collectives weighed anew. Where the spec leaves a reading open it follows the model's, log entries 123, 124 and 196. -/
def Obligations.LinePortsComplete : Prop :=
  ((∀ (s : State) (n : Fin 4) (p : Fin 12), s.portThere n.val p.val = true → s.fld (LNK_PORT_STATUS_FAILED_LANES n.val p.val) = 0 →
     let u := { s with retrains := smapDel s.retrains (16 * n.val + p.val) }.showPort n.val p.val true
     exec (.portLinkUp n p) s = .next (if u.inLine n.val then u.greetPeers n.val else u)) ∧
   (∀ (s : State) (n : Fin 4) (p : Fin 12), s.fld (LNK_PORT_STATUS_FAILED_LANES n.val p.val) ≠ 0 → exec (.portLinkUp n p) s = .next s) ∧
   (∀ (s : State) (n : Fin 4) (p : Fin 12) (failed : BitVec 8) (ecc : Found), s.portThere n.val p.val = true →
     s.fld (LNK_PORT_STATUS_UP n.val p.val) ≠ 0 →
     let u := { s with retrains := tally s.retrains (16 * n.val + p.val) 1 }.showPort n.val p.val false
     let x := u.setFld (LNK_PORT_STATUS_FAILED_LANES n.val p.val) (u.laneMask n.val p.val failed.toNat)
     let v := (x.addFld (LNK_PORT_STATUS_RETRAINS n.val p.val) 1).addRisk riskRetrain
     exec (.portLinkDown n p failed ecc) s = .next ((v.sramRead n.val ecc).resendVia (fun q => q == (n.val, p.val)))) ∧
   (∀ (s : State) (n : Fin 4) (p : Fin 12) (failed : BitVec 8) (ecc : Found), s.portThere n.val p.val = false →
     exec (.portLinkUp n p) s = .next s ∧ exec (.portLinkDown n p failed ecc) s = .next s ∧ exec (.portDownTimeout n p) s = .next s) ∧
   ∀ (s : State) (n : Fin 4) (p : Fin 12), s.portThere n.val p.val = true → s.fld (LNK_PORT_STATUS_UP n.val p.val) = 0 →
     exec (.portDownTimeout n p) s = .next (s.event (0x4100 + 12 * n.val + p.val) EV_PORT_DOWN noDomain
       (leBytes 4 ((smapFind s.retrains (16 * n.val + p.val)).getD 0)))) ∧
  ((∀ (s : State) (n : Fin 4) (k seq : Nat) (ecc : Found) (w : OutFlow), s.outFlows[k]? = some w → w.die = n.val →
     (s.peerState w.rank).state = 2 → (∃ f ∈ w.unacked, f.seq = seq) →
     let r := (s.sramRead n.val ecc).resendFrames w (fun f => f.seq == seq)
     exec (.retransmitTimer n k seq ecc) s = .next (r.1.putOut (some k) (r.2.doubleTimer seq))) ∧
   (∀ (w : OutFlow) (seq : Nat), (w.doubleTimer seq).unacked.length = w.unacked.length ∧
     ∀ (i : Nat) (f : Sent), w.unacked[i]? = some f →
       (w.doubleTimer seq).unacked[i]? = some (if f.seq = seq then { f with timer := max f.timer (min 2000000 (2 * f.timer)) } else f)) ∧
   (∀ (s : State) (n : Fin 4) (k seq : Nat) (ecc : Found) (w : OutFlow), s.outFlows[k]? = some w →
     (∀ f ∈ w.unacked, f.seq ≠ seq) → exec (.retransmitTimer n k seq ecc) s = .next s) ∧
   (∀ (s : State) (w : OutFlow) (v : Nat × Nat) (p : Sent → Bool), s.wayOut w.die w.flow = some v →
     (s.resendFrames w p).2.unacked = w.unacked.map (fun f => if p f then { f with via := some v } else f)) ∧
   (∀ (s : State) (n : Fin 4) (k : Nat) (w : InFlow), s.inFlows[k]? = some w → w.die = n.val → w.since ≠ 0 →
     (s.peerState w.rank).state = 2 →
     exec (.sackTimer n k) s = .next (s.sendSack k)) ∧
   ∀ (s : State) (n : Fin 4) (rank : Nat), (bitOf s.links n.val = true ∨ s.links = 0) → (s.peerState rank).state = 2 →
     let u := (s.setPeer rank { s.peerState rank with state := 3 }).missPeer rank
     let v := ((u.event (0x4200 + n.val) EV_PEER_LOST noDomain (leBytes 2 rank ++ zeros 6 ++ leBytes 8 (u.moduleId rank))).dropFlows
       rank).dropSends rank
     v.timeMaster ≠ rank →
     let w := v.reNotice
     exec (.peerTimeout n rank) s = .next ((w.colls.foldl (fun (x : State) c =>
       if c.launched.isSome && c.verdict.isNone && !c.ended then x.weigh (x.coll c.dom c.id c.step) else x) w).losePartner rank))

/-- The frames of Zwine complete (R86 to R88, R348 to R356): one that passes its checks is taken by its type: a HELLO makes its peer live
and may name the time master, a SACK acknowledges, a TIME request is answered and the time master's answer ends a round trip, and the
data-carrying types are placed in their flow and delivered in order, those of large payload after an error in buffer SRAM is handled; one
that fails them is counted and delivers nothing. Where the spec leaves a reading open it follows the model's, log entries 122, 125, 196,
223 and 228. -/
def Obligations.FramesComplete : Prop :=
  (∀ x ∈ ([(Instr.collData, 3), (Instr.collCtrl, 4), (Instr.remoteMsg, 5), (Instr.mirrorFrame, 6), (Instr.snapshotFrame, 7),
      (Instr.spoolFrame, 8), (Instr.fstepFrame, 10)] : List ((Fin 4 → Frame → Found → Instr) × Nat)),
    ∀ (s : State) (n : Fin 4) (f : Frame) (ecc : Found), let u := (s.checkFrame n.val f x.2).1
      ((s.checkFrame n.val f x.2).2 = false → exec (x.1 n f ecc) s = .next u) ∧
      ((s.checkFrame n.val f x.2).2 = true → u.isNew f = false → exec (x.1 n f ecc) s = .next (u.takeInOrder n.val f)) ∧
      ((s.checkFrame n.val f x.2).2 = true → u.isNew f = true → ecc.ecc = .uncorrectable →
        exec (x.1 n f ecc) s = .next (((u.sramLost n.val ecc).loseBody f.body).takeInOrder n.val (emptied f))) ∧
      ((s.checkFrame n.val f x.2).2 = true → u.isNew f = true → ecc.ecc ≠ .uncorrectable →
        exec (x.1 n f ecc) s = .next ((((u.sramRead n.val ecc).receive n.val f).2).foldl
          (fun (w : State) b => (w.countLink n.val b).deliver n.val f.srcRank b) ((u.sramRead n.val ecc).receive n.val f).1))) ∧
  (∀ (s : State) (n : Fin 4) (f : Frame) (ecc : Found) (step : Nat), f.body = .snapReq step →
    exec (.snapReq n f ecc) s = exec (.snapshotFrame n f ecc) s) ∧
  (∀ (s : State) (n : Fin 4) (f : Frame) (type : Nat) (ecc : Found), let u := (s.checkFrame n.val f type).1
    (s.checkFrame n.val f type).2 = true →
    (ecc.ecc = .uncorrectable → s.readFrame n.val f type ecc = (u.sramLost n.val ecc, false)) ∧
    (ecc.ecc ≠ .uncorrectable → s.readFrame n.val f type ecc = (u.sramRead n.val ecc, true))) ∧
  (∀ (s : State) (n : Fin 4) (f : Frame) (ecc : Found) (id : BitVec 64) (lo hi master : Nat), f.body = .hello id 1 lo hi master →
    (s.readFrame n.val f 1 ecc).2 = true → lo ≤ min hi zwineMinor →
    let u := (s.readFrame n.val f 1 ecc).1
    let x := u.peerState f.srcRank
    let v := u.adoptMaster f.srcRank master
    exec (.hello n f ecc) s = .next (((if x.state = 1 then v else v.sendHello n.val f.srcRank).dropFlows f.srcRank).setPeer f.srcRank
      { x with state := 2, minor := min hi zwineMinor })) ∧
  (∀ (s : State) (n : Fin 4) (f : Frame) (ecc resent : Found) (flow cum rtt : Nat) (bitmap : Word) (marks : Nat),
    f.body = .sack flow cum bitmap marks rtt → (s.readFrame n.val f 2 ecc).2 = true →
    ((s.readFrame n.val f 2 ecc).1.peerState f.srcRank).state = 2 →
    exec (.sack n f ecc resent) s = .next ((s.readFrame n.val f 2 ecc).1.takeSack f.srcRank flow cum bitmap marks rtt resent)) ∧
  (∀ (s : State) (n : Fin 4) (f : Frame) (ns : Nat) (ecc : Found) (sent back gone : Word), f.body = .time false sent back gone →
    let r := s.runAligned (min ns (s.nextBoundary - s.now))
    (r.readFrame n.val f 9 ecc).2 = true → ((r.readFrame n.val f 9 ecc).1.peerState f.srcRank).state = 2 →
    let u := (r.readFrame n.val f 9 ecc).1
    exec (.timeFrame n f ns ecc) s = .next (u.emit n.val f.srcRank 0 0 false (.time true sent (word u.now) (word u.now)))) ∧
  (∀ (s : State) (n : Fin 4) (f : Frame) (ns : Nat) (ecc : Found) (sent back gone : Word), f.body = .time true sent back gone →
    let r := s.runAligned (min ns (s.nextBoundary - s.now))
    (r.readFrame n.val f 9 ecc).2 = true → ((r.readFrame n.val f 9 ecc).1.peerState f.srcRank).state = 2 →
    let u := (r.readFrame n.val f 9 ecc).1
    f.srcRank = u.timeMaster → u.measure.sent = some sent →
    exec (.timeFrame n f ns ecc) s = .next (u.takeTrip (tripOffset sent.toNat back.toNat gone.toNat u.localNs))) ∧
  ∀ t1 t2 t3 t4 : Nat, tripOffset t1 t2 t3 t4 = (((t2 : Int) - t1) + ((t3 : Int) - t4)) / 2

/-- A flow delivers its frames once each and in the order of their sequence numbers: what is delivered are the held frames from the number
awaited on without a gap; none of them stays held; the next number awaited moves on by as many; and it is not held. -/
def Obligations.FlowsDeliverInOrder : Prop :=
  ∀ w : InFlow, w.next < 2 ^ 32 →
    let r := InFlow.drain w.held.length w
    (∀ i b, r.2[i]? = some b → ((w.next + i) % 2 ^ 32, b) ∈ w.held) ∧
    (∀ i, i < r.2.length → ∀ h ∈ r.1.held, h.1 ≠ (w.next + i) % 2 ^ 32) ∧
    r.1.next = (w.next + r.2.length) % 2 ^ 32 ∧ ∀ h ∈ r.1.held, h.1 ≠ r.1.next

/-- The ends of collectives complete (R361 to R364): the coordinator settles with OK when its grace runs out and with COLL_TIMEOUT at the
hard limit; a verdict whose result is known completes the collective; and what is settled names the members held present. Where the spec
leaves a reading open it follows the model's, log entries 130 and 131. -/
def Obligations.CollectiveEndsComplete : Prop :=
  (∀ (s : State) (d : Fin 64) (c : Nat) (x : Coll), s.findColl d.val c (fun x => s.coordinates x && s.rootHeld x &&
      (match x.quorum with | some q => decide (q + postGrace x.post ≤ s.tick) | none => false)) = some x →
    exec (.collGraceExpiry d c) s = .next (s.settle x ST_OK)) ∧
  (∀ (s : State) (d : Fin 64) (c : Nat) (x : Coll), s.findColl d.val c (fun x => s.coordinates x && (x.quorum.isNone || !s.rootHeld x) &&
      (match x.launched with | some q => decide (q + postHard x.post ≤ s.tick) | none => false)) = some x →
    exec (.collHardTimeout d c) s = .next (s.settle x ST_COLL_TIMEOUT)) ∧
  (∀ (s : State) (d : Fin 64) (c : Nat) (x : Coll) (v : Verdict) (bs : List (Nat × Bytes)),
    s.findColl d.val c (fun x => x.launched.isSome && !x.ended && !(s.revoked x.unit) && (match x.verdict with | some v => (x.outcome v).isSome | none => false)) =
      some x → x.verdict = some v → x.outcome v = some bs →
    exec (.collComplete d c) s = .next (s.completeColl x v bs)) ∧
  ∀ (s : State) (d id : Nat) (p : Coll → Bool), s.findColl d id p = none → ∀ c ∈ s.colls, c.dom = d → c.id = id → p c = false

/-! ## Survival (chapter 18) -/

/-- The survival commands complete (R394 to R405, R445): a step whose blocks the partner has acknowledged is committed there; snapshots
are requested, copied and shown whole; an offer's answer is judged by feed and loop and either taken, or the next module asked; an offer
received is answered. Where the spec leaves a reading open it follows the model's, log entries 143 and 147. -/
def Obligations.SurvivalCommandsComplete : Prop :=
  (∀ (s : State) (d : Fin 64) (r : Nat) (m : MirrorDue) (ms : List MirrorDue), s.survival.partner = some r →
    (s.dom d.val).mirrorDue = m :: ms →
    s.unackedAt r (fun b => match b with | .mirrorBlock e n _ _ _ _ => e == d.val && n == m.step | _ => false) = false →
    let u := s.toPartner 6 (.mirrorCommit d.val m.step s.imageId m.record)
    let n := (s.dom d.val).mirrorCount + 1
    let v := u.setDom d.val { s.dom d.val with mirrorDue := ms, mirrorCount := n, mirroredStep := if 3 ≤ n then some m.step else none }
    exec (.mirrorCommit d) s = .next (if 3 ≤ n then v.setReg (CTL_SRV_DOM_MIRROR d.val) (word m.step) else v)) ∧
  (∀ s : State, s.image.isSome = true → s.isTimeMaster = true →
    s.domIds.any (fun d => (s.dom d).snap.isSome || !(s.dom d).snapAt.isEmpty) = false →
    s.survival.lastStart + s.preField secSurvival 6 2 300 * 10 ^ 9 ≤ s.now →
    exec .snapshotIntervalExpiry s = .next s.requestSnapshots) ∧
  (∀ (s : State) (d : Fin 64) (fs : List Found), exec (.snapshotFrontCopyEnd d fs) s = exec (.snapshotFrontCopyEnd d []) (s.findErrors fs)) ∧
  (∀ (s : State) (d : Fin 64) (p : Snap), (s.dom d.val).snap = some p → p.holding = true →
    exec (.snapshotFrontCopyEnd d []) s = .next
      ((s.setDom d.val { s.dom d.val with snap := some { p with holding := false } }).stageFront p |>.streamSnapshot d.val p)) ∧
  (∀ (s : State) (d : Fin 64) (p : Snap) (b : Bytes), (s.dom d.val).snap = some p → p.descriptor = some b →
    let u := { s with survival := { s.survival with area := smapIns s.survival.area d.val b, lastStart := p.start } }
    let v := (u.setDom d.val { u.dom d.val with snap := none, wholeStep := some p.step, wholeSlot := p.slot }).showWhole d.val
    let w := (v.addFld (CTL_SRV_DOM_COUNTS_WHOLE d.val) 1).setFld CTL_SRV_SPOOL_GAP 0
    exec (.snapshotWhole d) s = .next (p.handles.foldl (fun (x : State) h => x.finishWith h ST_OK)
      (w.event 0x8005 EV_SNAPSHOT_WHOLE d.val (leBytes 8 p.step ++ leBytes 1 p.slot ++ zeros 7 ++ leBytes 8 (fieldAt b 40 8))))) ∧
  (∀ (s : State) (i : Fin 4) (feed loop : BitVec 32) (room r : Nat), s.survival.asking = some i.val → s.image.isSome = true →
    s.fld FAC_FEED_FEED_ID ≠ 0 → s.fld FAC_FEED_LOOP_ID ≠ 0 → feed ≠ 0#32 → loop ≠ 0#32 →
    s.fld FAC_FEED_FEED_ID ≠ feed.toNat → s.fld FAC_FEED_LOOP_ID ≠ loop.toNat → s.rankOf (s.partnerAt i.val) = some r →
    exec (.partnerOfferAnswer i (BitVec.ofNat 16 ST_OK) feed loop room) s = .next (s.takePartner i.val r room false)) ∧
  (∀ (s : State) (i : Fin 4) (status : BitVec 16) (feed loop : BitVec 32) (room : Nat), s.survival.asking ≠ some i.val →
    exec (.partnerOfferAnswer i status feed loop room) s = .next s) ∧
  (∀ s : State, exec .riskSecond s = .next (if (if s.coolantOut then s.addRisk riskCoolant else s).fld FAC_STATE_FEED_STATE = 0
    then (if s.coolantOut then s.addRisk riskCoolant else s)
    else (if s.coolantOut then s.addRisk riskCoolant else s).addScore riskBattery 10)) ∧
  ∀ (s : State) (rank : Nat) (feed loop : BitVec 32) (plan : List (Nat × List (Nat × Nat))) (strict : Bool), s.aloft = true →
    let k := s.survival
    let ids := (s.fld FAC_FEED_FEED_ID, s.fld FAC_FEED_LOOP_ID)
    (∀ r, k.source = some r → r ≠ rank →
      exec (.partnerOfferReceived rank feed loop plan strict) s = .next { s with survival := { k with
        offers := k.offers ++ [(rank, ST_PARTNER_BUSY, ids)] } }) ∧
    ((k.source = none ∨ k.source = some rank) → strict = true → feed ≠ 0#32 → feed.toNat = ids.1 →
      exec (.partnerOfferReceived rank feed loop plan strict) s = .next { s with survival := { k with
        offers := k.offers ++ [(rank, ST_OK, ids)] } }) ∧
    (k.source = none → strict = false → exec (.partnerOfferReceived rank feed loop plan strict) s = .next { s with survival := { k with
      source := some rank, served := { k with served := [] }.planned plan, offers := k.offers ++ [(rank, ST_OK, ids)] } }) ∧
    (k.source = some rank → strict = false → exec (.partnerOfferReceived rank feed loop plan strict) s = .next { s with survival := { k with
      source := some rank, served := k.planned plan, offers := k.offers ++ [(rank, ST_OK, ids)] } })

/-! ## Power, cooling and the facility port (chapter 20) -/

/-- The power commands complete (R432 to R440, R450, R489): a sample shows rails and power; the cap controller steps down when the mean is
over the cap; temperatures, throttling and droops act on the step; SET_CAP takes a cap in range and refuses others with CAP_RANGE;
CLEAR_SHED ends a shed. Where the spec leaves a reading open it follows the model's, log entries 163, 164, 166, 269 and 270. -/
def Obligations.PowerCommandsComplete : Prop :=
  (∀ (s : State) (rails : List (BitVec 16 × BitVec 16)) (vddc : BitVec 16 × BitVec 16), s.phase = .running →
    ∃ t, exec (.powerSample rails vddc) s = .next t ∧
      t.power.samples = (total ((vddc :: rails.take 14).map (fun r => r.1.toNat * r.2.toNat)) / 1000 :: s.power.samples).take
        (1000 * max 1 (t.fld PWR_CAP_WINDOW_S)) ∧
      t.fld PWR_POWER_P_1S = satTo 0xFFFF (mean (t.power.samples.take 1000)) ∧
      t.fld PWR_POWER_P_WINDOW = satTo 0xFFFF (mean t.power.samples) ∧
      t = { s with regs := t.regs, power := { s.power with samples := t.power.samples } }) ∧
  (∀ s : State, s.phase = .running → s.power.samples ≠ [] → s.power.capStep < 15 →
    s.effectiveCap * s.power.samples.length < total s.power.samples →
    exec .capControllerPeriod s = .next
      ({ s with power := { s.power with capStep := s.power.capStep + 1, ballastOff := false } }.setFld PWR_STATUS_OVER_CAP 0)) ∧
  (∀ (s : State) (compute link hbm : List (Fin 256)) (host : Fin 256) (outlet : BitVec 16), s.supplied = true →
    let c := (compute.take 4).map (·.val)
    let l := (link.take 4).map (·.val)
    let h := (hbm.take 16).map (·.val)
    let p := { s.power with compute := c, link := l, host := host.val, hbm := h }
    (∀ j, hottest p.junctions = some j → j.2.2 < 105) →
    ∃ t, exec (.thermalSample compute link hbm host outlet) s = .next t ∧ t.power = p ∧
      t.fld PWR_THERMAL_OUTLET = outlet.toNat ∧ onlyRegs { s with power := t.power } t [PWR_THERMAL]) ∧
  (∀ (s : State) (j : Nat × Nat × Nat), s.supplied = true → hottest s.tooHot = some j → s.power.thermalStep ≠ 0 →
    exec .thermalStepPeriod s = .next
      { s with power := { s.power with thermalStep := min 15 (s.power.thermalStep + 1), cool := 0 } }) ∧
  (∀ (s : State), s.supplied = true → hottest s.tooHot = none → s.power.cool = 9 →
    (∀ j ∈ s.power.junctions, j.2.2 + 3 ≤ s.foundation.throttleC) → (∀ j ∈ s.power.hbmStacks, j.2.2 + 3 ≤ 90) →
    exec .thermalStepPeriod s = .next { s with power := { s.power with cool := 0, thermalStep := s.power.thermalStep - 1 } }) ∧
  (∀ (s : State) (k : Fin 4) (depth : BitVec 16), s.phase = .running → bitOf s.railPg k.val = true → 50 ≤ depth.toNat →
    let old := s.fld PWR_STATUS_FSTEP
    let n := max (min 15 (old + 4)) s.power.droopStep
    let u := { s with power := { s.power with droopStep := n, droopAt := some s.localNs } }
    exec (.droop k depth) s = .next (((u.addFld PWR_COUNTS_DROOPS 1).event (0x9000 + k.val) EV_DROOP noDomain
      (leBytes 1 k.val ++ leBytes 1 old ++ leBytes 1 n ++ leBytes 1 0 ++ leBytes 2 depth.toNat)).takeEmergency.addRisk riskDroop)) ∧
  (∀ (s : State) (k : Fin 4) (depth : BitVec 16), depth.toNat < 50 → exec (.droop k depth) s = .next s) ∧
  (∀ s : State, s.power.emergency ≠ 0 → s.aloft = false →
    let cool := s.power.junctions.all (fun j => decide (j.2.2 < 100))
    let u := { s with power := { s.power with droopStep := s.droopHeld, tripHeld := s.power.tripHeld && !cool } }
    exec .emergencyHoldEnd s = .next (u.setFld PWR_STATUS_EMERGENCY (if u.power.emergency = 0 then 0 else 1))) ∧
  (∀ (s : State) (n : Nat), s.power.rising = some n → s.aloft = true → s.power.owed = true →
    let u := { s with power := { s.power with volts := n, rising := none } }
    u.targetStep < u.fld PWR_STATUS_FSTEP → n ≤ u.targetStep →
    exec .voltageSettled s = .next (u.setStep u.targetStep u.power.agreed false)) ∧
  (∀ (s : State) (cap : BitVec 16) (window : BitVec 8), s.phase = .running → 1000 ≤ cap.toNat → cap.toNat ≤ s.part.tdp →
    1 ≤ window.toNat → window.toNat ≤ 30 →
    exec (.setCap cap window false) s = .next
      (((s.answer 0x10 ST_OK []).setFld PWR_CAP_CAP_W cap.toNat).setFld PWR_CAP_WINDOW_S window.toNat).scaleEnvelopes) ∧
  (∀ (s : State) (cap : BitVec 16) (window : BitVec 8), s.phase = .running →
    (cap.toNat < 1000 ∨ s.part.tdp < cap.toNat ∨ window.toNat < 1 ∨ 30 < window.toNat) →
    exec (.setCap cap window false) s = .next (s.answer 0x10 ST_CAP_RANGE [])) ∧
  ∀ s : State, s.phase = .running →
    exec (.clearShed false) s = .next (((s.answer 0x11 ST_OK []).setFld FAC_STATE_SHED_W 0).scaleEnvelopes)

/-- The field side and the facility's periods complete (R447 to R450): a Modbus function addressed to it within the map answers and
writes, another function is refused with exception 1, one outside the map with exception 2, one addressed elsewhere does nothing; without
a new heartbeat the values become unknown; the module sends its values outward while the field side's major is 1; the field side repeats
its registers, and relays zeros when the module falls silent. Where the spec leaves a reading open it follows the model's, log entries
153, 159 and 160. -/
def Obligations.FieldSideComplete : Prop :=
  ((∀ (s : State) (unit : BitVec 8) (pins : BitVec 3) (addr count : BitVec 16),
     exec (.modbusReadHoldingRegisters unit pins none addr count) s =
       .next (s.modbusRead unit pins 3 addr.toNat count.toNat 11 (fun a => s.facility.holding.getD a 0)) ∧
     exec (.modbusReadInputRegisters unit pins addr count) s =
       .next (s.modbusRead unit pins 4 addr.toNat count.toNat 13 s.facility.input)) ∧
   (∀ (s : State) (unit fn : BitVec 8) (pins : BitVec 3) (addr count : BitVec 16), unit.toNat = serverAddress pins →
     fn.toNat ∉ [3, 4, 6, 16] → exec (.modbusReadHoldingRegisters unit pins (some fn) addr count) s = .next (s.modbusRefuse pins fn.toNat 1)) ∧
   (∀ (s : State) (unit fn : BitVec 8) (pins : BitVec 3) (addr count : BitVec 16), unit.toNat ≠ serverAddress pins →
     exec (.modbusReadHoldingRegisters unit pins (some fn) addr count) s = .next s) ∧
   (∀ (s : State) (unit : BitVec 8) (pins : BitVec 3) (addr value : BitVec 16), unit.toNat = serverAddress pins → addr.toNat < 11 →
     holdingTakes addr.toNat value.toNat = true →
     ∃ t, exec (.modbusWriteSingleRegister unit pins addr value) s = .next t ∧
       t.facility.holding = s.facility.holding.set addr.toNat value.toNat ∧
       t.outs.modbus = [byte (serverAddress pins), byte 6] ++ hiLo addr.toNat ++ hiLo value.toNat ∧ sameRegs s t ∧ t.mem = s.mem) ∧
   (∀ (s : State) (unit : BitVec 8) (pins : BitVec 3) (addr : BitVec 16) (values : List (BitVec 16)), values ≠ [] → values.length ≤ 123 →
     exec (.modbusWriteMultipleRegisters unit pins addr values) s =
       .next (s.modbusWrite unit pins 16 addr.toNat (values.map (·.toNat)) (hiLo addr.toNat ++ hiLo values.length))) ∧
   (∀ (s : State) (unit : BitVec 8) (pins : BitVec 3) (addr value : BitVec 16), unit.toNat = serverAddress pins → 11 ≤ addr.toNat →
     exec (.modbusWriteSingleRegister unit pins addr value) s = .next (s.modbusRefuse pins 6 2)) ∧
   ∀ (s : State) (unit : BitVec 8) (pins : BitVec 3) (addr value : BitVec 16), unit.toNat ≠ serverAddress pins → unit ≠ 0#8 →
     exec (.modbusWriteSingleRegister unit pins addr value) s = .next s) ∧
  ((∀ s : State, s.phase = .running → s.fld FAC_STATUS_STALE ≠ 1 →
     let u := ((((s.setFld FAC_STATUS_STALE 1).setFld FAC_COOLANT_INLET 0x8000).setFld FAC_COOLANT_FLOW 0xFFFF).setFld FAC_COOLANT_PRESSURE
       0xFFFF)
     exec .facilityStaleTimeout s = .next
       (((u.setReg FAC_FEED 0#64).setFld FAC_STATE_FEED_STATE 0).judgeCoolant.event 0xB000 EV_FACILITY_STALE noDomain [])) ∧
   (∀ s : State, s.phase = .running → s.fld FAC_STATUS_STALE = 1 → exec .facilityStaleTimeout s = .next s) ∧
   (∀ s : State, s.phase = .running → s.fld FAC_STATUS_MINOR ≠ 0xFF →
     ∃ t, exec .facilityOutboundPeriod s = .next t ∧ t.facility.relayed.length = 11 ∧ t.facility.relayed[2]? = some (s.fld PWR_POWER_P_1S) ∧
       t.facility.relayed[4]? = some s.effectiveCap ∧ t.facility.outward.map (·.1) = [0x0B, 0x0C, 0x0D, 0x0E, 0x0F, 0x10] ∧
       t = { s with facility := { s.facility with relayed := t.facility.relayed, outward := t.facility.outward } }) ∧
   (∀ s : State, s.phase = .running → s.fld FAC_STATUS_MINOR = 0xFF →
     exec .facilityOutboundPeriod s = .next
       { s with facility := { s.facility with relayed := List.replicate 11 0, outward := [] } }) ∧
   (∀ s : State, exec .fieldRepeatPeriod s = .next { s with facility := { s.facility with
     inward := [0, 1, 2, 3, 4, 6, 7, 9, 10].map (holdingMessage s.facility.holding) ++ [(10, s.facility.status)] } }) ∧
   ∀ s : State, exec .fieldValueTimeout s = .next { s with facility := { s.facility with relayed := List.replicate 11 0 } })

/-- The facility frames complete (R436, R445, R446, R448 to R450): a frame that passes its checks and whose value is to be taken shows it
in its FAC register; a leak, a feed on battery and a shed have their effects; a new heartbeat ends STALE; one that fails its check is
counted and refused. Where the spec leaves a reading open it follows the model's, log entries 154, 155, 156, 157, 159 and 270. -/
def Obligations.FacilityFramesComplete : Prop :=
  (∀ (s : State) (f : FieldFrame), (s.takeValue 1 f).2 = true →
    exec (.inletTemp f) s = .next (((s.takeValue 1 f).1.setFld FAC_COOLANT_INLET f.value.toNat).judgeCoolant)) ∧
  (∀ (s : State) (f : FieldFrame), (s.takeValue 2 f).2 = true →
    exec (.flow f) s = .next (((s.takeValue 2 f).1.setFld FAC_COOLANT_FLOW f.value.toNat).judgeCoolant)) ∧
  (∀ (s : State) (f : FieldFrame), (s.takeValue 3 f).2 = true →
    exec (.pressure f) s = .next ((s.takeValue 3 f).1.setFld FAC_COOLANT_PRESSURE f.value.toNat)) ∧
  (∀ (s : State) (f : FieldFrame), (s.takeValue 5 f).2 = true →
    exec (.feedId f) s = .next ((s.takeValue 5 f).1.setFld FAC_FEED_FEED_ID f.value.toNat)) ∧
  (∀ (s : State) (f : FieldFrame), (s.takeValue 7 f).2 = true →
    exec (.loopId f) s = .next ((s.takeValue 7 f).1.setFld FAC_FEED_LOOP_ID f.value.toNat)) ∧
  (∀ (s : State) (f : FieldFrame), (s.takeField 4 f).2 = true → (s.takeField 4 f).1.fld FAC_STATUS_MINOR ≠ 0xFF →
    f.value.toNat % 4 = 1 → bitOf ((s.takeField 4 f).1.fld FAC_COOLANT_LEAK) 0 = false → s.foundation.leakAction = 1 →
    let u := ((s.takeField 4 f).1.setFld FAC_COOLANT_LEAK 1).event 0xB000 EV_LEAK noDomain (leBytes 1 1 ++ leBytes 1 1)
    exec (.leak f) s = .next { u with facility := { u.facility with leakHold := true } }) ∧
  (∀ (s : State) (f : FieldFrame), (s.takeField 4 f).2 = true → (s.takeField 4 f).1.fld FAC_STATUS_MINOR ≠ 0xFF →
    f.value.toNat % 4 = 0 →
    let u := (s.takeField 4 f).1.setFld FAC_COOLANT_LEAK 0
    exec (.leak f) s = .next { u with facility := { u.facility with leakHold := false } }) ∧
  (∀ (s : State) (f : FieldFrame), (s.takeValue 6 f).2 = true →
    let u := (s.takeValue 6 f).1
    let v := u.setFld FAC_STATE_FEED_STATE f.value.toNat
    exec (.feedState f) s = .next (if f.value.toNat ≠ u.fld FAC_STATE_FEED_STATE ∧ (f.value.toNat = 1 ∨ f.value.toNat = 2)
      then (v.event 0xB000 EV_FEED_ON_BATTERY noDomain (leBytes 1 f.value.toNat)).addRisk riskBattery else v)) ∧
  (∀ (s : State) (f : FieldFrame), (s.takeField 8 f).2 = true → (s.takeField 8 f).1.fld FAC_STATUS_MINOR ≠ 0xFF →
    f.value.toNat % 65536 = 0 → (s.takeField 8 f).1.facility.shedSeen ≠ 0 →
    let u := (s.takeField 8 f).1
    exec (.shed f) s = .next
      ((({ u with facility := { u.facility with shedSeen := 0 } }).setFld FAC_STATE_SHED_W 0).scaleEnvelopes)) ∧
  (∀ (s : State) (f : FieldFrame), (s.takeField 8 f).2 = true → (s.takeField 8 f).1.fld FAC_STATUS_MINOR ≠ 0xFF →
    f.value.toNat % 65536 ≠ 0 → (s.takeField 8 f).1.facility.shedSeen ≠ f.value.toNat % 65536 →
    let u := (s.takeField 8 f).1
    let w := max 1000 (f.value.toNat % 65536)
    let v := ({ u with facility := { u.facility with shedSeen := f.value.toNat % 65536 } }).setFld FAC_STATE_SHED_W w
    exec (.shed f) s = .next (v.event 0xB000 EV_SHED noDomain (leBytes 2 w ++ leBytes 2 v.effectiveCap)).scaleEnvelopes) ∧
  (∀ (s : State) (f : FieldFrame), (s.takeField 9 f).2 = true → f.value.toNat ≠ (s.takeField 9 f).1.facility.beat →
    let u := (s.takeField 9 f).1
    exec (.facilityHeartbeat f) s = .next
      (({ u with facility := { u.facility with beat := f.value.toNat } }).setFld FAC_STATUS_STALE 0)) ∧
  (∀ (s : State) (f : FieldFrame) (errors : BitVec 16) (major minor : BitVec 8), (s.takeField 10 f).2 = true →
    let u := (s.takeField 10 f).1
    let v := { u with facility := { u.facility with supply := f.value.toNat % 65536, errors := errors.toNat, major := major.toNat, minor := minor.toNat } }
    exec (.fieldStatus f errors major minor) s = .next ((v.setFld FAC_STATUS_FIELD_SUPPLY f.value.toNat).setFld FAC_STATUS_MINOR
      (if major.toNat = 1 then min 2 minor.toNat else 0xFF))) ∧
  (∀ (s : State) (f : FieldFrame), s.phase = .running → f.ok = false →
    let u := (s.addFld FAC_COUNTS_CHECK_ERR 1).addFld FAC_COUNTS_REFUSED 1
    exec (.inletTemp f) s = .next u ∧ exec (.flow f) s = .next u ∧ exec (.pressure f) s = .next u ∧ exec (.leak f) s = .next u ∧
      exec (.feedId f) s = .next u ∧ exec (.feedState f) s = .next u ∧ exec (.loopId f) s = .next u ∧ exec (.shed f) s = .next u ∧
      exec (.facilityHeartbeat f) s = .next u) ∧
  ∀ (s : State) (type : Nat) (f : FieldFrame), s.phase = .running → f.ok = true → f.kind.toNat = type → 1 ≤ type → type ≤ 16 →
    s.takeField type f = ((s.addFld FAC_COUNTS_FRAMES 1).setFld FAC_STATUS_LINK_UP 1, true)

/-! ## Security and management (chapter 21) -/

/-- The debug grant's lifecycle completes (R467): a nonce is given; a grant that fails a condition is answered with its status and changes
nothing else; one that passes all takes force in place of the old one and uses up the nonce; and it ends by revocation or by its lifetime.
Where the spec leaves a reading open it follows the model's, log entries 169 and 179. -/
def Obligations.DebugGrantComplete : Prop :=
  (∀ s : State, s.phase = .running →
    let n := padTo 32 (Config.nonce s.security.nonces)
    exec (.debugNonce false) s = .next
      ({ s with security := { s.security with nonce := some n, nonces := s.security.nonces + 1 } }.answer 0x20 ST_OK n)) ∧
  (∀ (s : State) (g : Bytes), s.phase = .running → s.grantStatus g ≠ ST_OK →
    exec (.debugGrant g false) s = .next (s.answer 0x21 (s.grantStatus g) [])) ∧
  (∀ (s : State) (g : Bytes), s.phase = .running → s.grantStatus g = ST_OK →
    let u := (s.answer 0x21 ST_OK []).endGrant 2
    let life := fieldAt g 16 4
    let n : Grant := { scope := fieldAt g 4 1, keyId := fieldAt g 20 8, lifetime := life, ends := u.localNs + life * 1000000000 }
    exec (.debugGrant g false) s = .next ({ u with security := { u.security with grant := some n, nonce := none } }.event 0xA000 EV_DEBUG_GRANTED
      noDomain (leBytes 1 n.scope ++ zeros 3 ++ leBytes 4 life ++ leBytes 8 n.keyId))) ∧
  (∀ s : State, s.phase = .running → exec (.debugRevoke false) s = .next ((s.answer 0x22 ST_OK []).endGrant 1)) ∧
  (∀ s : State, exec .debugGrantExpiry s = .next (s.endGrant 0)) ∧
  (∀ s : State, exec .debugNonceExpiry s = .next { s with security := { s.security with nonce := none } }) ∧
  ∀ (s : State) (g : Bytes), s.grantStatus g = ST_OK → s.security.nonce = some (takeAt g 64 32) ∧ fieldAt g 8 8 = ownModuleId ∧
    1 ≤ fieldAt g 16 4 ∧ fieldAt g 16 4 ≤ 86400 ∧
    ∃ k, s.keyNamed (fieldAt g 20 8) = some k ∧ Config.ed25519Verify k (sha512 (takeAt g 0 128)) (takeAt g 128 64) = true

/-- The other management requests complete (R460, R462 to R465, Table SEC-4): the first owner key is taken unsigned, a later one only when
signed by the key it replaces; READ_LOG gives its entries; addresses are assigned; sensors and the start report are read; a firmware
transfer begins, goes on, is refused while another is in progress, is verified, and is applied. Where the spec leaves a reading open it
follows the model's, log entries 170, 171, 172, 173 and 176. -/
def Obligations.ManagementRequestsComplete : Prop :=
  ((∀ (s : State) (key signature : Bytes), s.phase = .running → s.security.ownerNext = none → s.security.owner = none →
     exec (.enrolOwner key signature false) s = .next ({ s with security := { s.security with owner := some key } }.answer 0x30 ST_OK [])) ∧
   (∀ (s : State) (key signature old : Bytes), s.phase = .running → s.security.ownerNext = none → s.security.owner = some old →
     Config.ed25519Verify old key signature = true →
     exec (.enrolOwner key signature false) s = .next ({ s with security := { s.security with ownerNext := some key } }.answer 0x30 ST_OK [])) ∧
   (∀ (s : State) (key signature old : Bytes), s.phase = .running → s.security.ownerNext = none → s.security.owner = some old →
     Config.ed25519Verify old key signature = false →
     exec (.enrolOwner key signature false) s = .next (s.answer 0x30 ST_SIGNATURE_INVALID [])) ∧
   (∀ (s : State) (first : BitVec 16) (count : BitVec 8), s.phase = .running → first.toNat < 1024 → 1 ≤ count.toNat → count.toNat ≤ 16 →
     exec (.readLog first count false) s = .next
       (s.answer 0x40 ST_OK ((List.range count.toNat).flatMap (fun i => s.logEntry (first.toNat + i))))) ∧
   (∀ (s : State) (first : BitVec 16) (count : BitVec 8), s.phase = .running →
     (1024 ≤ first.toNat ∨ count.toNat < 1 ∨ 16 < count.toNat) →
     exec (.readLog first count false) s = .next (s.answer 0x40 ST_FIELD_RANGE [])) ∧
   (∀ (s : State) (a : BitVec 7) (e : BitVec 8), s.phase = .running →
     exec (.mctpControl (some a) (some e)) s = .next
       (((s.setFld MGT_STATUS_I3C_ADDR a.toNat).setFld MGT_STATUS_EID e.toNat).reply ST_OK [])) ∧
   (∀ (s : State) (i : Fin 10), s.phase = .running →
     exec (.pldmSensorRead i) s = .next (s.reply ST_OK (leBytes 4 (s.security.sensors.getD i.val 0)))) ∧
   (∀ s : State, s.phase = .running →
     exec .pldmSensorRefresh s = .next { s with security := { s.security with sensors := s.sensorValues } }) ∧
   ∀ (s : State) (off len : Nat), s.phase = .running →
     exec (.pldmStartReportRead off len) s = .next
       (s.reply ST_OK ((((List.range 32).flatMap (fun w => leBytes 8 (s.reg (CTL_START_REPORT w)).toNat)).drop off).take len))) ∧
  ((∀ (s : State) (component : BitVec 16) (data : Bytes) (floor : Option (Nat × Bytes)) (x : Transfer), s.phase = .running →
     (component.toNat = 1 ∨ component.toNat = 2) → s.transfer component.toNat = some x →
     exec (.firmwareUpdateTransfer component true data floor) s = .next (s.reply ST_UPDATE_BUSY []) ∧
     exec (.firmwareUpdateTransfer component false data floor) s = .next
       ((s.setTransfer component.toNat (some { x with bytes := x.bytes ++ data })).reply ST_OK [])) ∧
   (∀ (s : State) (component : BitVec 16) (data : Bytes) (floor : Option (Nat × Bytes)), s.phase = .running →
     (component.toNat = 1 ∨ component.toNat = 2) → s.transfer component.toNat = none →
     let kind := component.toNat
     let c := s.security.setSlot kind (s.updateSlotB kind) {}
     let e := { c with updates := c.updates.filter (· != kind), pendingFloor := c.pendingFloor.filter (fun f => f.1 != kind) }
     exec (.firmwareUpdateTransfer component true data floor) s = .next
       (({ s with security := e }.setTransfer kind (some { kind := kind, bytes := data, floor := floor })).reply ST_OK [])) ∧
   (∀ (s : State) (component : BitVec 16) (x : Transfer), s.transfer component.toNat = some x → s.transferStatus x = ST_OK →
     let c := s.security.setSlot component.toNat (s.updateSlotB component.toNat) { bytes := x.bytes }
     exec (.verifyComplete component) s = .next
       (({ s with security := c }.setTransfer component.toNat (some { x with verified := true })).reply ST_OK [])) ∧
   (∀ (s : State) (component : BitVec 16) (x : Transfer), s.transfer component.toNat = some x → s.transferStatus x ≠ ST_OK →
     let c := s.security.setSlot component.toNat (s.updateSlotB component.toNat) {}
     exec (.verifyComplete component) s = .next
       (({ s with security := c }.setTransfer component.toNat none).reply (s.transferStatus x) [])) ∧
   (∀ (s : State) (component : BitVec 16) (x : Transfer), s.transfer component.toNat = some x → x.verified = true → s.phase = .running →
     exec (.applyComplete component) s = .next (s.applied x)) ∧
   ∀ (s : State) (component : BitVec 16) (x : Transfer), s.transfer component.toNat = some x → x.verified = false →
     exec (.applyComplete component) s = .next s)

/-- The SPDM responder completes (R466): each supported request is answered with what it names (in CAPABILITIES, the flags that the rule
does not fix are free values) and counted; signed answers carry a signature of the alias key over the requester's nonce. Where the spec
leaves a reading open it follows the model's, log entries 177, 178, 179 and 246. -/
def Obligations.SpdmResponderCompletes : Prop :=
  ∀ s : State, s.phase = .running →
    let done (u : State) (data : Bytes) : Out := .next ((u.addFld MGT_COUNTS_SPDM 1).reply ST_OK data)
    let later := { s with fresh := s.fresh + 1 }
    exec .getVersion s = done s [byte 0x13] ∧
    exec .getCapabilities s = done later (leBytes 4 (capabilityFlags (Config.freeWord s.fresh).toNat)) ∧
    exec .negotiateAlgorithms s = done s (leBytes 4 0x200 ++ leBytes 4 4) ∧
    exec .getDigests s = done s (sha512 s.chain) ∧
    (∀ off len, exec (.getCertificate off len) s = done s ((s.chain.drop off).take len)) ∧
    (∀ nonce, exec (.challenge nonce) s = done s (s.signed nonce (sha512 s.chain ++ s.measurements.flatten))) ∧
    (∀ index, 1 ≤ index → index ≤ 6 → ∃ m, s.measurements[index - 1]? = some m ∧
      exec (.getMeasurements index none) s = done s m ∧ ∀ nonce, exec (.getMeasurements index (some nonce)) s = done s (s.signed nonce m)) ∧
    (∀ nonce, exec (.getMeasurements 0xFF (some nonce)) s = done s (s.signed nonce s.measurements.flatten))

/-! ## Debug and tensor watch (chapter 22) -/

/-- The Debug Port completes while the module has its supplies (R468, R479); under its scope HALT resumes a halted core and TRACE takes
the trace settings, and without it each is ignored and counted in DENIED (R473, R475, R480); the counters shown are updated (R471); and a
reading of a watch point that ends is kept with its statistics (R477). Where the spec leaves a reading open it follows the model's, log
entries 152, 181 and 182. -/
def Obligations.DebugCommandsComplete : Prop :=
  ((∀ (s : State) (tdi : List Bool), s.phase ≠ .off →
     exec (.jtagBypass tdi) s = .next (s.jtagOut .bypass (shifted [false] tdi).1) ∧
     exec (.jtagIdcode tdi) s = .next (s.jtagOut .idcode (shifted idcode tdi).1)) ∧
   (∀ (s : State) (tdi pins : List Bool), s.phase ≠ .off →
     exec (.jtagSamplePreload tdi pins) s = .next
       ({ s with dbg := { s.dbg with cells := (shifted pins tdi).2 } }.jtagOut .samplePreload (shifted pins tdi).1)) ∧
   (∀ (s : State) (tdi pins : List Bool), s.phase ≠ .off → s.rstN = false →
     exec (.jtagExtest tdi pins) s = .next { s with
       dbg := { s.dbg with ir := .extest, cells := (shifted pins tdi).2, driven := (shifted pins tdi).2 },
       outs := { s.outs with jtag := (shifted pins tdi).1 } } ∧
     exec (.jtagClamp tdi) s = .next { s with
       dbg := { s.dbg with ir := .clamp, driven := s.dbg.cells }, outs := { s.outs with jtag := (shifted [false] tdi).1 } }) ∧
   (∀ (s : State) (tdi capture : List Bool), s.phase ≠ .off → bitOf s.scope 0 = true →
     exec (.instrumentAccess tdi capture) s = .next
       ({ s with dbg := { s.dbg with segments := tdi } }.jtagOut .instrument (shifted (s.dbg.segments ++ capture) tdi).1)) ∧
   (∀ cells tdi : List Bool, (shifted cells tdi).1 ++ (shifted cells tdi).2 = cells ++ tdi ∧ (shifted cells tdi).1.length = tdi.length ∧
     (shifted cells tdi).2.length = cells.length) ∧
   ∀ i, i < 32 → idcode[i]? = some (bitOf 0x1D8A04B7 i)) ∧
  ((∀ (s : State) (value : Word), s.phase = .running → bitOf s.scope 1 = true → (s.tile (bitsOf value.toNat 0 9)).run = .halted →
     exec (.haltResume value) s = .next (s.setTile (bitsOf value.toNat 0 9) (s.tile (bitsOf value.toNat 0 9)).resumed)) ∧
   (∀ (s : State) (value : Word), s.phase = .running → bitOf s.scope 1 = false →
     exec (.haltResume value) s = .next (s.addFld DBG_STATUS_DENIED 1)) ∧
   (∀ (s : State) (value : Word), s.phase = .running → bitOf s.scope 2 = true →
     exec (.traceEnable value) s = .next (s.setReg DBG_TRACE_CTRL (word (value.toNat &&& 0x7FFFFF03)))) ∧
   (∀ (s : State) (value : Word), s.phase = .running → bitOf s.scope 2 = false →
     exec (.traceEnable value) s = .next (s.addFld DBG_STATUS_DENIED 1)) ∧
   ∀ s : State, s.phase = .running →
     exec .debugCounterUpdate s = .next ((List.range 64).foldl (fun (w : State) d =>
       if (w.domEntry d).isSome then w.showCounts d (DBG_GCNT d) else w) (s.showCounts 64 DBG_PCNT))) ∧
  (∀ (s : State) (point : Fin 256) (fs : List Found), exec (.watchReadingEnd point fs) s = exec (.watchReadingEnd point []) (s.findErrors fs)) ∧
  (∀ (s : State) (point : Fin 256) (r : Reading) (rs : List Reading), s.readingsOf point.val = r :: rs →
     let acc := s.watchWords r.base (r.len / 4) {}
     let u := { s with fresh := s.fresh + 1,
                       dbg := { s.dbg with readings := smapPut (fun _ => some []) s.dbg.readings point.val rs } }
     let v := u.countHbm r.base r.len
     exec (.watchReadingEnd point []) s = .next (v.keepWatch point.val (v.watchRecord point.val r false (acc.bytes r.stats s.fresh))))

/-- The Debug Port without a grant (R468): BYPASS, IDCODE and SAMPLE/PRELOAD are answered; EXTEST and CLAMP act as BYPASS while RST_N is not
asserted; and without INSTRUMENTS the instrument network reads as zero and takes no writes. -/
def Obligations.DebugPortWithoutGrant : Prop :=
  (∀ (s : State) (tdi pins : List Bool), s.phase ≠ .off → s.security.grant = none →
    exec (.jtagBypass tdi) s = .next (s.jtagOut .bypass (shifted [false] tdi).1) ∧
    exec (.jtagIdcode tdi) s = .next (s.jtagOut .idcode (shifted idcode tdi).1) ∧
    exec (.jtagSamplePreload tdi pins) s = .next
      ({ s with dbg := { s.dbg with cells := (shifted pins tdi).2 } }.jtagOut .samplePreload (shifted pins tdi).1)) ∧
  (∀ (s : State) (tdi pins : List Bool), s.phase ≠ .off → s.rstN = true →
    exec (.jtagExtest tdi pins) s = exec (.jtagBypass tdi) s ∧ exec (.jtagClamp tdi) s = exec (.jtagBypass tdi) s) ∧
  (∀ (s : State) (tdi pins : List Bool), s.phase ≠ .off → s.rstN = false → s.security.grant = none →
    (∃ t, exec (.jtagExtest tdi pins) s = .next t ∧ t.dbg.driven = (shifted pins tdi).2) ∧
    ∃ t, exec (.jtagClamp tdi) s = .next t ∧ t.dbg.driven = s.dbg.cells) ∧
  ∀ (s : State) (tdi capture : List Bool), s.phase ≠ .off → bitOf s.scope 0 = false →
    ∃ t, exec (.instrumentAccess tdi capture) s = .next t ∧ t.outs.jtag = List.replicate tdi.length false ∧
      t.dbg.segments = s.dbg.segments

/-- Each watch point keeps its last eight records; WATCH READ writes them oldest first and returns their count; WATCH CLEAR empties the point; and
a commit that takes effect empties every point (R478). -/
def Obligations.WatchPointsKeepEight : Prop :=
  (∀ (s : State) (point : Nat) (b : Bytes), (s.watched point).length ≤ 8 →
    (s.keepWatch point b).watched point = (s.watched point ++ [b]).drop ((s.watched point).length - 7) ∧
    ((s.keepWatch point b).watched point).length = min 8 ((s.watched point).length + 1) ∧
    ∀ j, j ≠ point → (s.keepWatch point b).watched j = s.watched j) ∧
  (∀ (s : State) (h : Word) (p : Pending), s.ready h 6 1 = some p →
    let u := s.begin p
    let rs := u.watched (fieldAt p.entry 16 1)
    u.mappedAll (fieldAt p.entry 24 8) (64 * rs.length) = true →
    exec (.watchRead h) s = .next ((u.devWrite (fieldAt p.entry 24 8) rs.flatten).finishOk h rs.length)) ∧
  (∀ (s : State) (h : Word) (p : Pending), s.ready h 6 2 = some p →
    ∃ t, exec (.watchClear h) s = .next t ∧ t.watched (fieldAt p.entry 16 1) = [] ∧
      ∀ j, j ≠ fieldAt p.entry 16 1 → t.watched j = s.watched j) ∧
  ∀ (s : State) (c : Commit) (n point : Nat), s.commit = some c → c.phase = 2 → (s.commitTurn n).watched point = []

/-! ## Numbers (chapter 08) -/

/-- Every encoding of Table NUM-1 (R163, R187) and of the vector types holds what it reads: the pattern of a number (not a NaN) decodes to a value that packs to
the same pattern, before and after rounding to the encoding; and rounding is to nearest, a tie going to the even multiple. -/
def Obligations.NumbersRoundTrip : Prop :=
  (∀ f : FloatFmt, f = fp64 ∨ (∃ ty, elemFmt ty = some f) → ∀ raw, raw < 2 ^ (1 + f.ebits + f.mbits) → f.decode raw ≠ .nan →
    f.encode (f.decode raw) = raw ∧ f.encode (f.fit (f.decode raw)) = raw) ∧
  ∀ (m : Nat) (e q : Int), e < q →
    let d := pow2 (q - e)
    2 * (rneAt m e q * d) ≤ 2 * m + d ∧ 2 * m ≤ 2 * (rneAt m e q * d) + d ∧ (2 * (m % d) = d → rneAt m e q % 2 = 0)

/-! ## Faults, corrupt frames and frozen operations (chapters 09, 16, 19 and 22) -/

/-- An operation with FROZEN set completes at once with OK: it reads and writes nothing and adds nothing to any counter, its array being held for
no clk; its checks still apply (R201). -/
def Obligations.FrozenOperationsHaveNoEffect : Prop :=
  ∀ x ∈ ([(Instr.mmaS, 1), (Instr.mmaT, 2), (Instr.mmaW, 3), (Instr.mmaD, 4)] : List ((Fin 384 → Fin 64 → Instr) × Nat)),
    ∀ (s : State) (t : Fin 384) (i : Fin 64) (o : Op), s.held t.val i.val [0, 1, 2, 3] x.2 = some o → o.frozen = true →
      (s.arrayFault t.val o = none →
        exec (x.1 t i) s = .next (s.setOp t.val i.val { o with acted := true, status := 0 }) ∧
        (s.setOp t.val i.val { o with acted := true, status := 0 }).regs = s.regs ∧
        (s.setOp t.val i.val { o with acted := true, status := 0 }).counts = s.counts ∧
        sameMemory s (s.setOp t.val i.val { o with acted := true, status := 0 })) ∧
      ∀ st, s.arrayFault t.val o = some st → exec (x.1 t i) s = .next (s.opFault t.val i.val st)

/-- A frame that fails the Ethernet FCS or the Zwine CRC on a port that is up is discarded and counted in CRC_ERR, whatever its type, and
nothing else changes but FEC_UNCORR, by an open number of codewords; its flow's retransmission timer sends it again (R348). Where the spec
leaves a reading open it follows the model's, log entries 13 and 196. -/
def Obligations.CorruptFramesAreDiscarded : Prop :=
  (∀ (resent : Found), ∀ x ∈ ([Instr.hello, (Instr.sack · · · resent), Instr.collData, Instr.collCtrl, Instr.remoteMsg, Instr.mirrorFrame,
      Instr.snapshotFrame, Instr.spoolFrame, Instr.fstepFrame, Instr.snapReq] : List (Fin 4 → Frame → Found → Instr)),
    ∀ (s : State) (n : Fin 4) (f : Frame) (ecc : Found), s.portThere n.val f.port.val = true →
      s.fld (LNK_PORT_STATUS_UP n.val f.port.val) ≠ 0 → f.crcOk = false →
      exec (x n f ecc) s = .next ((s.freshWord.2.addFld (LNK_PORT_STATUS_CRC_ERR n.val f.port.val) 1).addFld
        (LNK_PORT_STATUS_FEC_UNCORR n.val f.port.val) (s.freshWord.1.toNat % 2 ^ 16))) ∧
  (∀ (s : State) (n : Fin 4) (f : Frame) (ns : Nat) (ecc : Found),
    let u := s.runAligned (min ns (s.nextBoundary - s.now))
    u.portThere n.val f.port.val = true → u.fld (LNK_PORT_STATUS_UP n.val f.port.val) ≠ 0 → f.crcOk = false →
    exec (.timeFrame n f ns ecc) s = .next ((u.freshWord.2.addFld (LNK_PORT_STATUS_CRC_ERR n.val f.port.val) 1).addFld
      (LNK_PORT_STATUS_FEC_UNCORR n.val f.port.val) (u.freshWord.1.toNat % 2 ^ 16))) ∧
  ∀ (s : State) (n : Fin 4) (k : Nat) (w : OutFlow) (f : Sent), s.outFlows[k]? = some w → w.die = n.val → f ∈ w.unacked →
    (w.unacked.map (·.seq)).Nodup → (s.peerState w.rank).state = 2 →
    let r := s.resendFrames w (fun x => x.seq == f.seq)
    exec (.retransmitTimer n k f.seq .clean) s = .next (r.1.putOut (some k) (r.2.doubleTimer f.seq)) ∧
    ∀ v, s.wayOut w.die w.flow = some v → ∃ o : LineOut, r.1.outs.line = s.outs.line ++ [o] ∧ (o.die, o.port) = v ∧ o.seq = f.seq ∧
      o.retx = true ∧ o.body = f.body

/-- The debug registers lie in the DBG block; a write that needs a scope not in force is ignored and counted in DENIED (R480). -/
def Obligations.WritesWithoutScopeAreDenied : Prop :=
  (∀ a ∈ [DBG_STATUS, DBG_TRACE_CTRL, DBG_TRACE_BASE, DBG_TRACE_PTR, DBG_HALT, DBG_PEEK_SEL, DBG_PEEK 0, DBG_PEEK 7, DBG_GCNT 0 0, DBG_GCNT 63 13,
      DBG_PCNT 0, DBG_PCNT 13], 0x50_0000 ≤ a ∧ a < 0x60_0000) ∧
  (∀ (s : State) (value : Word), s.phase = .running → bitOf s.scope 1 = false →
    ∃ t, exec (.haltResume value) s = .next t ∧ onlyRegs s t [DBG_STATUS] ∧
      (s.fld DBG_STATUS_DENIED < 65535 → t.fld DBG_STATUS_DENIED = s.fld DBG_STATUS_DENIED + 1)) ∧
  ∀ (s : State) (value : Word), s.phase = .running → bitOf s.scope 2 = false →
    ∃ t, exec (.traceEnable value) s = .next t ∧ onlyRegs s t [DBG_STATUS] ∧
      (s.fld DBG_STATUS_DENIED < 65535 → t.fld DBG_STATUS_DENIED = s.fld DBG_STATUS_DENIED + 1)

/-- Error records enter the log (R414, R415, R418, R419): entry SEQUENCE mod 1,024 takes the record and the other entries stay; the first
FATAL record is kept in CTL_ERR_FATAL and no later one replaces it; and in a unit's handling window an error is recorded one class higher,
a CORRECTED one never. Where the spec leaves a reading open it follows the model's, log entry 54. -/
def Obligations.ErrorRecordsAreLogged : Prop :=
  (∀ (s : State) (unit cls flags : Nat) (i : ErrInfo),
    let e := recordBytes s.now unit cls flags i.code i.dom (leBytes 8 i.handle ++ leBytes 8 i.addr ++ padTo 16 i.syndrome) s.recSeq i.aux
    let t := s.logRecord unit cls flags i
    (∀ w, w < 8 → t.reg (CTL_ERR_LOG (s.recSeq % 1024) w) = word (fieldAt e (8 * w) 8)) ∧
    (∀ j w, j < 1024 → w < 8 → j ≠ s.recSeq % 1024 → t.reg (CTL_ERR_LOG j w) = s.reg (CTL_ERR_LOG j w)) ∧
    (∀ w, w < 8 → s.fld CTL_ERR_STATUS_FATAL_VALID = 0 → cls = 3 → t.reg (CTL_ERR_FATAL w) = word (fieldAt e (8 * w) 8)) ∧
    (∀ w, w < 8 → s.fld CTL_ERR_STATUS_FATAL_VALID = 1 → t.reg (CTL_ERR_FATAL w) = s.reg (CTL_ERR_FATAL w))) ∧
  (∀ (s : State) (unit cls : Nat), s.windowOpen unit = true → 1 ≤ cls → cls ≤ 2 → s.escalated unit cls = cls + 1) ∧
  (∀ (s : State) (unit cls : Nat), s.windowOpen unit = false → s.escalated unit cls = cls) ∧
  (∀ (s : State) (unit : Nat), s.escalated unit 0 = 0) ∧
  ∀ (s : State) (unit cls : Nat) (i : ErrInfo), s.escalated unit cls = 3 → s.mode = 3 → (s.fault unit cls i).mode = 0xF
end

