-- ==== Sys2Proof/Laws/Store.lean ====
section
/-!
SUPPORT. Laws of sparse stores: what is found after a change, and that every change keeps the canonical form.
-/
namespace Sys2Proof.Laws

open Sys2Proof.Machine

variable {α : Type}

/-! ## What is found -/

@[simp] theorem smapFind_nil (k : Nat) : smapFind ([] : SMap α) k = none := rfl

@[simp] theorem smapFind_del_same (m : SMap α) (k : Nat) : smapFind (smapDel m k) k = none := by
  induction m with
  | nil => rfl
  | cons e m ih =>
    obtain ⟨j, v⟩ := e
    by_cases h : j = k
    · simpa [smapDel, h] using ih
    · simpa [smapDel, smapFind, h] using ih

theorem smapFind_del_ne (m : SMap α) {k j : Nat} (h : j ≠ k) : smapFind (smapDel m k) j = smapFind m j := by
  induction m with
  | nil => rfl
  | cons e m ih =>
    obtain ⟨i, v⟩ := e
    by_cases hi : i = k
    · have hij : i ≠ j := by omega
      simp only [smapDel, smapFind, if_pos hi, if_neg hij]
      exact ih
    · simp only [smapDel, smapFind, if_neg hi]
      rw [ih]

@[simp] theorem smapFind_ins_same (m : SMap α) (k : Nat) (v : α) : smapFind (smapIns m k v) k = some v := by
  induction m with
  | nil => simp [smapIns, smapFind]
  | cons e m ih =>
    obtain ⟨j, w⟩ := e
    rcases Nat.lt_trichotomy k j with h | h | h
    · simp [smapIns, smapFind, h]
    · simp [smapIns, smapFind, h]
    · have h1 : ¬ k < j := by omega
      have h2 : ¬ k = j := by omega
      have h3 : ¬ j = k := by omega
      simpa [smapIns, smapFind, h1, h2, h3] using ih

theorem smapFind_ins_ne (m : SMap α) {k j : Nat} (v : α) (h : j ≠ k) : smapFind (smapIns m k v) j = smapFind m j := by
  have hk : ¬ k = j := by omega
  induction m with
  | nil => simp [smapIns, smapFind, hk]
  | cons e m ih =>
    obtain ⟨i, w⟩ := e
    rcases Nat.lt_trichotomy k i with hi | hi | hi
    · simp [smapIns, smapFind, hi, hk]
    · subst hi
      simp [smapIns, smapFind, hk]
    · have h1 : ¬ k < i := by omega
      have h2 : ¬ k = i := by omega
      simp only [smapIns, if_neg h1, if_neg h2, smapFind]
      rw [ih]

/-- After a write, the entry reads as the value, whether it is listed or left to the default. -/
theorem smapFind_put_same [DecidableEq α] (d : Nat → α) (m : SMap α) (k : Nat) (v : α) :
    (smapFind (smapPut (fun i => some (d i)) m k v) k).getD (d k) = v := by
  unfold smapPut
  split
  · next h => simpa using h
  · simp

/-- A write leaves every other key alone. -/
theorem smapFind_put_ne [DecidableEq α] (dflt : Nat → Option α) (m : SMap α) {k j : Nat} (v : α) (h : j ≠ k) :
    smapFind (smapPut dflt m k v) j = smapFind m j := by
  unfold smapPut
  split
  · exact smapFind_del_ne m h
  · exact smapFind_ins_ne m v h

/-- What a range dropped from a store holds: nothing within the range, the same outside. -/
theorem smapFind_drop (m : SMap α) (lo n k : Nat) :
    smapFind (smapDrop m lo n) k = if lo ≤ k ∧ k < lo + n then none else smapFind m k := by
  induction m with
  | nil => simp [smapDrop, smapFind]
  | cons e m ih =>
    obtain ⟨j, v⟩ := e
    unfold smapDrop at ih ⊢
    by_cases hj : lo ≤ j ∧ j < lo + n
    · rw [List.filter_cons_of_neg (by simpa using hj), ih]
      by_cases hk : lo ≤ k ∧ k < lo + n
      · simp [hk]
      · have : ¬ j = k := by rintro rfl; exact hk hj
        simp [hk, smapFind, this]
    · rw [List.filter_cons_of_pos (by exact decide_eq_true hj)]
      by_cases hjk : j = k
      · subst hjk
        simp [smapFind, hj]
      · simp only [smapFind, if_neg hjk]
        exact ih

/-! ## The canonical form -/

variable [DecidableEq α]

/-- The canonical form above a bound holds above every smaller bound. -/
theorem smapWfAbove_mono (dflt : Nat → Option α) (m : SMap α) {a b : Nat} (h : a ≤ b)
    (hm : smapWfAbove dflt b m = true) : smapWfAbove dflt a m = true := by
  cases m with
  | nil => rfl
  | cons e m =>
    obtain ⟨k, v⟩ := e
    simp only [smapWfAbove, Bool.and_eq_true, decide_eq_true_eq] at hm ⊢
    exact ⟨⟨by omega, hm.1.2⟩, hm.2⟩

theorem smapWfAbove_del (dflt : Nat → Option α) (k : Nat) (m : SMap α) :
    ∀ lo, smapWfAbove dflt lo m = true → smapWfAbove dflt lo (smapDel m k) = true := by
  induction m with
  | nil => intro lo h; exact h
  | cons e m ih =>
    obtain ⟨j, v⟩ := e
    intro lo h
    simp only [smapWfAbove, Bool.and_eq_true, decide_eq_true_eq] at h
    by_cases hj : j = k
    · simp only [smapDel, if_pos hj]
      exact smapWfAbove_mono dflt _ (by omega) (ih (j + 1) h.2)
    · simp only [smapDel, if_neg hj, smapWfAbove, Bool.and_eq_true, decide_eq_true_eq]
      exact ⟨h.1, ih (j + 1) h.2⟩

theorem smapWfAbove_ins (dflt : Nat → Option α) (k : Nat) (v : α) (hv : dflt k ≠ some v) (m : SMap α) :
    ∀ lo, lo ≤ k → smapWfAbove dflt lo m = true → smapWfAbove dflt lo (smapIns m k v) = true := by
  induction m with
  | nil => intro lo hlo _; simp [smapIns, smapWfAbove, hlo, hv]
  | cons e m ih =>
    obtain ⟨j, w⟩ := e
    intro lo hlo h
    simp only [smapWfAbove, Bool.and_eq_true, decide_eq_true_eq] at h
    rcases Nat.lt_trichotomy k j with hk | hk | hk
    · simp only [smapIns, if_pos hk, smapWfAbove, Bool.and_eq_true, decide_eq_true_eq]
      exact ⟨⟨hlo, hv⟩, ⟨by omega, h.1.2⟩, h.2⟩
    · subst hk
      simp only [smapIns, lt_irrefl, if_false, if_true, smapWfAbove, Bool.and_eq_true, decide_eq_true_eq]
      exact ⟨⟨hlo, hv⟩, h.2⟩
    · have h1 : ¬ k < j := by omega
      have h2 : ¬ k = j := by omega
      simp only [smapIns, if_neg h1, if_neg h2, smapWfAbove, Bool.and_eq_true, decide_eq_true_eq]
      exact ⟨h.1, ih (j + 1) (by omega) h.2⟩

/-- A write keeps the canonical form. -/
theorem smapWf_put (dflt : Nat → Option α) (m : SMap α) (k : Nat) (v : α) (h : smapWf dflt m = true) :
    smapWf dflt (smapPut dflt m k v) = true := by
  unfold smapPut
  split
  · exact smapWfAbove_del dflt k m 0 h
  · next hv => exact smapWfAbove_ins dflt k v hv m 0 (Nat.zero_le k) h

/-- A range dropped leaves the canonical form. -/
theorem smapWfAbove_drop (dflt : Nat → Option α) (a n : Nat) (m : SMap α) :
    ∀ lo, smapWfAbove dflt lo m = true → smapWfAbove dflt lo (smapDrop m a n) = true := by
  unfold smapDrop
  induction m with
  | nil => intro lo h; exact h
  | cons e m ih =>
    obtain ⟨j, v⟩ := e
    intro lo h
    simp only [smapWfAbove, Bool.and_eq_true, decide_eq_true_eq] at h
    by_cases hj : a ≤ j ∧ j < a + n
    · rw [List.filter_cons_of_neg (by simpa using hj)]
      exact smapWfAbove_mono dflt _ (by omega) (ih (j + 1) h.2)
    · rw [List.filter_cons_of_pos (by exact decide_eq_true hj)]
      simp only [smapWfAbove, Bool.and_eq_true, decide_eq_true_eq]
      exact ⟨h.1, ih (j + 1) h.2⟩

theorem smapWf_drop (dflt : Nat → Option α) (a n : Nat) (m : SMap α) (h : smapWf dflt m = true) :
    smapWf dflt (smapDrop m a n) = true := smapWfAbove_drop dflt a n m 0 h

/-- The canonical form depends on the default of the listed keys only. -/
theorem smapWfAbove_congr (f g : Nat → Option α) (m : SMap α) :
    ∀ lo, (∀ e ∈ m, f e.1 = g e.1) → smapWfAbove f lo m = smapWfAbove g lo m := by
  induction m with
  | nil => intro lo _; rfl
  | cons e m ih =>
    obtain ⟨j, v⟩ := e
    intro lo h
    have h1 := h (j, v) (by simp)
    have h2 := ih (j + 1) (fun e he => h e (by simp [he]))
    simp only at h1
    simp [smapWfAbove, h1, h2]

end Sys2Proof.Laws
end

