-- ==== Sys2Proof/Laws/Fields.lean ====
section
/-!
SUPPORT. Laws of bit fields and of registers: a register reads as what was written, a field as what was set, and every other register
and field stays.
-/
namespace Sys2Proof.Laws

open Sys2Proof.Machine

/-! ## Bit ranges -/

theorem testBit_bitsOf (v lo w i : Nat) : (bitsOf v lo w).testBit i = (decide (i < w) && v.testBit (lo + i)) := by
  simp [bitsOf, Nat.testBit_mod_two_pow, Nat.testBit_div_two_pow, Nat.add_comm]

theorem setBits_eq (v lo w x : Nat) :
    setBits v lo w x = 2 ^ lo * (2 ^ w * (v / 2 ^ (lo + w)) + x % 2 ^ w) + v % 2 ^ lo := by
  unfold setBits
  rw [Nat.pow_add]
  ring

theorem testBit_setBits (v lo w x i : Nat) : (setBits v lo w x).testBit i =
    if i < lo then v.testBit i else if i < lo + w then x.testBit (i - lo) else v.testBit i := by
  rw [setBits_eq, Nat.testBit_two_pow_mul_add _ (Nat.mod_lt _ (Nat.two_pow_pos lo))]
  by_cases h : i < lo
  · simp [h, Nat.testBit_mod_two_pow]
  · rw [if_neg h, if_neg h, Nat.testBit_two_pow_mul_add _ (Nat.mod_lt _ (Nat.two_pow_pos w))]
    by_cases h2 : i < lo + w
    · have h3 : i - lo < w := by omega
      simp [h2, h3, Nat.testBit_mod_two_pow]
    · have h3 : ¬ i - lo < w := by omega
      rw [if_neg h2, if_neg h3, Nat.testBit_div_two_pow]
      congr 1
      omega

theorem bitsOf_lt (v lo w : Nat) : bitsOf v lo w < 2 ^ w := Nat.mod_lt _ (Nat.two_pow_pos w)

/-- The range that was set. -/
theorem bitsOf_setBits_same (v lo w x : Nat) : bitsOf (setBits v lo w x) lo w = x % 2 ^ w := by
  apply Nat.eq_of_testBit_eq
  intro i
  rw [testBit_bitsOf, testBit_setBits, Nat.testBit_mod_two_pow]
  by_cases h : i < w
  · have h1 : ¬ lo + i < lo := by omega
    have h2 : lo + i < lo + w := by omega
    simp [h]
  · simp [h]

/-- A range apart from the one that was set. -/
theorem bitsOf_setBits_apart (v lo w x lo' w' : Nat) (h : lo' + w' ≤ lo ∨ lo + w ≤ lo') :
    bitsOf (setBits v lo w x) lo' w' = bitsOf v lo' w' := by
  apply Nat.eq_of_testBit_eq
  intro i
  rw [testBit_bitsOf, testBit_bitsOf, testBit_setBits]
  by_cases hi : i < w'
  · rcases h with h | h
    · have h1 : lo' + i < lo := by omega
      simp [h1]
    · have h1 : ¬ lo' + i < lo := by omega
      have h2 : ¬ lo' + i < lo + w := by omega
      simp [h1, h2]
  · simp [hi]

theorem bitsOf_mod (v lo w n : Nat) (h : lo + w ≤ n) : bitsOf (v % 2 ^ n) lo w = bitsOf v lo w := by
  apply Nat.eq_of_testBit_eq
  intro i
  rw [testBit_bitsOf, testBit_bitsOf, Nat.testBit_mod_two_pow]
  by_cases hi : i < w
  · have : lo + i < n := by omega
    simp [this]
  · simp [hi]

@[simp] theorem word_toNat (n : Nat) : (word n).toNat = n % 2 ^ 64 := by simp [word]

@[simp] theorem word_of_toNat (w : Word) : word w.toNat = w := by simp [word]

/-! ## Registers -/

@[simp] theorem reg_setReg_same (s : State) (a : Nat) (v : Word) : (s.setReg a v).reg a = v :=
  smapFind_put_same regReset s.regs a v

theorem reg_setReg_ne (s : State) {a b : Nat} (v : Word) (h : b ≠ a) : (s.setReg a v).reg b = s.reg b := by
  unfold State.reg State.setReg
  rw [smapFind_put_ne _ _ _ h]

@[simp] theorem reg_setFld_ne (s : State) (f : Fld) (v : Nat) {b : Nat} (h : b ≠ f.reg) : (s.setFld f v).reg b = s.reg b :=
  reg_setReg_ne s _ h

/-- Registers within a reset range read their reset values, the others stay. -/
theorem reg_resetRegRange (s : State) (lo n a : Nat) :
    (s.resetRegRange lo n).reg a = if lo ≤ a ∧ a < lo + n then regReset a else s.reg a := by
  unfold State.reg State.resetRegRange
  rw [smapFind_drop]
  split <;> simp

/-- A field reads as what it was set to, mod its width. -/
theorem fld_setFld_same (s : State) (f : Fld) (v : Nat) (h : f.lo + f.width ≤ 64) :
    (s.setFld f v).fld f = v % 2 ^ f.width := by
  unfold State.fld State.setFld
  rw [reg_setReg_same, word_toNat, bitsOf_mod _ _ _ _ h, bitsOf_setBits_same]

/-- A field of another register stays. -/
theorem fld_setFld_reg (s : State) {f g : Fld} (v : Nat) (h : g.reg ≠ f.reg) : (s.setFld f v).fld g = s.fld g := by
  unfold State.fld
  rw [reg_setFld_ne s f v h]

/-- A field of the same register, apart from the one that was set, stays. -/
theorem fld_setFld_apart (s : State) {f g : Fld} (v : Nat) (hr : g.reg = f.reg) (hg : g.lo + g.width ≤ 64)
    (h : g.lo + g.width ≤ f.lo ∨ f.lo + f.width ≤ g.lo) : (s.setFld f v).fld g = s.fld g := by
  unfold State.fld State.setFld
  rw [hr, reg_setReg_same, word_toNat, bitsOf_mod _ _ _ _ hg, bitsOf_setBits_apart _ _ _ _ _ _ h]

/-- Two fields that share no bit of a register. -/
def apart (f g : Fld) : Bool :=
  decide (g.reg ≠ f.reg) || (decide (g.lo + g.width ≤ 64) && (decide (g.lo + g.width ≤ f.lo) || decide (f.lo + f.width ≤ g.lo)))

theorem fld_setFld_of_apart (s : State) {f g : Fld} (v : Nat) (h : apart f g = true) : (s.setFld f v).fld g = s.fld g := by
  by_cases hr : g.reg = f.reg
  · simp [apart, hr] at h
    exact fld_setFld_apart s v hr h.1 h.2
  · exact fld_setFld_reg s v hr

theorem fld_setReg_ne (s : State) {a : Nat} {g : Fld} (v : Word) (h : g.reg ≠ a) : (s.setReg a v).fld g = s.fld g := by
  unfold State.fld
  rw [reg_setReg_ne s v h]

/-- A counter counts up to its width's largest value and stays there (R430, R469). -/
theorem fld_addFld_same (s : State) (f : Fld) (n : Nat) (h : f.lo + f.width ≤ 64) :
    (s.addFld f n).fld f = min (2 ^ f.width - 1) (s.fld f + n) := by
  unfold State.addFld
  rw [fld_setFld_same s f _ h]
  have hp := Nat.two_pow_pos f.width
  unfold satTo
  split
  · next hle => rw [Nat.mod_eq_of_lt (by omega), Nat.min_eq_right hle]
  · next hle => rw [Nat.mod_eq_of_lt (by omega), Nat.min_eq_left (by omega)]

theorem fld_addFld_of_apart (s : State) {f g : Fld} (n : Nat) (h : apart f g = true) : (s.addFld f n).fld g = s.fld g :=
  fld_setFld_of_apart s _ h

theorem reg_addFld_ne (s : State) (f : Fld) (n : Nat) {b : Nat} (h : b ≠ f.reg) : (s.addFld f n).reg b = s.reg b :=
  reg_setFld_ne s f _ h

end Sys2Proof.Laws
end

