-- ==== Sys2Proof/Laws/Memory.lean ====
section
/-!
SUPPORT. Laws of memory: what is read after a write, that a write leaves every other place alone, and that every memory operation keeps
the canonical form.
-/
namespace Sys2Proof.Laws

open Sys2Proof.Machine

/-! ## One memory -/

/-- A byte known without being listed reads as that byte. -/
theorem rangeByte_of_known (rs : List Range) (a : Nat) (b : Byte) (h : rangeKnown rs a = some b) : rangeByte rs a = b := by
  induction rs with
  | nil => simpa [rangeKnown, rangeByte] using h
  | cons r rs ih =>
    unfold rangeKnown at h
    unfold rangeByte
    split at h
    · next hr =>
      rw [if_pos hr]
      cases hf : r.fill with
      | zero => simpa [hf] using h
      | free n => simp [hf] at h
    · next hr =>
      rw [if_neg hr]
      exact ih h

/-- A byte reads as it was written. -/
@[simp] theorem memGet_memPut_same (m : Mem) (a : Nat) (b : Byte) : memGet (memPut m a b) a = b := by
  unfold memGet memPut smapPut
  split
  · next h => simpa using rangeByte_of_known m.back a b h
  · simp

/-- A write leaves every other byte alone. -/
theorem memGet_memPut_ne (m : Mem) {a k : Nat} (b : Byte) (h : k ≠ a) : memGet (memPut m a b) k = memGet m k := by
  unfold memGet memPut
  rw [smapFind_put_ne _ _ _ h]

theorem memWf_memPut (m : Mem) (a : Nat) (b : Byte) (h : memWf m = true) : memWf (memPut m a b) = true :=
  smapWf_put _ _ _ _ h

theorem memWf_memWrite (bs : Bytes) : ∀ (m : Mem) (a : Nat), memWf m = true → memWf (memWrite m a bs) = true := by
  induction bs with
  | nil => intro m a h; exact h
  | cons b bs ih => intro m a h; exact ih _ _ (memWf_memPut m a b h)

/-- The bytes outside a written string stay. -/
theorem memGet_memWrite_ne (bs : Bytes) : ∀ (m : Mem) (a k : Nat), (k < a ∨ a + bs.length ≤ k) →
    memGet (memWrite m a bs) k = memGet m k := by
  induction bs with
  | nil => intro m a k _; rfl
  | cons b bs ih =>
    intro m a k h
    simp only [List.length_cons] at h
    unfold memWrite
    rw [ih _ _ _ (by omega), memGet_memPut_ne _ _ (by omega)]

/-- A byte of a written string. -/
theorem memGet_memWrite (bs : Bytes) : ∀ (m : Mem) (a j : Nat) (hj : j < bs.length),
    memGet (memWrite m a bs) (a + j) = bs[j] := by
  induction bs with
  | nil => intro m a j hj; simp at hj
  | cons b bs ih =>
    intro m a j hj
    unfold memWrite
    cases j with
    | zero =>
      rw [memGet_memWrite_ne _ _ _ _ (by omega)]
      simp
    | succ j =>
      have := ih (memPut m a b) (a + 1) j (by simpa using hj)
      rw [show a + (j + 1) = a + 1 + j by omega, this]
      simp

/-- A range set as a whole leaves the bytes outside it. -/
theorem memGet_memFill_ne (m : Mem) (lo len : Nat) (f : Fill) (k : Nat) (h : ¬ (lo ≤ k ∧ k < lo + len)) :
    memGet (memFill m lo len f) k = memGet m k := by
  unfold memGet memFill
  simp only [rangeByte, if_neg h, smapFind_drop]

theorem memWf_memFill (m : Mem) (lo len : Nat) (f : Fill) (h : memWf m = true) : memWf (memFill m lo len f) = true := by
  unfold memWf memFill smapWf
  rw [smapWfAbove_congr _ (rangeKnown m.back)]
  · exact smapWfAbove_drop _ _ _ _ _ h
  · intro e he
    have hk : ¬ (lo ≤ e.1 ∧ e.1 < lo + len) := by
      unfold smapDrop at he
      exact of_decide_eq_true (List.mem_filter.mp he).2
    simp only [rangeKnown, if_neg hk]

/-! ## The module's memory -/

/-- A store changes the memory and nothing else. -/
theorem store_frame (bs : Bytes) : ∀ (s : State) (a : Nat), s.store a bs = { s with mem := (s.store a bs).mem } := by
  induction bs with
  | nil => intro s a; rfl
  | cons b bs ih =>
    intro s a
    unfold State.store
    rw [ih]

theorem physWrite_frame (bs : Bytes) : ∀ (s : State) (a : Nat), s.physWrite a bs = { s with mem := (s.physWrite a bs).mem } := by
  induction bs with
  | nil => intro s a; rfl
  | cons b bs ih =>
    intro s a
    unfold State.physWrite
    split
    · rw [ih]
    · rw [ih]

theorem store_memWf (bs : Bytes) : ∀ (s : State) (a : Nat), memWf s.mem = true → memWf (s.store a bs).mem = true := by
  induction bs with
  | nil => intro s a h; exact h
  | cons b bs ih => intro s a h; exact ih _ _ (memWf_memPut _ _ _ h)

theorem physWrite_memWf (bs : Bytes) : ∀ (s : State) (a : Nat), memWf s.mem = true → memWf (s.physWrite a bs).mem = true := by
  induction bs with
  | nil => intro s a h; exact h
  | cons b bs ih =>
    intro s a h
    unfold State.physWrite
    split
    · exact ih _ _ h
    · exact ih _ _ (memWf_memPut _ _ _ h)

/-- A store leaves the storage behind every other address. -/
theorem store_memGet_ne (bs : Bytes) : ∀ (s : State) (a k : Nat), (∀ j, j < bs.length → k ≠ s.loc (a + j)) →
    memGet (s.store a bs).mem k = memGet s.mem k := by
  induction bs with
  | nil => intro s a k _; rfl
  | cons b bs ih =>
    intro s a k h
    unfold State.store
    rw [ih]
    · exact memGet_memPut_ne _ _ (h 0 (by simp))
    · intro j hj
      rw [show a + 1 + j = a + (j + 1) by omega]
      exact h (j + 1) (by simpa using hj)

theorem physWrite_memGet_ne (bs : Bytes) : ∀ (s : State) (a k : Nat), (∀ j, j < bs.length → k ≠ s.loc (a + j)) →
    memGet (s.physWrite a bs).mem k = memGet s.mem k := by
  induction bs with
  | nil => intro s a k _; rfl
  | cons b bs ih =>
    intro s a k h
    have hrest : ∀ j, j < bs.length → k ≠ s.loc (a + 1 + j) := by
      intro j hj
      rw [show a + 1 + j = a + (j + 1) by omega]
      exact h (j + 1) (by simpa using hj)
    unfold State.physWrite
    split
    · exact ih _ _ _ hrest
    · exact (ih { s with mem := memPut s.mem (s.loc a) b } _ _ hrest).trans (memGet_memPut_ne _ _ (h 0 (by simp)))

end Sys2Proof.Laws
end

