-- ==== Sys2Proof/Laws/State.lean ====
section
/-!
SUPPORT. What the basic updates leave: one law per field per update, so that no proof unfolds a record update.
-/
namespace Sys2Proof.Laws

open Sys2Proof.Machine

section setRegLaws
variable (s : State) (a : Nat) (v : Word)
@[simp] theorem setReg_pending : (s.setReg a v).pending = s.pending := rfl
@[simp] theorem setReg_phase : (s.setReg a v).phase = s.phase := rfl
@[simp] theorem setReg_pwrgood : (s.setReg a v).pwrgood = s.pwrgood := rfl
@[simp] theorem setReg_rstN : (s.setReg a v).rstN = s.rstN := rfl
@[simp] theorem setReg_part : (s.setReg a v).part = s.part := rfl
@[simp] theorem setReg_board : (s.setReg a v).board = s.board := rfl
@[simp] theorem setReg_foundation : (s.setReg a v).foundation = s.foundation := rfl
@[simp] theorem setReg_security : (s.setReg a v).security = s.security := rfl
@[simp] theorem setReg_attempts : (s.setReg a v).attempts = s.attempts := rfl
@[simp] theorem setReg_ascent : (s.setReg a v).ascent = s.ascent := rfl
@[simp] theorem setReg_retryPending : (s.setReg a v).retryPending = s.retryPending := rfl
@[simp] theorem setReg_dies : (s.setReg a v).dies = s.dies := rfl
@[simp] theorem setReg_hbmStacks : (s.setReg a v).hbmStacks = s.hbmStacks := rfl
@[simp] theorem setReg_links : (s.setReg a v).links = s.links := rfl
@[simp] theorem setReg_d2dUp : (s.setReg a v).d2dUp = s.d2dUp := rfl
@[simp] theorem setReg_unusable : (s.setReg a v).unusable = s.unusable := rfl
@[simp] theorem setReg_selfRefresh : (s.setReg a v).selfRefresh = s.selfRefresh := rfl
@[simp] theorem setReg_railPg : (s.setReg a v).railPg = s.railPg := rfl
@[simp] theorem setReg_haltCold : (s.setReg a v).haltCold = s.haltCold := rfl
@[simp] theorem setReg_coldBoot : (s.setReg a v).coldBoot = s.coldBoot := rfl
@[simp] theorem setReg_coldCause : (s.setReg a v).coldCause = s.coldCause := rfl
@[simp] theorem setReg_hbmSet : (s.setReg a v).hbmSet = s.hbmSet := rfl
@[simp] theorem setReg_mem : (s.setReg a v).mem = s.mem := rfl
@[simp] theorem setReg_poison : (s.setReg a v).poison = s.poison := rfl
@[simp] theorem setReg_fresh : (s.setReg a v).fresh = s.fresh := rfl
@[simp] theorem setReg_hbmMap : (s.setReg a v).hbmMap = s.hbmMap := rfl
@[simp] theorem setReg_hbmPrev : (s.setReg a v).hbmPrev = s.hbmPrev := rfl
@[simp] theorem setReg_localNs : (s.setReg a v).localNs = s.localNs := rfl
@[simp] theorem setReg_lastBoundary : (s.setReg a v).lastBoundary = s.lastBoundary := rfl
@[simp] theorem setReg_nextBoundary : (s.setReg a v).nextBoundary = s.nextBoundary := rfl
@[simp] theorem setReg_slew : (s.setReg a v).slew = s.slew := rfl
@[simp] theorem setReg_slewAt : (s.setReg a v).slewAt = s.slewAt := rfl
@[simp] theorem setReg_aligned : (s.setReg a v).aligned = s.aligned := rfl
@[simp] theorem setReg_freq : (s.setReg a v).freq = s.freq := rfl
@[simp] theorem setReg_timeMaster : (s.setReg a v).timeMaster = s.timeMaster := rfl
@[simp] theorem setReg_measure : (s.setReg a v).measure = s.measure := rfl
@[simp] theorem setReg_measureBy : (s.setReg a v).measureBy = s.measureBy := rfl
@[simp] theorem setReg_stagedLen : (s.setReg a v).stagedLen = s.stagedLen := rfl
@[simp] theorem setReg_stageBy : (s.setReg a v).stageBy = s.stageBy := rfl
@[simp] theorem setReg_validateBy : (s.setReg a v).validateBy = s.validateBy := rfl
@[simp] theorem setReg_commit : (s.setReg a v).commit = s.commit := rfl
@[simp] theorem setReg_image : (s.setReg a v).image = s.image := rfl
@[simp] theorem setReg_shadows : (s.setReg a v).shadows = s.shadows := rfl
@[simp] theorem setReg_sealing : (s.setReg a v).sealing = s.sealing := rfl
@[simp] theorem setReg_hostMsgs : (s.setReg a v).hostMsgs = s.hostMsgs := rfl
@[simp] theorem setReg_queues : (s.setReg a v).queues = s.queues := rfl
@[simp] theorem setReg_cmds : (s.setReg a v).cmds = s.cmds := rfl
@[simp] theorem setReg_outs : (s.setReg a v).outs = s.outs := rfl
@[simp] theorem setReg_recSeq : (s.setReg a v).recSeq = s.recSeq := rfl
@[simp] theorem setReg_ringUnread : (s.setReg a v).ringUnread = s.ringUnread := rfl
@[simp] theorem setReg_ringWritten : (s.setReg a v).ringWritten = s.ringWritten := rfl
@[simp] theorem setReg_ringGap : (s.setReg a v).ringGap = s.ringGap := rfl
@[simp] theorem setReg_windows : (s.setReg a v).windows = s.windows := rfl
@[simp] theorem setReg_onceTick : (s.setReg a v).onceTick = s.onceTick := rfl
@[simp] theorem setReg_counts : (s.setReg a v).counts = s.counts := rfl
@[simp] theorem setReg_tiles : (s.setReg a v).tiles = s.tiles := rfl
@[simp] theorem setReg_doms : (s.setReg a v).doms = s.doms := rfl
@[simp] theorem setReg_net : (s.setReg a v).net = s.net := rfl
@[simp] theorem setReg_kvp : (s.setReg a v).kvp = s.kvp := rfl
@[simp] theorem setReg_stash : (s.setReg a v).stash = s.stash := rfl
@[simp] theorem setReg_rests : (s.setReg a v).rests = s.rests := rfl
@[simp] theorem setReg_regShadows : (s.setReg a v).regShadows = s.regShadows := rfl
@[simp] theorem setReg_hbmSeen : (s.setReg a v).hbmSeen = s.hbmSeen := rfl
@[simp] theorem setReg_hbmTick : (s.setReg a v).hbmTick = s.hbmTick := rfl
@[simp] theorem setReg_hbmLast : (s.setReg a v).hbmLast = s.hbmLast := rfl
@[simp] theorem setReg_hot : (s.setReg a v).hot = s.hot := rfl
@[simp] theorem setReg_scrubAt : (s.setReg a v).scrubAt = s.scrubAt := rfl
@[simp] theorem setReg_arbs : (s.setReg a v).arbs = s.arbs := rfl
@[simp] theorem setReg_replays : (s.setReg a v).replays = s.replays := rfl
@[simp] theorem setReg_risk : (s.setReg a v).risk = s.risk := rfl
@[simp] theorem setReg_riskAt : (s.setReg a v).riskAt = s.riskAt := rfl
@[simp] theorem setReg_intake : (s.setReg a v).intake = s.intake := rfl
@[simp] theorem setReg_peers : (s.setReg a v).peers = s.peers := rfl
@[simp] theorem setReg_outFlows : (s.setReg a v).outFlows = s.outFlows := rfl
@[simp] theorem setReg_inFlows : (s.setReg a v).inFlows = s.inFlows := rfl
@[simp] theorem setReg_retrains : (s.setReg a v).retrains = s.retrains := rfl
@[simp] theorem setReg_colls : (s.setReg a v).colls = s.colls := rfl
@[simp] theorem setReg_tails : (s.setReg a v).tails = s.tails := rfl
@[simp] theorem setReg_tailNotes : (s.setReg a v).tailNotes = s.tailNotes := rfl
@[simp] theorem setReg_spoolRing : (s.setReg a v).spoolRing = s.spoolRing := rfl
@[simp] theorem setReg_survival : (s.setReg a v).survival = s.survival := rfl
@[simp] theorem setReg_power : (s.setReg a v).power = s.power := rfl
@[simp] theorem setReg_facility : (s.setReg a v).facility = s.facility := rfl
@[simp] theorem setReg_dbg : (s.setReg a v).dbg = s.dbg := rfl
end setRegLaws

section setFldLaws
variable (s : State) (f : Fld) (v : Nat)
@[simp] theorem setFld_pending : (s.setFld f v).pending = s.pending := rfl
@[simp] theorem setFld_phase : (s.setFld f v).phase = s.phase := rfl
@[simp] theorem setFld_pwrgood : (s.setFld f v).pwrgood = s.pwrgood := rfl
@[simp] theorem setFld_rstN : (s.setFld f v).rstN = s.rstN := rfl
@[simp] theorem setFld_part : (s.setFld f v).part = s.part := rfl
@[simp] theorem setFld_board : (s.setFld f v).board = s.board := rfl
@[simp] theorem setFld_foundation : (s.setFld f v).foundation = s.foundation := rfl
@[simp] theorem setFld_security : (s.setFld f v).security = s.security := rfl
@[simp] theorem setFld_attempts : (s.setFld f v).attempts = s.attempts := rfl
@[simp] theorem setFld_ascent : (s.setFld f v).ascent = s.ascent := rfl
@[simp] theorem setFld_retryPending : (s.setFld f v).retryPending = s.retryPending := rfl
@[simp] theorem setFld_dies : (s.setFld f v).dies = s.dies := rfl
@[simp] theorem setFld_hbmStacks : (s.setFld f v).hbmStacks = s.hbmStacks := rfl
@[simp] theorem setFld_links : (s.setFld f v).links = s.links := rfl
@[simp] theorem setFld_d2dUp : (s.setFld f v).d2dUp = s.d2dUp := rfl
@[simp] theorem setFld_unusable : (s.setFld f v).unusable = s.unusable := rfl
@[simp] theorem setFld_selfRefresh : (s.setFld f v).selfRefresh = s.selfRefresh := rfl
@[simp] theorem setFld_railPg : (s.setFld f v).railPg = s.railPg := rfl
@[simp] theorem setFld_haltCold : (s.setFld f v).haltCold = s.haltCold := rfl
@[simp] theorem setFld_coldBoot : (s.setFld f v).coldBoot = s.coldBoot := rfl
@[simp] theorem setFld_coldCause : (s.setFld f v).coldCause = s.coldCause := rfl
@[simp] theorem setFld_hbmSet : (s.setFld f v).hbmSet = s.hbmSet := rfl
@[simp] theorem setFld_mem : (s.setFld f v).mem = s.mem := rfl
@[simp] theorem setFld_poison : (s.setFld f v).poison = s.poison := rfl
@[simp] theorem setFld_fresh : (s.setFld f v).fresh = s.fresh := rfl
@[simp] theorem setFld_hbmMap : (s.setFld f v).hbmMap = s.hbmMap := rfl
@[simp] theorem setFld_hbmPrev : (s.setFld f v).hbmPrev = s.hbmPrev := rfl
@[simp] theorem setFld_localNs : (s.setFld f v).localNs = s.localNs := rfl
@[simp] theorem setFld_lastBoundary : (s.setFld f v).lastBoundary = s.lastBoundary := rfl
@[simp] theorem setFld_nextBoundary : (s.setFld f v).nextBoundary = s.nextBoundary := rfl
@[simp] theorem setFld_slew : (s.setFld f v).slew = s.slew := rfl
@[simp] theorem setFld_slewAt : (s.setFld f v).slewAt = s.slewAt := rfl
@[simp] theorem setFld_aligned : (s.setFld f v).aligned = s.aligned := rfl
@[simp] theorem setFld_freq : (s.setFld f v).freq = s.freq := rfl
@[simp] theorem setFld_timeMaster : (s.setFld f v).timeMaster = s.timeMaster := rfl
@[simp] theorem setFld_measure : (s.setFld f v).measure = s.measure := rfl
@[simp] theorem setFld_measureBy : (s.setFld f v).measureBy = s.measureBy := rfl
@[simp] theorem setFld_stagedLen : (s.setFld f v).stagedLen = s.stagedLen := rfl
@[simp] theorem setFld_stageBy : (s.setFld f v).stageBy = s.stageBy := rfl
@[simp] theorem setFld_validateBy : (s.setFld f v).validateBy = s.validateBy := rfl
@[simp] theorem setFld_commit : (s.setFld f v).commit = s.commit := rfl
@[simp] theorem setFld_image : (s.setFld f v).image = s.image := rfl
@[simp] theorem setFld_shadows : (s.setFld f v).shadows = s.shadows := rfl
@[simp] theorem setFld_sealing : (s.setFld f v).sealing = s.sealing := rfl
@[simp] theorem setFld_hostMsgs : (s.setFld f v).hostMsgs = s.hostMsgs := rfl
@[simp] theorem setFld_queues : (s.setFld f v).queues = s.queues := rfl
@[simp] theorem setFld_cmds : (s.setFld f v).cmds = s.cmds := rfl
@[simp] theorem setFld_outs : (s.setFld f v).outs = s.outs := rfl
@[simp] theorem setFld_recSeq : (s.setFld f v).recSeq = s.recSeq := rfl
@[simp] theorem setFld_ringUnread : (s.setFld f v).ringUnread = s.ringUnread := rfl
@[simp] theorem setFld_ringWritten : (s.setFld f v).ringWritten = s.ringWritten := rfl
@[simp] theorem setFld_ringGap : (s.setFld f v).ringGap = s.ringGap := rfl
@[simp] theorem setFld_windows : (s.setFld f v).windows = s.windows := rfl
@[simp] theorem setFld_onceTick : (s.setFld f v).onceTick = s.onceTick := rfl
@[simp] theorem setFld_counts : (s.setFld f v).counts = s.counts := rfl
@[simp] theorem setFld_tiles : (s.setFld f v).tiles = s.tiles := rfl
@[simp] theorem setFld_doms : (s.setFld f v).doms = s.doms := rfl
@[simp] theorem setFld_net : (s.setFld f v).net = s.net := rfl
@[simp] theorem setFld_kvp : (s.setFld f v).kvp = s.kvp := rfl
@[simp] theorem setFld_stash : (s.setFld f v).stash = s.stash := rfl
@[simp] theorem setFld_rests : (s.setFld f v).rests = s.rests := rfl
@[simp] theorem setFld_regShadows : (s.setFld f v).regShadows = s.regShadows := rfl
@[simp] theorem setFld_hbmSeen : (s.setFld f v).hbmSeen = s.hbmSeen := rfl
@[simp] theorem setFld_hbmTick : (s.setFld f v).hbmTick = s.hbmTick := rfl
@[simp] theorem setFld_hbmLast : (s.setFld f v).hbmLast = s.hbmLast := rfl
@[simp] theorem setFld_hot : (s.setFld f v).hot = s.hot := rfl
@[simp] theorem setFld_scrubAt : (s.setFld f v).scrubAt = s.scrubAt := rfl
@[simp] theorem setFld_arbs : (s.setFld f v).arbs = s.arbs := rfl
@[simp] theorem setFld_replays : (s.setFld f v).replays = s.replays := rfl
@[simp] theorem setFld_risk : (s.setFld f v).risk = s.risk := rfl
@[simp] theorem setFld_riskAt : (s.setFld f v).riskAt = s.riskAt := rfl
@[simp] theorem setFld_intake : (s.setFld f v).intake = s.intake := rfl
@[simp] theorem setFld_peers : (s.setFld f v).peers = s.peers := rfl
@[simp] theorem setFld_outFlows : (s.setFld f v).outFlows = s.outFlows := rfl
@[simp] theorem setFld_inFlows : (s.setFld f v).inFlows = s.inFlows := rfl
@[simp] theorem setFld_retrains : (s.setFld f v).retrains = s.retrains := rfl
@[simp] theorem setFld_colls : (s.setFld f v).colls = s.colls := rfl
@[simp] theorem setFld_tails : (s.setFld f v).tails = s.tails := rfl
@[simp] theorem setFld_tailNotes : (s.setFld f v).tailNotes = s.tailNotes := rfl
@[simp] theorem setFld_spoolRing : (s.setFld f v).spoolRing = s.spoolRing := rfl
@[simp] theorem setFld_survival : (s.setFld f v).survival = s.survival := rfl
@[simp] theorem setFld_power : (s.setFld f v).power = s.power := rfl
@[simp] theorem setFld_facility : (s.setFld f v).facility = s.facility := rfl
@[simp] theorem setFld_dbg : (s.setFld f v).dbg = s.dbg := rfl
end setFldLaws

section addFldLaws
variable (s : State) (f : Fld) (n : Nat)
@[simp] theorem addFld_pending : (s.addFld f n).pending = s.pending := rfl
@[simp] theorem addFld_phase : (s.addFld f n).phase = s.phase := rfl
@[simp] theorem addFld_pwrgood : (s.addFld f n).pwrgood = s.pwrgood := rfl
@[simp] theorem addFld_rstN : (s.addFld f n).rstN = s.rstN := rfl
@[simp] theorem addFld_part : (s.addFld f n).part = s.part := rfl
@[simp] theorem addFld_board : (s.addFld f n).board = s.board := rfl
@[simp] theorem addFld_foundation : (s.addFld f n).foundation = s.foundation := rfl
@[simp] theorem addFld_security : (s.addFld f n).security = s.security := rfl
@[simp] theorem addFld_attempts : (s.addFld f n).attempts = s.attempts := rfl
@[simp] theorem addFld_ascent : (s.addFld f n).ascent = s.ascent := rfl
@[simp] theorem addFld_retryPending : (s.addFld f n).retryPending = s.retryPending := rfl
@[simp] theorem addFld_dies : (s.addFld f n).dies = s.dies := rfl
@[simp] theorem addFld_hbmStacks : (s.addFld f n).hbmStacks = s.hbmStacks := rfl
@[simp] theorem addFld_links : (s.addFld f n).links = s.links := rfl
@[simp] theorem addFld_d2dUp : (s.addFld f n).d2dUp = s.d2dUp := rfl
@[simp] theorem addFld_unusable : (s.addFld f n).unusable = s.unusable := rfl
@[simp] theorem addFld_selfRefresh : (s.addFld f n).selfRefresh = s.selfRefresh := rfl
@[simp] theorem addFld_railPg : (s.addFld f n).railPg = s.railPg := rfl
@[simp] theorem addFld_haltCold : (s.addFld f n).haltCold = s.haltCold := rfl
@[simp] theorem addFld_coldBoot : (s.addFld f n).coldBoot = s.coldBoot := rfl
@[simp] theorem addFld_coldCause : (s.addFld f n).coldCause = s.coldCause := rfl
@[simp] theorem addFld_hbmSet : (s.addFld f n).hbmSet = s.hbmSet := rfl
@[simp] theorem addFld_mem : (s.addFld f n).mem = s.mem := rfl
@[simp] theorem addFld_poison : (s.addFld f n).poison = s.poison := rfl
@[simp] theorem addFld_fresh : (s.addFld f n).fresh = s.fresh := rfl
@[simp] theorem addFld_hbmMap : (s.addFld f n).hbmMap = s.hbmMap := rfl
@[simp] theorem addFld_hbmPrev : (s.addFld f n).hbmPrev = s.hbmPrev := rfl
@[simp] theorem addFld_localNs : (s.addFld f n).localNs = s.localNs := rfl
@[simp] theorem addFld_lastBoundary : (s.addFld f n).lastBoundary = s.lastBoundary := rfl
@[simp] theorem addFld_nextBoundary : (s.addFld f n).nextBoundary = s.nextBoundary := rfl
@[simp] theorem addFld_slew : (s.addFld f n).slew = s.slew := rfl
@[simp] theorem addFld_slewAt : (s.addFld f n).slewAt = s.slewAt := rfl
@[simp] theorem addFld_aligned : (s.addFld f n).aligned = s.aligned := rfl
@[simp] theorem addFld_freq : (s.addFld f n).freq = s.freq := rfl
@[simp] theorem addFld_timeMaster : (s.addFld f n).timeMaster = s.timeMaster := rfl
@[simp] theorem addFld_measure : (s.addFld f n).measure = s.measure := rfl
@[simp] theorem addFld_measureBy : (s.addFld f n).measureBy = s.measureBy := rfl
@[simp] theorem addFld_stagedLen : (s.addFld f n).stagedLen = s.stagedLen := rfl
@[simp] theorem addFld_stageBy : (s.addFld f n).stageBy = s.stageBy := rfl
@[simp] theorem addFld_validateBy : (s.addFld f n).validateBy = s.validateBy := rfl
@[simp] theorem addFld_commit : (s.addFld f n).commit = s.commit := rfl
@[simp] theorem addFld_image : (s.addFld f n).image = s.image := rfl
@[simp] theorem addFld_shadows : (s.addFld f n).shadows = s.shadows := rfl
@[simp] theorem addFld_sealing : (s.addFld f n).sealing = s.sealing := rfl
@[simp] theorem addFld_hostMsgs : (s.addFld f n).hostMsgs = s.hostMsgs := rfl
@[simp] theorem addFld_queues : (s.addFld f n).queues = s.queues := rfl
@[simp] theorem addFld_cmds : (s.addFld f n).cmds = s.cmds := rfl
@[simp] theorem addFld_outs : (s.addFld f n).outs = s.outs := rfl
@[simp] theorem addFld_recSeq : (s.addFld f n).recSeq = s.recSeq := rfl
@[simp] theorem addFld_ringUnread : (s.addFld f n).ringUnread = s.ringUnread := rfl
@[simp] theorem addFld_ringWritten : (s.addFld f n).ringWritten = s.ringWritten := rfl
@[simp] theorem addFld_ringGap : (s.addFld f n).ringGap = s.ringGap := rfl
@[simp] theorem addFld_windows : (s.addFld f n).windows = s.windows := rfl
@[simp] theorem addFld_onceTick : (s.addFld f n).onceTick = s.onceTick := rfl
@[simp] theorem addFld_counts : (s.addFld f n).counts = s.counts := rfl
@[simp] theorem addFld_tiles : (s.addFld f n).tiles = s.tiles := rfl
@[simp] theorem addFld_doms : (s.addFld f n).doms = s.doms := rfl
@[simp] theorem addFld_net : (s.addFld f n).net = s.net := rfl
@[simp] theorem addFld_kvp : (s.addFld f n).kvp = s.kvp := rfl
@[simp] theorem addFld_stash : (s.addFld f n).stash = s.stash := rfl
@[simp] theorem addFld_rests : (s.addFld f n).rests = s.rests := rfl
@[simp] theorem addFld_regShadows : (s.addFld f n).regShadows = s.regShadows := rfl
@[simp] theorem addFld_hbmSeen : (s.addFld f n).hbmSeen = s.hbmSeen := rfl
@[simp] theorem addFld_hbmTick : (s.addFld f n).hbmTick = s.hbmTick := rfl
@[simp] theorem addFld_hbmLast : (s.addFld f n).hbmLast = s.hbmLast := rfl
@[simp] theorem addFld_hot : (s.addFld f n).hot = s.hot := rfl
@[simp] theorem addFld_scrubAt : (s.addFld f n).scrubAt = s.scrubAt := rfl
@[simp] theorem addFld_arbs : (s.addFld f n).arbs = s.arbs := rfl
@[simp] theorem addFld_replays : (s.addFld f n).replays = s.replays := rfl
@[simp] theorem addFld_risk : (s.addFld f n).risk = s.risk := rfl
@[simp] theorem addFld_riskAt : (s.addFld f n).riskAt = s.riskAt := rfl
@[simp] theorem addFld_intake : (s.addFld f n).intake = s.intake := rfl
@[simp] theorem addFld_peers : (s.addFld f n).peers = s.peers := rfl
@[simp] theorem addFld_outFlows : (s.addFld f n).outFlows = s.outFlows := rfl
@[simp] theorem addFld_inFlows : (s.addFld f n).inFlows = s.inFlows := rfl
@[simp] theorem addFld_retrains : (s.addFld f n).retrains = s.retrains := rfl
@[simp] theorem addFld_colls : (s.addFld f n).colls = s.colls := rfl
@[simp] theorem addFld_tails : (s.addFld f n).tails = s.tails := rfl
@[simp] theorem addFld_tailNotes : (s.addFld f n).tailNotes = s.tailNotes := rfl
@[simp] theorem addFld_spoolRing : (s.addFld f n).spoolRing = s.spoolRing := rfl
@[simp] theorem addFld_survival : (s.addFld f n).survival = s.survival := rfl
@[simp] theorem addFld_power : (s.addFld f n).power = s.power := rfl
@[simp] theorem addFld_facility : (s.addFld f n).facility = s.facility := rfl
@[simp] theorem addFld_dbg : (s.addFld f n).dbg = s.dbg := rfl
end addFldLaws

section setTileLaws
variable (s : State) (t : Nat) (x : Tile)
@[simp] theorem setTile_pending : (s.setTile t x).pending = s.pending := rfl
@[simp] theorem setTile_phase : (s.setTile t x).phase = s.phase := rfl
@[simp] theorem setTile_pwrgood : (s.setTile t x).pwrgood = s.pwrgood := rfl
@[simp] theorem setTile_rstN : (s.setTile t x).rstN = s.rstN := rfl
@[simp] theorem setTile_part : (s.setTile t x).part = s.part := rfl
@[simp] theorem setTile_board : (s.setTile t x).board = s.board := rfl
@[simp] theorem setTile_foundation : (s.setTile t x).foundation = s.foundation := rfl
@[simp] theorem setTile_security : (s.setTile t x).security = s.security := rfl
@[simp] theorem setTile_attempts : (s.setTile t x).attempts = s.attempts := rfl
@[simp] theorem setTile_ascent : (s.setTile t x).ascent = s.ascent := rfl
@[simp] theorem setTile_retryPending : (s.setTile t x).retryPending = s.retryPending := rfl
@[simp] theorem setTile_dies : (s.setTile t x).dies = s.dies := rfl
@[simp] theorem setTile_hbmStacks : (s.setTile t x).hbmStacks = s.hbmStacks := rfl
@[simp] theorem setTile_links : (s.setTile t x).links = s.links := rfl
@[simp] theorem setTile_d2dUp : (s.setTile t x).d2dUp = s.d2dUp := rfl
@[simp] theorem setTile_unusable : (s.setTile t x).unusable = s.unusable := rfl
@[simp] theorem setTile_selfRefresh : (s.setTile t x).selfRefresh = s.selfRefresh := rfl
@[simp] theorem setTile_railPg : (s.setTile t x).railPg = s.railPg := rfl
@[simp] theorem setTile_haltCold : (s.setTile t x).haltCold = s.haltCold := rfl
@[simp] theorem setTile_coldBoot : (s.setTile t x).coldBoot = s.coldBoot := rfl
@[simp] theorem setTile_coldCause : (s.setTile t x).coldCause = s.coldCause := rfl
@[simp] theorem setTile_hbmSet : (s.setTile t x).hbmSet = s.hbmSet := rfl
@[simp] theorem setTile_regs : (s.setTile t x).regs = s.regs := rfl
@[simp] theorem setTile_mem : (s.setTile t x).mem = s.mem := rfl
@[simp] theorem setTile_poison : (s.setTile t x).poison = s.poison := rfl
@[simp] theorem setTile_fresh : (s.setTile t x).fresh = s.fresh := rfl
@[simp] theorem setTile_hbmMap : (s.setTile t x).hbmMap = s.hbmMap := rfl
@[simp] theorem setTile_hbmPrev : (s.setTile t x).hbmPrev = s.hbmPrev := rfl
@[simp] theorem setTile_localNs : (s.setTile t x).localNs = s.localNs := rfl
@[simp] theorem setTile_lastBoundary : (s.setTile t x).lastBoundary = s.lastBoundary := rfl
@[simp] theorem setTile_nextBoundary : (s.setTile t x).nextBoundary = s.nextBoundary := rfl
@[simp] theorem setTile_slew : (s.setTile t x).slew = s.slew := rfl
@[simp] theorem setTile_slewAt : (s.setTile t x).slewAt = s.slewAt := rfl
@[simp] theorem setTile_aligned : (s.setTile t x).aligned = s.aligned := rfl
@[simp] theorem setTile_freq : (s.setTile t x).freq = s.freq := rfl
@[simp] theorem setTile_timeMaster : (s.setTile t x).timeMaster = s.timeMaster := rfl
@[simp] theorem setTile_measure : (s.setTile t x).measure = s.measure := rfl
@[simp] theorem setTile_measureBy : (s.setTile t x).measureBy = s.measureBy := rfl
@[simp] theorem setTile_stagedLen : (s.setTile t x).stagedLen = s.stagedLen := rfl
@[simp] theorem setTile_stageBy : (s.setTile t x).stageBy = s.stageBy := rfl
@[simp] theorem setTile_validateBy : (s.setTile t x).validateBy = s.validateBy := rfl
@[simp] theorem setTile_commit : (s.setTile t x).commit = s.commit := rfl
@[simp] theorem setTile_image : (s.setTile t x).image = s.image := rfl
@[simp] theorem setTile_shadows : (s.setTile t x).shadows = s.shadows := rfl
@[simp] theorem setTile_sealing : (s.setTile t x).sealing = s.sealing := rfl
@[simp] theorem setTile_hostMsgs : (s.setTile t x).hostMsgs = s.hostMsgs := rfl
@[simp] theorem setTile_queues : (s.setTile t x).queues = s.queues := rfl
@[simp] theorem setTile_cmds : (s.setTile t x).cmds = s.cmds := rfl
@[simp] theorem setTile_outs : (s.setTile t x).outs = s.outs := rfl
@[simp] theorem setTile_recSeq : (s.setTile t x).recSeq = s.recSeq := rfl
@[simp] theorem setTile_ringUnread : (s.setTile t x).ringUnread = s.ringUnread := rfl
@[simp] theorem setTile_ringWritten : (s.setTile t x).ringWritten = s.ringWritten := rfl
@[simp] theorem setTile_ringGap : (s.setTile t x).ringGap = s.ringGap := rfl
@[simp] theorem setTile_windows : (s.setTile t x).windows = s.windows := rfl
@[simp] theorem setTile_onceTick : (s.setTile t x).onceTick = s.onceTick := rfl
@[simp] theorem setTile_counts : (s.setTile t x).counts = s.counts := rfl
@[simp] theorem setTile_doms : (s.setTile t x).doms = s.doms := rfl
@[simp] theorem setTile_net : (s.setTile t x).net = s.net := rfl
@[simp] theorem setTile_kvp : (s.setTile t x).kvp = s.kvp := rfl
@[simp] theorem setTile_stash : (s.setTile t x).stash = s.stash := rfl
@[simp] theorem setTile_rests : (s.setTile t x).rests = s.rests := rfl
@[simp] theorem setTile_regShadows : (s.setTile t x).regShadows = s.regShadows := rfl
@[simp] theorem setTile_hbmSeen : (s.setTile t x).hbmSeen = s.hbmSeen := rfl
@[simp] theorem setTile_hbmTick : (s.setTile t x).hbmTick = s.hbmTick := rfl
@[simp] theorem setTile_hbmLast : (s.setTile t x).hbmLast = s.hbmLast := rfl
@[simp] theorem setTile_hot : (s.setTile t x).hot = s.hot := rfl
@[simp] theorem setTile_scrubAt : (s.setTile t x).scrubAt = s.scrubAt := rfl
@[simp] theorem setTile_arbs : (s.setTile t x).arbs = s.arbs := rfl
@[simp] theorem setTile_replays : (s.setTile t x).replays = s.replays := rfl
@[simp] theorem setTile_risk : (s.setTile t x).risk = s.risk := rfl
@[simp] theorem setTile_riskAt : (s.setTile t x).riskAt = s.riskAt := rfl
@[simp] theorem setTile_intake : (s.setTile t x).intake = s.intake := rfl
@[simp] theorem setTile_peers : (s.setTile t x).peers = s.peers := rfl
@[simp] theorem setTile_outFlows : (s.setTile t x).outFlows = s.outFlows := rfl
@[simp] theorem setTile_inFlows : (s.setTile t x).inFlows = s.inFlows := rfl
@[simp] theorem setTile_retrains : (s.setTile t x).retrains = s.retrains := rfl
@[simp] theorem setTile_colls : (s.setTile t x).colls = s.colls := rfl
@[simp] theorem setTile_tails : (s.setTile t x).tails = s.tails := rfl
@[simp] theorem setTile_tailNotes : (s.setTile t x).tailNotes = s.tailNotes := rfl
@[simp] theorem setTile_spoolRing : (s.setTile t x).spoolRing = s.spoolRing := rfl
@[simp] theorem setTile_survival : (s.setTile t x).survival = s.survival := rfl
@[simp] theorem setTile_power : (s.setTile t x).power = s.power := rfl
@[simp] theorem setTile_facility : (s.setTile t x).facility = s.facility := rfl
@[simp] theorem setTile_dbg : (s.setTile t x).dbg = s.dbg := rfl
end setTileLaws

section setDomLaws
variable (s : State) (d : Nat) (x : Dom)
@[simp] theorem setDom_pending : (s.setDom d x).pending = s.pending := rfl
@[simp] theorem setDom_phase : (s.setDom d x).phase = s.phase := rfl
@[simp] theorem setDom_pwrgood : (s.setDom d x).pwrgood = s.pwrgood := rfl
@[simp] theorem setDom_rstN : (s.setDom d x).rstN = s.rstN := rfl
@[simp] theorem setDom_part : (s.setDom d x).part = s.part := rfl
@[simp] theorem setDom_board : (s.setDom d x).board = s.board := rfl
@[simp] theorem setDom_foundation : (s.setDom d x).foundation = s.foundation := rfl
@[simp] theorem setDom_security : (s.setDom d x).security = s.security := rfl
@[simp] theorem setDom_attempts : (s.setDom d x).attempts = s.attempts := rfl
@[simp] theorem setDom_ascent : (s.setDom d x).ascent = s.ascent := rfl
@[simp] theorem setDom_retryPending : (s.setDom d x).retryPending = s.retryPending := rfl
@[simp] theorem setDom_dies : (s.setDom d x).dies = s.dies := rfl
@[simp] theorem setDom_hbmStacks : (s.setDom d x).hbmStacks = s.hbmStacks := rfl
@[simp] theorem setDom_links : (s.setDom d x).links = s.links := rfl
@[simp] theorem setDom_d2dUp : (s.setDom d x).d2dUp = s.d2dUp := rfl
@[simp] theorem setDom_unusable : (s.setDom d x).unusable = s.unusable := rfl
@[simp] theorem setDom_selfRefresh : (s.setDom d x).selfRefresh = s.selfRefresh := rfl
@[simp] theorem setDom_railPg : (s.setDom d x).railPg = s.railPg := rfl
@[simp] theorem setDom_haltCold : (s.setDom d x).haltCold = s.haltCold := rfl
@[simp] theorem setDom_coldBoot : (s.setDom d x).coldBoot = s.coldBoot := rfl
@[simp] theorem setDom_coldCause : (s.setDom d x).coldCause = s.coldCause := rfl
@[simp] theorem setDom_hbmSet : (s.setDom d x).hbmSet = s.hbmSet := rfl
@[simp] theorem setDom_regs : (s.setDom d x).regs = s.regs := rfl
@[simp] theorem setDom_mem : (s.setDom d x).mem = s.mem := rfl
@[simp] theorem setDom_poison : (s.setDom d x).poison = s.poison := rfl
@[simp] theorem setDom_fresh : (s.setDom d x).fresh = s.fresh := rfl
@[simp] theorem setDom_hbmMap : (s.setDom d x).hbmMap = s.hbmMap := rfl
@[simp] theorem setDom_hbmPrev : (s.setDom d x).hbmPrev = s.hbmPrev := rfl
@[simp] theorem setDom_localNs : (s.setDom d x).localNs = s.localNs := rfl
@[simp] theorem setDom_lastBoundary : (s.setDom d x).lastBoundary = s.lastBoundary := rfl
@[simp] theorem setDom_nextBoundary : (s.setDom d x).nextBoundary = s.nextBoundary := rfl
@[simp] theorem setDom_slew : (s.setDom d x).slew = s.slew := rfl
@[simp] theorem setDom_slewAt : (s.setDom d x).slewAt = s.slewAt := rfl
@[simp] theorem setDom_aligned : (s.setDom d x).aligned = s.aligned := rfl
@[simp] theorem setDom_freq : (s.setDom d x).freq = s.freq := rfl
@[simp] theorem setDom_timeMaster : (s.setDom d x).timeMaster = s.timeMaster := rfl
@[simp] theorem setDom_measure : (s.setDom d x).measure = s.measure := rfl
@[simp] theorem setDom_measureBy : (s.setDom d x).measureBy = s.measureBy := rfl
@[simp] theorem setDom_stagedLen : (s.setDom d x).stagedLen = s.stagedLen := rfl
@[simp] theorem setDom_stageBy : (s.setDom d x).stageBy = s.stageBy := rfl
@[simp] theorem setDom_validateBy : (s.setDom d x).validateBy = s.validateBy := rfl
@[simp] theorem setDom_commit : (s.setDom d x).commit = s.commit := rfl
@[simp] theorem setDom_image : (s.setDom d x).image = s.image := rfl
@[simp] theorem setDom_shadows : (s.setDom d x).shadows = s.shadows := rfl
@[simp] theorem setDom_sealing : (s.setDom d x).sealing = s.sealing := rfl
@[simp] theorem setDom_hostMsgs : (s.setDom d x).hostMsgs = s.hostMsgs := rfl
@[simp] theorem setDom_queues : (s.setDom d x).queues = s.queues := rfl
@[simp] theorem setDom_cmds : (s.setDom d x).cmds = s.cmds := rfl
@[simp] theorem setDom_outs : (s.setDom d x).outs = s.outs := rfl
@[simp] theorem setDom_recSeq : (s.setDom d x).recSeq = s.recSeq := rfl
@[simp] theorem setDom_ringUnread : (s.setDom d x).ringUnread = s.ringUnread := rfl
@[simp] theorem setDom_ringWritten : (s.setDom d x).ringWritten = s.ringWritten := rfl
@[simp] theorem setDom_ringGap : (s.setDom d x).ringGap = s.ringGap := rfl
@[simp] theorem setDom_windows : (s.setDom d x).windows = s.windows := rfl
@[simp] theorem setDom_onceTick : (s.setDom d x).onceTick = s.onceTick := rfl
@[simp] theorem setDom_counts : (s.setDom d x).counts = s.counts := rfl
@[simp] theorem setDom_tiles : (s.setDom d x).tiles = s.tiles := rfl
@[simp] theorem setDom_net : (s.setDom d x).net = s.net := rfl
@[simp] theorem setDom_kvp : (s.setDom d x).kvp = s.kvp := rfl
@[simp] theorem setDom_stash : (s.setDom d x).stash = s.stash := rfl
@[simp] theorem setDom_rests : (s.setDom d x).rests = s.rests := rfl
@[simp] theorem setDom_regShadows : (s.setDom d x).regShadows = s.regShadows := rfl
@[simp] theorem setDom_hbmSeen : (s.setDom d x).hbmSeen = s.hbmSeen := rfl
@[simp] theorem setDom_hbmTick : (s.setDom d x).hbmTick = s.hbmTick := rfl
@[simp] theorem setDom_hbmLast : (s.setDom d x).hbmLast = s.hbmLast := rfl
@[simp] theorem setDom_hot : (s.setDom d x).hot = s.hot := rfl
@[simp] theorem setDom_scrubAt : (s.setDom d x).scrubAt = s.scrubAt := rfl
@[simp] theorem setDom_arbs : (s.setDom d x).arbs = s.arbs := rfl
@[simp] theorem setDom_replays : (s.setDom d x).replays = s.replays := rfl
@[simp] theorem setDom_risk : (s.setDom d x).risk = s.risk := rfl
@[simp] theorem setDom_riskAt : (s.setDom d x).riskAt = s.riskAt := rfl
@[simp] theorem setDom_intake : (s.setDom d x).intake = s.intake := rfl
@[simp] theorem setDom_peers : (s.setDom d x).peers = s.peers := rfl
@[simp] theorem setDom_outFlows : (s.setDom d x).outFlows = s.outFlows := rfl
@[simp] theorem setDom_inFlows : (s.setDom d x).inFlows = s.inFlows := rfl
@[simp] theorem setDom_retrains : (s.setDom d x).retrains = s.retrains := rfl
@[simp] theorem setDom_colls : (s.setDom d x).colls = s.colls := rfl
@[simp] theorem setDom_tails : (s.setDom d x).tails = s.tails := rfl
@[simp] theorem setDom_tailNotes : (s.setDom d x).tailNotes = s.tailNotes := rfl
@[simp] theorem setDom_spoolRing : (s.setDom d x).spoolRing = s.spoolRing := rfl
@[simp] theorem setDom_survival : (s.setDom d x).survival = s.survival := rfl
@[simp] theorem setDom_power : (s.setDom d x).power = s.power := rfl
@[simp] theorem setDom_facility : (s.setDom d x).facility = s.facility := rfl
@[simp] theorem setDom_dbg : (s.setDom d x).dbg = s.dbg := rfl
end setDomLaws

section setQueueLaws
variable (s : State) (q : Nat) (x : Queue)
@[simp] theorem setQueue_pending : (s.setQueue q x).pending = s.pending := rfl
@[simp] theorem setQueue_phase : (s.setQueue q x).phase = s.phase := rfl
@[simp] theorem setQueue_pwrgood : (s.setQueue q x).pwrgood = s.pwrgood := rfl
@[simp] theorem setQueue_rstN : (s.setQueue q x).rstN = s.rstN := rfl
@[simp] theorem setQueue_part : (s.setQueue q x).part = s.part := rfl
@[simp] theorem setQueue_board : (s.setQueue q x).board = s.board := rfl
@[simp] theorem setQueue_foundation : (s.setQueue q x).foundation = s.foundation := rfl
@[simp] theorem setQueue_security : (s.setQueue q x).security = s.security := rfl
@[simp] theorem setQueue_attempts : (s.setQueue q x).attempts = s.attempts := rfl
@[simp] theorem setQueue_ascent : (s.setQueue q x).ascent = s.ascent := rfl
@[simp] theorem setQueue_retryPending : (s.setQueue q x).retryPending = s.retryPending := rfl
@[simp] theorem setQueue_dies : (s.setQueue q x).dies = s.dies := rfl
@[simp] theorem setQueue_hbmStacks : (s.setQueue q x).hbmStacks = s.hbmStacks := rfl
@[simp] theorem setQueue_links : (s.setQueue q x).links = s.links := rfl
@[simp] theorem setQueue_d2dUp : (s.setQueue q x).d2dUp = s.d2dUp := rfl
@[simp] theorem setQueue_unusable : (s.setQueue q x).unusable = s.unusable := rfl
@[simp] theorem setQueue_selfRefresh : (s.setQueue q x).selfRefresh = s.selfRefresh := rfl
@[simp] theorem setQueue_railPg : (s.setQueue q x).railPg = s.railPg := rfl
@[simp] theorem setQueue_haltCold : (s.setQueue q x).haltCold = s.haltCold := rfl
@[simp] theorem setQueue_coldBoot : (s.setQueue q x).coldBoot = s.coldBoot := rfl
@[simp] theorem setQueue_coldCause : (s.setQueue q x).coldCause = s.coldCause := rfl
@[simp] theorem setQueue_hbmSet : (s.setQueue q x).hbmSet = s.hbmSet := rfl
@[simp] theorem setQueue_regs : (s.setQueue q x).regs = s.regs := rfl
@[simp] theorem setQueue_mem : (s.setQueue q x).mem = s.mem := rfl
@[simp] theorem setQueue_poison : (s.setQueue q x).poison = s.poison := rfl
@[simp] theorem setQueue_fresh : (s.setQueue q x).fresh = s.fresh := rfl
@[simp] theorem setQueue_hbmMap : (s.setQueue q x).hbmMap = s.hbmMap := rfl
@[simp] theorem setQueue_hbmPrev : (s.setQueue q x).hbmPrev = s.hbmPrev := rfl
@[simp] theorem setQueue_localNs : (s.setQueue q x).localNs = s.localNs := rfl
@[simp] theorem setQueue_lastBoundary : (s.setQueue q x).lastBoundary = s.lastBoundary := rfl
@[simp] theorem setQueue_nextBoundary : (s.setQueue q x).nextBoundary = s.nextBoundary := rfl
@[simp] theorem setQueue_slew : (s.setQueue q x).slew = s.slew := rfl
@[simp] theorem setQueue_slewAt : (s.setQueue q x).slewAt = s.slewAt := rfl
@[simp] theorem setQueue_aligned : (s.setQueue q x).aligned = s.aligned := rfl
@[simp] theorem setQueue_freq : (s.setQueue q x).freq = s.freq := rfl
@[simp] theorem setQueue_timeMaster : (s.setQueue q x).timeMaster = s.timeMaster := rfl
@[simp] theorem setQueue_measure : (s.setQueue q x).measure = s.measure := rfl
@[simp] theorem setQueue_measureBy : (s.setQueue q x).measureBy = s.measureBy := rfl
@[simp] theorem setQueue_stagedLen : (s.setQueue q x).stagedLen = s.stagedLen := rfl
@[simp] theorem setQueue_stageBy : (s.setQueue q x).stageBy = s.stageBy := rfl
@[simp] theorem setQueue_validateBy : (s.setQueue q x).validateBy = s.validateBy := rfl
@[simp] theorem setQueue_commit : (s.setQueue q x).commit = s.commit := rfl
@[simp] theorem setQueue_image : (s.setQueue q x).image = s.image := rfl
@[simp] theorem setQueue_shadows : (s.setQueue q x).shadows = s.shadows := rfl
@[simp] theorem setQueue_sealing : (s.setQueue q x).sealing = s.sealing := rfl
@[simp] theorem setQueue_hostMsgs : (s.setQueue q x).hostMsgs = s.hostMsgs := rfl
@[simp] theorem setQueue_cmds : (s.setQueue q x).cmds = s.cmds := rfl
@[simp] theorem setQueue_outs : (s.setQueue q x).outs = s.outs := rfl
@[simp] theorem setQueue_recSeq : (s.setQueue q x).recSeq = s.recSeq := rfl
@[simp] theorem setQueue_ringUnread : (s.setQueue q x).ringUnread = s.ringUnread := rfl
@[simp] theorem setQueue_ringWritten : (s.setQueue q x).ringWritten = s.ringWritten := rfl
@[simp] theorem setQueue_ringGap : (s.setQueue q x).ringGap = s.ringGap := rfl
@[simp] theorem setQueue_windows : (s.setQueue q x).windows = s.windows := rfl
@[simp] theorem setQueue_onceTick : (s.setQueue q x).onceTick = s.onceTick := rfl
@[simp] theorem setQueue_counts : (s.setQueue q x).counts = s.counts := rfl
@[simp] theorem setQueue_tiles : (s.setQueue q x).tiles = s.tiles := rfl
@[simp] theorem setQueue_doms : (s.setQueue q x).doms = s.doms := rfl
@[simp] theorem setQueue_net : (s.setQueue q x).net = s.net := rfl
@[simp] theorem setQueue_kvp : (s.setQueue q x).kvp = s.kvp := rfl
@[simp] theorem setQueue_stash : (s.setQueue q x).stash = s.stash := rfl
@[simp] theorem setQueue_rests : (s.setQueue q x).rests = s.rests := rfl
@[simp] theorem setQueue_regShadows : (s.setQueue q x).regShadows = s.regShadows := rfl
@[simp] theorem setQueue_hbmSeen : (s.setQueue q x).hbmSeen = s.hbmSeen := rfl
@[simp] theorem setQueue_hbmTick : (s.setQueue q x).hbmTick = s.hbmTick := rfl
@[simp] theorem setQueue_hbmLast : (s.setQueue q x).hbmLast = s.hbmLast := rfl
@[simp] theorem setQueue_hot : (s.setQueue q x).hot = s.hot := rfl
@[simp] theorem setQueue_scrubAt : (s.setQueue q x).scrubAt = s.scrubAt := rfl
@[simp] theorem setQueue_arbs : (s.setQueue q x).arbs = s.arbs := rfl
@[simp] theorem setQueue_replays : (s.setQueue q x).replays = s.replays := rfl
@[simp] theorem setQueue_risk : (s.setQueue q x).risk = s.risk := rfl
@[simp] theorem setQueue_riskAt : (s.setQueue q x).riskAt = s.riskAt := rfl
@[simp] theorem setQueue_intake : (s.setQueue q x).intake = s.intake := rfl
@[simp] theorem setQueue_peers : (s.setQueue q x).peers = s.peers := rfl
@[simp] theorem setQueue_outFlows : (s.setQueue q x).outFlows = s.outFlows := rfl
@[simp] theorem setQueue_inFlows : (s.setQueue q x).inFlows = s.inFlows := rfl
@[simp] theorem setQueue_retrains : (s.setQueue q x).retrains = s.retrains := rfl
@[simp] theorem setQueue_colls : (s.setQueue q x).colls = s.colls := rfl
@[simp] theorem setQueue_tails : (s.setQueue q x).tails = s.tails := rfl
@[simp] theorem setQueue_tailNotes : (s.setQueue q x).tailNotes = s.tailNotes := rfl
@[simp] theorem setQueue_spoolRing : (s.setQueue q x).spoolRing = s.spoolRing := rfl
@[simp] theorem setQueue_survival : (s.setQueue q x).survival = s.survival := rfl
@[simp] theorem setQueue_power : (s.setQueue q x).power = s.power := rfl
@[simp] theorem setQueue_facility : (s.setQueue q x).facility = s.facility := rfl
@[simp] theorem setQueue_dbg : (s.setQueue q x).dbg = s.dbg := rfl
end setQueueLaws

section setCmdLaws
variable (s : State) (p : Pending)
@[simp] theorem setCmd_pending : (s.setCmd p).pending = s.pending := rfl
@[simp] theorem setCmd_phase : (s.setCmd p).phase = s.phase := rfl
@[simp] theorem setCmd_pwrgood : (s.setCmd p).pwrgood = s.pwrgood := rfl
@[simp] theorem setCmd_rstN : (s.setCmd p).rstN = s.rstN := rfl
@[simp] theorem setCmd_part : (s.setCmd p).part = s.part := rfl
@[simp] theorem setCmd_board : (s.setCmd p).board = s.board := rfl
@[simp] theorem setCmd_foundation : (s.setCmd p).foundation = s.foundation := rfl
@[simp] theorem setCmd_security : (s.setCmd p).security = s.security := rfl
@[simp] theorem setCmd_attempts : (s.setCmd p).attempts = s.attempts := rfl
@[simp] theorem setCmd_ascent : (s.setCmd p).ascent = s.ascent := rfl
@[simp] theorem setCmd_retryPending : (s.setCmd p).retryPending = s.retryPending := rfl
@[simp] theorem setCmd_dies : (s.setCmd p).dies = s.dies := rfl
@[simp] theorem setCmd_hbmStacks : (s.setCmd p).hbmStacks = s.hbmStacks := rfl
@[simp] theorem setCmd_links : (s.setCmd p).links = s.links := rfl
@[simp] theorem setCmd_d2dUp : (s.setCmd p).d2dUp = s.d2dUp := rfl
@[simp] theorem setCmd_unusable : (s.setCmd p).unusable = s.unusable := rfl
@[simp] theorem setCmd_selfRefresh : (s.setCmd p).selfRefresh = s.selfRefresh := rfl
@[simp] theorem setCmd_railPg : (s.setCmd p).railPg = s.railPg := rfl
@[simp] theorem setCmd_haltCold : (s.setCmd p).haltCold = s.haltCold := rfl
@[simp] theorem setCmd_coldBoot : (s.setCmd p).coldBoot = s.coldBoot := rfl
@[simp] theorem setCmd_coldCause : (s.setCmd p).coldCause = s.coldCause := rfl
@[simp] theorem setCmd_hbmSet : (s.setCmd p).hbmSet = s.hbmSet := rfl
@[simp] theorem setCmd_regs : (s.setCmd p).regs = s.regs := rfl
@[simp] theorem setCmd_mem : (s.setCmd p).mem = s.mem := rfl
@[simp] theorem setCmd_poison : (s.setCmd p).poison = s.poison := rfl
@[simp] theorem setCmd_fresh : (s.setCmd p).fresh = s.fresh := rfl
@[simp] theorem setCmd_hbmMap : (s.setCmd p).hbmMap = s.hbmMap := rfl
@[simp] theorem setCmd_hbmPrev : (s.setCmd p).hbmPrev = s.hbmPrev := rfl
@[simp] theorem setCmd_localNs : (s.setCmd p).localNs = s.localNs := rfl
@[simp] theorem setCmd_lastBoundary : (s.setCmd p).lastBoundary = s.lastBoundary := rfl
@[simp] theorem setCmd_nextBoundary : (s.setCmd p).nextBoundary = s.nextBoundary := rfl
@[simp] theorem setCmd_slew : (s.setCmd p).slew = s.slew := rfl
@[simp] theorem setCmd_slewAt : (s.setCmd p).slewAt = s.slewAt := rfl
@[simp] theorem setCmd_aligned : (s.setCmd p).aligned = s.aligned := rfl
@[simp] theorem setCmd_freq : (s.setCmd p).freq = s.freq := rfl
@[simp] theorem setCmd_timeMaster : (s.setCmd p).timeMaster = s.timeMaster := rfl
@[simp] theorem setCmd_measure : (s.setCmd p).measure = s.measure := rfl
@[simp] theorem setCmd_measureBy : (s.setCmd p).measureBy = s.measureBy := rfl
@[simp] theorem setCmd_stagedLen : (s.setCmd p).stagedLen = s.stagedLen := rfl
@[simp] theorem setCmd_stageBy : (s.setCmd p).stageBy = s.stageBy := rfl
@[simp] theorem setCmd_validateBy : (s.setCmd p).validateBy = s.validateBy := rfl
@[simp] theorem setCmd_commit : (s.setCmd p).commit = s.commit := rfl
@[simp] theorem setCmd_image : (s.setCmd p).image = s.image := rfl
@[simp] theorem setCmd_shadows : (s.setCmd p).shadows = s.shadows := rfl
@[simp] theorem setCmd_sealing : (s.setCmd p).sealing = s.sealing := rfl
@[simp] theorem setCmd_hostMsgs : (s.setCmd p).hostMsgs = s.hostMsgs := rfl
@[simp] theorem setCmd_queues : (s.setCmd p).queues = s.queues := rfl
@[simp] theorem setCmd_outs : (s.setCmd p).outs = s.outs := rfl
@[simp] theorem setCmd_recSeq : (s.setCmd p).recSeq = s.recSeq := rfl
@[simp] theorem setCmd_ringUnread : (s.setCmd p).ringUnread = s.ringUnread := rfl
@[simp] theorem setCmd_ringWritten : (s.setCmd p).ringWritten = s.ringWritten := rfl
@[simp] theorem setCmd_ringGap : (s.setCmd p).ringGap = s.ringGap := rfl
@[simp] theorem setCmd_windows : (s.setCmd p).windows = s.windows := rfl
@[simp] theorem setCmd_onceTick : (s.setCmd p).onceTick = s.onceTick := rfl
@[simp] theorem setCmd_counts : (s.setCmd p).counts = s.counts := rfl
@[simp] theorem setCmd_tiles : (s.setCmd p).tiles = s.tiles := rfl
@[simp] theorem setCmd_doms : (s.setCmd p).doms = s.doms := rfl
@[simp] theorem setCmd_net : (s.setCmd p).net = s.net := rfl
@[simp] theorem setCmd_kvp : (s.setCmd p).kvp = s.kvp := rfl
@[simp] theorem setCmd_stash : (s.setCmd p).stash = s.stash := rfl
@[simp] theorem setCmd_rests : (s.setCmd p).rests = s.rests := rfl
@[simp] theorem setCmd_regShadows : (s.setCmd p).regShadows = s.regShadows := rfl
@[simp] theorem setCmd_hbmSeen : (s.setCmd p).hbmSeen = s.hbmSeen := rfl
@[simp] theorem setCmd_hbmTick : (s.setCmd p).hbmTick = s.hbmTick := rfl
@[simp] theorem setCmd_hbmLast : (s.setCmd p).hbmLast = s.hbmLast := rfl
@[simp] theorem setCmd_hot : (s.setCmd p).hot = s.hot := rfl
@[simp] theorem setCmd_scrubAt : (s.setCmd p).scrubAt = s.scrubAt := rfl
@[simp] theorem setCmd_arbs : (s.setCmd p).arbs = s.arbs := rfl
@[simp] theorem setCmd_replays : (s.setCmd p).replays = s.replays := rfl
@[simp] theorem setCmd_risk : (s.setCmd p).risk = s.risk := rfl
@[simp] theorem setCmd_riskAt : (s.setCmd p).riskAt = s.riskAt := rfl
@[simp] theorem setCmd_intake : (s.setCmd p).intake = s.intake := rfl
@[simp] theorem setCmd_peers : (s.setCmd p).peers = s.peers := rfl
@[simp] theorem setCmd_outFlows : (s.setCmd p).outFlows = s.outFlows := rfl
@[simp] theorem setCmd_inFlows : (s.setCmd p).inFlows = s.inFlows := rfl
@[simp] theorem setCmd_retrains : (s.setCmd p).retrains = s.retrains := rfl
@[simp] theorem setCmd_colls : (s.setCmd p).colls = s.colls := rfl
@[simp] theorem setCmd_tails : (s.setCmd p).tails = s.tails := rfl
@[simp] theorem setCmd_tailNotes : (s.setCmd p).tailNotes = s.tailNotes := rfl
@[simp] theorem setCmd_spoolRing : (s.setCmd p).spoolRing = s.spoolRing := rfl
@[simp] theorem setCmd_survival : (s.setCmd p).survival = s.survival := rfl
@[simp] theorem setCmd_power : (s.setCmd p).power = s.power := rfl
@[simp] theorem setCmd_facility : (s.setCmd p).facility = s.facility := rfl
@[simp] theorem setCmd_dbg : (s.setCmd p).dbg = s.dbg := rfl
end setCmdLaws

end Sys2Proof.Laws
end

