-- ==== Sys2Proof/Laws/Ops.lean ====
section
/-!
SUPPORT. What the shared operations can do, said once for each: which parts of the state they may change, and that they keep the waiting
commands, the part and the canonical form of memory and registers.
-/
namespace Sys2Proof.Laws

open Sys2Proof.Machine

/-! ## Tiles, domains, queues and commands read back -/

theorem tile_setTile_same (s : State) (t : Nat) (x : Tile) : (s.setTile t x).tile t = x := by
  simp only [State.tile, State.setTile]
  exact smapFind_put_same (fun _ => {}) s.tiles t x

theorem tile_setTile_ne (s : State) {t u : Nat} (x : Tile) (h : u ≠ t) : (s.setTile t x).tile u = s.tile u := by
  simp only [State.tile, State.setTile]
  rw [smapFind_put_ne _ _ _ h]

theorem dom_setDom_same (s : State) (d : Nat) (x : Dom) : (s.setDom d x).dom d = x := by
  simp only [State.dom, State.setDom]
  exact smapFind_put_same (fun _ => {}) s.doms d x

theorem dom_setDom_ne (s : State) {d e : Nat} (x : Dom) (h : e ≠ d) : (s.setDom d x).dom e = s.dom e := by
  simp only [State.dom, State.setDom]
  rw [smapFind_put_ne _ _ _ h]

theorem queue_setQueue_same (s : State) (q : Nat) (x : Queue) : (s.setQueue q x).queue q = x := by
  simp only [State.queue, State.setQueue]
  exact smapFind_put_same (fun _ => {}) s.queues q x

theorem queue_setQueue_ne (s : State) {q r : Nat} (x : Queue) (h : r ≠ q) : (s.setQueue q x).queue r = s.queue r := by
  simp only [State.queue, State.setQueue]
  rw [smapFind_put_ne _ _ _ h]

/-- A command that is not outstanding cannot end. -/
theorem finish_unknown {s : State} {h : Word} (c : Completion) (n : s.cmd h = none) : s.finish h c = s := by
  simp [State.finish, n]

/-- A command that has ended keeps its first answer. -/
theorem finish_ended {s : State} {h : Word} {p : Pending} (c : Completion) (n : s.cmd h = some p) (d : p.done.isSome = true) :
    s.finish h c = s := by
  obtain ⟨e, k⟩ := Option.isSome_iff_exists.1 d
  simp [State.finish, n, k]

/-- The time moves and nothing else. -/
theorem advance_eq (s : State) (ns : Nat) : s.advance ns = { s with localNs := s.localNs + ns } := rfl

/-! ## Operations on registers alone -/

theorem setFld_eq (s : State) (f : Fld) (v : Nat) : s.setFld f v = { s with regs := (s.setFld f v).regs } := rfl

theorem addFld_eq (s : State) (f : Fld) (n : Nat) : s.addFld f n = { s with regs := (s.addFld f n).regs } := rfl

/-! ## Device writes -/

theorem unpoison_eq (s : State) (a n : Nat) : s.unpoison a n = { s with poison := (s.unpoison a n).poison } := by
  unfold State.unpoison
  split <;> rfl

theorem countLines_eq (n : Nat) : ∀ (s : State) (a : Nat),
    s.countLines a n = { s with hbmSeen := (s.countLines a n).hbmSeen, hbmTick := (s.countLines a n).hbmTick } := by
  induction n with
  | zero => intro s a; rfl
  | succ n ih => intro s a; rw [State.countLines, ih]

/-- Accesses of HBM are counted by pseudo-channel and by the package, and nothing else changes. -/
theorem countHbm_eq (s : State) (a n : Nat) :
    s.countHbm a n = { s with hbmSeen := (s.countHbm a n).hbmSeen, hbmTick := (s.countHbm a n).hbmTick, counts := (s.countHbm a n).counts } := by
  unfold State.countHbm
  split
  · rfl
  · rw [countLines_eq]; rfl

theorem markDirty_eq (s : State) (a n : Nat) : s.markDirty a n = { s with survival := (s.markDirty a n).survival } := by
  unfold State.markDirty
  split <;> rfl

theorem breakReserve_eq (s : State) (a n : Nat) : s.breakReserve a n = { s with tiles := (s.breakReserve a n).tiles } := by
  have fold : ∀ (f : State → Nat → State), (∀ u j, f u j = { u with tiles := (f u j).tiles }) → ∀ (js : List Nat) (u : State),
      js.foldl f u = { u with tiles := (js.foldl f u).tiles } := by
    intro f hf js
    induction js with
    | nil => intro u; rfl
    | cons j js ih => intro u; rw [List.foldl_cons, ih, hf]
  unfold State.breakReserve
  split
  · rfl
  · apply fold
    intro u j
    dsimp only
    split
    · split <;> rfl
    · rfl

/-! A device write changes memory, the poison of the lines it covers, the counts of its accesses, the dirty bits of MIRROR regions and the
reservations it breaks, and leaves the rest. -/

section devWriteLaws
variable (s : State) (a : Nat) (bs : Bytes)
theorem devWrite_mem : (s.devWrite a bs).mem = (s.physWrite a bs).mem := by
  unfold State.devWrite
  rw [breakReserve_eq]; dsimp only
  rw [markDirty_eq]; dsimp only
  rw [countHbm_eq]; dsimp only
  rw [unpoison_eq]
theorem devWrite_regs : (s.devWrite a bs).regs = s.regs := by
  unfold State.devWrite
  rw [breakReserve_eq]; dsimp only
  rw [markDirty_eq]; dsimp only
  rw [countHbm_eq]; dsimp only
  rw [unpoison_eq]; dsimp only
  rw [physWrite_frame]
theorem devWrite_pending : (s.devWrite a bs).pending = s.pending := by
  unfold State.devWrite
  rw [breakReserve_eq]; dsimp only
  rw [markDirty_eq]; dsimp only
  rw [countHbm_eq]; dsimp only
  rw [unpoison_eq]; dsimp only
  rw [physWrite_frame]
theorem devWrite_phase : (s.devWrite a bs).phase = s.phase := by
  unfold State.devWrite
  rw [breakReserve_eq]; dsimp only
  rw [markDirty_eq]; dsimp only
  rw [countHbm_eq]; dsimp only
  rw [unpoison_eq]; dsimp only
  rw [physWrite_frame]
theorem devWrite_part : (s.devWrite a bs).part = s.part := by
  unfold State.devWrite
  rw [breakReserve_eq]; dsimp only
  rw [markDirty_eq]; dsimp only
  rw [countHbm_eq]; dsimp only
  rw [unpoison_eq]; dsimp only
  rw [physWrite_frame]
theorem devWrite_fresh : (s.devWrite a bs).fresh = s.fresh := by
  unfold State.devWrite
  rw [breakReserve_eq]; dsimp only
  rw [markDirty_eq]; dsimp only
  rw [countHbm_eq]; dsimp only
  rw [unpoison_eq]; dsimp only
  rw [physWrite_frame]
theorem devWrite_security : (s.devWrite a bs).security = s.security := by
  unfold State.devWrite
  rw [breakReserve_eq]; dsimp only
  rw [markDirty_eq]; dsimp only
  rw [countHbm_eq]; dsimp only
  rw [unpoison_eq]; dsimp only
  rw [physWrite_frame]
theorem devWrite_image : (s.devWrite a bs).image = s.image := by
  unfold State.devWrite
  rw [breakReserve_eq]; dsimp only
  rw [markDirty_eq]; dsimp only
  rw [countHbm_eq]; dsimp only
  rw [unpoison_eq]; dsimp only
  rw [physWrite_frame]
theorem devWrite_doms : (s.devWrite a bs).doms = s.doms := by
  unfold State.devWrite
  rw [breakReserve_eq]; dsimp only
  rw [markDirty_eq]; dsimp only
  rw [countHbm_eq]; dsimp only
  rw [unpoison_eq]; dsimp only
  rw [physWrite_frame]
theorem devWrite_queues : (s.devWrite a bs).queues = s.queues := by
  unfold State.devWrite
  rw [breakReserve_eq]; dsimp only
  rw [markDirty_eq]; dsimp only
  rw [countHbm_eq]; dsimp only
  rw [unpoison_eq]; dsimp only
  rw [physWrite_frame]
theorem devWrite_cmds : (s.devWrite a bs).cmds = s.cmds := by
  unfold State.devWrite
  rw [breakReserve_eq]; dsimp only
  rw [markDirty_eq]; dsimp only
  rw [countHbm_eq]; dsimp only
  rw [unpoison_eq]; dsimp only
  rw [physWrite_frame]
theorem devWrite_outs : (s.devWrite a bs).outs = s.outs := by
  unfold State.devWrite
  rw [breakReserve_eq]; dsimp only
  rw [markDirty_eq]; dsimp only
  rw [countHbm_eq]; dsimp only
  rw [unpoison_eq]; dsimp only
  rw [physWrite_frame]
theorem devWrite_hbmMap : (s.devWrite a bs).hbmMap = s.hbmMap := by
  unfold State.devWrite
  rw [breakReserve_eq]; dsimp only
  rw [markDirty_eq]; dsimp only
  rw [countHbm_eq]; dsimp only
  rw [unpoison_eq]; dsimp only
  rw [physWrite_frame]
theorem devWrite_localNs : (s.devWrite a bs).localNs = s.localNs := by
  unfold State.devWrite
  rw [breakReserve_eq]; dsimp only
  rw [markDirty_eq]; dsimp only
  rw [countHbm_eq]; dsimp only
  rw [unpoison_eq]; dsimp only
  rw [physWrite_frame]
theorem devWrite_kvp : (s.devWrite a bs).kvp = s.kvp := by
  unfold State.devWrite
  rw [breakReserve_eq]; dsimp only
  rw [markDirty_eq]; dsimp only
  rw [countHbm_eq]; dsimp only
  rw [unpoison_eq]; dsimp only
  rw [physWrite_frame]
theorem devWrite_stash : (s.devWrite a bs).stash = s.stash := by
  unfold State.devWrite
  rw [breakReserve_eq]; dsimp only
  rw [markDirty_eq]; dsimp only
  rw [countHbm_eq]; dsimp only
  rw [unpoison_eq]; dsimp only
  rw [physWrite_frame]
theorem devWrite_intake : (s.devWrite a bs).intake = s.intake := by
  unfold State.devWrite
  rw [breakReserve_eq]; dsimp only
  rw [markDirty_eq]; dsimp only
  rw [countHbm_eq]; dsimp only
  rw [unpoison_eq]; dsimp only
  rw [physWrite_frame]
theorem devWrite_net : (s.devWrite a bs).net = s.net := by
  unfold State.devWrite
  rw [breakReserve_eq]; dsimp only
  rw [markDirty_eq]; dsimp only
  rw [countHbm_eq]; dsimp only
  rw [unpoison_eq]; dsimp only
  rw [physWrite_frame]
theorem devWrite_peers : (s.devWrite a bs).peers = s.peers := by
  unfold State.devWrite
  rw [breakReserve_eq]; dsimp only
  rw [markDirty_eq]; dsimp only
  rw [countHbm_eq]; dsimp only
  rw [unpoison_eq]; dsimp only
  rw [physWrite_frame]
theorem devWrite_colls : (s.devWrite a bs).colls = s.colls := by
  unfold State.devWrite
  rw [breakReserve_eq]; dsimp only
  rw [markDirty_eq]; dsimp only
  rw [countHbm_eq]; dsimp only
  rw [unpoison_eq]; dsimp only
  rw [physWrite_frame]
theorem devWrite_power : (s.devWrite a bs).power = s.power := by
  unfold State.devWrite
  rw [breakReserve_eq]; dsimp only
  rw [markDirty_eq]; dsimp only
  rw [countHbm_eq]; dsimp only
  rw [unpoison_eq]; dsimp only
  rw [physWrite_frame]
theorem devWrite_facility : (s.devWrite a bs).facility = s.facility := by
  unfold State.devWrite
  rw [breakReserve_eq]; dsimp only
  rw [markDirty_eq]; dsimp only
  rw [countHbm_eq]; dsimp only
  rw [unpoison_eq]; dsimp only
  rw [physWrite_frame]
theorem devWrite_dbg : (s.devWrite a bs).dbg = s.dbg := by
  unfold State.devWrite
  rw [breakReserve_eq]; dsimp only
  rw [markDirty_eq]; dsimp only
  rw [countHbm_eq]; dsimp only
  rw [unpoison_eq]; dsimp only
  rw [physWrite_frame]
theorem devWrite_windows : (s.devWrite a bs).windows = s.windows := by
  unfold State.devWrite
  rw [breakReserve_eq]; dsimp only
  rw [markDirty_eq]; dsimp only
  rw [countHbm_eq]; dsimp only
  rw [unpoison_eq]; dsimp only
  rw [physWrite_frame]
theorem devWrite_commit : (s.devWrite a bs).commit = s.commit := by
  unfold State.devWrite
  rw [breakReserve_eq]; dsimp only
  rw [markDirty_eq]; dsimp only
  rw [countHbm_eq]; dsimp only
  rw [unpoison_eq]; dsimp only
  rw [physWrite_frame]
end devWriteLaws

theorem devWrite_reg (s : State) (a : Nat) (bs : Bytes) (r : Nat) : (s.devWrite a bs).reg r = s.reg r := by
  simp only [State.reg, devWrite_regs]

/-- A device write changes no byte kept outside the places of its bytes. -/
theorem devWrite_memGet_ne (s : State) (a : Nat) (bs : Bytes) (k : Nat) (h : ∀ j, j < bs.length → k ≠ s.loc (a + j)) :
    memGet (s.devWrite a bs).mem k = memGet s.mem k := by
  rw [devWrite_mem]; exact physWrite_memGet_ne bs s a k h

/-! ## What every operation keeps -/

/-- `s` has the waiting commands and the part of `z`, has used up at least its free values, and is in canonical form where `z` is. -/
structure Keeps (z s : State) : Prop where
  pending : s.pending = z.pending
  part : s.part = z.part
  fresh : z.fresh ≤ s.fresh
  mem : memWf z.mem = true → memWf s.mem = true
  regs : smapWf (fun k => some (regReset k)) z.regs = true → smapWf (fun k => some (regReset k)) s.regs = true

theorem keeps_refl (s : State) : Keeps s s := ⟨rfl, rfl, le_refl _, id, id⟩

theorem keeps_trans {a b c : State} (h : Keeps a b) (k : Keeps b c) : Keeps a c :=
  ⟨k.pending.trans h.pending, k.part.trans h.part, h.fresh.trans k.fresh, k.mem ∘ h.mem, k.regs ∘ h.regs⟩

/-- A state that differs in none of the five. -/
theorem keeps_of {z s t : State} (h : Keeps z s) (h1 : t.pending = s.pending) (h2 : t.part = s.part) (h3 : s.fresh ≤ t.fresh)
    (h4 : t.mem = s.mem) (h5 : t.regs = s.regs) : Keeps z t :=
  ⟨h1 ▸ h.pending, h2 ▸ h.part, h.fresh.trans h3, h4 ▸ h.mem, h5 ▸ h.regs⟩

theorem keeps_ite {z : State} {c : Prop} [Decidable c] {a b : State} (ha : Keeps z a) (hb : Keeps z b) :
    Keeps z (if c then a else b) := by
  split <;> assumption

theorem keeps_foldl {α : Type} {z : State} (f : State → α → State) (xs : List α) (s : State) (hs : Keeps z s)
    (hf : ∀ t x, Keeps z t → Keeps z (f t x)) : Keeps z (xs.foldl f s) := by
  induction xs generalizing s with
  | nil => exact hs
  | cons x xs ih => exact ih _ (hf _ _ hs)

theorem keeps_setReg {z s : State} (a : Nat) (v : Word) (h : Keeps z s) : Keeps z (s.setReg a v) :=
  ⟨h.pending, h.part, h.fresh, h.mem, fun k => smapWf_put _ _ _ _ (h.regs k)⟩

theorem keeps_setFld {z s : State} (f : Fld) (v : Nat) (h : Keeps z s) : Keeps z (s.setFld f v) := keeps_setReg _ _ h

theorem keeps_addFld {z s : State} (f : Fld) (n : Nat) (h : Keeps z s) : Keeps z (s.addFld f n) := keeps_setReg _ _ h

theorem keeps_resetRegRange {z s : State} (lo n : Nat) (h : Keeps z s) : Keeps z (s.resetRegRange lo n) :=
  ⟨h.pending, h.part, h.fresh, h.mem, fun k => smapWf_drop _ _ _ _ (h.regs k)⟩

theorem keeps_store {z s : State} (a : Nat) (bs : Bytes) (h : Keeps z s) : Keeps z (s.store a bs) := by
  rw [store_frame]
  exact ⟨h.pending, h.part, h.fresh, fun k => store_memWf _ _ _ (h.mem k), h.regs⟩

theorem keeps_physWrite {z s : State} (a : Nat) (bs : Bytes) (h : Keeps z s) : Keeps z (s.physWrite a bs) := by
  rw [physWrite_frame]
  exact ⟨h.pending, h.part, h.fresh, fun k => physWrite_memWf _ _ _ (h.mem k), h.regs⟩

theorem keeps_devWrite {z s : State} (a : Nat) (bs : Bytes) (h : Keeps z s) : Keeps z (s.devWrite a bs) := by
  refine ⟨?_, ?_, ?_, ?_, ?_⟩
  · rw [devWrite_pending]; exact h.pending
  · rw [devWrite_part]; exact h.part
  · rw [devWrite_fresh]; exact h.fresh
  · rw [devWrite_mem]; exact fun k => physWrite_memWf _ _ _ (h.mem k)
  · rw [devWrite_regs]; exact h.regs

theorem keeps_scramble {z s : State} (lo n : Nat) (h : Keeps z s) : Keeps z (s.scramble lo n) :=
  ⟨h.pending, h.part, h.fresh.trans (Nat.le_succ _), fun k => memWf_memFill _ _ _ _ (h.mem k), h.regs⟩

theorem keeps_clear {z s : State} (lo n : Nat) (h : Keeps z s) : Keeps z (s.clear lo n) :=
  ⟨h.pending, h.part, h.fresh, fun k => memWf_memFill _ _ _ _ (h.mem k), h.regs⟩

theorem keeps_countHbm {z s : State} (a n : Nat) (h : Keeps z s) : Keeps z (s.countHbm a n) := by
  rw [countHbm_eq]; exact ⟨h.pending, h.part, h.fresh, h.mem, h.regs⟩

theorem keeps_setTile {z s : State} (t : Nat) (x : Tile) (h : Keeps z s) : Keeps z (s.setTile t x) :=
  ⟨h.pending, h.part, h.fresh, h.mem, h.regs⟩

theorem keeps_setDom {z s : State} (d : Nat) (x : Dom) (h : Keeps z s) : Keeps z (s.setDom d x) :=
  ⟨h.pending, h.part, h.fresh, h.mem, h.regs⟩

theorem keeps_setQueue {z s : State} (q : Nat) (x : Queue) (h : Keeps z s) : Keeps z (s.setQueue q x) :=
  ⟨h.pending, h.part, h.fresh, h.mem, h.regs⟩

theorem keeps_setCmd {z s : State} (p : Pending) (h : Keeps z s) : Keeps z (s.setCmd p) :=
  ⟨h.pending, h.part, h.fresh, h.mem, h.regs⟩

theorem keeps_begin {z s : State} (p : Pending) (h : Keeps z s) : Keeps z (s.begin p) := keeps_setCmd _ h

theorem keeps_advance {z s : State} (ns : Nat) (h : Keeps z s) : Keeps z (s.advance ns) :=
  ⟨h.pending, h.part, h.fresh, h.mem, h.regs⟩

theorem keeps_answer {z s : State} (request status : Nat) (data : Bytes) (h : Keeps z s) : Keeps z (s.answer request status data) := by
  have k : Keeps z (((s.addFld MGT_COUNTS_REQUESTS 1).setFld MGT_LAST_REQUEST request).setFld MGT_LAST_STATUS status) :=
    keeps_setFld _ _ (keeps_setFld _ _ (keeps_addFld _ _ h))
  unfold State.answer
  split
  · exact keeps_of k rfl rfl (le_refl _) rfl rfl
  · exact keeps_of (keeps_addFld MGT_COUNTS_REJECTED 1 k) rfl rfl (le_refl _) rfl rfl

theorem keeps_trace {z s : State} (unit kind dom ticket : Nat) (args : Bytes) (h : Keeps z s) :
    Keeps z (s.trace unit kind dom ticket args) := by
  unfold State.trace
  dsimp only
  split
  · have f : Keeps z { s with fresh := s.fresh + 1 } := keeps_of h rfl rfl (Nat.le_succ _) rfl rfl
    have k := fun (b : Nat) (bs : Bytes) => keeps_store b bs f
    exact keeps_ite (keeps_addFld _ _ f)
      (keeps_ite (keeps_setFld _ _ (k _ _)) (keeps_ite (keeps_setFld _ _ (k _ _)) (keeps_setFld _ _ (keeps_setFld _ _ (k _ _)))))
  · exact h

theorem keeps_ringPut {z s : State} (e : Bytes) (h : Keeps z s) : Keeps z (s.ringPut e) := by
  unfold State.ringPut
  dsimp only
  split
  · exact keeps_of (keeps_addFld CTL_ERR_STATUS_RING_LOST 1 h) rfl rfl (le_refl _) rfl rfl
  · exact keeps_setFld _ _ (keeps_store _ _ (keeps_of h rfl rfl (le_refl _) rfl rfl))

theorem keeps_nextSeq {z s : State} (h : Keeps z s) : Keeps z s.nextSeq :=
  keeps_setFld _ _ (keeps_of h rfl rfl (le_refl _) rfl rfl)

theorem keeps_ringEntry {z s : State} (e : Bytes) (h : Keeps z s) : Keeps z (s.ringEntry e) := by
  unfold State.ringEntry
  dsimp only
  split
  · exact keeps_ringPut _ (keeps_nextSeq (keeps_ringPut _ h))
  · exact keeps_ringPut _ h

theorem keeps_event {z s : State} (unit code dom : Nat) (args : Bytes) (h : Keeps z s) : Keeps z (s.event unit code dom args) :=
  keeps_ringEntry _ (keeps_nextSeq h)

theorem keeps_logRecord {z s : State} (unit cls flags : Nat) (i : ErrInfo) (h : Keeps z s) : Keeps z (s.logRecord unit cls flags i) := by
  have words : ∀ (u : State) (e : Bytes) (base : Nat → Nat), Keeps z u →
      Keeps z ((List.range 8).foldl (fun (w : State) j => w.setReg (base j) (word (fieldAt e (8 * j) 8))) u) :=
    fun u e base k => keeps_foldl _ _ _ k (fun t _ q => keeps_setReg _ _ q)
  have fatal : ∀ (u : State) (e : Bytes), Keeps z u → Keeps z
      (if cls = 3 ∧ u.fld CTL_ERR_STATUS_FATAL_VALID = 0 then
        ((List.range 8).foldl (fun (w : State) j => w.setReg (CTL_ERR_FATAL j) (word (fieldAt e (8 * j) 8))) u).setFld
          CTL_ERR_STATUS_FATAL_VALID 1
       else u) := fun u e k => keeps_ite (keeps_setFld _ _ (words u e _ k)) k
  have counted : ∀ u : State, Keeps z u → Keeps z
      (if cls = 0 then u.addFld CTL_ERR_COUNTS_CORRECTED 1 else if cls = 1 then u.addFld CTL_ERR_COUNTS_DEFERRED 1
       else if cls = 2 then u.addFld CTL_ERR_COUNTS_CONTAINED 1 else u) :=
    fun u k => keeps_ite (keeps_addFld _ _ k) (keeps_ite (keeps_addFld _ _ k) (keeps_ite (keeps_addFld _ _ k) k))
  unfold State.logRecord
  exact keeps_ringEntry _ (keeps_nextSeq (keeps_ite (keeps_addFld _ _ (keeps_trace _ _ _ _ _ (counted _ (keeps_store _ _ (fatal _ _
    (words _ _ _ (keeps_ite (keeps_setFld _ _ h) h))))))) (keeps_trace _ _ _ _ _ (counted _ (keeps_store _ _ (fatal _ _
    (words _ _ _ (keeps_ite (keeps_setFld _ _ h) h))))))))

theorem keeps_windows {z s : State} (ws : List Window) (h : Keeps z s) : Keeps z { s with windows := ws } :=
  ⟨h.pending, h.part, h.fresh, h.mem, h.regs⟩

theorem keeps_report {z s : State} (unit cls : Nat) (i : ErrInfo) (h : Keeps z s) : Keeps z (s.report unit cls i) := by
  have k : ∀ fl up, Keeps z (s.logRecord unit up fl i) := fun fl up => keeps_logRecord unit up fl i h
  have e : ∀ (c : Prop) [Decidable c] (fl up : Nat) (x : Bytes),
      Keeps z (if c then s.logRecord unit up fl i else (s.logRecord unit up fl i).event unit 0x807C i.dom x) :=
    fun c _ fl up x => keeps_ite (k fl up) (keeps_event unit 0x807C i.dom x (k fl up))
  unfold State.report
  exact keeps_ite (keeps_windows _ (e _ _ _ _)) (e _ _ _ _)

theorem keeps_outs {z s : State} (o : Outputs) (h : Keeps z s) : Keeps z { s with outs := o } :=
  ⟨h.pending, h.part, h.fresh, h.mem, h.regs⟩

theorem keeps_interrupt {z s : State} (q : Nat) (h : Keeps z s) : Keeps z (s.interrupt q) := by
  unfold State.interrupt
  have k := keeps_setQueue q { s.queue q with unsignalled := 0 } h
  exact keeps_ite (keeps_outs _ k) k

theorem keeps_subFld {z s : State} (f : Fld) (n : Nat) (h : Keeps z s) : Keeps z (s.subFld f n) := keeps_setReg _ _ h

theorem keeps_writeRecord {z s : State} (p : Pending) (c : Completion) (h : Keeps z s) : Keeps z (s.writeRecord p c) := by
  have counted : ∀ (b : Bool) (x : Nat) (y : Bytes), Keeps z (if b = true then s.store x y else s) :=
    fun _ _ _ => keeps_ite (keeps_store _ _ h) h
  have told : ∀ (u : State) (n : Nat) (q : Nat), Keeps z u →
      Keeps z (if n ≥ max 1 (u.fld (HST_Q_IRQ_COALESCE_COUNT q)) then u.interrupt q else u) :=
    fun u _ _ k => keeps_ite (keeps_interrupt _ k) k
  unfold State.writeRecord
  exact keeps_ite (keeps_setFld _ _ (told _ _ _ (keeps_subFld _ _ (keeps_setQueue _ _ (keeps_store _ _ (counted _ _ _))))))
    (told _ _ _ (keeps_subFld _ _ (keeps_setQueue _ _ (keeps_store _ _ (counted _ _ _)))))

theorem keeps_flush {z s : State} (q : Nat) (h : Keeps z s) : Keeps z (s.flush q) := by
  unfold State.flush
  refine keeps_foldl _ _ _ h (fun t p k => ?_)
  split
  · exact keeps_writeRecord _ _ (keeps_of k rfl rfl (le_refl _) rfl rfl)
  · exact k

/-- A command's end keeps what every operation keeps. -/
theorem keeps_finish {z s : State} (x : Word) (c : Completion) (h : Keeps z s) : Keeps z (s.finish x c) := by
  unfold State.finish
  split
  · exact h
  · split
    · exact h
    · exact keeps_flush _ (keeps_trace _ _ _ _ _ (keeps_setCmd _ h))

theorem keeps_finishAll {z s : State} (f : Pending → Bool) (c : Pending → Completion) (h : Keeps z s) : Keeps z (s.finishAll f c) :=
  keeps_foldl _ _ _ h (fun _ p k => keeps_finish p.handle (c p) k)

theorem keeps_freshWord {z s : State} (h : Keeps z s) : Keeps z s.freshWord.2 :=
  keeps_of h rfl rfl (Nat.le_succ _) rfl rfl

theorem keeps_count {z s : State} (d i n : Nat) (h : Keeps z s) : Keeps z (s.count d i n) := keeps_of h rfl rfl (le_refl _) rfl rfl

theorem keeps_growFree {z s : State} (f : Fld) (h : Keeps z s) : Keeps z (s.growFree f) := keeps_addFld _ _ (keeps_freshWord h)

theorem keeps_arrayWaits {z s : State} (t a n : Nat) (h : Keeps z s) : Keeps z (s.arrayWaits t a n) := keeps_count _ _ _ (keeps_addFld _ _ h)

/-- The pacing of a start changes wait counters and uses up a free value (R441). -/
theorem keeps_paced {z s : State} (t : Nat) (o : Op) (e : Nat) (h : Keeps z s) : Keeps z (s.paced t o e) := by
  unfold State.paced
  exact keeps_ite (keeps_ite h (keeps_arrayWaits _ _ _ (keeps_freshWord h))) (keeps_ite (keeps_addFld _ _ (keeps_freshWord h)) h)

/-- A transfer cut short writes memory by whole lines and uses up a free value (R108, R327, R424). -/
theorem keeps_landBytes {z s : State} (dst : Nat) (bs : Bytes) (h : Keeps z s) : Keeps z (s.landBytes dst bs) :=
  keeps_of (keeps_foldl _ _ _ h (fun _ _ k => keeps_ite (keeps_devWrite _ _ k) k)) rfl rfl (Nat.le_succ _) rfl rfl

theorem keeps_openAt {z s : State} (a n : Nat) (h : Keeps z s) : Keeps z (s.openAt a n) := by
  unfold State.openAt
  refine keeps_ite (keeps_scramble _ _ h) (keeps_of (keeps_devWrite a _ h) rfl rfl ?_ rfl rfl)
  rw [devWrite_fresh]
  exact Nat.le_succ _

theorem keeps_dropLines {z s : State} (dst n : Nat) (h : Keeps z s) : Keeps z (s.dropLines dst n) :=
  keeps_of (keeps_foldl _ _ _ h (fun _ _ k => keeps_ite k (keeps_openAt _ _ k))) rfl rfl (Nat.le_succ _) rfl rfl

theorem keeps_sendPoint {z s : State} (r n : Nat) (h : Keeps z s) : Keeps z (s.sendPoint r n) := keeps_outs _ h

/-- A change of voltage changes the set points sent alone (R431). -/
theorem keeps_sendPoints {z s : State} (n : Nat) (h : Keeps z s) : Keeps z (s.sendPoints n) :=
  keeps_foldl _ _ _ h (fun _ _ k => keeps_sendPoint _ _ k)

end Sys2Proof.Laws
end

