-- ==== Sys2Proof/Tests/Slice0.lean ====
section
/-!
SUPPORT. Tests of the definitions, and for every statement with hypotheses a theorem that a concrete state and operands meet them.
-/

set_option Elab.async false

namespace Sys2Proof.Tests
open Sys2Proof Sys2Proof.Machine

/-- A running state in mode `m`. -/
def inState (m : Nat) : State := ({ phase := .running } : State).setFld CTL_MODE_MODE m

/-- The entry of a command of class `c` and operation `o`, with bytes at given offsets. -/
def cmdOf (c o : Nat) (rest : List (Nat × Bytes)) : Pending :=
  { handle := 1, entry := rest.foldl (fun e x => putAt e x.1 x.2) (putAt (zeros 64) 0 (leBytes 2 (c * 4096 + o))) }

/-- A state to which that command, with handle 1, has been sent. -/
def sent (s : State) (c o : Nat) (rest : List (Nat × Bytes)) : State := { s with cmds := [cmdOf c o rest] }

/-- An image with one domain, number 0, on tile 0. -/
def oneDomain : Image := { sections := [{ id := secDomains, entries := [putAt (zeros 64) 8 [1#8]] }] }

/-- Aloft, with domain 0 running on tile 0. -/
def working : State :=
  { (((inState 3).setFld (CTL_DOM_STATE_STATE 0) 1).setFld (TIL_STATE_STATE 0) 2) with image := some oneDomain, dies := 15 }

/-- That state with this tile 0. -/
def withTile (x : Tile) : State := working.setTile 0 x

/-- The core of tile 0 at a word, with these registers. -/
def coreAt (w : Nat) (x : SMap Word) : Tile :=
  { run := .running, xreg := x, iram := (List.range 4).map (fun i => (i, byte (w / 256 ^ i))) }

/-- A word of Table TIL-3 with funct3 `k` and funct7 `j`, naming x1 and x2 as its sources and x3 as its destination. -/
def custom (k j : Nat) : Nat := 0x0B + 3 * 2 ^ 7 + k * 2 ^ 12 + 1 * 2 ^ 15 + 2 * 2 ^ 20 + j * 2 ^ 25

/-- An operation of engine `e` that its engine has taken. -/
def opOf (e c : Nat) (rest : List (Nat × Bytes)) : Op :=
  { desc := rest.foldl (fun d x => putAt d x.1 x.2) (putAt (zeros 64) 0 [byte e, byte c]), started := true }

/-- Tile 0 with that operation in its first entry. -/
def opState (o : Op) : State := withTile { ops := [(0, o)] }

/-- Memory in which every byte reads as zero. -/
def zeroMem : Mem := ⟨[], [⟨0, 2 ^ 48, .zero⟩]⟩

/-- A snapshot descriptor of domain 0 at step 4 with its first spool record at sequence 9. -/
def descriptor : Bytes :=
  let b := putAt (putAt (putAt (zeros 128) 0 (leBytes 4 0x4E58444C)) 8 (leBytes 8 4)) 48 (leBytes 8 9)
  putAt b 124 (leBytes 4 (crc32c (b.take 124)))

/-- A STEP_END record of domain 0 and step 5 at sequence 9. -/
def spoolEnd : Bytes :=
  let r := putAt (putAt (putAt (putAt (zeros 64) 0 (leBytes 4 0x5058444C)) 4 [7#8]) 8 (leBytes 8 5)) 40 (leBytes 8 9)
  putAt r 20 (leBytes 4 (crc32c r))

theorem next_of {o : Out} (h : (match o with | .next _ => true | _ => false) = true) : ∃ t, o = .next t := by
  cases o <;> simp_all

theorem done_of {r : Ran} (h : (match r with | .done _ _ _ _ => true | _ => false) = true) : ∃ u rd v pc, r = .done u rd v pc := by
  cases r <;> simp_all

theorem trap_of {r : Ran} (h : (match r with | .trap _ => true | _ => false) = true) : ∃ c, r = .trap c := by
  cases r <;> simp_all

theorem some_of {α : Type} {o : Option α} (h : o.isSome = true) : ∃ u, o = some u := Option.isSome_iff_exists.1 h

theorem free_entry (s : State) (t : Nat) (h : (s.tile t).freeIndices ≠ []) : ∃ i, s.freeIndex t = some i := by
  have n : 0 < (s.tile t).freeIndices.length := List.length_pos_iff.2 h
  have m : max 1 (s.tile t).freeIndices.length = (s.tile t).freeIndices.length := Nat.max_eq_right n
  exact some_of (by simp [State.freeIndex, m, Nat.mod_lt _ n])

theorem all_of {α : Type} {o : Option α} {q : α → Bool} (h : o.all q = true) : ∀ j, o = some j → q j = true := by
  intro j e; subst e; exact h

/-- Tables with a sequence 0 of 16 tokens on one valid page and an empty sequence 1. -/
def kvMem : Mem :=
  ((({ State.reset with mem := zeroMem }.physWrite hbmBase [1#8]).physWrite (hbmBase + 2 ^ 26)
    [0#8, 0#8, 0#8, 0#8, 1#8, 0#8, 0x10#8, 0#8, 1#8, 0#8, 0#8, 0#8, 16#8]).physWrite (hbmBase + 2 ^ 26 + 32)
    [16#8, 0#8, 0#8, 0#8, 1#8, 0#8, 0x10#8, 0#8, 1#8]).mem

/-- A walker operation under enabled tables. -/
def kvState (o : Op) : State := { (opState o).setFld KVP_STATUS_STATE 1 with mem := kvMem }

/-- A link die with port 0 up to one peer that has answered. -/
def lineUp : State :=
  ({ inState 3 with links := 1, foundation := { peers := [{}] }, peers := [(0, { state := 2 })] }).setFld (LNK_PORT_STATUS_UP 0 0) 1

/-- A word of a memory read with this outcome. -/
def foundAs (e : Ecc) : Found := ⟨0#48, e, 0#15⟩

/-- A frame from peer 0. -/
def frameOf (kind : Nat) (body : Body) : Frame :=
  { port := 0, srcIp := 0, kind := kind, srcRank := 0, dstRank := 0, flow := 0, seq := 0, crcOk := true, marked := false, body := body }

theorem two_places : ∀ i j, i < [1#8, 2#8].length → j < [1#8, 2#8].length →
    State.reset.loc (4096 + i) = State.reset.loc (4096 + j) → i = j := by
  have h : ∀ i, i < 2 → ∀ j, j < 2 → State.reset.loc (4096 + i) = State.reset.loc (4096 + j) → i = j := by decide +kernel
  exact fun i j a b => h i a j b

def formatA : Format := ⟨1, 1, 0, false, false, false⟩
def formatB : Format := ⟨1, 2, 0, false, false, false⟩

/-- The image with one domain and more sections. -/
def withSections (xs : List Section) : Image := { oneDomain with sections := oneDomain.sections ++ xs }

def withFormats : Image := withSections [{ id := secFormats, entries := [[0#8, 1#8, 1#8], [1#8, 1#8, 2#8]] }]

/-- One MEMORY region of this kind and size, at the bottom of HBM. -/
def withRegion (kind size : Nat) : Section := { id := secMemory, pre := zeros 64, entries := [putAt (putAt (zeros 64) 0 [byte kind]) 16 (leBytes 8 size)] }

/-- A stash region and class 0 with this policy. -/
def withStash (policy : Nat) : Image :=
  withSections [withRegion 2 (2 ^ 25), { id := secStash, entries := [putAt (zeros 64) 2 [byte policy]] }]

/-- Domain 0 on tile 0 with tile 1 as its spare. -/
def withSpare : Image := { sections := [{ id := secDomains, entries := [putAt (putAt (zeros 112) 8 [1#8]) 56 [2#8]] }] }

/-- A sample of one frame of format 1. -/
def sample : Sample := { record := putAt (putAt (putAt (zeros 64) 16 [64#8]) 20 [1#8]) 22 [1#8] }

/-- A shard of 64 by 64 elements whose record in HBM names a module. -/
def shardMem : Mem :=
  (({ State.reset with mem := zeroMem, hbmMap := { regions := [{ size := 2 ^ 24, pcs := [0] }] } }.physWrite padBase
    (([(44, [64#8]), (48, [64#8]), (50, [1#8, 1#8, 0#8]), (64, leBytes 4 0x3F800000), (96, leBytes 8 hbmBase)] : List (Nat × Bytes)).foldl
      (fun (b : Bytes) (x : Nat × Bytes) => putAt b x.1 x.2) (zeros 128))).physWrite (hbmBase + 2) [1#8]).mem

/-- A batch record of domain 0 and step 0 with one sample. -/
def batchRecord : Bytes := putAt (zeros 64) 10 [1#8]

theorem zero_byte (k : Nat) : memGet zeroMem k = 0#8 := by
  simp [memGet, zeroMem, rangeByte]

theorem zero_bytes (s : State) (h : s.mem = zeroMem) : ∀ n a : Nat, s.bytesAt a n = zeros n
  | 0, _ => rfl
  | n + 1, a => by
    rw [State.bytesAt, h, zero_byte, zero_bytes s h n (a + 1)]; rfl

/-- Under memory of zeros every sequence of the tables is closed. -/
theorem zero_seq (s : State) (h : s.mem = zeroMem) (j : Nat) : (s.seq j).state = 0 := by
  simp only [State.seq, zero_bytes s h]; decide +kernel

/-- An OPEN of sequence 0 over 1 stream of 256 tokens. -/
def openOp : Op := opOf 8 3 [(16, [1#8]), (20, leBytes 4 256)]

def openState : State :=
  { (opState openOp).setFld KVP_STATUS_STATE 1 with mem := zeroMem, image := some (withSections [withRegion 3 (2 ^ 30)]) }

theorem witness_open : ∃ (s : State) (t : Fin 384) (i : Fin 64) (o : Op) (d : Nat),
    (s.held t.val i.val [8] 3 = some o ∧ s.domOf t.val = some d ∧ s.fld KVP_STATUS_STATE ≠ 0 ∧
    o.reservedOk [(8, 2), (12, 7), (20, 4)] = true ∧
    o.field 12 4 % 16 = 0 ∧ 1 ≤ o.field 16 2 ∧ o.field 16 2 ≤ 4096 ∧ o.field 18 1 < 8 ∧ (s.poolEntry (o.field 18 1)).isSome = true ∧
    o.field 20 4 % 256 = 0 ∧ 256 ≤ o.field 20 4 ∧ o.field 20 4 ≤ 1048576 ∧
    o.field 12 4 + o.field 16 2 * (o.field 20 4 / 16) ≤ 4194304) ∧ (s.seq (o.field 8 2)).state = 0 ∧
    (∀ j, j < 65536 → (s.seq j).state = 0 ∨ (s.seq j).base + (s.seq j).entries ≤ o.field 12 4 ∨
      o.field 12 4 + o.field 16 2 * (o.field 20 4 / 16) ≤ (s.seq j).base) :=
  ⟨openState, 0, 0, openOp, 0, by decide +kernel, zero_seq _ rfl _, fun j _ => .inl (zero_seq _ rfl j)⟩

/-- A decode of one granule on channel 0. -/
def oneGranule : HbmMap := { regions := [{ size := 256, pcs := [0], bases := [0, 0, 0, 0] }] }

theorem one_granule_sound : oneGranule.sound := by
  simp only [HbmMap.sound, HbmRegion.fits, HbmRegion.clearOf]; decide +kernel

/-- A MEMORY section of one region of 64 KiB over every channel of stack 0. -/
theorem one_region_fits : ∀ r ∈ (mapOf 1 0 [putAt (putAt (zeros 64) 0 [2#8]) 16 (leBytes 8 65536)]).regions, r.fits := by
  simp only [HbmRegion.fits]; decide +kernel

theorem leNat_leBytes : ∀ n v : Nat, leNat (leBytes n v) = v % 256 ^ n
  | 0, v => by simp [leBytes, leNat, Nat.mod_one]
  | n + 1, v => by
    have p : 256 ^ (n + 1) = 2 ^ 8 * 256 ^ n := by rw [Nat.pow_succ', show (2 : Nat) ^ 8 = 256 from rfl]
    rw [leBytes, leNat, leNat_leBytes n, byte, BitVec.toNat_ofNat, p]
    exact Nat.mod_mul.symm

theorem leNat_lt : ∀ bs : Bytes, leNat bs < 256 ^ bs.length
  | [] => by simp [leNat]
  | b :: bs => by
    have h := leNat_lt bs
    have := b.isLt
    rw [leNat, List.length_cons, Nat.pow_succ']
    omega

theorem keyId_lt (k : Bytes) : keyId k < 256 ^ 8 :=
  Nat.lt_of_lt_of_le (leNat_lt _) (Nat.pow_le_pow_right (by decide) (by simp [List.length_take]))

/-- A grant of scope 1 for an hour to this module under the vendor key, for a challenge of zeros, with this signature. -/
def grantOf (signature : Bytes) : Bytes :=
  leBytes 4 0x4758444C ++ [1#8, 0#8, 0#8, 0#8] ++ leBytes 8 ownModuleId ++ leBytes 4 3600 ++ leBytes 8 (keyId Config.vendorKey) ++
    zeros 36 ++ zeros 64 ++ signature

/-- A module in Tethered that has answered a challenge with zeros. -/
def challenged : State := { State.reset with phase := .running, security := { nonce := some (zeros 32) } }

/-- The grant is accepted when the vendor key verifies its signature of zeros: the one thing asked of the opaque Ed25519. -/
theorem grant_accepted (h : Config.ed25519Verify Config.vendorKey (sha512 (takeAt (grantOf (zeros 64)) 0 128))
    (takeAt (grantOf (zeros 64)) 128 64) = true) : challenged.grantStatus (grantOf (zeros 64)) = ST_OK := by
  have a : (grantOf (zeros 64)).length = 192 := by decide +kernel
  have b : fieldAt (grantOf (zeros 64)) 0 4 = 0x4758444C := by decide +kernel
  have c : (!(allZero (takeAt (grantOf (zeros 64)) 5 3)) || !(allZero (takeAt (grantOf (zeros 64)) 28 36)) ||
      !(allZero (takeAt (grantOf (zeros 64)) 96 32)) || decide (16 ≤ fieldAt (grantOf (zeros 64)) 4 1)) = false := by decide +kernel
  have d : fieldAt (grantOf (zeros 64)) 8 8 = ownModuleId := by
    have e : takeAt (grantOf (zeros 64)) 8 8 = leBytes 8 ownModuleId := rfl
    rw [fieldAt, e, leNat_leBytes]; exact Nat.mod_eq_of_lt (keyId_lt _)
  have e : fieldAt (grantOf (zeros 64)) 20 8 = keyId Config.vendorKey := by
    have e : takeAt (grantOf (zeros 64)) 20 8 = leBytes 8 (keyId Config.vendorKey) := rfl
    rw [fieldAt, e, leNat_leBytes, Nat.mod_eq_of_lt (keyId_lt _)]
  have f : challenged.security.nonce = some (takeAt (grantOf (zeros 64)) 64 32) := rfl
  have g : fieldAt (grantOf (zeros 64)) 16 4 = 3600 := by decide +kernel
  simp [State.grantStatus, a, b, c, d, e, f, g, h, State.keyNamed]

/-! ## Operands that the spec does not give -/

/-- A term of each form that `wellFormed` refuses. -/
theorem test_ill_formed_refused :
    ([.registerWrite 0 3 0, .hostCoreAccess .load 0 16 0 [], .pcieInboundRequest .load none 0 [] [], .pcieInboundRequest .store none 2 [0#8] [],
      .pushWindowWrite 0 0 [], .pushWindowWrite 0 60 (zeros 5), .windowSubmit 0 56 (zeros 9),
      .arbiterDecision ⟨3, 0, 0⟩ [], .arbiterDecision ⟨0, 0, 0⟩ [⟨1, .other⟩, ⟨1, .control⟩], .arbiterWindowReset ⟨0, 4, 0⟩,
      .arbiterBackoffExpiry ⟨3, 0, 0⟩ 0, .arbiterWatchdogExpiry ⟨3, 3, 0⟩, .hello 0 { frameOf 1 (.snapReq 0) with flow := 4096 } .clean,
      .sack 0 { frameOf 2 (.snapReq 0) with seq := 2 ^ 32 } .clean .clean, .timeFrame 0 { frameOf 256 (.snapReq 0) with seq := 0 } 0 .clean,
      .snapReq 0 { frameOf 7 (.snapReq 0) with srcRank := 65536 } .clean, .mirrorFrame 0 { frameOf 6 (.snapReq 0) with dstRank := 65536 } .clean,
      .spoolFrame 0 { frameOf 8 (.snapReq 0) with srcIp := 2 ^ 32 } .clean, .powerSample [] (0, 0), .thermalSample [] [] [] 0 0,
      .challenge (zeros 31), .getMeasurements 0 (some (zeros 33)), .jtagExtest [true] []] : List Instr).all (fun c => !c.wellFormed) = true := by
  decide +kernel

/-- Terms at the bounds that `wellFormed` accepts. -/
theorem test_well_formed_accepted :
    ([.registerWrite 0 8 0, .hostCoreAccess .store 0 1 0 [], .pcieInboundRequest .store none 2 (zeros 2) [], .pushWindowWrite 0 60 (zeros 4),
      .windowSubmit 0 56 (zeros 8), 
      .arbiterDecision ⟨3, 4, 0⟩ [⟨1, .other⟩, ⟨2, .control⟩], .hello 0 { frameOf 255 (.snapReq 0) with flow := 4095 } .clean,
      .powerSample (List.replicate 14 (0, 0)) (0, 0), .challenge (zeros 32), .getMeasurements 0 none, .jtagExtest [] []] :
        List Instr).all (·.wellFormed) = true := by
  decide +kernel

/-! ## The queue of commands -/

/-- The command in front is taken and the ones behind it stay; RST_N low for 1 µs without power only lowers the pin. -/
theorem test_step_takes_front :
    (match step { State.reset with pwrgood := false, pending := [.rstNAssert 1000, .pushSeal 0, .ascend false] } with
     | .next t => decide (t.pending = [.pushSeal 0, .ascend false]) && !t.rstN
     | _ => false) = true := by decide +kernel

/-- No row of the table gives bits: no word spells a command, and the queue stays as it is. -/
theorem test_no_word_spells_a_command : decodeTableWord 8 0 = none ∧ (State.reset.withFetchWord 8 0).pending = [] := by
  decide +kernel

/-! ## The spec's worked examples -/

/-- 00_scope: the TIL block of tile 229 starts at offset 0x10E5_0000. -/
theorem test_tile_block : TIL_STATE 229 / 0x10000 * 0x10000 = 0x10E5_0000 := by decide

/-- 05_host_complex, R98: with one stack of an S12 left out, HBM ends at 0x1083_FFFF_FFFF. -/
theorem test_hbm_end : hbmBase + ({ State.reset with hbmStacks := 0x0DFF } : State).hbmSize - 1 = 0x1083_FFFF_FFFF := by decide +kernel

/-- 06_commands_and_handles: the handle of queue 3, sequence 2,297 and incarnation 7. -/
theorem test_handle : mkHandle 3 2297 7 = 0x0300_0008_F900_07F5#64 := by decide +kernel

/-- 08_number_formats: the slice with one escape; magnitudes as FP32, the sixty others 0.25. -/
theorem test_escape :
    let x (i : Nat) : Lane := .num (fp32.decode
      (match i with | 17 => 0x42C00000 | 3 => 0x3F400000 | 40 => 0x39D1B717 | 41 => 0x358637BD | _ => 0x3E800000))
    let q := quantUnit ⟨3, 1, 1, false, false, false⟩ none (fun _ => 0) ((List.range 64).map x)
    (q.scale, q.escs, q.elems.getD 17 1, q.elems.getD 3 0, q.elems.getD 40 0, q.elems.getD 41 1, q.vanish) =
      (118, [[0x007C7D51]], 0, 0x7C, 0x25, 0, 1) := by decide +kernel

/-- 08_number_formats: one product 2^10 and fifteen of 1.25 × 2^-15 in a group give 1,024 and 4 units in the last place. -/
theorem test_guard_bits :
    let a (i : Nat) : Machine.Num := if i = 0 then .fin false 1 5 else .fin false 5 (-10)
    let b (i : Nat) : Machine.Num := if i = 0 then .fin false 1 5 else .fin false 1 (-7)
    fp32.encode (addGroups a b .zero 0 1) = 0x44800004 := by decide +kernel

/-- 12_attention_and_kv_cache: 172,800 tokens lie in bucket 10. -/
theorem test_bucket : bucketOf 172800 = 10 := by decide +kernel

/-- 13_stash_and_compression: the codes of the worked example, as symbol, length and codeword. -/
theorem test_codes :
    (codesOf (lengths12 64 [(124, 1024), (123, 512), (125, 256), (122, 224), (126, 24), (256, 1)])).map (fun c => (c.sym, c.len, c.bits)) =
      [(124, 1, 0), (123, 2, 0b10), (125, 3, 0b110), (122, 4, 0b1110), (126, 5, 0b11110), (256, 5, 0b11111)] := by decide +kernel

/-- 16_line_and_collectives: five members and MISS_FRAC 16,384 need a quorum of 4. -/
theorem test_quorum : ({ ranks := [0, 1, 2, 3, 4], post := putAt (zeros 64) 36 (leBytes 2 16384) } : Coll).quorumSize = 4 := by decide +kernel

/-- Rail 0 is set to 0.625 V before it is enabled (chapter 23, the start of the reference part). -/
theorem test_rail0_first : State.reset.setPoint 0 15 = 625 := by decide +kernel

/-- A rise to F3 that a decision still to come needs goes on through a slow-down from F5 to F10 (R432, R437). -/
theorem test_rise_goes_on :
    (({ State.reset with power := { volts := 5, rising := some 3, decisions := [(9, 3)] } }).lowerVolts 10).power.rising = some 3 := by
  decide +kernel

/-- A fifth request that would wait is refused, and changes no cap (R456). -/
theorem test_full_port :
    (match exec (.setCap 2000 5 true) { State.reset with phase := .running } with
     | .next t => decide (t.outs.mgmtStatus = ST_REJECTED_FULL) && decide (t.fld PWR_CAP_CAP_W = State.reset.fld PWR_CAP_CAP_W)
     | _ => false) = true := by decide +kernel

/-! ## Published check values of the algorithms the spec names (from outside the spec) -/

theorem test_crc32c : crc32c [0x31#8, 0x32#8, 0x33#8, 0x34#8, 0x35#8, 0x36#8, 0x37#8, 0x38#8, 0x39#8] = 0xE3069283 := by decide +kernel

theorem test_sha512 : (sha512 [0x61#8, 0x62#8, 0x63#8]).take 4 = [0xDD#8, 0xAF#8, 0x35#8, 0xA1#8] := by decide +kernel

theorem test_philox : (List.range 4).map (fun i => philoxWord 0 0 i 0 0) = [0x6627E8D5, 0xE169C58D, 0xBC57AC4C, 0x9B00DBD8] := by
  decide +kernel

/-! ## Witnesses

For each clause with hypotheses of each statement, in the order of its clauses, a state and operands that meet them. Where a hypothesis asks
for the answer of the opaque Ed25519, that answer is the premise of the witness. -/

theorem witness_StepRunsFront :
    (∃ (s : State) (c : Instr) (cs : List Instr), s.pending = c :: cs) ∧
    (∃ (s : State), s.pending = []) :=
  ⟨⟨{ State.reset with pending := [.pushSeal 0] }, .pushSeal 0, [], by decide +kernel⟩,
   ⟨{ State.reset with pending := [] }, by decide +kernel⟩⟩

theorem witness_StepKeepsCanonical :
    ∃ (s : State) , s.canonical = true ∧ ∃ t, step s = .next t :=
  ⟨State.reset, ⟨by decide +kernel, next_of (by decide +kernel)⟩⟩

theorem witness_StepKeepsQueueAndPart :
    (∃ (s : State) , ∃ t, step s = .next t) ∧
    (∃ (s : State) , ∃ t, step s = .next t) :=
  ⟨⟨State.reset, next_of (by decide +kernel)⟩,
   ⟨State.reset, next_of (by decide +kernel)⟩⟩

theorem witness_WrittenStateReadsBack :
    (∃ (f : Fld), f.lo + f.width ≤ 64) ∧
    (∃ (s : State) (a : Nat) (bs : Bytes), (∀ j, j < bs.length → padReserved (a + j) = false) ∧
      (∀ i j, i < bs.length → j < bs.length → s.loc (a + i) = s.loc (a + j) → i = j)) ∧
    (∃ (a : Nat), padReserved a = true) :=
  ⟨⟨⟨0, 63, 1⟩, by decide +kernel⟩,
   ⟨State.reset, 4096, [1#8, 2#8], ⟨by decide +kernel, two_places⟩⟩,
   ⟨padBase + 0x3F_FFFF, by decide +kernel⟩⟩

theorem witness_HbmDecodeIsOneToOne :
    (∃ m : HbmMap, m.sound ∧ ∃ a k, m.place a = some k) ∧
    (∃ (mask key : Nat) (es : List Bytes), es ≠ [] ∧ ∀ r ∈ (mapOf mask key es).regions, r.fits) ∧
    (∃ (mask : Nat), mask < 2 ^ 16 ∧ mask ≠ 0) :=
  ⟨⟨oneGranule, one_granule_sound, 255, 255, by decide +kernel⟩,
   ⟨1, 0, _, by simp, one_region_fits⟩,
   ⟨1, by decide +kernel⟩⟩

theorem witness_PinsAndBootComplete :
    (∃ (s : State), s.pwrgood = false) ∧
    (∃ (ns : Nat), ns < 1000) ∧
    (∃ (s : State) (ns : Nat), 1000 ≤ ns ∧ s.pwrgood = true) ∧
    (∃ (s : State) (ns : Nat), 1000 ≤ ns ∧ s.pwrgood = false) ∧
    (∃ (s : State), s.rstN = false ∧ s.pwrgood = false) ∧
    (∃ (s : State), s.rstN = false ∧ s.pwrgood = true) ∧
    (∃ (s : State), s.phase = .booting ∧ s.board.populationOk = true ∧ s.coldBoot = false) ∧
    (∃ (s : State), s.phase = .booting ∧ s.board.populationOk = true ∧ s.coldBoot = true) ∧
    (∃ (s : State), s.phase = .booting ∧ s.board.populationOk = false) ∧
    (∃ (s : State), s.showLimit.fld CTL_START_COUNT_LIMIT ≤ s.showLimit.fld CTL_START_COUNT_FAILED) ∧
    (∃ (s : State), s.phase ≠ .off ∧ s.phase ≠ .coldReset) :=
  ⟨⟨{ State.reset with pwrgood := false }, by decide +kernel⟩,
   ⟨999, by decide +kernel⟩,
   ⟨{ State.reset with pwrgood := true }, 1000, by decide +kernel⟩,
   ⟨{ State.reset with pwrgood := false }, 1000, by decide +kernel⟩,
   ⟨{ State.reset with rstN := false, pwrgood := false }, by decide +kernel⟩,
   ⟨{ State.reset with rstN := false, pwrgood := true }, by decide +kernel⟩,
   ⟨{ State.reset with phase := .booting, coldBoot := false }, by decide +kernel⟩,
   ⟨{ State.reset with phase := .booting, coldBoot := true }, by decide +kernel⟩,
   ⟨{ State.reset with board := { dimms := [some {}] } }, by decide +kernel⟩,
   ⟨({ State.reset with foundation := { startLimit := 2 } }).setFld CTL_START_COUNT_FAILED 2, by decide +kernel⟩,
   ⟨State.reset, by decide +kernel⟩⟩

theorem witness_ResetAndAscentLeave :
    (∃ s : State, bitOf s.railPg 9 = false) ∧ (∃ s : State, bitOf s.railPg 9 = true ∧ bitOf s.railPg 14 = true) :=
  ⟨⟨State.reset, by decide +kernel⟩, ⟨{ State.reset with railPg := 2 ^ 14 + 2 ^ 9 }, by decide +kernel⟩⟩

theorem witness_ModeRequestsComplete :
    (∃ (s : State), s.phase = .running ∧ s.mode = 1 ∧ s.fld CTL_START_COUNT_EXHAUSTED = 0) ∧
    (∃ (s : State), s.phase = .running ∧ s.mode = 1) ∧
    (∃ (s : State), s.phase = .running ∧ s.mode ≠ 1 ∧ (s.mode = 0xF → s.haltCold = false)) ∧
    (∃ (s : State), s.phase = .running ∧ (s.mode = 0xF → s.haltCold = false)) ∧
    (∃ (s : State), s.phase = .running ∧ s.mode ≠ 2) ∧
    (∃ (s : State), s.phase = .running) ∧
    (∃ (s : State), s.retryPending = true ∧ s.foundation.autoAscent = true ∧ s.inMode 1 = true ∧ s.fld CTL_START_COUNT_EXHAUSTED = 0) ∧
    (∃ (s : State), s.phase = .running ∧ (s.mode ≠ 1 ∨ s.fld CTL_START_COUNT_EXHAUSTED ≠ 0)) ∧
    (∃ (s : State), s.phase = .running ∧ s.mode = 0xF ∧ s.haltCold = true) ∧
    (∃ (s : State), s.phase = .running ∧ s.mode = 0xF ∧ s.haltCold = true) ∧
    (∃ (s : State), s.phase = .running ∧ s.mode = 2) :=
  ⟨⟨({ (inState 1) with phase := .running }).setFld CTL_START_COUNT_EXHAUSTED 0, by decide +kernel⟩,
   ⟨{ (inState 1) with phase := .running }, by decide +kernel⟩,
   ⟨{ (inState 3) with phase := .running }, by decide +kernel⟩,
   ⟨{ State.reset with phase := .running }, by decide +kernel⟩,
   ⟨{ State.reset with phase := .running }, by decide +kernel⟩,
   ⟨{ State.reset with phase := .running }, by decide +kernel⟩,
   ⟨({ (inState 1) with retryPending := true }).setFld CTL_START_COUNT_EXHAUSTED 0, by decide +kernel⟩,
   ⟨{ (inState 3) with phase := .running }, by decide +kernel⟩,
   ⟨{ (inState 0xF) with phase := .running, haltCold := true }, by decide +kernel⟩,
   ⟨{ (inState 0xF) with phase := .running, haltCold := true }, by decide +kernel⟩,
   ⟨{ (inState 2) with phase := .running }, by decide +kernel⟩⟩

theorem witness_AscentStagesComplete :
    (∃ (s : State) (a : Ascent) (ms : Nat), s.inStage 1 = some a ∧ s.railsGood a = true ∧ ms ≤ 1000 ∧ a.unit < 4) ∧
    (∃ (s : State) (a : Ascent) (ms : Nat), s.inStage 1 = some a ∧ s.railsGood a = true ∧ ms ≤ 1000 ∧ 4 ≤ a.unit) ∧
    (∃ (s : State) (a : Ascent) (r : BitVec 12) (ms : Nat), s.inStage 1 = some a ∧ r ≠ 0#12 ∧ ms ≤ 1000) ∧
    (∃ (s : State) (a : Ascent) (ms : Nat), s.inStage 1 = some a ∧ 1000 < ms) ∧
    (∃ (s : State) (a : Ascent) (ms : Nat), s.inStage 2 = some a ∧ ms ≤ 3000 ∧ bitOf s.selfRefresh (4 * a.unit + a.site) = false) ∧
    (∃ (s : State) (a : Ascent) (ms : Nat), s.inStage 2 = some a ∧ ms ≤ 3000 ∧ bitOf s.selfRefresh (4 * a.unit + a.site) = true) ∧
    (∃ (s : State) (a : Ascent) (bad : List BadColumns) (ms : Nat), (s.inStage 3 = some a ∧ ms ≤ 8000) ∧
      let tiles := tilesOfDie a.unit; let out := tiles.filter (fun t => [0, 1, 2].any (fun x => decide (usableWidth (badMask bad t x) < 56))); out.length ≤ s.foundation.maxTileHoles) ∧
    (∃ (s : State) (a : Ascent) (ms : Nat), s.inStage 4 = some a ∧ ms ≤ 1500) ∧
    (∃ (s : State) (a : Ascent) (ms : Nat), s.inStage 5 = some a ∧ ms ≤ 1000) ∧
    (∃ (s : State) (a : Ascent) (ms : Nat), s.inStage 6 = some a ∧ ms ≤ 4500) ∧
    (∃ (s : State) (a : Ascent) (ports : BitVec 12) (failed : List (Fin 12 × BitVec 8)) (ms : Nat), s.inStage 6 = some a ∧ ms ≤ 4500 ∧
      s.portsTrained (a.unit - 4) ports.toNat failed = 0) ∧
    (∃ (s : State) (a : Ascent) (ports : BitVec 12) (failed : List (Fin 12 × BitVec 8)) (ms : Nat), s.inStage 6 = some a ∧ ms ≤ 4500 ∧
      s.portsTrained (a.unit - 4) ports.toNat failed ≠ 0 ∧ s.peerRejected = true) ∧
    (∃ (s : State) (a : Ascent) (ports : BitVec 12) (failed : List (Fin 12 × BitVec 8)) (ms : Nat), s.inStage 6 = some a ∧ ms ≤ 4500 ∧
      s.portsTrained (a.unit - 4) ports.toNat failed ≠ 0 ∧ s.peerRejected = false) ∧
    (∃ (s : State) (a : Ascent) (ms : Nat), s.inStage 7 = some a ∧ ms ≤ 1000 ∧ (s.stageEnds a ms).entryReason = 0) ∧
    (∃ (s : State) (a : Ascent), s.ascent = some a ∧ s.inMode 2 = true ∧ a.stage ≠ 7 ∧ a.stage ≠ 2 ∧ a.stage ≠ 6 ∧
      (a.stage = 5 → portsOf s.dies a.unit ≠ [])) ∧
    (∃ (s : State) (a : Ascent), s.ascent = some a ∧ s.inMode 2 = true ∧ a.stage = 5 ∧ portsOf s.dies a.unit = []) ∧
    (∃ (s : State) (a : Ascent), s.ascent = some a ∧ s.inMode 2 = true ∧ a.stage = 2 ∧ bitOf s.selfRefresh (4 * a.unit + a.site) = false) ∧
    (∃ (s : State) (a : Ascent), s.ascent = some a ∧ s.inMode 2 = true ∧ a.stage = 6) ∧
    (∃ (s : State) (a : Ascent), s.ascent = some a ∧ s.inMode 2 = true ∧ a.stage = 7) :=
  ⟨⟨{ (inState 2) with ascent := some { stage := 1 }, railPg := 0x7FFF }, { stage := 1 }, 1000, by decide +kernel⟩,
   ⟨{ (inState 2) with ascent := some { stage := 1, unit := 4 }, railPg := 0x7FFF }, { stage := 1, unit := 4 }, 1000, by decide +kernel⟩,
   ⟨{ (inState 2) with ascent := some { stage := 1 } }, { stage := 1 }, 1, 1000, by decide +kernel⟩,
   ⟨{ (inState 2) with ascent := some { stage := 1 } }, { stage := 1 }, 1001, by decide +kernel⟩,
   ⟨{ (inState 2) with ascent := some { stage := 2 } }, { stage := 2 }, 3000, by decide +kernel⟩,
   ⟨{ (inState 2) with ascent := some { stage := 2 }, selfRefresh := 1 }, { stage := 2 }, 3000, by decide +kernel⟩,
   ⟨{ (inState 2) with ascent := some { stage := 3 } }, { stage := 3 }, [], 8000, by decide +kernel⟩,
   ⟨{ (inState 2) with ascent := some { stage := 4 } }, { stage := 4 }, 1500, by decide +kernel⟩,
   ⟨{ (inState 2) with ascent := some { stage := 5 } }, { stage := 5 }, 1000, by decide +kernel⟩,
   ⟨{ (inState 2) with ascent := some { stage := 6, unit := 4 } }, { stage := 6, unit := 4 }, 4500, by decide +kernel⟩,
   ⟨{ (inState 2) with ascent := some { stage := 6, unit := 4 } }, { stage := 6, unit := 4 }, 1, [(0, 1)], 4500, by decide +kernel⟩,
   ⟨{ (inState 2) with ascent := some { stage := 6, unit := 4 }, foundation := { ownRank := 1, peers := [{}, {}] }, peers := [(0, { state := 4 })] },
     { stage := 6, unit := 4 }, 1, [], 4500, by decide +kernel⟩,
   ⟨{ (inState 2) with ascent := some { stage := 6, unit := 4 } }, { stage := 6, unit := 4 }, 3, [(0, 1)], 4500, by decide +kernel⟩,
   ⟨{ (inState 2) with ascent := some { stage := 7 }, dies := 15, hbmStacks := 0xFFFF, links := 15, d2dUp := 15 }, { stage := 7 }, 1000,
     by decide +kernel⟩,
   ⟨{ (inState 2) with ascent := some { stage := 5 }, dies := 2 }, { stage := 5 }, by decide +kernel⟩,
   ⟨{ (inState 2) with ascent := some { stage := 5 } }, { stage := 5 }, by decide +kernel⟩,
   ⟨{ (inState 2) with ascent := some { stage := 2 } }, { stage := 2 }, by decide +kernel⟩,
   ⟨{ (inState 2) with ascent := some { stage := 6, unit := 4 } }, { stage := 6, unit := 4 }, by decide +kernel⟩,
   ⟨{ (inState 2) with ascent := some { stage := 7 } }, { stage := 7 }, by decide +kernel⟩⟩

theorem witness_RailsAndPortsComplete :
    (∃ (s : State) (r : Fin 15) (a : Ascent), bitOf s.outs.railEn r.val = true ∧ s.inStage 1 = some a) ∧
    (∃ (s : State) (r : Fin 15), bitOf s.outs.railEn r.val = true ∧ s.inStage 1 = none) ∧
    (∃ (s : State) (r : Fin 15) (a : Ascent), s.inStage 1 = some a ∧ bitOf s.outs.railEn r.val = true ∧ bitOf s.railPg r.val = false) ∧
    (∃ (s : State) (r : Fin 15), bitOf s.railPg r.val = true ∧ s.inMode 3 = false ∧ s.inMode 0xF = false) ∧
    (∃ (s : State) (r : Fin 15), 4 ≤ r.val ∧ r.val ≠ 9 ∧ r.val ≠ 14 ∧ bitOf s.railPg r.val = true ∧ s.inMode 3 = true) ∧
    (∃ (s : State) (k : Fin 4), bitOf (s.fld HST_LINK_STATUS_UP) k.val = true) ∧
    (∃ (s : State) (k : Fin 4), bitOf (s.fld HST_LINK_STATUS_UP) k.val = false) ∧
    (∃ (s : State) (k : Fin 4), s.phase = .running ∧ bitOf (s.fld HST_LINK_STATUS_UP) k.val = true ∧ s.ascent = none ∧
      (s.mode = 0xF → s.haltCold = false)) ∧
    (∃ (s : State) (k : Fin 4), s.phase = .running ∧ bitOf (s.fld HST_LINK_STATUS_UP) k.val = true ∧ s.mode = 0xF ∧ s.haltCold = true) ∧
    (∃ (s : State) (addr : BitVec 48) (k : Nat), s.phase = .running ∧ s.dieBehind addr.toNat = some k ∧
      bitOf (s.fld HST_LINK_STATUS_UP) k = true) ∧
    (∃ (s : State) (addr : BitVec 48), s.dieBehind addr.toNat = none) :=
  ⟨⟨{ (inState 2) with ascent := some { stage := 1 }, outs := { railEn := 1 } }, 0, { stage := 1 }, by decide +kernel⟩,
   ⟨{ State.reset with outs := { railEn := 1 } }, 0, by decide +kernel⟩,
   ⟨{ (inState 2) with ascent := some { stage := 1 }, outs := { railEn := 1 } }, 0, { stage := 1 }, by decide +kernel⟩,
   ⟨{ State.reset with railPg := 1 }, 0, by decide +kernel⟩,
   ⟨{ (inState 3) with railPg := 16 }, 4, by decide +kernel⟩,
   ⟨(State.reset).setFld HST_LINK_STATUS_UP 1, 0, by decide +kernel⟩,
   ⟨State.reset, 0, by decide +kernel⟩,
   ⟨({ State.reset with phase := .running, ascent := none }).setFld HST_LINK_STATUS_UP 1, 0, by decide +kernel⟩,
   ⟨({ (inState 0xF) with haltCold := true }).setFld HST_LINK_STATUS_UP 8, 3, by decide +kernel⟩,
   ⟨({ inState 3 with dies := 15 }).setFld HST_LINK_STATUS_UP 1, BitVec.ofNat 48 padBase, 0, by decide +kernel⟩,
   ⟨inState 3, 0, by decide +kernel⟩⟩

theorem witness_TimeCommandsComplete :
    (∃ (s : State), s.ticking = true) ∧
    (∃ (s : State), s.fld CTL_TIME_STATUS_MEASURING = 1 ∧ s.measure.trips.length = 16 ∧ spreadOf s.measure.trips ≤ 100 ∧ s.aligned = true) ∧
    (∃ (s : State), s.fld CTL_TIME_STATUS_MEASURING = 1 ∧ s.measure.trips.length = 16 ∧ spreadOf s.measure.trips ≤ 100 ∧
      s.aligned = false) ∧
    (∃ (s : State), s.fld CTL_TIME_STATUS_MEASURING = 1 ∧ s.measure.trips.length = 16 ∧ 100 < spreadOf s.measure.trips) ∧
    (∃ (s : State), s.aloft = true ∧ s.isTimeMaster = false ∧ s.fld CTL_TIME_STATUS_MEASURING ≠ 1 ∧ s.measure.due = true) ∧
    (∃ (s : State), s.aloft = true ∧ s.isTimeMaster = false ∧ s.fld CTL_TIME_STATUS_MEASURING = 1 ∧ s.measure.trips.length < 16) ∧
    (∃ (s : State), s.aloft = true ∧ s.isTimeMaster = false ∧ s.aligned = true ∧ s.fld CTL_TIME_STATUS_MEASURING = 0 ∧
      s.measure.tripTick + 1000 ≤ s.tick) ∧
    (∃ (s : State), s.measure.single = true) ∧
    (∃ (s : State), s.measure.single = false) ∧
    (∃ (s : State), (s.reg CTL_TICK_COUNT).toNat + 1 < 2 ^ 64) ∧
    (∃ (s : State), 0 < s.periodNs) :=
  ⟨⟨State.reset, by decide +kernel⟩,
   ⟨({ State.reset with aligned := true, measure := { trips := List.replicate 8 100 ++ List.replicate 8 0 } }).setFld CTL_TIME_STATUS_MEASURING 1,
     by decide +kernel⟩,
   ⟨({ State.reset with measure := { trips := List.replicate 16 0 } }).setFld CTL_TIME_STATUS_MEASURING 1, by decide +kernel⟩,
   ⟨({ State.reset with measure := { trips := List.replicate 8 101 ++ List.replicate 8 0 } }).setFld CTL_TIME_STATUS_MEASURING 1, by decide +kernel⟩,
   ⟨{ inState 3 with measure := { due := true } }, by decide +kernel⟩,
   ⟨({ inState 3 with measure := { trips := List.replicate 15 0 } }).setFld CTL_TIME_STATUS_MEASURING 1, by decide +kernel⟩,
   ⟨({ inState 3 with aligned := true }).setReg CTL_TICK_COUNT 1000, by decide +kernel⟩,
   ⟨{ State.reset with measure := { single := true } }, by decide +kernel⟩,
   ⟨State.reset, by decide +kernel⟩,
   ⟨State.reset, by decide +kernel⟩,
   ⟨State.reset, by decide +kernel⟩⟩

theorem witness_StructureCommandsComplete :
    (∃ (s : State) (h : Word) (p : Pending), s.ready h 3 1 = some p ∧ (s.begin p).structBusy = false ∧ 128 ≤ fieldAt p.entry 24 4 ∧
      fieldAt p.entry 24 4 ≤ 2 ^ 28 ∧ (s.begin p).isDdr (fieldAt p.entry 16 8) = true ∧
      (s.begin p).isDdr (fieldAt p.entry 16 8 + fieldAt p.entry 24 4 - 1) = true) ∧
    (∃ (s : State) (h : Word) (p : Pending), s.stageBy = some h ∧ s.cmd h = some p ∧ bitOf (fieldAt p.entry 28 1) 0 = false) ∧
    (∃ (s : State) (h : Word) (p : Pending), s.stageBy = some h ∧ s.cmd h = some p ∧ bitOf (fieldAt p.entry 28 1) 0 = true) ∧
    (∃ (s : State) (h : Word) (p : Pending), s.ready h 3 2 = some p ∧ (s.begin p).structBusy = false ∧ (s.begin p).stageState ≠ 0) ∧
    (∃ (s : State) (h : Word), s.validateBy = some h) ∧
    (∃ (s : State) (h : Word) (p : Pending), s.ready h 3 3 = some p ∧ (s.begin p).structBusy = false ∧ (s.begin p).stageState = 3 ∧
      unitChecks (s.begin p).units (trim (s.begin p).staged) = none) ∧
    (∃ (s : State) (c : Commit), s.commit = some c ∧ c.phase = 0 ∧ s.quiescent = true) ∧
    (∃ (s : State) (c : Commit), s.commit = some c ∧ c.phase = 0 ∧ c.wait = 0 ∧ s.quiescent = false) ∧
    (∃ (s : State) (c : Commit), s.commit = some c ∧ c.phase = 1) ∧
    (∃ (s : State) (h : Word) (p : Pending), s.ready h 3 4 = some p ∧ (s.begin p).structBusy = false) ∧
    (∃ (s : State) (h : Word) (p : Pending) (k : ChangeClass), (s.ready h 3 5 = some p ∧ (s.begin p).image.isSome = true) ∧
      let u := s.begin p; let sec := fieldAt p.entry 16 1; let width := fieldAt p.entry 17 1; let i := fieldAt p.entry 20 4; let off := fieldAt p.entry 24 4; let value := fieldAt p.entry 32 8; u.updateStatus sec width i off value = ST_OK ∧
      ((fieldsOf sec (i == 0xFFFFFFFF)).find? (fun f => f.off == off)).map (·.cls) = some k) :=
  ⟨⟨{ State.reset with phase := .running, cmds := [cmdOf 3 1 [(16, leBytes 8 4096), (24, leBytes 4 128)]] }, 1, cmdOf 3 1 [(16, leBytes 8 4096), (24, leBytes 4 128)],
     by decide +kernel⟩,
   ⟨{ State.reset with stageBy := some 1, cmds := [cmdOf 3 1 []] }, 1, cmdOf 3 1 [], by decide +kernel⟩,
   ⟨{ State.reset with stageBy := some 1, cmds := [cmdOf 3 1 [(28, [1#8])]] }, 1, cmdOf 3 1 [(28, [1#8])], by decide +kernel⟩,
   ⟨({ State.reset with phase := .running, cmds := [cmdOf 3 2 []] }).setFld CTL_STRUCT_STATUS_STAGE_STATE 1, 1, cmdOf 3 2 [],
     by decide +kernel⟩,
   ⟨{ State.reset with validateBy := some 0 }, 0, by decide +kernel⟩,
   ⟨({ State.reset with phase := .running, cmds := [cmdOf 3 3 []] }).setFld CTL_STRUCT_STATUS_STAGE_STATE 3, 1, cmdOf 3 3 [],
     by decide +kernel⟩,
   ⟨{ State.reset with commit := some { phase := 0, image := {} } }, { phase := 0, image := {} }, by decide +kernel⟩,
   ⟨{ State.reset with commit := some { phase := 0, image := {} }, cmds := [cmdOf 1 1 []] }, { phase := 0, image := {} }, by decide +kernel⟩,
   ⟨{ State.reset with commit := some { phase := 1, image := {} } }, { phase := 1, image := {} }, by decide +kernel⟩,
   ⟨{ State.reset with phase := .running, cmds := [cmdOf 3 4 []] }, 1, cmdOf 3 4 [], by decide +kernel⟩,
   ⟨{ { State.reset with image := some (withSections [withRegion 1 0]) } with cmds := [cmdOf 3 5 [(16, [3#8, 1#8]), (20, leBytes 4 0xFFFFFFFF), (24, [16#8])]], phase := .running }, 1, cmdOf 3 5 [(16, [3#8, 1#8]), (20, leBytes 4 0xFFFFFFFF), (24, [16#8])], .tick,
     by decide +kernel⟩⟩

theorem witness_HostAccessesComplete :
    (∃ (s : State) (n : Fin 64) (off : BitVec 24) (data : Bytes) (a : Nat), s.phase = .running ∧ s.pushTarget n.val off.toNat = some a ∧
      s.mappedAll a data.length = true ∧ off.toNat + data.length ≤ 2 ^ 24 ∧ s.pushStale a = false) ∧
    (∃ (s : State) (n : Fin 64) (off : BitVec 24) (data : Bytes) (a : Nat), s.phase = .running ∧ s.pushTarget n.val off.toNat = some a ∧
      s.mappedAll a data.length = true ∧ off.toNat + data.length ≤ 2 ^ 24 ∧ s.pushStale a = true) ∧
    (∃ a : Nat, a < padBase) ∧
    (∃ (s : State) (n : Fin 64) (off : BitVec 24) (data : Bytes) (a : Nat), s.phase = .running ∧ s.pushTarget n.val off.toNat = some a ∧
      s.mappedAll a data.length = false) ∧
    (∃ (s : State) (n : Fin 64), s.phase = .running ∧ s.fld (HST_PUSH_STATUS_COUNT n.val) = 0) ∧
    (∃ (s : State) (n : Fin 64), s.phase = .running ∧ s.fld (HST_PUSH_STATUS_COUNT n.val) ≠ 0) ∧
    (∃ (s : State) (n : Fin 64), s.phase = .running ∧ n.val ∉ s.sealing) ∧
    (∃ (s : State) (n : Fin 64), s.phase = .running ∧ n.val ∈ s.sealing) ∧
    (∃ (s : State) (n : Fin 64), n.val ∈ s.sealing ∧ s.fld (HST_PUSH_CFG_TYPE n.val) ≠ 3) ∧
    (∃ (s : State) (addr : BitVec 48) (size : Nat) (fs : List Found), let u := s.findErrors fs; u.phase = .running ∧
      addr.toNat < 0x4000_0000_0000 ∧ u.mappedAll addr.toNat size = true ∧ u.poisonedIn addr.toNat size = none) ∧
    (∃ (s : State) (addr : BitVec 48) (size : Nat) (fs : List Found), let u := s.findErrors fs; u.phase = .running ∧
      addr.toNat < 0x4000_0000_0000 ∧ u.mappedAll addr.toNat size = true) ∧
    (∃ (s : State) (addr : BitVec 48) (size : Nat) (fs : List Found), let u := s.findErrors fs; u.phase = .running ∧
      addr.toNat < 0x4000_0000_0000 ∧ u.mappedAll addr.toNat size = false) ∧
    (∃ (s : State) (t : BitVec 48) (size : Nat) (fs : List Found), let u := s.findErrors fs; u.phase = .running ∧
      u.mappedAll t.toNat size = true ∧ u.poisonedIn t.toNat size = none) ∧
    (∃ (s : State) (t : BitVec 48) (data : Bytes) (fs : List Found), let u := s.findErrors fs; u.phase = .running ∧
      u.mappedAll t.toNat data.length = true) ∧
    (∃ (s : State) (t : BitVec 48) (size : Nat) (fs : List Found), let u := s.findErrors fs; u.phase = .running ∧
      u.mappedAll t.toNat size = false) :=
  ⟨⟨({ (inState 3) with phase := .running, hbmMap := { regions := [{ size := 2 ^ 24 }] }, hbmStacks := 15 }).setFld (HST_PUSH_CFG_TYPE 0) 1, 0, 0xFFFFFF, [1#8], hbmBase + 0xFFFFFF,
     by decide +kernel⟩,
   ⟨(({ inState 3 with dies := 15 }).setFld (HST_PUSH_CFG_TYPE 0) 3).setFld (TIL_STATE_STATE 0) 6, 0, 0, [1#8], padBase, by decide +kernel⟩,
   ⟨padBase - 1, by decide⟩,
   ⟨({ State.reset with phase := .running }).setFld (HST_PUSH_CFG_TYPE 0) 1, 0, 0, [1#8], hbmBase, by decide +kernel⟩,
   ⟨({ State.reset with phase := .running }).setFld (HST_PUSH_STATUS_COUNT 0) 0, 0, by decide +kernel⟩,
   ⟨({ State.reset with phase := .running }).setFld (HST_PUSH_STATUS_COUNT 0) 1, 0, by decide +kernel⟩,
   ⟨{ State.reset with phase := .running }, 0, by decide +kernel⟩,
   ⟨{ State.reset with phase := .running, sealing := [0] }, 0, by decide +kernel⟩,
   ⟨{ State.reset with sealing := [0] }, 0, by decide +kernel⟩,
   ⟨{ State.reset with phase := .running }, 0xFFFFFFFF8, 8, [], by decide +kernel⟩,
   ⟨{ State.reset with phase := .running }, 0xFFFFFFFF8, 8, [⟨0, .corrected, 1⟩], by decide +kernel⟩,
   ⟨{ State.reset with phase := .running }, 0x2FFFFFFFFFC, 8, [], by decide +kernel⟩,
   ⟨{ State.reset with phase := .running }, 64, 64, [⟨64, .uncorrectable, 1⟩], by decide +kernel⟩,
   ⟨{ State.reset with phase := .running }, 64, [1#8], [], by decide +kernel⟩,
   ⟨{ State.reset with phase := .running }, 0x2FFFFFFFFFC, 8, [], by decide +kernel⟩⟩

theorem witness_StoresChangeTheirBytesOnly :
    (∃ (s : State) (addr : BitVec 48) (size : Nat) (v : Word) (fs : List Found), let u := s.findErrors fs; u.phase = .running ∧
      addr.toNat < 0x4000_0000_0000 ∧ u.mappedAll addr.toNat size = true ∧ ∃ t, exec (.hostCoreAccess .store addr size v fs) s = .next t) ∧
    (∃ (s : State) (a : BitVec 48) (size : Nat) (data : Bytes) (fs : List Found), let u := s.findErrors fs; u.phase = .running ∧
      u.mappedAll a.toNat data.length = true ∧ ∃ t, exec (.pcieInboundRequest .store (some a) size data fs) s = .next t) ∧
    (∃ (s : State) (n : Fin 64) (off : BitVec 24) (data : Bytes) (a : Nat), s.phase = .running ∧ s.pushTarget n.val off.toNat = some a ∧
      s.mappedAll a data.length = true ∧ off.toNat + data.length ≤ 2 ^ 24 ∧ ∃ t, exec (.pushWindowWrite n off data) s = .next t) :=
  ⟨⟨{ State.reset with phase := .running }, 0xFFFFFFFF8, 8, 0, [], ⟨by decide +kernel, by decide +kernel,
     by decide +kernel, next_of (by decide +kernel)⟩⟩,
   ⟨{ State.reset with phase := .running }, 64, 0, [1#8], [], ⟨by decide +kernel, by decide +kernel, next_of (by decide +kernel)⟩⟩,
   ⟨({ (inState 3) with phase := .running, hbmMap := { regions := [{ size := 2 ^ 24 }] }, hbmStacks := 15 }).setFld (HST_PUSH_CFG_TYPE 0) 1, 0, 0xFFFFFF, [1#8], hbmBase + 0xFFFFFF, ⟨by decide +kernel,
     by decide +kernel, by decide +kernel, by decide +kernel, next_of (by decide +kernel)⟩⟩⟩

theorem witness_RegisterStoresFollowAccessCodes :
    (∃ (s : State) (addr : BitVec 48), s.phase = .running ∧ blockBase ≤ addr.toNat ∧ addr.toNat - blockBase < 0x20000000 ∧
      (addr.toNat - blockBase) % 8 = 0) ∧
    (∃ (s : State) (addr : BitVec 48) (size : Nat), s.phase = .running ∧ (size ≠ 8 ∨ (addr.toNat - blockBase) % 8 ≠ 0)) :=
  ⟨⟨{ State.reset with phase := .running }, BitVec.ofNat 48 (blockBase + 0x1FFFFFF8), by decide +kernel⟩,
   ⟨{ State.reset with phase := .running }, blockBase + 4, 8, by decide +kernel⟩⟩

theorem witness_QueueCommandsComplete :
    (∃ (s : State) (q : Fin 256) (tail : BitVec 32), s.phase = .running ∧ s.fld (HST_Q_STATUS_STATE q.val) = 1 ∧
      s.fld (HST_Q_CONFIG_MODE q.val) = 0 ∧ tail.toNat < 2 ^ s.fld (HST_Q_CONFIG_SQ_LOG2 q.val) ∧ tail.toNat ≠ s.headSlot q.val) ∧
    (∃ (s : State) (q : Fin 256) (tail : BitVec 32), s.phase = .running ∧ s.fld (HST_Q_STATUS_STATE q.val) = 1 ∧
      s.fld (HST_Q_CONFIG_MODE q.val) = 0 ∧ 2 ^ s.fld (HST_Q_CONFIG_SQ_LOG2 q.val) ≤ tail.toNat) ∧
    (∃ (s : State) (q : Fin 256), s.mayFetch q.val = true ∧ (s.queue q.val).stale = false ∧ s.headFresh q.val = true) ∧
    (∃ (s : State) (q : Fin 256), s.mayFetch q.val = true ∧ (s.queue q.val).stale = false ∧ s.headFresh q.val = false) ∧
    (∃ (s : State) (q : Fin 256), (s.queue q.val).stale = true ∧ s.fld (HST_Q_STATUS_STATE q.val) = 1 ∧ s.headFresh q.val = true ∧
      s.hasRoom q.val = true) ∧
    (∃ (s : State) (q : Fin 256), (s.queue q.val).stale = true ∧ s.fld (HST_Q_STATUS_STATE q.val) = 1 ∧ s.headFresh q.val = true ∧
      s.hasRoom q.val = false) ∧
    (∃ (s : State) (q : Fin 256), (s.queue q.val).stale = true ∧ s.fld (HST_Q_STATUS_STATE q.val) = 1 ∧ s.headFresh q.val = false ∧
      (s.queue q.val).rereads = 7) ∧
    (∃ (s : State) (off : BitVec 6) (data : Bytes), s.phase = .running ∧ off.toNat ≤ 56 ∧ 64 ≤ off.toNat + data.length) ∧
    (∃ (s : State) (off : BitVec 6) (data : Bytes), s.phase = .running ∧ off.toNat + data.length < 64) ∧
    (∃ (s : State) (q : Fin 256), s.phase = .running ∧ s.fld (HST_Q_STATUS_STATE q.val) = 0 ∧ s.queueOk q.val = true) ∧
    (∃ (s : State) (q : Fin 256), s.phase = .running ∧ s.fld (HST_Q_STATUS_STATE q.val) = 0 ∧ s.queueOk q.val = false) ∧
    (∃ (s : State) (q : Fin 256), s.phase = .running ∧ s.fld (HST_Q_STATUS_STATE q.val) = 1) ∧
    (∃ (s : State) (q : Fin 256), s.phase = .running ∧ s.fld (HST_Q_STATUS_STATE q.val) = 3 ∧ s.headFresh q.val = true) ∧
    (∃ (s : State) (q : Fin 256) (value : Word), (s.phase = .running) ∧
      let v := bitsOf value.toNat 0 16; let cap := 2 ^ s.fld (HST_Q_CONFIG_CQ_LOG2 q.val); v < cap ∧ v ≠ s.fld (HST_Q_CQ_HEAD_HEAD q.val)) ∧
    (∃ (s : State), s.phase = .running ∧ (∀ q, q < 256 → s.fld (HST_Q_STATUS_STATE q) = 0)) ∧
    (∃ (s : State) (q : Fin 256), s.phase = .running ∧ (s.queue q.val).unsignalled ≠ 0 ∧ s.fld (HST_Q_IRQ_COALESCE_US q.val) ≠ 0) :=
  ⟨⟨(((({ State.reset with phase := .running }).setFld (HST_Q_STATUS_STATE 0) 1).setFld (HST_Q_CONFIG_MODE 0) 0).setFld (HST_Q_CONFIG_SQ_LOG2 0) 6).setFld (HST_Q_CONFIG_CQ_LOG2 0) 6, 0, 63,
     by decide +kernel⟩,
   ⟨(((({ State.reset with phase := .running }).setFld (HST_Q_STATUS_STATE 0) 1).setFld (HST_Q_CONFIG_MODE 0) 0).setFld (HST_Q_CONFIG_SQ_LOG2 0) 6).setFld (HST_Q_CONFIG_CQ_LOG2 0) 6, 0, 64,
     by decide +kernel⟩,
   ⟨((((({ (inState 1).physWrite 4096 (putAt (putAt (zeros 64) 4 (leBytes 4 0)) 8 (leBytes 2 0)) with queues := [(0, { tail := 1 })] }).setFld (HST_Q_SQ_BASE_BASE 0) 1)).setFld (HST_Q_STATUS_STATE 0) 1).setFld (HST_Q_CONFIG_SQ_LOG2 0) 6).setFld (HST_Q_CONFIG_CQ_LOG2 0) 6, 0,
     by decide +kernel⟩,
   ⟨((((({ (inState 1).physWrite 4096 (putAt (putAt (zeros 64) 4 (leBytes 4 7)) 8 (leBytes 2 0)) with queues := [(0, { tail := 1 })] }).setFld (HST_Q_SQ_BASE_BASE 0) 1)).setFld (HST_Q_STATUS_STATE 0) 1).setFld (HST_Q_CONFIG_SQ_LOG2 0) 6).setFld (HST_Q_CONFIG_CQ_LOG2 0) 6, 0,
     by decide +kernel⟩,
   ⟨((((({ (inState 1).physWrite 4096 (putAt (putAt (zeros 64) 4 (leBytes 4 0)) 8 (leBytes 2 0)) with queues := [(0, { tail := 1, stale := true })] }).setFld (HST_Q_SQ_BASE_BASE 0) 1)).setFld (HST_Q_STATUS_STATE 0) 1).setFld (HST_Q_CONFIG_SQ_LOG2 0) 6).setFld (HST_Q_CONFIG_CQ_LOG2 0) 6, 0,
     by decide +kernel⟩,
   ⟨((((({ (inState 1).physWrite 4096 (putAt (putAt (zeros 64) 4 (leBytes 4 0)) 8 (leBytes 2 0)) with queues := [(0, { tail := 1, stale := true, unread := 64 })] }).setFld (HST_Q_SQ_BASE_BASE 0) 1)).setFld (HST_Q_STATUS_STATE 0) 1).setFld (HST_Q_CONFIG_SQ_LOG2 0) 6).setFld (HST_Q_CONFIG_CQ_LOG2 0) 6, 0,
     by decide +kernel⟩,
   ⟨((((({ (inState 1).physWrite 4096 (putAt (putAt (zeros 64) 4 (leBytes 4 7)) 8 (leBytes 2 0)) with queues := [(0, { tail := 1, stale := true, rereads := 7 })] }).setFld (HST_Q_SQ_BASE_BASE 0) 1)).setFld (HST_Q_STATUS_STATE 0) 1).setFld (HST_Q_CONFIG_SQ_LOG2 0) 6).setFld (HST_Q_CONFIG_CQ_LOG2 0) 6, 0,
     by decide +kernel⟩,
   ⟨{ State.reset with phase := .running }, 56, zeros 8, by decide +kernel⟩,
   ⟨{ State.reset with phase := .running }, 56, zeros 7, by decide +kernel⟩,
   ⟨(((((({ (inState 1) with phase := .running }).setFld (HST_Q_STATUS_STATE 0) 0).setFld (HST_Q_CONFIG_SQ_LOG2 0) 6).setFld (HST_Q_CONFIG_CQ_LOG2 0) 6).setFld (HST_Q_SQ_BASE_BASE 0) 1).setFld (HST_Q_CQ_BASE_BASE 0) 2).setFld HST_PROTO_CHOSEN_MINOR 0, 0,
     by decide +kernel⟩,
   ⟨({ State.reset with phase := .running }).setFld (HST_Q_STATUS_STATE 0) 0, 0, by decide +kernel⟩,
   ⟨({ State.reset with phase := .running }).setFld (HST_Q_STATUS_STATE 0) 1, 0, by decide +kernel⟩,
   ⟨((((({ (inState 1).physWrite 4096 (putAt (putAt (zeros 64) 4 (leBytes 4 0)) 8 (leBytes 2 0)) with queues := [(0, { tail := 1 })] }).setFld (HST_Q_SQ_BASE_BASE 0) 1)).setFld (HST_Q_STATUS_STATE 0) 3).setFld (HST_Q_CONFIG_SQ_LOG2 0) 6).setFld (HST_Q_CONFIG_CQ_LOG2 0) 6, 0,
     by decide +kernel⟩,
   ⟨(({ State.reset with phase := .running }).setFld (HST_Q_CONFIG_SQ_LOG2 0) 6).setFld (HST_Q_CONFIG_CQ_LOG2 0) 6, 0, 63,
     by decide +kernel⟩,
   ⟨{ State.reset with phase := .running }, by decide +kernel⟩,
   ⟨({ State.reset with phase := .running, queues := [(0, { unsignalled := 1 })] }).setFld (HST_Q_IRQ_COALESCE_US 0) 1, 0,
     by decide +kernel⟩⟩

theorem witness_QueueCommandsKeepOthers :
    ∃ (s : State) (q : Fin 256) (c : Instr), ((∃ v, c = .doorbell q v) ∨ c = .queueEnable q ∨ c = .queueDrain q ∨ (∃ v, c = .cqHeadWrite q v) ∨ (∃ off data, c = .windowSubmit q off data ∧
      off.toNat + data.length < 64)) ∧ ∃ t, exec c s = .next t :=
  ⟨inState 3, 0, .queueDrain 0, ⟨Or.inr (Or.inr (Or.inl rfl)), next_of (by decide +kernel)⟩⟩

theorem witness_CompletionsOnceAndInOrder :
    (∃ (q : Nat) (cs : List Pending) (p : Pending), p.queue = q ∧ p.done.isSome = true ∧ ∃ before after, cs = before ++ p :: after ∧
      (cs.map (·.handle)).Nodup) ∧
    (∃ (s : State) (h : Word) (p : Pending), s.cmd h = some p ∧ p.done.isSome = true) ∧
    (∃ (s : State) (h : Word), s.cmd h = none) ∧
    (∃ (s : State) (h : Word) (p : Pending), s.cmd h = some p ∧ p.done = none ∧ p.fence = false ∧ p.ordered = false) :=
  ⟨⟨0, [{ handle := 1, entry := zeros 64, done := some {} }], { handle := 1, entry := zeros 64, done := some {} }, rfl, rfl, [], [], rfl,
     by decide +kernel⟩,
   ⟨{ State.reset with cmds := [{ handle := 1, entry := zeros 64, done := some {} }] }, 1, { handle := 1, entry := zeros 64, done := some {} },
     by decide +kernel⟩,
   ⟨State.reset, 0, by decide +kernel⟩,
   ⟨{ State.reset with cmds := [{ handle := 1, entry := zeros 64 }] }, 1, { handle := 1, entry := zeros 64 }, by decide +kernel⟩⟩

theorem witness_ComputeCommandsComplete :
    (∃ (s : State) (h : Word) (p : Pending), s.ready h 1 1 = some p ∧ s.launchBusy p.domain h = false ∧ rangeFlaw p.entry = none ∧
      ((s.begin p).dom p.domain).noSpare = false ∧ fieldAt p.entry 16 8 = 0) ∧
    (∃ (s : State) (h : Word) (p : Pending), s.ready h 1 1 = some p ∧ s.launchBusy p.domain h = false ∧ rangeFlaw p.entry = none ∧
      ((s.begin p).dom p.domain).noSpare = false ∧ fieldAt p.entry 16 8 ≠ 0 ∧
      (s.begin p).mappedAll (fieldAt p.entry 16 8) (fieldAt p.entry 24 4) = true ∧
      (s.begin p).poisonedIn (fieldAt p.entry 16 8) (fieldAt p.entry 24 4) = none) ∧
    (∃ (s : State) (h : Word) (p : Pending), s.ready h 1 1 = some p ∧ s.launchBusy p.domain h = true) ∧
    (∃ (s : State) (h : Word) (q : Pending), q ∈ s.cmds ∧ q.handle ≠ h ∧ q.started = true ∧ q.cls = 1 ∧ q.op = 1 ∧ q.domain = 0) ∧
    (∃ (s : State) (h : Word) (p : Pending), s.ready h 1 1 = some p ∧ s.launchBusy p.domain h = false ∧ (rangeFlaw p.entry).isSome = true) ∧
    (∃ (s : State) (h : Word) (p : Pending), s.ready h 1 2 = some p ∧ ((s.begin p).dom p.domain).launchNext = none ∧
      ((s.begin p).dom p.domain).launch = none) ∧
    (∃ (s : State) (h : Word) (p : Pending), s.ready h 1 2 = some p ∧ ((s.begin p).dom p.domain).launchNext.isSome = true) ∧
    (∃ (s : State) (h : Word) (p : Pending), s.ready h 1 3 = some p ∧ (rangeFlaw p.entry).isSome = true) ∧
    (∃ (s : State) (h : Word) (p : Pending), s.ready h 1 3 = some p ∧ rangeFlaw p.entry = none ∧
      ((s.begin p).domTiles p.domain).contains (fieldAt p.entry 16 2) = true) ∧
    (∃ (s : State) (h : Word) (p : Pending), s.ready h 1 3 = some p ∧ rangeFlaw p.entry = none ∧
      ((s.begin p).domTiles p.domain).contains (fieldAt p.entry 16 2) = false) ∧
    (∃ (s : State), s.phase = .running) ∧
    (∃ (m : HostMsg) (d l : Nat), m.logical = some (d, l)) ∧
    (∃ (s : State) (m : HostMsg), s.tileUsable m.tile = true ∧ s.fld (TIL_MSG_CHAN_PERSIST m.tile m.chan) = 1 ∧
      (s.chan m.tile m.chan).length < 16) ∧
    (∃ (s : State) (m : HostMsg), s.tileUsable m.tile = true ∧ s.fld (TIL_MSG_CHAN_PERSIST m.tile m.chan) = 1 ∧
      16 ≤ (s.chan m.tile m.chan).length) ∧
    (∃ (s : State) (m : HostMsg), s.fld (TIL_MSG_CHAN_PERSIST m.tile m.chan) = 0) :=
  ⟨⟨{ State.reset with phase := .running, cmds := [cmdOf 1 1 []] }, 1, cmdOf 1 1 [], by decide +kernel⟩,
   ⟨{ State.reset with phase := .running, cmds := [cmdOf 1 1 [(16, leBytes 8 4096), (24, leBytes 4 64)]] }, 1, cmdOf 1 1 [(16, leBytes 8 4096), (24, leBytes 4 64)],
     by decide +kernel⟩,
   ⟨{ State.reset with phase := .running, cmds := [cmdOf 1 1 []], doms := [(0, { launchNext := some {} })] }, 1, cmdOf 1 1 [],
     by decide +kernel⟩,
   ⟨{ State.reset with cmds := [{ cmdOf 1 1 [] with started := true }] }, 2, { cmdOf 1 1 [] with started := true }, by decide +kernel⟩,
   ⟨sent (inState 3) 1 1 [(24, leBytes 4 70000)], 1, cmdOf 1 1 [(24, leBytes 4 70000)], by decide +kernel⟩,
   ⟨{ State.reset with phase := .running, cmds := [cmdOf 1 2 []] }, 1, cmdOf 1 2 [], by decide +kernel⟩,
   ⟨{ State.reset with phase := .running, cmds := [cmdOf 1 2 []], doms := [(0, { launchNext := some {} })] }, 1, cmdOf 1 2 [],
     by decide +kernel⟩,
   ⟨sent working 1 3 [], 1, cmdOf 1 3 [], by decide +kernel⟩,
   ⟨sent working 1 3 [(20, [8#8])], 1, cmdOf 1 3 [(20, [8#8])], by decide +kernel⟩,
   ⟨sent (inState 3) 1 3 [(20, [8#8])], 1, cmdOf 1 3 [(20, [8#8])], by decide +kernel⟩,
   ⟨{ State.reset with phase := .running }, by decide +kernel⟩,
   ⟨{ tile := 0, chan := 1, bytes := [], handle := 1, logical := some (0, 0) }, 0, 0, rfl⟩,
   ⟨({ working with tiles := [(0, { chans := [(1, List.replicate 15 [])] })] }).setFld (TIL_MSG_CHAN_PERSIST 0 1) 1, { tile := 0, chan := 1, bytes := [], handle := 1 },
     by decide +kernel⟩,
   ⟨({ working with tiles := [(0, { chans := [(1, List.replicate 16 [])] })] }).setFld (TIL_MSG_CHAN_PERSIST 0 1) 1, { tile := 0, chan := 1, bytes := [], handle := 1 },
     by decide +kernel⟩,
   ⟨State.reset, { tile := 0, chan := 1, bytes := [], handle := 1 }, by decide +kernel⟩⟩

theorem witness_MoveAndReportCommandsComplete :
    (∃ (s : State) (h : Word) (p : Pending), (rangeFlaw p.entry).isSome = true ∧ s.ready h 2 1 = some p) ∧
    (∃ (s : State) (h : Word) (p : Pending), (rangeFlaw p.entry).isSome = true ∧ s.ready h 2 2 = some p) ∧
    (∃ (s : State) (h : Word) (p : Pending), s.ready h 2 1 = some p ∧ rangeFlaw p.entry = none ∧ p.codec < 3 ∧
      (s.begin p).mappedAll p.src ((s.begin p).copyReads p) = true ∧ (s.begin p).mappedAll p.dst (copyWrites p) = true) ∧
    (∃ (s : State) (h : Word) (p : Pending), s.ready h 2 2 = some p ∧ rangeFlaw p.entry = none ∧ (s.begin p).mappedAll p.src p.len = true) ∧
    (∃ (s : State) (h : Word) (p : Pending), s.ready h 2 2 = some p ∧ rangeFlaw p.entry = none ∧ (s.begin p).mappedAll p.src p.len = false) ∧
    (∃ (s : State) (h : Word) (p : Pending), s.cmd h = some p ∧ p.cls = 2 ∧ p.op = 1 ∧ p.started = true ∧ p.done = none ∧
      s.revoked (s.movePort p) = false ∧ s.moveTurn p = true) ∧
    (∃ (s : State) (h : Word) (p : Pending), s.cmd h = some p ∧ p.cls = 2 ∧ p.op = 2 ∧ p.started = true ∧ p.done = none ∧
      s.revoked (s.movePort p) = false ∧ s.moveTurn p = true) ∧
    (∃ (s : State) (h : Word) (p : Pending), s.cmd h = some p ∧ s.moveTurn p = false) ∧
    (∃ (n : Nat) (i : Nat), i < n) ∧
    (∃ (s : State) (h : Word) (p : Pending), s.ready h 5 1 = some p) ∧
    (∃ (s : State) (h : Word) (p : Pending), s.ready h 5 2 = some p ∧ (s.begin p).mappedAll (fieldAt p.entry 16 8) 32 = true ∧
      (s.begin p).poisonedIn (fieldAt p.entry 16 8) 32 = none) ∧
    (∃ (s : State) (h : Word) (p : Pending), (s.ready h 6 1 = some p) ∧
      let u := s.begin p; let rs := u.watched (fieldAt p.entry 16 1); u.mappedAll (fieldAt p.entry 24 8) (64 * rs.length) = true) ∧
    (∃ (s : State) (h : Word) (p : Pending), s.ready h 6 2 = some p) ∧
    (∃ (s : State) (h : Word) (p : Pending), s.ready h 7 1 = some p ∧ (s.begin p).mappedAll (fieldAt p.entry 16 8) 512 = true) ∧
    (∃ (s : State) (h : Word) (p : Pending), s.ready h 7 3 = some p) ∧
    (∃ (s : State) (h : Word) (p : Pending), s.ready h 7 2 = some p ∧ (s.begin p).isTimeMaster = true) ∧
    (∃ (s : State) (h : Word) (p : Pending), s.ready h 7 2 = some p ∧ (s.begin p).isTimeMaster = false) :=
  ⟨⟨sent (inState 3) 2 1 [], 1, cmdOf 2 1 [], by decide +kernel⟩,
   ⟨sent (inState 3) 2 2 [(32, [1#8])], 1, cmdOf 2 2 [(32, [1#8])], by decide +kernel⟩,
   ⟨{ State.reset with phase := .running, cmds := [cmdOf 2 1 [(16, leBytes 8 4096), (24, leBytes 8 8192), (32, leBytes 8 4096)]] }, 1, cmdOf 2 1 [(16, leBytes 8 4096), (24, leBytes 8 8192), (32, leBytes 8 4096)],
     by decide +kernel⟩,
   ⟨{ State.reset with phase := .running, cmds := [cmdOf 2 2 [(16, leBytes 8 4096), (24, leBytes 8 8192), (32, leBytes 8 4096)]] }, 1, cmdOf 2 2 [(16, leBytes 8 4096), (24, leBytes 8 8192), (32, leBytes 8 4096)],
     by decide +kernel⟩,
   ⟨{ State.reset with phase := .running, cmds := [cmdOf 2 2 [(16, leBytes 8 hbmBase), (24, leBytes 8 hbmBase), (32, leBytes 8 4096)]] }, 1, cmdOf 2 2 [(16, leBytes 8 hbmBase), (24, leBytes 8 hbmBase), (32, leBytes 8 4096)],
     by decide +kernel⟩,
   ⟨{ State.reset with cmds := [{ cmdOf 2 1 [] with started := true }] }, 1, { cmdOf 2 1 [] with started := true }, by decide +kernel⟩,
   ⟨{ State.reset with cmds := [{ cmdOf 2 2 [] with started := true }] }, 1, { cmdOf 2 2 [] with started := true }, by decide +kernel⟩,
   ⟨{ State.reset with cmds := [{ cmdOf 2 2 [(32, [64#8])] with started := true, begun := 2 },
       { cmdOf 2 2 [(32, [64#8])] with handle := 2, started := true, begun := 1 }] }, 1,
     { cmdOf 2 2 [(32, [64#8])] with started := true, begun := 2 }, by decide +kernel⟩,
   ⟨1, 0, by decide +kernel⟩,
   ⟨{ State.reset with phase := .running, cmds := [cmdOf 5 1 []] }, 1, cmdOf 5 1 [], by decide +kernel⟩,
   ⟨{ State.reset with phase := .running, cmds := [cmdOf 5 2 []] }, 1, cmdOf 5 2 [], by decide +kernel⟩,
   ⟨{ State.reset with phase := .running, cmds := [cmdOf 6 1 []] }, 1, cmdOf 6 1 [], by decide +kernel⟩,
   ⟨{ State.reset with phase := .running, cmds := [cmdOf 6 2 []] }, 1, cmdOf 6 2 [], by decide +kernel⟩,
   ⟨{ State.reset with phase := .running, cmds := [cmdOf 7 1 []] }, 1, cmdOf 7 1 [], by decide +kernel⟩,
   ⟨{ State.reset with phase := .running, cmds := [cmdOf 7 3 []] }, 1, cmdOf 7 3 [], by decide +kernel⟩,
   ⟨{ State.reset with phase := .running, cmds := [cmdOf 7 2 []] }, 1, cmdOf 7 2 [], by decide +kernel⟩,
   ⟨{ (inState 3) with cmds := [cmdOf 7 2 []] }, 1, cmdOf 7 2 [], by decide +kernel⟩⟩

theorem witness_StepCommandsComplete :
    (∃ (s : State) (h : Word) (p : Pending), s.ready h 4 1 = some p) ∧
    (∃ (s : State) (h : Word) (p : Pending), s.ready h 4 2 = some p ∧ ((s.begin p).dom p.domain).restoreBad = false ∧
      ((s.begin p).dom p.domain).update = none ∧ (∀ x ∈ ((s.begin p).dom p.domain).updateBy, x.step ≠ fieldAt p.entry 16 8)) ∧
    (∃ (s : State) (h : Word) (p : Pending), s.ready h 4 2 = some p ∧ ((s.begin p).dom p.domain).restoreBad = false ∧
      (∃ x ∈ ((s.begin p).dom p.domain).updateBy, x.step = fieldAt p.entry 16 8)) ∧
    (∃ (s : State) (h : Word) (p : Pending) (x : Update), s.ready h 4 2 = some p ∧ ((s.begin p).dom p.domain).restoreBad = false ∧
      ((s.begin p).dom p.domain).update = some x ∧ x.step = fieldAt p.entry 16 8) ∧
    (∃ (s : State) (h : Word) (p : Pending), s.ready h 4 2 = some p ∧ ((s.begin p).dom p.domain).restoreBad = true) ∧
    (∃ (s : State) (h : Word) (p : Pending), s.ready h 4 3 = some p ∧ (s.begin p).domState p.domain = 3 ∧
      ((s.begin p).dom p.domain).resumeBy = none ∧ ((s.begin p).dom p.domain).noSpare = false) ∧
    (∃ (s : State) (h : Word) (p : Pending), s.ready h 4 4 = some p ∧ (s.begin p).survival.partner = none) ∧
    (∃ (s : State) (h : Word) (p : Pending), s.ready h 4 4 = some p ∧ (s.begin p).survival.partner.isSome = true) ∧
    (∃ (s : State) (h : Word) (whole : Bool) (p : Pending) (n : Nat) (rs : List Bytes) (e : Bytes), (s.ready h 4 5 = some p) ∧
      let u := s.begin p; u.checkRestore p.domain h (fieldAt p.entry 16 8) (fieldAt p.entry 24 8) whole = .ok (n, rs, e)) ∧
    (∃ (s : State) (h : Word) (whole : Bool) (p : Pending), s.ready h 4 5 = some p ∧
      (s.begin p).checkRestore p.domain h (fieldAt p.entry 16 8) (fieldAt p.entry 24 8) whole = .error 4) ∧
    (∃ (s : State) (d : Fin 64) (r : Restore), (s.dom d.val).restore = some r ∧ r.loaded = false) ∧
    (∃ (s : State) (d : Fin 64) (outcome : BitVec 16) (r : Restore), (s.dom d.val).restore = some r ∧ r.loaded = false ∧
      outcome.toNat ≠ ST_OK) :=
  ⟨⟨{ State.reset with phase := .running, cmds := [cmdOf 4 1 []] }, 1, cmdOf 4 1 [], by decide +kernel⟩,
   ⟨{ State.reset with phase := .running, cmds := [cmdOf 4 2 []] }, 1, cmdOf 4 2 [], by decide +kernel⟩,
   ⟨{ State.reset with phase := .running, cmds := [cmdOf 4 2 []], doms := [(0, { updateBy := [{}] })] }, 1, cmdOf 4 2 [], by decide +kernel⟩,
   ⟨{ State.reset with phase := .running, cmds := [cmdOf 4 2 []], doms := [(0, { update := some {} })] }, 1, cmdOf 4 2 [], {}, by decide +kernel⟩,
   ⟨{ State.reset with phase := .running, cmds := [cmdOf 4 2 []], doms := [(0, { restoreBad := true })] }, 1, cmdOf 4 2 [], by decide +kernel⟩,
   ⟨({ State.reset with phase := .running, cmds := [cmdOf 4 3 []] }).setFld (CTL_DOM_STATE_STATE 0) 3, 1, cmdOf 4 3 [], by decide +kernel⟩,
   ⟨{ State.reset with phase := .running, cmds := [cmdOf 4 4 []] }, 1, cmdOf 4 4 [], by decide +kernel⟩,
   ⟨{ State.reset with phase := .running, cmds := [cmdOf 4 4 []], survival := { partner := some 0 } }, 1, cmdOf 4 4 [], by decide +kernel⟩,
   ⟨{ State.reset with phase := .running, cmds := [cmdOf 4 5 [(16, leBytes 8 4096), (24, leBytes 8 8192)]], mem := (({ State.reset with mem := zeroMem }.physWrite 4096 descriptor).physWrite 8192 spoolEnd).mem }, 1, true, cmdOf 4 5 [(16, leBytes 8 4096), (24, leBytes 8 8192)], 4, [spoolEnd], spoolEnd,
     by decide +kernel⟩,
   ⟨{ State.reset with phase := .running, cmds := [cmdOf 4 5 [(16, leBytes 8 4096), (24, leBytes 8 8192)]], mem := ({ State.reset with mem := zeroMem }.physWrite 4096 descriptor).mem }, 1, true, cmdOf 4 5 [(16, leBytes 8 4096), (24, leBytes 8 8192)],
     by decide +kernel⟩,
   ⟨State.reset.setDom 0 { restore := some {} }, 0, {}, by decide +kernel⟩,
   ⟨State.reset.setDom 0 { restore := some {} }, 0, 1, {}, by decide +kernel⟩⟩

theorem witness_ResumeNeedsAStoppedDomain :
    (∃ (s : State) (h : Word) (p : Pending), s.ready h 4 3 = some p ∧ (s.begin p).domState p.domain ≠ 3) ∧
    (∃ (s : State) (h : Word) (p : Pending), s.ready h 4 3 = some p ∧ ((s.begin p).dom p.domain).resumeBy.isSome = true) :=
  ⟨⟨{ State.reset with phase := .running, cmds := [cmdOf 4 3 []] }, 1, cmdOf 4 3 [], by decide +kernel⟩,
   ⟨{ State.reset with phase := .running, cmds := [cmdOf 4 3 []], doms := [(0, { resumeBy := some 1 })] }, 1, cmdOf 4 3 [],
     by decide +kernel⟩⟩

theorem witness_CoreInstructionsComplete :
    (∃ (s : State) (t : Fin 384) (w : Nat) (len : Nat) , s.coreRuns t.val = true ∧ (s.tile t.val).fetch = .word w len ∧ isCustom w = false ∧
      w ≠ 0x00100073 ∧ ∃ u rd v pc, s.runWord t.val w len = .done u rd v pc) ∧
    (∃ (s : State) (t : Fin 384) (f : Found), s.coreRuns t.val = true ∧ f.ecc = .corrected) ∧
    (∃ (s : State) (t : Fin 384) (f : Found), s.coreRuns t.val = true ∧ f.ecc = .uncorrectable) ∧
    (∃ (s : State) (t : Fin 384) (w : Nat) (len : Nat) , s.coreRuns t.val = true ∧ (s.tile t.val).fetch = .word w len ∧ isCustom w = false ∧
      w ≠ 0x00100073 ∧ ∃ c, s.runWord t.val w len = .trap c) ∧
    (∃ (s : State) (t : Fin 384) (len : Nat), s.coreRuns t.val = true ∧ (s.tile t.val).fetch = .word 0x00100073 len ∧
      bitOf s.scope 1 = true) ∧
    (∃ (s : State) (t : Fin 384) (len : Nat), s.coreRuns t.val = true ∧ (s.tile t.val).fetch = .word 0x00100073 len ∧
      bitOf s.scope 1 = false) :=
  ⟨⟨withTile (coreAt 0x00108093 []), 0, 0x00108093, 4, ⟨by decide +kernel, by decide +kernel, by decide +kernel,
     by decide +kernel, done_of (by decide +kernel)⟩⟩,
   ⟨withTile (coreAt 0 []), 0, foundAs .corrected, by decide +kernel⟩,
   ⟨withTile (coreAt 0 []), 0, foundAs .uncorrectable, by decide +kernel⟩,
   ⟨withTile (coreAt 0xFFFFFFFF []), 0, 0xFFFFFFFF, 4, ⟨by decide +kernel, by decide +kernel, by decide +kernel,
     by decide +kernel, trap_of (by decide +kernel)⟩⟩,
   ⟨{ withTile (coreAt 0x00100073 []) with security := { State.reset.security with grant := some { scope := 2 } } }, 0, 4,
     by decide +kernel⟩,
   ⟨withTile (coreAt 0x00100073 []), 0, 4, by decide +kernel⟩⟩

theorem witness_CoreArithmetic :
    (∃ (w : Nat), w % 128 = 0x33) ∧
    (∀ x ∈ [(0, 0), (0, 0x20), (0, 1), (5, 0x20), (3, 0), (4, 1), (6, 1), (7, 1)], let w := 0x33 + x.1 * 2 ^ 12 + x.2 * 2 ^ 25; w % 128 = 0x33 ∧
      f3 w = x.1 ∧ f7 w = x.2) :=
  ⟨⟨0x33, by decide +kernel⟩,
   by decide +kernel⟩

theorem witness_TicketsNameOperations :
    ∃ (i : Nat) (gen : Nat), i < 64 ∧ 1 ≤ gen ∧ gen ≤ 1023 :=
  ⟨63, 1023, by decide +kernel⟩

theorem witness_QueueInstructionsComplete :
    (∃ (s : State) (t : Fin 384) (rd rs1 rs2 : Fin 32) (w : Nat), s.customAt t.val 0 0 = some w ∧ fRd w = rd.val ∧ fRs1 w = rs1.val ∧
      fRs2 w = rs2.val ∧ dramFault ((s.tile t.val).x rs1.val).toNat 0 = none ∧ ∃ i, s.freeIndex t.val = some i) ∧
    (∃ (s : State) (t : Fin 384) (rd rs1 rs2 : Fin 32) (w : Nat), s.customAt t.val 0 1 = some w ∧ fRd w = rd.val ∧ fRs1 w = rs1.val ∧
      fRs2 w = rs2.val ∧ dramFault ((s.tile t.val).x rs1.val).toNat 0 = none ∧ ∃ i, s.freeIndex t.val = some i) ∧
    (∃ (s : State) (t : Fin 384) (rd : Fin 32) (rs1 : Fin 32) (rs2 : Fin 32) (w : Nat), s.customAt t.val 0 1 = some w ∧ fRd w = rd.val ∧
      fRs1 w = rs1.val ∧ fRs2 w = rs2.val ∧ dramFault ((s.tile t.val).x rs1.val).toNat 0 = none ∧ s.freeIndex t.val = none) ∧
    (∃ (s : State) (t : Fin 384) (rs1 : Fin 32) (w : Nat), s.customAt t.val 1 0 = some w ∧ fRs1 w = rs1.val ∧
      (s.tile t.val).complete (ticketIn ((s.tile t.val).x rs1.val)) = true) ∧
    (∃ (s : State) (t : Fin 384) (rs1 : Fin 32) (w : Nat), s.customAt t.val 1 0 = some w ∧ fRs1 w = rs1.val ∧
      (s.tile t.val).complete (ticketIn ((s.tile t.val).x rs1.val)) = false) ∧
    (∃ (s : State) (t : Fin 384) (rd : Fin 32) (rs1 : Fin 32) (w : Nat), s.customAt t.val 1 1 = some w ∧ fRd w = rd.val ∧ fRs1 w = rs1.val) ∧
    (∃ (s : State) (t : Fin 384) (rd : Fin 32) (rs1 : Fin 32) (w : Nat), s.customAt t.val 1 2 = some w ∧ fRd w = rd.val ∧ fRs1 w = rs1.val) ∧
    (∃ (s : State) (t : Fin 384) (rs1 : Fin 32) (w : Nat), s.customAt t.val 4 0 = some w ∧ fRs1 w = rs1.val) ∧
    (∃ (s : State) (t : Fin 384) (w : Nat), s.customAt t.val 4 1 = some w) ∧
    (∃ (s : State) (t : Fin 384) (rd : Fin 32) (rs1 : Fin 32) (w : Nat), s.customAt t.val 5 0 = some w ∧ fRd w = rd.val ∧ fRs1 w = rs1.val ∧
      ((s.tile t.val).x rs1.val).toNat < 16) :=
  ⟨⟨withTile { coreAt (custom 0 0) [] with xreg := [(1, 0x10FFC0)] }, 0, 3, 1, 2, custom 0 0, by decide +kernel, by decide +kernel,
     by decide +kernel, by decide +kernel, by decide +kernel, free_entry _ _ (by decide +kernel)⟩,
   ⟨withTile { coreAt (custom 0 1) [] with xreg := [(1, 0x10FFC0)] }, 0, 3, 1, 2, custom 0 1, by decide +kernel, by decide +kernel,
     by decide +kernel, by decide +kernel, by decide +kernel, free_entry _ _ (by decide +kernel)⟩,
   ⟨withTile { coreAt (custom 0 1) [(1, 0x10FFC0)] with ops := (List.range 64).map (fun i => (i, {})) }, 0, 3, 1, 2, custom 0 1,
     by decide +kernel⟩,
   ⟨withTile { coreAt (custom 1 0) [] with xreg := [] }, 0, 1, custom 1 0, by decide +kernel⟩,
   ⟨withTile { coreAt (custom 1 0) [(1, 64)] with ops := [(0, { gen := 1 })] }, 0, 1, custom 1 0, by decide +kernel⟩,
   ⟨withTile { coreAt (custom 1 1) [] with xreg := [] }, 0, 3, 1, custom 1 1, by decide +kernel⟩,
   ⟨withTile { coreAt (custom 1 2) [] with xreg := [] }, 0, 3, 1, custom 1 2, by decide +kernel⟩,
   ⟨withTile { coreAt (custom 4 0) [] with xreg := [] }, 0, 1, custom 4 0, by decide +kernel⟩,
   ⟨withTile { coreAt (custom 4 1) [] with xreg := [] }, 0, custom 4 1, by decide +kernel⟩,
   ⟨withTile { coreAt (custom 5 0) [] with xreg := [(1, 15)] }, 0, 3, 1, custom 5 0, by decide +kernel⟩⟩

theorem witness_MailboxAndBarrierInstructionsComplete :
    (∃ (s : State) (t : Fin 384) (rd : Fin 32) (rs1 : Fin 32) (rs2 : Fin 32) (w : Nat) (m : Bytes) (ms : List Bytes), s.customAt t.val 2 0 = some w ∧
      fRd w = rd.val ∧ fRs1 w = rs1.val ∧ fRs2 w = rs2.val ∧ dramFault ((s.tile t.val).x rs2.val).toNat 2 = none ∧
      ((s.tile t.val).x rs1.val).toNat < 16 ∧ s.chan t.val ((s.tile t.val).x rs1.val).toNat = m :: ms) ∧
    (∃ (s : State) (t : Fin 384) (rd : Fin 32) (rs1 : Fin 32) (rs2 : Fin 32) (w : Nat) (m : Bytes) (ms : List Bytes), s.customAt t.val 2 1 = some w ∧
      fRd w = rd.val ∧ fRs1 w = rs1.val ∧ fRs2 w = rs2.val ∧ dramFault ((s.tile t.val).x rs2.val).toNat 2 = none ∧
      ((s.tile t.val).x rs1.val).toNat < 16 ∧ s.chan t.val ((s.tile t.val).x rs1.val).toNat = m :: ms) ∧
    (∃ (s : State) (t : Fin 384) (rd : Fin 32) (rs1 : Fin 32) (rs2 : Fin 32) (w : Nat), s.customAt t.val 2 1 = some w ∧ fRd w = rd.val ∧
      fRs1 w = rs1.val ∧ fRs2 w = rs2.val ∧ dramFault ((s.tile t.val).x rs2.val).toNat 2 = none ∧ ((s.tile t.val).x rs1.val).toNat < 16 ∧
      s.chan t.val ((s.tile t.val).x rs1.val).toNat = []) ∧
    (∃ (s : State) (t : Fin 384) (rs1 : Fin 32) (w : Nat) (d : Nat), s.customAt t.val 3 0 = some w ∧ s.domOf t.val = some d ∧
      fRs1 w = rs1.val ∧ ((s.tile t.val).x rs1.val).toNat < 8 ∧
      ∃ u, s.arrive d ((s.tile t.val).x rs1.val).toNat (s.logicalOf d t.val) = some u) ∧
    (∃ (s : State) (t : Fin 384) (rs1 : Fin 32) (w : Nat) (d : Nat), s.customAt t.val 3 1 = some w ∧ s.domOf t.val = some d ∧
      fRs1 w = rs1.val ∧ ((s.tile t.val).x rs1.val).toNat < 8 ∧
      ((s.dom d).barrier ((s.tile t.val).x rs1.val).toNat).holds (s.logicalOf d t.val) = false) ∧
    (∃ (s : State) (t : Fin 384) (rs1 : Fin 32) (w : Nat) (d : Nat), s.customAt t.val 3 1 = some w ∧ s.domOf t.val = some d ∧
      fRs1 w = rs1.val ∧ ((s.tile t.val).x rs1.val).toNat < 8 ∧
      ((s.dom d).barrier ((s.tile t.val).x rs1.val).toNat).holds (s.logicalOf d t.val) = true) ∧
    (∃ (s : State) (d : Fin 64) (b : Fin 64), let x := (s.dom d.val).barrier b.val; ∃ (l : Nat), x.holds l = false) ∧
    (∃ (s : State) (d : Nat) (b : Nat) (l : Nat), ((s.dom d).barrier b).holds l = true) :=
  ⟨⟨withTile { coreAt (custom 2 0) [(1, 15), (2, 0x10FFC0)] with chans := [(15, [[]])] }, 0, 3, 1, 2, custom 2 0, [], [], by decide +kernel⟩,
   ⟨withTile { coreAt (custom 2 1) [(1, 15), (2, 0x10FFC0)] with chans := [(15, [[]])] }, 0, 3, 1, 2, custom 2 1, [], [], by decide +kernel⟩,
   ⟨withTile { coreAt (custom 2 1) [] with xreg := [(1, 15), (2, 0x10FFC0)] }, 0, 3, 1, 2, custom 2 1, by decide +kernel⟩,
   ⟨withTile { coreAt (custom 3 0) [] with xreg := [(1, 7)] }, 0, 1, custom 3 0, 0, ⟨by decide +kernel, by decide +kernel,
     by decide +kernel, by decide +kernel, some_of (by decide +kernel)⟩⟩,
   ⟨withTile { coreAt (custom 3 1) [] with xreg := [(1, 7)] }, 0, 1, custom 3 1, 0, by decide +kernel⟩,
   ⟨(withTile { coreAt (custom 3 1) [] with xreg := [(1, 7)] }).setDom 0 { barriers := [(7, { arrived := [0] })] }, 0, 1, custom 3 1, 0,
     by decide +kernel⟩,
   ⟨State.reset, 0, 0, 0, by decide +kernel⟩,
   ⟨State.reset.setDom 0 { barriers := [(0, { arrived := [0] })] }, 0, 0, 0, by decide +kernel⟩⟩

theorem witness_OperationsComplete :
    (∃ (s : State) (t : Fin 384) (engine : BitVec 4) (i : Nat) (e : Nat) (o : Op), firstOp (fun o => o.engineCode == engine.toNat && !o.started) (s.tile t.val).ops = some (i, o) ∧
      s.engineFor t.val o = some e ∧ s.mayStart t.val o = true) ∧
    (∃ (s : State) (t : Fin 384) (i : Fin 64) (o : Op), s.op t.val i.val = some o ∧ o.engineCode ≠ 15 ∧ o.acted = true) ∧
    (∃ (s : State) (t : Fin 384) (i : Fin 64) (o : Op) (d : Nat), s.op t.val i.val = some o ∧ o.engineCode = 15 ∧ o.started = true ∧
      (s.dequeue t.val i.val o).domOf t.val = some d ∧ o.code = 1) ∧
    (∃ (s : State) (t : Fin 384) (i : Fin 64) (o : Op) (d : Nat), s.op t.val i.val = some o ∧ o.engineCode = 15 ∧ o.started = true ∧
      (s.dequeue t.val i.val o).domOf t.val = some d ∧ o.code = 2) ∧
    (∃ (s : State) (t : Fin 384) (i : Fin 64) (o : Op), (s.held t.val i.val [6] 1 = some o ∧ s.dmaFault t.val o = none) ∧
      let x := o.dma; let a := s.tileAddr t.val x.src; let b := s.tileAddr t.val x.dst; s.rowsMapped x.bytes a x.ss x.rows = true ∧
      s.rowsMapped x.bytes b x.ds x.rows = true ∧ s.rowsPoisoned x.bytes a x.ss x.rows = none ∧ s.dmaTurn t.val o = true) ∧
    (∃ (s : State) (t : Fin 384) (i : Fin 64) (o : Op), s.held t.val i.val [6] 1 = some o ∧ s.dmaTurn t.val o = false) ∧
    (∃ (s : State) (t : Fin 384) (i : Fin 64) (o : Op) (d : Nat), s.held t.val i.val [7] 1 = some o ∧
      o.reservedOk [(8, 6), (24, 32)] = true ∧ o.field 10 1 < 16 ∧ o.field 8 2 ≤ 383 ∧ 1 ≤ o.field 11 1 ∧ o.field 11 1 ≤ 32 ∧
      o.field 12 2 = 0xFFFF ∧ s.domOf t.val = some d ∧ o.aux ≠ 1 ∧ s.sendsBefore t.val o = false ∧
      s.deliverable d (o.field 8 2) (o.field 10 1) = true) ∧
    (∃ (s : State) (t : Fin 384) (i : Fin 64) (o : Op) (d : Nat), s.held t.val i.val [7] 2 = some o ∧ s.domOf t.val = some d ∧
      s.postFault o = none ∧ (s.dom d).launchedColls.contains (postId o.desc) = false ∧
      (s.dom d).posts.any (fun q => postId q.desc == postId o.desc) = false) ∧
    (∃ (s : State) (t : Nat) (i : Nat) (o : Op), s.op t i = some o) :=
  ⟨⟨opState { opOf 6 1 [] with started := false }, 0, 6, 0, 6, { opOf 6 1 [] with started := false }, by decide +kernel⟩,
   ⟨opState { opOf 6 1 [] with acted := true }, 0, 0, { opOf 6 1 [] with acted := true }, by decide +kernel⟩,
   ⟨opState (opOf 15 1 []), 0, 0, opOf 15 1 [], 0, by decide +kernel⟩,
   ⟨opState (opOf 15 2 []), 0, 0, opOf 15 2 [], 0, by decide +kernel⟩,
   ⟨opState (opOf 6 1 [(8, leBytes 8 padBase), (16, leBytes 8 4096), (24, leBytes 4 64), (28, leBytes 4 1)]), 0, 0, opOf 6 1 [(8, leBytes 8 padBase), (16, leBytes 8 4096), (24, leBytes 4 64), (28, leBytes 4 1)],
     by decide +kernel⟩,
   ⟨withTile { ops := [(0, { opOf 6 1 [] with order := 1, sends := [(4096, none, 64)] }), (1, { opOf 6 1 [] with sends := [(4096, none, 64)] })] },
     0, 0, { opOf 6 1 [] with order := 1, sends := [(4096, none, 64)] }, by decide +kernel⟩,
   ⟨opState (opOf 7 1 [(8, leBytes 2 0), (11, [32#8]), (12, leBytes 2 0xFFFF)]), 0, 0, opOf 7 1 [(8, leBytes 2 0), (11, [32#8]), (12, leBytes 2 0xFFFF)], 0,
     by decide +kernel⟩,
   ⟨{ opState (opOf 7 2 [(8, leBytes 2 4095), (10, [1#8]), (12, [1#8]), (13, [1#8]), (16, leBytes 8 hbmBase), (24, leBytes 8 (hbmBase + 4096)), (32, leBytes 4 1), (40, leBytes 8 hbmBase), (48, leBytes 8 hbmBase)]) with hbmStacks := 15 }, 0, 0, opOf 7 2 [(8, leBytes 2 4095), (10, [1#8]), (12, [1#8]), (13, [1#8]), (16, leBytes 8 hbmBase), (24, leBytes 8 (hbmBase + 4096)), (32, leBytes 4 1), (40, leBytes 8 hbmBase), (48, leBytes 8 hbmBase)], 0,
     by decide +kernel⟩,
   ⟨opState (opOf 6 1 []), 0, 0, opOf 6 1 [], by decide +kernel⟩⟩

theorem witness_OperationsKeepOthers :
    (∃ (s : State) (k : Fin 384) (i : Fin 64) (o : Op), (s.held k.val i.val [6] 1 = some o ∧ s.dmaFault k.val o = none) ∧
      let x := o.dma; s.rowsMapped x.bytes (s.tileAddr k.val x.src) x.ss x.rows = true ∧
      s.rowsMapped x.bytes (s.tileAddr k.val x.dst) x.ds x.rows = true ∧
      s.rowsPoisoned x.bytes (s.tileAddr k.val x.src) x.ss x.rows = none ∧ ∃ t, exec (.dmaCopy k i []) s = .next t) ∧
    (∃ (s : State) (t : State) (k : Fin 384) (i : Fin 64) (o : Op) (op : Nat), op ≤ 0x1A ∧ s.held k.val i.val [5] op = some o ∧
      s.vecFault o = none ∧ o.tapKind = 0 ∧ s.tapTurn k.val o = true ∧ s.vecPlain k.val i.val op = t) :=
  ⟨⟨opState (opOf 6 1 [(8, leBytes 8 padBase), (16, leBytes 8 4096), (24, leBytes 4 64), (28, leBytes 4 1)]), 0, 0, opOf 6 1 [(8, leBytes 8 padBase), (16, leBytes 8 4096), (24, leBytes 4 64), (28, leBytes 4 1)], ⟨by decide +kernel,
     by decide +kernel, by decide +kernel, by decide +kernel, next_of (by decide +kernel)⟩⟩,
   ⟨opState (opOf 5 2 [(20, leBytes 4 64), (36, leBytes 4 64)]), _, 0, 0, opOf 5 2 [(20, leBytes 4 64), (36, leBytes 4 64)], 2, ⟨by decide,
     by decide +kernel, by decide +kernel, by decide +kernel, by decide +kernel, rfl⟩⟩⟩

/-- MMA.S of one row by 64 columns on array 1. -/
def mmaOp (rest : List (Nat × Bytes)) : Op :=
  opOf 1 1 ([(12, leBytes 4 4096), (16, leBytes 4 65536), (38, [1#8]), (40, [64#8]), (41, [1#8]), (44, [64#8]), (48, [64#8]), (52, leBytes 4 256)] ++
    rest)

/-- Its tile, with other operations in its queue. -/
def mmaState (o : Op) (others : SMap Op) : State :=
  ({ withTile { ops := (0, o) :: others } with image := some withFormats }).setReg (ARR_SHAPE 0) 0x404040

theorem witness_ArrayOperationsComplete :
    (∀ n ∈ [1, 2, 3, 4], (opState (opOf 0 n [])).held 0 0 [0, 1, 2, 3] n = some (opOf 0 n [])) ∧
    (∃ (s : State) (t : Fin 384) (i : Fin 64) (o : Op) (fm fs : Format), s.held t.val i.val [0, 1, 2, 3] 1 = some o ∧
      s.arrayFault t.val o = none ∧ o.frozen = false ∧ s.tapTurn t.val o = true ∧ s.format o.format = some fm ∧
      s.format o.statFormat = some fs) ∧
    (∃ (s : State) (t : Fin 384) (i : Fin 64) (o : Op), s.held t.val i.val [0, 1, 2, 3] 1 = some o ∧ s.arrayFault t.val o = none ∧
      o.frozen = true) ∧
    (∃ (s : State) (t : Fin 384) (i : Fin 64) (o : Op), s.held t.val i.val [0, 1, 2, 3] 1 = some o ∧ s.arrayFault t.val o = none ∧
      o.frozen = false ∧ s.tapTurn t.val o = false) ∧
    (∃ (s : State) (t : Fin 384) (i : Fin 64) (o : Op) (st : Nat), s.held t.val i.val [0, 1, 2, 3] 1 = some o ∧
      s.arrayFault t.val o = some st) ∧
    (∃ (s : State) (t : Fin 384) (i : Fin 64) (o : Op), s.held t.val i.val [4] 1 = some o ∧ o.turnFault = none) :=
  ⟨by decide +kernel,
   ⟨mmaState (mmaOp []) [], 0, 0, mmaOp [], formatA, formatB, by decide +kernel⟩,
   ⟨mmaState (mmaOp [(42, [32#8])]) [], 0, 0, mmaOp [(42, [32#8])], by decide +kernel⟩,
   ⟨mmaState { mmaOp [(43, [16#8])] with order := 1 } [(1, mmaOp [(43, [16#8])])], 0, 0, { mmaOp [(43, [16#8])] with order := 1 },
     by decide +kernel⟩,
   ⟨opState (opOf 0 1 []), 0, 0, opOf 0 1 [], ST_OP_DESCRIPTOR, by decide +kernel⟩,
   ⟨opState (opOf 4 1 [(12, leBytes 4 64), (16, [64#8]), (18, [64#8])]), 0, 0, opOf 4 1 [(12, leBytes 4 64), (16, [64#8]), (18, [64#8])],
     by decide +kernel⟩⟩

theorem witness_VectorOperationsComplete :
    (∀ n ∈ [0x02, 0x03, 0x04, 0x05, 0x06, 0x07, 0x08, 0x09, 0x0A, 0x0B, 0x0C, 0x10, 0x11, 0x12, 0x13, 0x14, 0x15, 0x16, 0x17, 0x18, 0x19, 0x1A], (opState (opOf 5 n [(20, [64#8]), (36, [64#8])])).held 0 0 [5] n = some (opOf 5 n [(20, [64#8]), (36, [64#8])]) ∧
      (opState (opOf 5 n [(20, [64#8]), (36, [64#8])])).vecFault (opOf 5 n [(20, [64#8]), (36, [64#8])]) = none ∧ (opState (opOf 5 n [(20, [64#8]), (36, [64#8])])).tapTurn 0 (opOf 5 n [(20, [64#8]), (36, [64#8])]) = true ∧
      (opState (opOf 5 n [])).vecFault (opOf 5 n []) = some ST_OP_DESCRIPTOR) ∧
    (∃ (s : State) (t : Fin 384) (i : Fin 64) (o : Op), s.held t.val i.val [5] 1 = some o ∧ s.vecFault o = none ∧ s.tapTurn t.val o = true ∧
      (o.stream 0).ty ≠ 4) ∧
    (∃ (s : State) (t : Fin 384) (i : Fin 64) (o : Op), s.held t.val i.val [5] 1 = some o ∧ s.vecFault o = none ∧ s.tapTurn t.val o = true ∧
      (o.stream 0).ty = 4 ∧ o.noOut = false) ∧
    (∃ (s : State) (t : Fin 384) (i : Fin 64) (o : Op), s.held t.val i.val [5] 0x24 = some o ∧ s.vecFault o = none ∧
      s.tapTurn t.val o = true ∧ o.noOut = false) :=
  ⟨by decide +kernel,
   ⟨opState (opOf 5 1 [(20, leBytes 4 64), (36, leBytes 4 64)]), 0, 0, opOf 5 1 [(20, leBytes 4 64), (36, leBytes 4 64)], by decide +kernel⟩,
   ⟨opState (opOf 5 1 [(20, leBytes 4 64), (36, leBytes 4 64), (44, [4#8]), (45, [0x40#8])]), 0, 0, opOf 5 1 [(20, leBytes 4 64), (36, leBytes 4 64), (44, [4#8]), (45, [0x40#8])],
     by decide +kernel⟩,
   ⟨opState (opOf 5 36 [(20, leBytes 4 64), (36, leBytes 4 64), (44, [0x44#8]), (45, [0x40#8])]), 0, 0, opOf 5 36 [(20, leBytes 4 64), (36, leBytes 4 64), (44, [0x44#8]), (45, [0x40#8])],
     by decide +kernel⟩⟩

theorem witness_QuantiserAndOptimiserComplete :
    (∃ (s : State) (t : Fin 384) (i : Fin 64) (o : Op) (f : Format), s.held t.val i.val [5] 0x20 = some o ∧ s.vecFault o = none ∧
      s.tapTurn t.val o = true ∧ s.format o.format = some f ∧ s.blkFault t.val o f = none) ∧
    (∃ (s : State) (t : Fin 384) (i : Fin 64) (o : Op) (f : Format), s.held t.val i.val [5] 0x21 = some o ∧ s.vecFault o = none ∧
      s.tapTurn t.val o = true ∧ s.format o.format = some f ∧ s.blkFault t.val o f = none) ∧
    (∃ (s : State) (t : Fin 384) (i : Fin 64) (o : Op) (f : Format), s.held t.val i.val [5] 0x22 = some o ∧ s.vecFault o = none ∧
      s.tapTurn t.val o = true ∧ s.format o.format = some f ∧ s.blkFault t.val o f = none ∧ o.noOut = false) ∧
    (∃ (s : State) (t : Fin 384) (i : Fin 64) (o : Op), s.held t.val i.val [5] 0x23 = some o ∧ s.vecFault o = none ∧
      s.tapTurn t.val o = true ∧ s.blkFault t.val o ⟨0, 0, 0, false, false, false⟩ = none) ∧
    (∃ (s : State) (t : Fin 384) (i : Fin 64) (o : Op), s.held t.val i.val [5] 0x30 = some o ∧ s.pass1Fault t.val o = none) ∧
    (∃ (s : State) (t : Fin 384) (i : Fin 64) (o : Op) (d : Nat), s.held t.val i.val [5] 0x31 = some o ∧ s.domOf t.val = some d ∧
      o.updReserved = true ∧ o.updNull = true) ∧
    (∃ (s : State) (t : Fin 384) (i : Fin 64) (o : Op) (d : Nat) (f : Format) (b : Format), s.held t.val i.val [5] 0x31 = some o ∧
      s.domOf t.val = some d ∧ o.updReserved = true ∧ o.updNull = false ∧ o.updBlock % 64 = 0 ∧ o.updBlock + 128 ≤ padEnd ∧
      s.shardReserved t.val o = true ∧ s.format (s.shard t.val o).fFormat = some f ∧ s.format (s.shard t.val o).bFormat = some b ∧
      s.pass2Fault t.val o f b = none ∧ s.numAt ((s.shard t.val o).record + 2) 1 ≠ 0 ∧ (s.decided d t.val o).tapTurn t.val o = true) :=
  ⟨⟨{ opState (opOf 5 32 [(20, leBytes 4 8192), (36, leBytes 4 512), (16, leBytes 4 4096), (40, [63#8]), (45, [0x00#8])]) with mem := zeroMem, image := some withFormats }, 0, 0, opOf 5 32 [(20, leBytes 4 8192), (36, leBytes 4 512), (16, leBytes 4 4096), (40, [63#8]), (45, [0x00#8])], formatA,
     by decide +kernel⟩,
   ⟨{ opState (opOf 5 33 [(20, leBytes 4 0), (16, leBytes 4 4096), (24, leBytes 4 64), (42, [63#8]), (46, [8#8]), (3, [1#8])]) with mem := zeroMem, image := some withFormats }, 0, 0, opOf 5 33 [(20, leBytes 4 0), (16, leBytes 4 4096), (24, leBytes 4 64), (42, [63#8]), (46, [8#8]), (3, [1#8])], formatB,
     by decide +kernel⟩,
   ⟨{ opState (opOf 5 34 [(20, leBytes 4 8192), (36, leBytes 4 512), (16, leBytes 4 4096), (40, [63#8])]) with mem := zeroMem, image := some withFormats }, 0, 0, opOf 5 34 [(20, leBytes 4 8192), (36, leBytes 4 512), (16, leBytes 4 4096), (40, [63#8])], formatA,
     by decide +kernel⟩,
   ⟨{ opState (opOf 5 0x23 [(20, leBytes 4 8192), (36, leBytes 4 512), (16, leBytes 4 4096), (49, [0x10#8])]) with mem := ({ State.reset with mem := zeroMem }.physWrite (padBase + 4096 + 37) [1#8]).mem, image := some withFormats }, 0, 0, opOf 5 0x23 [(20, leBytes 4 8192), (36, leBytes 4 512), (16, leBytes 4 4096), (49, [0x10#8])],
     by decide +kernel⟩,
   ⟨{ opState (opOf 5 0x30 []) with mem := shardMem }, 0, 0, opOf 5 0x30 [], by decide +kernel⟩,
   ⟨opState (opOf 5 0x31 [(13, [2#8])]), 0, 0, opOf 5 0x31 [(13, [2#8])], 0, by decide +kernel⟩,
   ⟨{ opState (opOf 5 0x31 []) with mem := shardMem, image := some withFormats, hbmMap := { regions := [{ size := 2 ^ 24, pcs := [0] }] }, hbmStacks := 15 }, 0, 0, opOf 5 0x31 [], 0, formatB, formatA,
     by decide +kernel⟩⟩

theorem witness_WalkerOperationsComplete :
    (∃ (s : State) (t : Fin 384) (i : Fin 64) (o : Op) (d : Nat), (s.held t.val i.val [8] 1 = some o ∧ s.domOf t.val = some d ∧
      s.fld KVP_STATUS_STATE ≠ 0 ∧ o.reservedOk [(8, 33)] = true ∧ o.field 40 1 < 8) ∧
      let g := o.gather; let q := s.seq g.seq; s.owns d g.seq = true ∧ g.stream < q.streams ∧ 1 ≤ g.count ∧ g.count ≤ 8192 ∧
      g.t0 + g.count ≤ q.maxRuns * 256 ∧ g.placeOk (s.poolD q.pool * s.poolElem q.pool) (s.poolFp8 q.pool) = true ∧
      (∀ v ∈ q.walkPages g, (s.pte v).tier ≠ 3)) ∧
    (∃ (s : State) (t : Fin 384) (i : Fin 64) (o : Op) (d : Nat), (s.held t.val i.val [8] 2 = some o ∧ s.domOf t.val = some d ∧
      s.fld KVP_STATUS_STATE ≠ 0 ∧ o.reservedOk [(8, 11), (20, 20)] = true ∧ o.field 18 1 < 2) ∧
      let q := s.seq (o.field 8 2); let start := if q.slot = s.slot d then q.l0 else q.length; let pos := if o.field 12 4 = 0xFFFFFFFF then start else o.field 12 4; let n := o.field 16 2; let vs := (fromTo (pos / 16) ((pos + n + 15) / 16 - pos / 16)).map (q.vpn (o.field 10 2)); s.owns d (o.field 8 2) = true ∧
      o.field 10 2 < q.streams ∧ s.appendPlaceOk o q.pool = true ∧ pos ≤ start ∧ pos + n ≤ q.maxRuns * 256 ∧
      (∀ v ∈ vs, (s.pte v).tier ≠ 3) ∧ (∀ v ∈ vs, (s.pte v).cow = false) ∧ (s.writableAll q.pool vs).2 = true) ∧
    (∃ (s : State) (t : Fin 384) (i : Fin 64) (o : Op) (d : Nat), (s.held t.val i.val [8] 3 = some o ∧ s.domOf t.val = some d ∧
      s.fld KVP_STATUS_STATE ≠ 0 ∧ o.reservedOk [(8, 2), (12, 7), (20, 4)] = true ∧ o.field 12 4 % 16 = 0 ∧ 1 ≤ o.field 16 2 ∧
      o.field 16 2 ≤ 4096 ∧ o.field 18 1 < 8 ∧ (s.poolEntry (o.field 18 1)).isSome = true ∧ o.field 20 4 % 256 = 0 ∧ 256 ≤ o.field 20 4 ∧
      o.field 20 4 ≤ 1048576 ∧ o.field 12 4 + o.field 16 2 * (o.field 20 4 / 16) ≤ 4194304) ∧ (s.seq (o.field 8 2)).state = 0 ∧
      (∀ j, j < 65536 → (s.seq j).state = 0 ∨ (s.seq j).base + (s.seq j).entries ≤ o.field 12 4 ∨
        o.field 12 4 + o.field 16 2 * (o.field 20 4 / 16) ≤ (s.seq j).base)) ∧
    (∃ (s : State) (t : Fin 384) (i : Fin 64) (o : Op) (d : Nat), (s.held t.val i.val [8] 4 = some o ∧ s.domOf t.val = some d ∧
      s.fld KVP_STATUS_STATE ≠ 0 ∧ o.reservedOk [(8, 8)] = true) ∧
      let q := s.seq (o.field 8 2); let r := s.seq (o.field 10 2); let pre := o.field 12 4; (s.owns d (o.field 8 2) = true ∧
      s.owns d (o.field 10 2) = true ∧ o.field 8 2 ≠ o.field 10 2 ∧ q.pool = r.pool ∧ q.streams = r.streams ∧ r.length = 0 ∧ pre ≠ 0 ∧
      pre ≤ r.maxRuns * 256 ∧ pre ≤ q.length) ∧
      let pages := (List.range q.streams).flatMap (fun st => (List.range ((pre + 15) / 16)).map (fun n => (q.vpn st n, r.vpn st n, decide (16 * n + 16 ≤ pre) && !(o.met.contains (q.vpn st n))))); (∀ x ∈ pages, (s.pte x.1).tier ≠ 3 ∧ (s.pte x.2.1).tier ≠ 3) ∧
      (s.forkAll q.pool pages).2 = true) ∧
    (∃ (s : State) (t : Fin 384) (i : Fin 64) (o : Op) (d : Nat), s.held t.val i.val [8] 5 = some o ∧ s.domOf t.val = some d ∧
      s.fld KVP_STATUS_STATE ≠ 0 ∧ o.reservedOk [(8, 2)] = true ∧ s.owns d (o.field 8 2) = true ∧ (s.seq (o.field 8 2)).state = 1 ∧
      (∀ v ∈ fromTo (s.seq (o.field 8 2)).base (s.seq (o.field 8 2)).entries, (s.pte v).tier ≠ 3)) ∧
    (∃ (s : State) (t : Fin 384) (i : Fin 64) (o : Op) (d : Nat), s.held t.val i.val [8] 6 = some o ∧ s.domOf t.val = some d ∧
      s.fld KVP_STATUS_STATE ≠ 0 ∧ o.reservedOk [(8, 1), (12, 6)] = true ∧ o.field 8 1 ≤ 12 ∧ o.field 12 4 % 4 = 0 ∧
      o.field 12 4 + 4 + 2 * o.field 16 2 ≤ padEnd) :=
  ⟨⟨kvState (opOf 8 1 [(16, leBytes 4 1), (36, leBytes 4 1024), (40, [3#8])]), 0, 0, opOf 8 1 [(16, leBytes 4 1), (36, leBytes 4 1024), (40, [3#8])], 0,
     by decide +kernel⟩,
   ⟨kvState (opOf 8 2 [(16, [1#8]), (24, leBytes 4 128)]), 0, 0, opOf 8 2 [(16, [1#8]), (24, leBytes 4 128)], 0, by decide +kernel⟩,
   witness_open,
   ⟨kvState (opOf 8 4 [(10, [1#8]), (12, [16#8])]), 0, 0, opOf 8 4 [(10, [1#8]), (12, [16#8])], 0, by decide +kernel⟩,
   ⟨kvState (opOf 8 5 []), 0, 0, opOf 8 5 [], 0, by decide +kernel⟩,
   ⟨kvState (opOf 8 6 [(8, [12#8])]), 0, 0, opOf 8 6 [(8, [12#8])], 0, by decide +kernel⟩⟩

/-- A running module with KV pages disabled and pool 0 of 1 GiB configured. -/
def pagesOff : State :=
  ({ State.reset with phase := .running, image := some (withSections [withRegion 3 (2 ^ 30)]), hbmMap := { regions := [{ size := 2 ^ 30 }] } }).setFld
    (KVP_POOL_GEOM_K_TYPE 0) 1

theorem witness_PageEngineCommandsComplete :
    ((∃ (s : State) (id : Nat) (m : PageMove), s.kvp.moves.find? (fun x => x.id == id && x.spill == true) = some m ∧ s.revoked 0xD0FF = false) ∧
     (∃ (s : State) (id : Nat) (m : PageMove), s.kvp.moves.find? (fun x => x.id == id && x.spill == false) = some m ∧ s.revoked 0xD0FF = false) ∧
     ∃ (s : State) (id : Nat), s.kvp.moves ≠ [] ∧ s.kvp.moves.all (fun x => x.id != id) = true) ∧
    ((∃ s : State, s.phase = .running ∧ s.fld KVP_STATUS_STATE = 0 ∧ (s.setFld KVP_CTRL_INIT 1).kvpOk = true) ∧
     (∃ s : State, s.phase = .running ∧ s.fld KVP_STATUS_STATE = 0 ∧ (s.setFld KVP_CTRL_INIT 0).kvpOk = true) ∧
     (∃ (s : State) (init : Bool), s.phase = .running ∧ s.fld KVP_STATUS_STATE = 0 ∧
       (s.setFld KVP_CTRL_INIT (if init then 1 else 0)).kvpOk = false) ∧
     (∃ s : State, s.phase = .running ∧ s.fld KVP_STATUS_STATE = 1) ∧
     (∃ s : State, s.fld KVP_STATUS_STATE = 2 ∧ s.walkers = [] ∧ s.kvp.moves = []) ∧
     ∃ s : State, s.fld KVP_STATUS_STATE = 2 ∧ (s.walkers ≠ [] ∨ s.kvp.moves ≠ [])) :=
  ⟨⟨⟨{ State.reset with kvp := { moves := [{}] } }, 0, {}, by decide +kernel⟩,
    ⟨{ State.reset with kvp := { moves := [{ spill := false }] } }, 0, { spill := false }, by decide +kernel⟩,
    { State.reset with kvp := { moves := [{}] } }, 1, by decide +kernel⟩,
   ⟨pagesOff, by decide +kernel⟩,
   ⟨pagesOff, by decide +kernel⟩,
   ⟨{ State.reset with phase := .running }, false, by decide +kernel⟩,
   ⟨({ State.reset with phase := .running }).setFld KVP_STATUS_STATE 1, by decide +kernel⟩,
   ⟨State.reset.setFld KVP_STATUS_STATE 2, by decide +kernel⟩,
   ({ State.reset with kvp := { moves := [{}] } }).setFld KVP_STATUS_STATE 2, by decide +kernel⟩

theorem witness_StashCommandsComplete :
    (∃ (s : State) (t : Fin 384) (i : Fin 64) (o : Op) (d : Nat), s.held t.val i.val [9] 1 = some o ∧ s.domOf t.val = some d ∧
      s.registerFault t.val d o = none ∧ s.classPolicy o.reg.cls = 3) ∧
    (∃ (s : State) (t : Fin 384) (i : Fin 64) (o : Op) (d : Nat), (s.held t.val i.val [9] 1 = some o ∧ s.domOf t.val = some d ∧
      s.registerFault t.val d o = none ∧ s.classPolicy o.reg.cls ≠ 3 ∧ (s.newHandle t.val d o).dual = false) ∧
      let a := s.tileAddr t.val o.reg.src; let b := s.tileAddr t.val o.reg.dualSrc; s.mappedAll a o.reg.len = true ∧
      s.mappedAll b 0 = true ∧ s.poisonedIn a o.reg.len = none ∧
      ∃ v, ((s.readHbm d a o.reg.len).readHbm d b 0).placeCapture o.reg.handle d (s.newHandle t.val d o) (s.physRead a o.reg.len) (s.physRead b 0) = some v) ∧
    (∃ (s : State) (id : Nat), (s.handle id).state = 1 ∧ s.revoked (stashUnit (s.handle id).die) = false) ∧
    (∃ (s : State) (t : Fin 384) (i : Fin 64) (o : Op) (d : Nat), (s.held t.val i.val [9] 2 = some o ∧ s.domOf t.val = some d ∧
      s.fetchFault t.val d o = none) ∧
      let x := (s.noteFetch o.fetch.handle o.fetch.part).handle o.fetch.handle; x.state ≠ 1 ∧ x.state ≠ 4 ∧ x.state ≠ 5) ∧
    (∃ (s : State) (t : Fin 384) (i : Fin 64) (o : Op) (d : Nat), s.held t.val i.val [9] 3 = some o ∧ s.domOf t.val = some d ∧
      o.reservedOk [(8, 4)] = true ∧ o.field 8 4 < 2 ^ 18 ∧ s.stashBase.isSome = true ∧ (s.handle (o.field 8 4)).state ≠ 0 ∧
      (s.handle (o.field 8 4)).dom = d) ∧
    (∃ (s : State) (id : Nat) (e : Nat × List Nat), s.stash.orphans.find? (fun e => e.1 == id) = some e) ∧
    (∃ (s : State) (id : Nat), s.stash.orphans.find? (fun e => e.1 == id) = none ∧ (s.handle id).move = none) ∧
    (∃ (s : State) (id : Nat) (m : HandleMove), s.stash.orphans.find? (fun e => e.1 == id) = none ∧ (s.handle id).move = some m ∧
      s.revoked (stashUnit (s.handle id).die) = false ∧ (s.handle id).dual = false ∧ (s.handle id).state ≠ 5) :=
  ⟨⟨{ opState (opOf 9 1 []) with mem := zeroMem, image := some (withStash 3) }, 0, 0, opOf 9 1 [], 0, by decide +kernel⟩,
   ⟨{ opState (opOf 9 1 [(8, leBytes 4 262143), (16, leBytes 8 padBase), (24, [1#8])]) with mem := zeroMem, image := some (withStash 0) }, 0, 0, opOf 9 1 [(8, leBytes 4 262143), (16, leBytes 8 padBase), (24, [1#8])], 0, ⟨by decide +kernel,
     by decide +kernel, by decide +kernel, by decide +kernel, some_of (by decide +kernel)⟩⟩,
   ⟨{ State.reset with stash := { handles := [(0, { state := 1 })] } }, 0, by decide +kernel⟩,
   ⟨{ opState (opOf 9 2 [(20, [1#8]), (24, leBytes 8 padBase)]) with mem := zeroMem, image := some (withStash 0), stash := { handles := [(0, { state := 3, pRaw := 1 })] } }, 0, 0, opOf 9 2 [(20, [1#8]), (24, leBytes 8 padBase)], 0,
     by decide +kernel⟩,
   ⟨{ opState (opOf 9 3 []) with mem := zeroMem, image := some (withStash 0), stash := { handles := [(0, { state := 3, pRaw := 1 })] } }, 0, 0, opOf 9 3 [], 0,
     by decide +kernel⟩,
   ⟨{ State.reset with stash := { orphans := [(0, [])] } }, 0, (0, []), by decide +kernel⟩,
   ⟨State.reset, 0, by decide +kernel⟩,
   ⟨{ State.reset with stash := { handles := [(0, { move := some {} })] } }, 0, {}, by decide +kernel⟩⟩

theorem witness_MessagesAndBarriersComplete :
    (∃ (s : State) (k : Nat) (f : Flit) (d : Nat), (s.flitAt k (· == .data) = some f) ∧
      let u := s.dropFlit k; let c := msgChan f.bytes; let key := msgSrc f.bytes * 16 + c; u.domOf f.dst = some d ∧
      (u.dom d).epoch ≤ msgEpoch f.bytes ∧ u.fld (TIL_MSG_CHAN_PERSIST f.dst c) ≠ 1 ∧ u.tileState f.dst = 2 ∧
      msgSeq f.bytes = (smapFind (u.tile f.dst).expect key).getD 0 ∧ (u.chan f.dst c).length < 16) ∧
    (∃ (s : State) (k : Nat) (f : Flit) (d : Nat), (s.flitAt k (· == .data) = some f) ∧
      let u := s.dropFlit k; let c := msgChan f.bytes; u.domOf f.dst = some d ∧ (u.dom d).epoch ≤ msgEpoch f.bytes ∧
      u.fld (TIL_MSG_CHAN_PERSIST f.dst c) ≠ 1 ∧ u.tileState f.dst = 2 ∧ 16 ≤ (u.chan f.dst c).length) ∧
    (∃ (s : State) (k : Nat) (f : Flit) (j : Nat) (m : Nat) (w : Flow), s.flitAt k FlitKind.answers = some f ∧ s.answered f = some (j, w, m) ∧
      f.kind = .ack) ∧
    (∃ (s : State) (k : Nat) (f : Flit), s.flitAt k FlitKind.answers = some f ∧ f.kind ≠ .refusal ∧ s.answered f = none) ∧
    (∃ (s : State) (k : Nat) (f : Flit) (j : Nat) (w : Flow), s.flitAt k FlitKind.answers = some f ∧ f.kind = .refusal ∧ s.answered f = some (j, w, 0) ∧
      w.resend = false) ∧
    (∃ (s : State) (t : Fin 384) (flow : Nat) (d : Nat) (w : Flow), (s.tile t.val).flows[flow]? = some w ∧ w.resend = true ∧
      s.domOf t.val = some d ∧ w.module = 0xFFFF) ∧
    (∃ (s : State) (d : Fin 64) (b : Fin 8), ((s.dom d.val).barrier b.val).groups = 0 ∧ s.domTiles d.val ≠ [] ∧
      (∀ l ∈ s.domTiles d.val, l ∈ ((s.dom d.val).barrier b.val).arrived)) ∧
    (∃ (s : State) (d : Fin 64) (b : Fin 8) (l : Nat), l ∈ s.domTiles d.val ∧ l ∉ ((s.dom d.val).barrier b.val).arrived) ∧
    (∃ (s : State) (d : Fin 64) (b : Fin 8) (g : Fin 8), let x := (s.dom d.val).barrier b.val; 0 < g.val ∧ g.val < 7 ∧ x.groups = g.val) ∧
    (∃ (s : State) (d : Fin 64) (b : Fin 8), let x := (s.dom d.val).barrier b.val; x.groups = 7) ∧
    (∃ (s : State) (k : Nat) (f : Flit) (d : Nat), s.flitAt k (· == .data) = some f ∧ (s.dropFlit k).domOf f.dst = some d ∧
      msgEpoch f.bytes < ((s.dropFlit k).dom d).epoch) :=
  ⟨⟨{ working with net := [{ bytes := zeros 64 }] }, 0, { bytes := zeros 64 }, 0, by decide +kernel⟩,
   ⟨{ working with net := [{ bytes := zeros 64 }], tiles := [(0, { chans := [(0, List.replicate 16 [])] })] }, 0, { bytes := zeros 64 }, 0,
     by decide +kernel⟩,
   ⟨{ working with net := [{ kind := .ack, bytes := zeros 64 }], tiles := [(0, { flows := [{ unacked := [(0, zeros 64)] }] })] }, 0, { kind := .ack, bytes := zeros 64 }, 0, 0, { unacked := [(0, zeros 64)] },
     by decide +kernel⟩,
   ⟨{ working with net := [{ kind := .ack, bytes := zeros 64 }] }, 0, { kind := .ack, bytes := zeros 64 }, by decide +kernel⟩,
   ⟨{ working with net := [{ kind := .refusal, bytes := zeros 64 }], tiles := [(0, { flows := [{ unacked := [(0, zeros 64)] }] })] }, 0, { kind := .refusal, bytes := zeros 64 }, 0, { unacked := [(0, zeros 64)] },
     by decide +kernel⟩,
   ⟨withTile { flows := [{ resend := true }] }, 0, 0, 0, { resend := true }, by decide +kernel⟩,
   ⟨working.setDom 0 { barriers := [(0, { arrived := [0] })] }, 0, 0, by decide +kernel⟩,
   ⟨working, 0, 0, 0, by decide +kernel⟩,
   ⟨working.setDom 0 { barriers := [(0, { groups := 6 })] }, 0, 0, 6, by decide +kernel⟩,
   ⟨working.setDom 0 { barriers := [(0, { groups := 7 })] }, 0, 0, by decide +kernel⟩,
   ⟨{ working with net := [{ bytes := zeros 64 }], doms := [(0, { epoch := 1 })] }, 0, { bytes := zeros 64 }, 0, by decide +kernel⟩⟩

theorem witness_RecoveryCommandsComplete :
    (∃ (s : State) (t : Fin 384), s.beats t.val = true) ∧
    (∃ (s : State) (t : Fin 384), s.beats t.val = true) ∧
    (∃ (s : State) (d : Fin 64) (old : Nat) (t : Nat), (s.dom d.val).recovering = [old] ∧ s.filling = false ∧ s.chooseSpare d.val old = some t) ∧
    (∃ (s : State) (d : Fin 64) (old : Nat) (rest : List Nat), (s.dom d.val).recovering = old :: rest ∧ s.filling = false ∧
      s.chooseSpare d.val old = none) ∧
    (∃ (s : State) (d : Fin 64), (s.dom d.val).recovering ≠ [] ∧ s.filling = true) ∧
    ((∃ (s : State) (p : Fin 8), p.val < 4 ∧ bitOf s.d2dUp p.val = true) ∧
      (∃ (s : State) (p : Fin 8), 4 ≤ p.val ∧ bitOf s.links (p.val - 4) = true) ∧
      ∃ (s : State) (p : Fin 8), (s.d2dPort p.val).2 = false) ∧
    (∃ (s : State) (p : Fin 4), bitOf s.d2dUp p.val = true) ∧
    (∃ (s : State) (n : Fin 4), bitOf s.links n.val = true ∧ let u := s.endHome n.val
      let v := { u with links := withoutBit u.links n.val }.resetRegRange (LNK_STATUS n.val) 0x10_0000
      v.carrier n.val = some 1) ∧
    (∃ (s : State) (n : Fin 4), bitOf s.links n.val = true ∧ let u := s.endHome n.val
      let v := { u with links := withoutBit u.links n.val }.resetRegRange (LNK_STATUS n.val) 0x10_0000
      v.carrier n.val = none) ∧
    (∃ (s : State) (value : Word), (s.phase = .running) ∧
      let cap := 2 ^ s.foundation.errRingLog2; let v := bitsOf value.toNat 0 16; v < cap ∧ v ≠ s.fld CTL_ERR_RING_PTR_HEAD) ∧
    (∃ (s : State) (d : Nat) (t : Nat) (x : Nat), s.chooseSpare d t = some x) :=
  ⟨⟨working, 0, by decide +kernel⟩,
   ⟨working, 0, by decide +kernel⟩,
   ⟨{ working with image := some withSpare, doms := [(0, { recovering := [0] })] }, 0, 0, 1, by decide +kernel⟩,
   ⟨working.setDom 0 { recovering := [0] }, 0, 0, [], by decide +kernel⟩,
   ⟨working.setDom 0 { recovering := [0], restore := some {} }, 0, by decide +kernel⟩,
   ⟨⟨{ State.reset with d2dUp := 8 }, 3, by decide +kernel⟩, ⟨{ State.reset with links := 1 }, 4, by decide +kernel⟩,
     State.reset, 4, by decide +kernel⟩,
   ⟨{ State.reset with d2dUp := 1 }, 0, by decide +kernel⟩,
   ⟨({ State.reset with links := 3 }).setFld (LNK_STATUS_PORTS_UP 1) 1, 0, by decide +kernel⟩,
   ⟨{ State.reset with links := 1 }, 0, by decide +kernel⟩,
   ⟨{ State.reset with phase := .running }, 16383, by decide +kernel⟩,
   ⟨{ working with image := some withSpare }, 0, 0, 1, by decide +kernel⟩⟩

theorem witness_ScrubAndArbitrationComplete :
    (∃ (s : State) (x : Fin 16), (s.fld (HBM_STATUS_STATE x.val) = 1 ∧ s.fld (HBM_SCRUB_ENABLE x.val) = 1) ∧
      let w := (smapFind s.scrubAt x.val).getD 0; w + 1 ≠ 64 * pcWords) ∧
    (∃ (s : State) (a : ArbId) (asks : List Ask) (g : Nat) (y : Arb), let live := (asks.filter (fun k => !((s.arb a).waiting.contains k.unit) && !((s.arb a).faulted.contains k.unit))).map (s.arbRequest a.cls.val); (s.arb a).decide (s.quota a.cls.val) (s.window a.cls.val) live = (some g, y)) ∧
    (∃ a : ArbId, a.cls = 0 ∧ bankTile a < 384) ∧ (∃ a : ArbId, a.cls ≠ 0) ∧
    (∃ (x : Arb) (quota window g : Nat) (asks : List Req) (y : Arb), x.decide quota window asks = (some g, y)) ∧
    (∃ (s : State) (a : ArbId) (u : Nat), (s.arb a).owner = some u ∧ (s.arb a).granted = true ∧ tileOfUnit u = none) :=
  ⟨⟨((State.reset).setFld (HBM_STATUS_STATE 0) 1).setFld (HBM_SCRUB_ENABLE 0) 1, 0, by decide +kernel⟩,
   ⟨State.reset, ⟨3, 0, 0⟩, [⟨0, .other⟩, ⟨1, .control⟩], 1, ((State.reset.arb ⟨3, 0, 0⟩).decide (State.reset.quota 3) (State.reset.window 3)
     [⟨0, false, false⟩, ⟨1, true, true⟩]).2, by decide +kernel⟩,
   ⟨⟨0, 0, 0⟩, by decide⟩, ⟨⟨3, 0, 0⟩, by decide⟩,
   ⟨{}, 1, 256, 0, [⟨0, false, false⟩], (({} : Arb).decide 1 256 [⟨0, false, false⟩]).2, by decide +kernel⟩,
   ⟨State.reset.setArb ⟨0, 0, 0⟩ { owner := some 0x9000, granted := true }, ⟨0, 0, 0⟩, 0x9000, by decide +kernel⟩⟩

/-- An intake whose pool holds one slot, enabled (1) or not (0). -/
def intakeIn (on : Nat) (s : State) : State :=
  ((((((({ s with image := some (withSections [withRegion 1 (2 ^ 30)]) }).setFld INT_POOL_BASE (hbmBase / 2 ^ 21)).setFld INT_POOL_SIZE 1).setFld
    INT_CONFIG_SLOT_MIB 960).setFld INT_CONFIG_RING_LOG2 6).setFld INT_RING_BASE_BASE 1).setFld INT_WORKER_BASE_BASE 1).setFld INT_STATUS_STATE on

/-- A running intake at whose ring's head lies a batch record. -/
def batchIn (x : Intake) : State :=
  (intakeIn 1 { { inState 3 with mem := zeroMem }.physWrite 4096 batchRecord with intake := x }).setFld INT_RING_PTR_TAIL 1

/-- Whether a record waits in the ring, the record at its head, and the state after the head has moved. -/
abbrev waitsInRing (s : State) : Prop :=
  s.intakeOn = true ∧ s.aloft = true ∧ s.fld INT_RING_PTR_HEAD ≠ s.fld INT_RING_PTR_TAIL % 2 ^ s.fld INT_CONFIG_RING_LOG2

def headRecord (s : State) : Bytes := s.bytesAt (s.fld INT_RING_BASE_BASE * 4096 + 64 * s.fld INT_RING_PTR_HEAD) 64

def headMoved (s : State) : State := s.setFld INT_RING_PTR_HEAD ((s.fld INT_RING_PTR_HEAD + 1) % 2 ^ s.fld INT_CONFIG_RING_LOG2)

def headHeld (s : State) : Bool :=
  s.intake.batches.any (fun b => b.dom == fieldAt (headRecord s) 8 1 && b.step == fieldAt (headRecord s) 0 8)

/-- A sample that engine 0 decodes, and one that a worker has. -/
def atEngine (x : Sample) : State := { State.reset with mem := zeroMem, intake := { samples := [(0, x)], engines := [(0, [0])] } }

def atWorker (x : Sample) : State := { State.reset with phase := .running, intake := { samples := [(0, { x with state := .worker })] } }

/-- That sample with its CRC to be checked, which fails; and with no format. -/
def badCrc : Sample := { sample with record := putAt (putAt sample.record 21 [2#8]) 24 (leBytes 4 1) }

def noFormat : Sample := { sample with record := putAt sample.record 20 [0#8] }

/-- Where a sample's decoding is asked for, what the opaque decoder answers is the premise. -/
theorem decodes (s : State) (sh : Shape) (elems : List Nat) (h : s.hostOnly sample.src sample.len = true) (t : formatTakes 1 sh = true)
    (d : Config.decode 1 0 1 (s.sourceOf sample) = .frames sh elems) : s.decodeSample sample = .ok (sh, elems) := by
  have a : sample.format = 1 ∧ sample.frames = 1 ∧ sample.firstFrame = 0 := by decide +kernel
  simp [State.decodeSample, a.1, a.2.1, a.2.2, h, d, t]

theorem witness_IntakeCommandsComplete :
    ((∃ (s : State) (workers : Bool), s.phase = .running ∧ s.intakeOk workers = true) ∧
     (∃ (s : State) (workers : Bool), s.phase = .running ∧ s.intakeOn = false ∧ s.intakeOk workers = false) ∧
     (∃ (s : State) (workers : Bool), s.phase = .running ∧ s.intakeOn = true ∧ s.intakeOk workers = false) ∧
     ∃ s : State, s.phase = .running) ∧
    ((∃ s : State, waitsInRing s ∧ (headMoved s).batchOk (headRecord s) = false) ∧
     (∃ s : State, waitsInRing s ∧ (headMoved s).batchOk (headRecord s) = true ∧ headHeld s = true) ∧
     (∃ s : State, waitsInRing s ∧ (headMoved s).batchOk (headRecord s) = true ∧ headHeld s = false ∧
       s.intake.seals.contains (fieldAt (headRecord s) 8 1, fieldAt (headRecord s) 0 8) = true) ∧
     (∃ s : State, waitsInRing s ∧ (headMoved s).batchOk (headRecord s) = true ∧ headHeld s = false ∧
       s.intake.seals.contains (fieldAt (headRecord s) 8 1, fieldAt (headRecord s) 0 8) = false) ∧
     ∃ (s : State) (i a : Nat) (free : List Nat) (x : Sample), s.intakeOn = true ∧ s.aloft = true ∧
       firstSample (s.intake.samples.filter (fun e => e.2.state == .waiting)) = some (i, x) ∧ s.freePool = a :: free ∧ x.format ≠ 8 ∧
       x.format ≠ 9 ∧ x.hostOnly = false ∧ s.preField secIntake 4 2 0 = 0) ∧
    ((∃ (s : State) (e : Fin 16) (i : Nat) (rest : List Nat), s.engine e.val = i :: rest ∧
       (s.setEngine e.val rest).crcBad ((s.setEngine e.val rest).sample i) = true) ∧
     (∃ (s : State) (e : Fin 16) (i : Nat) (rest : List Nat) (r : Nat), s.engine e.val = i :: rest ∧
       (s.setEngine e.val rest).crcBad ((s.setEngine e.val rest).sample i) = false ∧
       (s.setEngine e.val rest).decodeSample ((s.setEngine e.val rest).sample i) = .error r) ∧
     (∀ (sh : Shape) (elems : List Nat), formatTakes 1 sh = true →
       Config.decode 1 0 1 (((atEngine sample).setEngine 0 []).sourceOf sample) = .frames sh elems →
       ∃ (s : State) (e : Fin 16) (i : Nat) (rest : List Nat), s.engine e.val = i :: rest ∧
         (s.setEngine e.val rest).crcBad ((s.setEngine e.val rest).sample i) = false ∧
         (s.setEngine e.val rest).decodeSample ((s.setEngine e.val rest).sample i) = .ok (sh, elems)) ∧
     (∀ x ∈ [{ sample with state := .orphan }, { sample with state := .worker }, { noFormat with state := .worker }],
       ({ State.reset with phase := .running, intake := { samples := [(0, x)] } } : State).intake.samples.find?
         (fun e => (e.2.state == .worker || e.2.state == .orphan) && e.2.token == 0) = some (0, x)) ∧
     (∃ (s : State) (r : Nat), s.decodeSample { noFormat with state := .worker } = .error r) ∧
     (∀ (s : State) (sh : Shape) (elems : List Nat), s.hostOnly sample.src sample.len = true → formatTakes 1 sh = true →
       Config.decode 1 0 1 (s.sourceOf sample) = .frames sh elems → s.decodeSample { sample with state := .worker } = .ok (sh, elems)) ∧
     (∃ (s : State) (value : Word), s.phase = .running ∧
       s.intake.samples.find? (fun e => (e.2.state == .worker || e.2.state == .orphan) && e.2.token == bitsOf value.toNat 0 32) = none) ∧
     (∃ (s : State) (d : Fin 64) (n : Nat), s.intakeOn = true ∧ s.sealDue d.val (s.tick + 1) = some n) ∧
     (∃ (s : State) (d : Fin 64), s.sealDue d.val (s.tick + 1) = none) ∧
     ∃ (s : State) (d step : Nat), s.replaying d step = none) :=
  ⟨⟨⟨intakeIn 0 { State.reset with phase := .running }, false, by decide +kernel⟩,
    ⟨{ State.reset with phase := .running }, false, by decide +kernel⟩,
    ⟨intakeIn 1 { State.reset with phase := .running }, true, by decide +kernel⟩,
    { State.reset with phase := .running }, rfl⟩,
   ⟨⟨{ batchIn {} with image := none }, by decide +kernel⟩,
    ⟨batchIn { batches := [{}] }, by decide +kernel⟩,
    ⟨batchIn { seals := [(0, 0)] }, by decide +kernel⟩,
    ⟨batchIn {}, by decide +kernel⟩,
    intakeIn 1 { inState 3 with intake := { samples := [(0, sample)] } }, 0, hbmBase + 2 ^ 26, [], sample, by decide +kernel⟩,
   ⟨⟨atEngine badCrc, 0, 0, [], by decide +kernel⟩,
    ⟨atEngine noFormat, 0, 0, [], ST_SAMPLE_UNSUPPORTED, rfl, by decide +kernel, rfl⟩,
    fun sh elems t d => ⟨atEngine sample, 0, 0, [], rfl, by decide +kernel, decodes _ sh elems (by decide +kernel) t d⟩,
    by decide +kernel,
    ⟨State.reset, ST_SAMPLE_UNSUPPORTED, rfl⟩,
    fun s sh elems h t d => decodes s sh elems h t d,
    ⟨{ State.reset with phase := .running }, 0, by decide +kernel⟩,
    ⟨intakeIn 1 (State.reset.setDom 0 { unsealed := [(0, 0)] }), 0, 0, by decide +kernel⟩,
    ⟨State.reset, 0, by decide +kernel⟩,
    State.reset, 0, 0, by decide +kernel⟩⟩

/-- A sending flow with one frame not acknowledged. -/
def unsacked : OutFlow := { unacked := [{ body := .snapReq 0 }] }

theorem witness_LinePortsComplete :
    ((∃ (s : State) (n : Fin 4) (p : Fin 12), s.portThere n.val p.val = true ∧ s.fld (LNK_PORT_STATUS_FAILED_LANES n.val p.val) = 0) ∧
     (∃ (s : State) (n : Fin 4) (p : Fin 12), s.fld (LNK_PORT_STATUS_FAILED_LANES n.val p.val) ≠ 0) ∧
     (∃ (s : State) (n : Fin 4) (p : Fin 12), s.portThere n.val p.val = true ∧ s.fld (LNK_PORT_STATUS_UP n.val p.val) ≠ 0) ∧
     (∃ (s : State) (n : Fin 4) (p : Fin 12), s.portThere n.val p.val = false) ∧
     ∃ (s : State) (n : Fin 4) (p : Fin 12), s.portThere n.val p.val = true ∧ s.fld (LNK_PORT_STATUS_UP n.val p.val) = 0) ∧
    ((∃ (s : State) (n : Fin 4) (k seq : Nat) (w : OutFlow), s.outFlows[k]? = some w ∧ w.die = n.val ∧
       (s.peerState w.rank).state = 2 ∧ (∃ f ∈ w.unacked, f.seq = seq)) ∧
     (∃ (w : OutFlow) (i : Nat) (f : Sent), w.unacked[i]? = some f) ∧
     (∃ (s : State) (k seq : Nat) (w : OutFlow), s.outFlows[k]? = some w ∧ (∀ f ∈ w.unacked, f.seq ≠ seq)) ∧
     (∃ (s : State) (w : OutFlow) (v : Nat × Nat), s.wayOut w.die w.flow = some v) ∧
     (∃ (s : State) (n : Fin 4) (k : Nat) (w : InFlow), s.inFlows[k]? = some w ∧ w.die = n.val ∧ w.since ≠ 0 ∧ (s.peerState w.rank).state = 2) ∧
     ∃ (s : State) (n : Fin 4) (rank : Nat), ((bitOf s.links n.val = true ∨ s.links = 0) ∧ (s.peerState rank).state = 2) ∧
       let u := (s.setPeer rank { s.peerState rank with state := 3 }).missPeer rank; let v := ((u.event (0x4200 + n.val) EV_PEER_LOST noDomain (leBytes 2 rank ++ zeros 6 ++ leBytes 8 (u.moduleId rank))).dropFlows rank).dropSends rank; v.timeMaster ≠ rank) :=
  ⟨⟨⟨lineUp, 0, 0, by decide +kernel⟩,
    ⟨lineUp.setFld (LNK_PORT_STATUS_FAILED_LANES 0 0) 255, 0, 0, by decide +kernel⟩,
    ⟨lineUp, 0, 0, by decide +kernel⟩,
    ⟨State.reset, 0, 0, by decide +kernel⟩,
    lineUp.setFld (LNK_PORT_STATUS_UP 0 0) 0, 0, 0, by decide +kernel⟩,
   ⟨⟨{ lineUp with outFlows := [unsacked] }, 0, 0, 0, unsacked, by decide +kernel⟩,
    ⟨unsacked, 0, { body := .snapReq 0 }, rfl⟩,
    ⟨{ lineUp with outFlows := [unsacked] }, 0, 1, unsacked, by decide +kernel⟩,
    ⟨lineUp.setFld (LNK_STATUS_PORTS_UP 0) 1, {}, (0, 0), by decide +kernel⟩,
    ⟨{ lineUp with inFlows := [{ since := 1 }] }, 0, 0, { since := 1 }, by decide +kernel⟩,
    { lineUp with timeMaster := 1 }, 0, 0, by decide +kernel⟩⟩

theorem witness_FramesComplete :
    (∀ x ∈ [(4, Body.notice 0 0 0 0 0 false), (5, .message []), (8, .spool []), (10, .fstepRequest 0 0), (3, .collData 0 0 0 0 0 0 false false false ⟨1, 0, 0, 0⟩ []),
        (6, .mirrorCommit 0 0 0 {}), (7, .snapReq 0)], (lineUp.checkFrame 0 (frameOf x.1 x.2) x.1).2 = true ∧
        (lineUp.checkFrame 0 (frameOf x.1 x.2) x.1).1.isNew (frameOf x.1 x.2) = true ∧
        ({ lineUp with inFlows := [{ rank := (frameOf x.1 x.2).srcRank, flow := (frameOf x.1 x.2).flow, next := (frameOf x.1 x.2).seq + 1 }] }.checkFrame 0
          (frameOf x.1 x.2) x.1).1.isNew (frameOf x.1 x.2) = false ∧
        (lineUp.checkFrame 0 { frameOf x.1 x.2 with dstRank := 1 } x.1).2 = false) ∧
    ((foundAs .uncorrectable).ecc = .uncorrectable ∧ (foundAs .corrected).ecc ≠ .uncorrectable) ∧
    (∃ (s : State) (n : Fin 4) (f : Frame) (ecc : Found) (id : BitVec 64) (lo hi master : Nat), f.body = .hello id 1 lo hi master ∧
      (s.readFrame n.val f 1 ecc).2 = true ∧ lo ≤ min hi zwineMinor) ∧
    (∃ (s : State) (n : Fin 4) (f : Frame) (ecc : Found) (flow cum rtt : Nat) (bitmap : Word) (marks : Nat), f.body = .sack flow cum bitmap marks rtt ∧
      (s.readFrame n.val f 2 ecc).2 = true ∧ ((s.readFrame n.val f 2 ecc).1.peerState f.srcRank).state = 2) ∧
    (∃ (s : State) (n : Fin 4) (f : Frame) (ns : Nat) (ecc : Found) (sent back gone : Word), f.body = .time false sent back gone ∧
      let r := s.runAligned (min ns (s.nextBoundary - s.now)); (r.readFrame n.val f 9 ecc).2 = true ∧
      ((r.readFrame n.val f 9 ecc).1.peerState f.srcRank).state = 2) ∧
    (∃ (s : State) (n : Fin 4) (f : Frame) (ns : Nat) (ecc : Found) (sent back gone : Word), f.body = .time true sent back gone ∧
      let r := s.runAligned (min ns (s.nextBoundary - s.now)); let u := (r.readFrame n.val f 9 ecc).1; (r.readFrame n.val f 9 ecc).2 = true ∧
      (u.peerState f.srcRank).state = 2 ∧ f.srcRank = u.timeMaster ∧ u.measure.sent = some sent) :=
  ⟨by decide +kernel, by decide,
   ⟨lineUp, 0, frameOf 1 (.hello 0 1 0 0 0), .clean, 0, 0, 0, 0, by decide +kernel⟩,
   ⟨lineUp, 0, frameOf 2 (.sack 0 0 0 0 0), .clean, 0, 0, 0, 0, 0, by decide +kernel⟩,
   ⟨lineUp, 0, frameOf 9 (.time false 0 0 0), 0, .clean, 0, 0, 0, by decide +kernel⟩,
   ⟨{ lineUp with measure := { sent := some 7 } }, 0, frameOf 9 (.time true 7 0 0), 0, .clean, 7, 0, 0, by decide +kernel⟩⟩

theorem witness_FlowsDeliverInOrder :
    ∃ (w : InFlow), w.next < 2 ^ 32 :=
  ⟨{ next := 2 ^ 32 - 1 }, by decide +kernel⟩

theorem witness_CollectiveEndsComplete :
    (∃ (s : State) (d : Fin 64) (c : Nat) (x : Coll), s.findColl d.val c (fun x => s.coordinates x && s.rootHeld x && (match x.quorum with | some q => decide (q + postGrace x.post ≤ s.tick) | none => false)) = some x) ∧
    (∃ (s : State) (d : Fin 64) (c : Nat) (x : Coll), s.findColl d.val c (fun x => s.coordinates x && (x.quorum.isNone || !s.rootHeld x) && (match x.launched with | some q => decide (q + postHard x.post ≤ s.tick) | none => false)) = some x) ∧
    (∃ (s : State) (d : Fin 64) (c : Nat) (x : Coll) (v : Verdict) (bs : List (Nat × Bytes)), s.findColl d.val c (fun x => x.launched.isSome && !x.ended && !(s.revoked x.unit) && (match x.verdict with | some v => (x.outcome v).isSome | none => false)) = some x ∧
      x.verdict = some v ∧ x.outcome v = some bs) ∧
    (∃ (s : State) (d id : Nat) (p : Coll → Bool), s.findColl d id p = none ∧ ∃ c ∈ s.colls, c.dom = d ∧ c.id = id) :=
  ⟨⟨{ lineUp with colls := [{ launched := some 0, quorum := some 0, ranks := [0], post := zeros 64 }] }.setReg CTL_TICK_COUNT 20, 0, 0, { launched := some 0, quorum := some 0, ranks := [0], post := zeros 64 },
     by decide +kernel⟩,
   ⟨{ lineUp with colls := [{ launched := some 0, ranks := [0], post := zeros 64 }] }.setReg CTL_TICK_COUNT 2000, 0, 0, { launched := some 0, ranks := [0], post := zeros 64 },
     by decide +kernel⟩,
   ⟨{ State.reset with colls := [{ launched := some 0, post := zeros 64, verdict := some ⟨0, [], [], [], false, 0⟩ }] }, 0, 0, { launched := some 0, post := zeros 64, verdict := some ⟨0, [], [], [], false, 0⟩ }, ⟨0, [], [], [], false, 0⟩, [],
     by decide +kernel⟩,
   ⟨{ State.reset with colls := [{}] }, 0, 0, fun _ => false, by decide +kernel, {}, by decide +kernel, rfl, rfl⟩⟩

theorem witness_SurvivalCommandsComplete :
    (∃ (s : State) (d : Fin 64) (r : Nat) (m : MirrorDue) (ms : List MirrorDue), s.survival.partner = some r ∧
      (s.dom d.val).mirrorDue = m :: ms ∧
      s.unackedAt r (fun b => match b with | .mirrorBlock e n _ _ _ _ => e == d.val && n == m.step | _ => false) = false) ∧
    (∃ (s : State), s.image.isSome = true ∧ s.isTimeMaster = true ∧
      s.domIds.any (fun d => (s.dom d).snap.isSome || !(s.dom d).snapAt.isEmpty) = false ∧
      s.survival.lastStart + s.preField secSurvival 6 2 300 * 10 ^ 9 ≤ s.now) ∧
    (∃ (s : State) (d : Fin 64) (p : Snap), (s.dom d.val).snap = some p ∧ p.holding = true) ∧
    (∃ (s : State) (d : Fin 64) (p : Snap) (b : Bytes), (s.dom d.val).snap = some p ∧ p.descriptor = some b) ∧
    (∃ (s : State) (i : Fin 4) (feed : BitVec 32) (loop : BitVec 32) (r : Nat), s.survival.asking = some i.val ∧ s.image.isSome = true ∧
      s.fld FAC_FEED_FEED_ID ≠ 0 ∧ s.fld FAC_FEED_LOOP_ID ≠ 0 ∧ feed ≠ 0#32 ∧ loop ≠ 0#32 ∧ s.fld FAC_FEED_FEED_ID ≠ feed.toNat ∧
      s.fld FAC_FEED_LOOP_ID ≠ loop.toNat ∧ s.rankOf (s.partnerAt i.val) = some r) ∧
    (∃ (s : State) (i : Fin 4), s.survival.asking ≠ some i.val) ∧
    (∃ (s : State) (rank : Nat) (r : Nat), s.aloft = true ∧ s.survival.source = some r ∧ r ≠ rank) ∧
    (∃ (s : State) (feed : BitVec 32), s.aloft = true ∧ s.survival.source = none ∧ feed ≠ 0#32 ∧ feed.toNat = s.fld FAC_FEED_FEED_ID) ∧
    (∃ (s : State), s.aloft = true ∧ s.survival.source = none) ∧
    (∃ (s : State) (rank : Nat), s.aloft = true ∧ s.survival.source = some rank) :=
  ⟨⟨{ State.reset with survival := { partner := some 0 }, doms := [(0, { mirrorDue := [{}] })] }, 0, 0, {}, [], by decide +kernel⟩,
   ⟨{ State.reset with image := some oneDomain, localNs := 300 * 10 ^ 9 }, by decide +kernel⟩,
   ⟨{ State.reset with doms := [(0, { snap := some { holding := true } })] }, 0, { holding := true }, by decide +kernel⟩,
   ⟨{ State.reset with doms := [(0, { snap := some { descriptor := some [] } })] }, 0, { descriptor := some [] }, [], by decide +kernel⟩,
   ⟨(({ State.reset with image := some oneDomain, foundation := { peers := [{}] }, survival := { asking := some 0 } }).setFld FAC_FEED_FEED_ID 1).setFld FAC_FEED_LOOP_ID 1, 0, 2, 2, 0,
     by decide +kernel⟩,
   ⟨State.reset, 0, by decide +kernel⟩,
   ⟨{ inState 3 with survival := { source := some 1 } }, 0, 1, by decide +kernel⟩,
   ⟨({ (inState 3) with survival := { State.reset.survival with source := none } }).setFld FAC_FEED_FEED_ID 7, 7, by decide +kernel⟩,
   ⟨{ (inState 3) with survival := { State.reset.survival with source := none } }, by decide +kernel⟩,
   ⟨{ inState 3 with survival := { source := some 1 } }, 1, by decide +kernel⟩⟩

theorem witness_PowerCommandsComplete :
    (∃ (s : State), s.phase = .running) ∧
    (∃ (s : State), s.phase = .running ∧ s.power.samples ≠ [] ∧ s.power.capStep < 15 ∧
      s.effectiveCap * s.power.samples.length < total s.power.samples) ∧
    (∃ (s : State) (compute : List (Fin 256)) (link : List (Fin 256)) (hbm : List (Fin 256)) (host : Fin 256), (s.supplied = true) ∧
      let c := (compute.take 4).map (·.val); let l := (link.take 4).map (·.val); let h := (hbm.take 16).map (·.val); let p := { s.power with compute := c, link := l, host := host.val, hbm := h }; (∀ j, hottest p.junctions = some j → j.2.2 < 105)) ∧
    (∃ (s : State) (j : Nat × Nat × Nat), s.supplied = true ∧ hottest s.tooHot = some j ∧ s.power.thermalStep ≠ 0) ∧
    (∃ (s : State), s.supplied = true ∧ hottest s.tooHot = none ∧ s.power.cool = 9 ∧
      (∀ j ∈ s.power.junctions, j.2.2 + 3 ≤ s.foundation.throttleC) ∧ (∀ j ∈ s.power.hbmStacks, j.2.2 + 3 ≤ 90)) ∧
    (∃ (s : State) (k : Fin 4) (depth : BitVec 16), s.phase = .running ∧ bitOf s.railPg k.val = true ∧ 50 ≤ depth.toNat) ∧
    (∃ (depth : BitVec 16), depth.toNat < 50) ∧
    (∃ (s : State), s.power.emergency ≠ 0 ∧ s.aloft = false) ∧
    (∃ (s : State) (n : Nat), (s.power.rising = some n ∧ s.aloft = true ∧ s.power.owed = true) ∧
      let u := { s with power := { s.power with volts := n, rising := none } }; u.targetStep < u.fld PWR_STATUS_FSTEP ∧ n ≤ u.targetStep) ∧
    (∃ (s : State) (cap : BitVec 16) (window : BitVec 8), s.phase = .running ∧ 1000 ≤ cap.toNat ∧ cap.toNat ≤ s.part.tdp ∧
      1 ≤ window.toNat ∧ window.toNat ≤ 30) ∧
    (∃ (s : State) (cap : BitVec 16) (window : BitVec 8), s.phase = .running ∧
      (cap.toNat < 1000 ∨ s.part.tdp < cap.toNat ∨ window.toNat < 1 ∨ 30 < window.toNat)) ∧
    (∃ (s : State), s.phase = .running) :=
  ⟨⟨{ State.reset with phase := .running }, by decide +kernel⟩,
   ⟨{ State.reset with phase := .running, power := { samples := [20000], capStep := 14 } }, by decide +kernel⟩,
   ⟨{ State.reset with phase := .running }, [], [], [], 104, ⟨by decide +kernel, fun j h => of_decide_eq_true (all_of (q := fun j => decide (j.2.2 < 105)) (by decide +kernel) j h)⟩⟩,
   ⟨{ State.reset with phase := .running, power := { compute := [96], thermalStep := 1 } }, (0, 0, 96), by decide +kernel⟩,
   ⟨{ State.reset with phase := .running, power := { compute := [92], cool := 9 } }, by decide +kernel⟩,
   ⟨{ State.reset with phase := .running, railPg := 1 }, 0, 50, by decide +kernel⟩,
   ⟨49, by decide +kernel⟩,
   ⟨{ State.reset with power := { droopStep := 1 } }, by decide +kernel⟩,
   ⟨{ inState 3 with power := { rising := some 0, owed := true } }.setFld PWR_STATUS_FSTEP 15, 0, by decide +kernel⟩,
   ⟨{ State.reset with phase := .running }, 1000, 30, by decide +kernel⟩,
   ⟨{ State.reset with phase := .running }, 999, 0, by decide +kernel⟩,
   ⟨{ State.reset with phase := .running }, by decide +kernel⟩⟩

theorem witness_FieldSideComplete :
    (∃ (unit fn : BitVec 8) (pins : BitVec 3), unit.toNat = serverAddress pins ∧ fn.toNat ∉ [3, 4, 6, 16]) ∧
    (∃ (unit : BitVec 8) (pins : BitVec 3), unit.toNat ≠ serverAddress pins) ∧
    (∃ (unit : BitVec 8) (pins : BitVec 3) (addr : BitVec 16) (value : BitVec 16), unit.toNat = serverAddress pins ∧ addr.toNat < 11 ∧
      holdingTakes addr.toNat value.toNat = true) ∧
    (∃ (values : List (BitVec 16)), values ≠ [] ∧ values.length ≤ 123) ∧
    (∃ (unit : BitVec 8) (pins : BitVec 3) (addr : BitVec 16), unit.toNat = serverAddress pins ∧ 11 ≤ addr.toNat) ∧
    (∃ (unit : BitVec 8) (pins : BitVec 3), unit.toNat ≠ serverAddress pins ∧ unit ≠ 0#8) ∧
    (∃ (s : State), s.phase = .running ∧ s.fld FAC_STATUS_STALE ≠ 1) ∧
    (∃ (s : State), s.phase = .running ∧ s.fld FAC_STATUS_STALE = 1) ∧
    (∃ (s : State), s.phase = .running ∧ s.fld FAC_STATUS_MINOR ≠ 0xFF) ∧
    (∃ (s : State), s.phase = .running ∧ s.fld FAC_STATUS_MINOR = 0xFF) :=
  ⟨⟨0x10, 5, 0, by decide +kernel⟩, ⟨0x11, 0, by decide +kernel⟩, ⟨0x17, 7, 10, 0, by decide +kernel⟩,
   ⟨List.replicate 123 0, by decide +kernel⟩,
   ⟨0x10, 0, 11, by decide +kernel⟩,
   ⟨0x18, 7, by decide +kernel⟩,
   ⟨{ State.reset with phase := .running }, by decide +kernel⟩,
   ⟨({ State.reset with phase := .running }).setFld FAC_STATUS_STALE 1, by decide +kernel⟩,
   ⟨({ State.reset with phase := .running }).setFld FAC_STATUS_MINOR 0, by decide +kernel⟩,
   ⟨({ State.reset with phase := .running }).setFld FAC_STATUS_MINOR 0xFF, by decide +kernel⟩⟩

theorem witness_FacilityFramesComplete :
    (∃ (s : State) (f : FieldFrame), (s.takeValue 1 f).2 = true) ∧
    (∃ (s : State) (f : FieldFrame), (s.takeValue 2 f).2 = true) ∧
    (∃ (s : State) (f : FieldFrame), (s.takeValue 3 f).2 = true) ∧
    (∃ (s : State) (f : FieldFrame), (s.takeValue 5 f).2 = true) ∧
    (∃ (s : State) (f : FieldFrame), (s.takeValue 7 f).2 = true) ∧
    (∃ (s : State) (f : FieldFrame), (s.takeField 4 f).2 = true ∧ (s.takeField 4 f).1.fld FAC_STATUS_MINOR ≠ 0xFF ∧ f.value.toNat % 4 = 1 ∧
      bitOf ((s.takeField 4 f).1.fld FAC_COOLANT_LEAK) 0 = false ∧ s.foundation.leakAction = 1) ∧
    (∃ (s : State) (f : FieldFrame), (s.takeField 4 f).2 = true ∧ (s.takeField 4 f).1.fld FAC_STATUS_MINOR ≠ 0xFF ∧ f.value.toNat % 4 = 0) ∧
    (∃ (s : State) (f : FieldFrame), (s.takeValue 6 f).2 = true) ∧
    (∃ (s : State) (f : FieldFrame), (s.takeField 8 f).2 = true ∧ (s.takeField 8 f).1.fld FAC_STATUS_MINOR ≠ 0xFF ∧
      f.value.toNat % 65536 = 0 ∧ (s.takeField 8 f).1.facility.shedSeen ≠ 0) ∧
    (∃ (s : State) (f : FieldFrame), (s.takeField 8 f).2 = true ∧ (s.takeField 8 f).1.fld FAC_STATUS_MINOR ≠ 0xFF ∧
      f.value.toNat % 65536 ≠ 0 ∧ (s.takeField 8 f).1.facility.shedSeen ≠ f.value.toNat % 65536) ∧
    (∃ (s : State) (f : FieldFrame), (s.takeField 9 f).2 = true ∧ f.value.toNat ≠ (s.takeField 9 f).1.facility.beat) ∧
    (∃ (s : State) (f : FieldFrame), (s.takeField 10 f).2 = true) ∧
    (∃ (s : State) (f : FieldFrame), s.phase = .running ∧ f.ok = false) ∧
    (∃ (s : State) (type : Nat) (f : FieldFrame), s.phase = .running ∧ f.ok = true ∧ f.kind.toNat = type ∧ 1 ≤ type ∧ type ≤ 16) :=
  ⟨⟨((({ State.reset with phase := .running }).setFld FAC_STATUS_STALE 0).setFld FAC_STATUS_MINOR 1), ⟨1, true, 0⟩, by decide +kernel⟩,
   ⟨((({ State.reset with phase := .running }).setFld FAC_STATUS_STALE 0).setFld FAC_STATUS_MINOR 1), ⟨2, true, 0⟩, by decide +kernel⟩,
   ⟨((({ State.reset with phase := .running }).setFld FAC_STATUS_STALE 0).setFld FAC_STATUS_MINOR 1), ⟨3, true, 0⟩, by decide +kernel⟩,
   ⟨((({ State.reset with phase := .running }).setFld FAC_STATUS_STALE 0).setFld FAC_STATUS_MINOR 1), ⟨5, true, 0⟩, by decide +kernel⟩,
   ⟨((({ State.reset with phase := .running }).setFld FAC_STATUS_STALE 0).setFld FAC_STATUS_MINOR 1), ⟨7, true, 0⟩, by decide +kernel⟩,
   ⟨((({ State.reset with phase := .running }).setFld FAC_STATUS_STALE 0).setFld FAC_STATUS_MINOR 1), ⟨4, true, 1⟩, by decide +kernel⟩,
   ⟨((({ State.reset with phase := .running }).setFld FAC_STATUS_STALE 0).setFld FAC_STATUS_MINOR 1), ⟨4, true, 0⟩, by decide +kernel⟩,
   ⟨((({ State.reset with phase := .running }).setFld FAC_STATUS_STALE 0).setFld FAC_STATUS_MINOR 1), ⟨6, true, 1⟩, by decide +kernel⟩,
   ⟨((({ State.reset with phase := .running, facility := { shedSeen := 1 } }).setFld FAC_STATUS_STALE 0).setFld FAC_STATUS_MINOR 1), ⟨8, true, 0⟩,
     by decide +kernel⟩,
   ⟨((({ State.reset with phase := .running }).setFld FAC_STATUS_STALE 0).setFld FAC_STATUS_MINOR 1), ⟨8, true, 999⟩, by decide +kernel⟩,
   ⟨((({ State.reset with phase := .running }).setFld FAC_STATUS_STALE 0).setFld FAC_STATUS_MINOR 1), ⟨9, true, 1⟩, by decide +kernel⟩,
   ⟨((({ State.reset with phase := .running }).setFld FAC_STATUS_STALE 0).setFld FAC_STATUS_MINOR 1), ⟨10, true, 0⟩, by decide +kernel⟩,
   ⟨{ State.reset with phase := .running }, ⟨1, false, 0⟩, by decide +kernel⟩,
   ⟨{ State.reset with phase := .running }, 16, ⟨16, true, 0⟩, by decide +kernel⟩⟩

theorem witness_DebugGrantComplete :
    (∃ (s : State), s.phase = .running) ∧
    (∃ (s : State) (g : Bytes), s.phase = .running ∧ s.grantStatus g ≠ ST_OK) ∧
    (Config.ed25519Verify Config.vendorKey (sha512 (takeAt (grantOf (zeros 64)) 0 128)) (takeAt (grantOf (zeros 64)) 128 64) = true → ∃ (s : State) (g : Bytes), s.phase = .running ∧
      s.grantStatus g = ST_OK) ∧
    (∃ (s : State), s.phase = .running) ∧
    (Config.ed25519Verify Config.vendorKey (sha512 (takeAt (grantOf (zeros 64)) 0 128)) (takeAt (grantOf (zeros 64)) 128 64) = true → ∃ (s : State) (g : Bytes), s.grantStatus g = ST_OK) :=
  ⟨⟨{ State.reset with phase := .running }, by decide +kernel⟩,
   ⟨{ State.reset with phase := .running }, [], by decide +kernel⟩,
   fun h => ⟨challenged, _, rfl, grant_accepted h⟩,
   ⟨{ State.reset with phase := .running }, by decide +kernel⟩,
   fun h => ⟨challenged, _, grant_accepted h⟩⟩

theorem witness_ManagementRequestsComplete :
    (∃ (s : State), s.phase = .running ∧ s.security.ownerNext = none ∧ s.security.owner = none) ∧
    (∀ (old key signature : Bytes), Config.ed25519Verify old key signature = true → ∃ s : State, s.phase = .running ∧
      s.security.ownerNext = none ∧ s.security.owner = some old) ∧
    (∀ (old key signature : Bytes), Config.ed25519Verify old key signature = false → ∃ s : State, s.phase = .running ∧
      s.security.ownerNext = none ∧ s.security.owner = some old) ∧
    (∃ (s : State) (first : BitVec 16) (count : BitVec 8), s.phase = .running ∧ first.toNat < 1024 ∧ 1 ≤ count.toNat ∧ count.toNat ≤ 16) ∧
    (∃ (s : State) (first : BitVec 16) (count : BitVec 8), s.phase = .running ∧ (1024 ≤ first.toNat ∨ count.toNat < 1 ∨ 16 < count.toNat)) ∧
    (∃ (s : State), s.phase = .running) ∧
    (∃ (s : State), s.phase = .running) ∧
    (∃ (s : State), s.phase = .running) ∧
    (∃ (s : State), s.phase = .running) ∧
    (∃ (s : State) (component : BitVec 16) (x : Transfer), s.phase = .running ∧ (component.toNat = 1 ∨ component.toNat = 2) ∧
      s.transfer component.toNat = some x) ∧
    (∃ (s : State) (component : BitVec 16), s.phase = .running ∧ (component.toNat = 1 ∨ component.toNat = 2) ∧
      s.transfer component.toNat = none) ∧
    (∀ x : Transfer, x.kind = 1 → ({ State.reset with security := { transfers := [x] } } : State).transferStatus x = ST_OK → ∃ s : State, s.transfer 1 = some x ∧
      s.transferStatus x = ST_OK) ∧
    (∃ (s : State) (component : BitVec 16) (x : Transfer), s.transfer component.toNat = some x ∧ s.transferStatus x ≠ ST_OK) ∧
    (∃ (s : State) (component : BitVec 16) (x : Transfer), s.transfer component.toNat = some x ∧ x.verified = true ∧ s.phase = .running) ∧
    (∃ (s : State) (component : BitVec 16) (x : Transfer), s.transfer component.toNat = some x ∧ x.verified = false) :=
  ⟨⟨{ State.reset with phase := .running }, by decide +kernel⟩,
   fun old _ _ _ => ⟨{ State.reset with phase := .running, security := { owner := some old } }, rfl, rfl, rfl⟩,
   fun old _ _ _ => ⟨{ State.reset with phase := .running, security := { owner := some old } }, rfl, rfl, rfl⟩,
   ⟨{ State.reset with phase := .running }, 1023, 16, by decide +kernel⟩,
   ⟨{ State.reset with phase := .running }, 1024, 0, by decide +kernel⟩,
   ⟨{ State.reset with phase := .running }, by decide +kernel⟩,
   ⟨{ State.reset with phase := .running }, by decide +kernel⟩,
   ⟨{ State.reset with phase := .running }, by decide +kernel⟩,
   ⟨{ State.reset with phase := .running }, by decide +kernel⟩,
   ⟨{ State.reset with phase := .running, security := { transfers := [{ kind := 1, bytes := [] }] } }, 1, { kind := 1, bytes := [] },
     by decide +kernel⟩,
   ⟨{ State.reset with phase := .running }, 1, by decide +kernel⟩,
   fun x k h => ⟨{ State.reset with security := { transfers := [x] } }, by simp [State.transfer, k], h⟩,
   ⟨{ State.reset with phase := .running, security := { transfers := [{ kind := 1, bytes := [] }] } }, 1, { kind := 1, bytes := [] },
     by decide +kernel⟩,
   ⟨{ State.reset with phase := .running, security := { transfers := [{ kind := 1, verified := true }] } }, 1, { kind := 1, verified := true },
     by decide +kernel⟩,
   ⟨{ State.reset with phase := .running, security := { transfers := [{ kind := 1, bytes := [] }] } }, 1, { kind := 1, bytes := [] },
     by decide +kernel⟩⟩

theorem witness_SpdmResponderCompletes :
    ∃ (s : State), s.phase = .running :=
  ⟨{ State.reset with phase := .running }, by decide +kernel⟩

theorem witness_DebugCommandsComplete :
    (∃ (s : State), s.phase ≠ .off) ∧
    (∃ (s : State), s.phase ≠ .off) ∧
    (∃ (s : State), s.phase ≠ .off ∧ s.rstN = false) ∧
    (∃ (s : State), s.phase ≠ .off ∧ bitOf s.scope 0 = true) ∧
    (∃ (i : Nat), i < 32) ∧
    (∃ (s : State) (value : Word), s.phase = .running ∧ bitOf s.scope 1 = true ∧ (s.tile (bitsOf value.toNat 0 9)).run = .halted) ∧
    (∃ (s : State), s.phase = .running ∧ bitOf s.scope 1 = false) ∧
    (∃ (s : State), s.phase = .running ∧ bitOf s.scope 2 = true) ∧
    (∃ (s : State), s.phase = .running ∧ bitOf s.scope 2 = false) ∧
    (∃ (s : State), s.phase = .running) ∧
    (∃ (s : State) (point : Fin 256) (r : Reading) (rs : List Reading), s.readingsOf point.val = r :: rs) :=
  ⟨⟨State.reset, by decide +kernel⟩,
   ⟨State.reset, by decide +kernel⟩,
   ⟨{ State.reset with rstN := false, phase := .coldReset }, by decide +kernel⟩,
   ⟨{ State.reset with phase := .running, security := { grant := some { scope := 1 } } }, by decide +kernel⟩,
   ⟨31, by decide +kernel⟩,
   ⟨{ State.reset with phase := .running, security := { grant := some { scope := 2 } }, tiles := [(0, { run := .halted })] }, 0,
     by decide +kernel⟩,
   ⟨{ State.reset with phase := .running }, by decide +kernel⟩,
   ⟨{ State.reset with phase := .running, security := { grant := some { scope := 4 } } }, by decide +kernel⟩,
   ⟨{ State.reset with phase := .running }, by decide +kernel⟩,
   ⟨{ State.reset with phase := .running }, by decide +kernel⟩,
   ⟨{ State.reset with dbg := { readings := [(0, [{}])] } }, 0, {}, [], by decide +kernel⟩⟩

theorem witness_DebugPortWithoutGrant :
    (∃ (s : State), s.phase ≠ .off ∧ s.security.grant = none) ∧
    (∃ (s : State), s.phase ≠ .off ∧ s.rstN = true) ∧
    (∃ (s : State), s.phase ≠ .off ∧ s.rstN = false ∧ s.security.grant = none) ∧
    (∃ (s : State), s.phase ≠ .off ∧ bitOf s.scope 0 = false) :=
  ⟨⟨{ State.reset with security := { State.reset.security with grant := none } }, by decide +kernel⟩,
   ⟨{ State.reset with rstN := true }, by decide +kernel⟩,
   ⟨{ State.reset with rstN := false, security := { State.reset.security with grant := none } }, by decide +kernel⟩,
   ⟨State.reset, by decide +kernel⟩⟩

theorem witness_WatchPointsKeepEight :
    (∃ (s : State) (point : Nat), (s.watched point).length ≤ 8) ∧
    (∃ (s : State) (h : Word) (p : Pending), (s.ready h 6 1 = some p) ∧
      let u := s.begin p; let rs := u.watched (fieldAt p.entry 16 1); u.mappedAll (fieldAt p.entry 24 8) (64 * rs.length) = true) ∧
    (∃ (s : State) (h : Word) (p : Pending), s.ready h 6 2 = some p) ∧
    (∃ (s : State) (c : Commit), s.commit = some c ∧ c.phase = 2) :=
  ⟨⟨{ State.reset with dbg := { points := [(0, List.replicate 8 [])] } }, 0, by decide +kernel⟩,
   ⟨{ State.reset with phase := .running, cmds := [cmdOf 6 1 []] }, 1, cmdOf 6 1 [], by decide +kernel⟩,
   ⟨{ State.reset with phase := .running, cmds := [cmdOf 6 2 []] }, 1, cmdOf 6 2 [], by decide +kernel⟩,
   ⟨{ State.reset with commit := some { phase := 2, image := {} } }, { phase := 2, image := {} }, by decide +kernel⟩⟩

theorem witness_NumbersRoundTrip :
    (∃ f : FloatFmt, (f = fp64 ∨ ∃ ty, elemFmt ty = some f) ∧ ∃ raw, raw < 2 ^ (1 + f.ebits + f.mbits) ∧ f.decode raw ≠ .nan) ∧
    (∃ (e : Int) (q : Int), e < q) :=
  ⟨⟨fp64, Or.inl rfl, 2 ^ 63, by decide +kernel⟩,
   ⟨0, 1, by decide +kernel⟩⟩

theorem witness_FrozenOperationsHaveNoEffect :
    ∀ n ∈ [1, 2, 3, 4], (opState (opOf 0 n [(42, [32#8])])).held 0 0 [0, 1, 2, 3] n = some (opOf 0 n [(42, [32#8])]) ∧
      (opOf 0 n [(42, [32#8])]).frozen = true :=
  by decide +kernel

theorem witness_CorruptFramesAreDiscarded :
    (∃ (s : State) (n : Fin 4) (f : Frame), s.portThere n.val f.port.val = true ∧ s.fld (LNK_PORT_STATUS_UP n.val f.port.val) ≠ 0 ∧
      f.crcOk = false) ∧
    (∃ (s : State) (n : Fin 4) (f : Frame) (ns : Nat), let u := s.runAligned (min ns (s.nextBoundary - s.now)); u.portThere n.val f.port.val = true ∧
      u.fld (LNK_PORT_STATUS_UP n.val f.port.val) ≠ 0 ∧ f.crcOk = false) ∧
    (∃ (s : State) (n : Fin 4) (k : Nat) (w : OutFlow) (f : Sent), s.outFlows[k]? = some w ∧ w.die = n.val ∧ f ∈ w.unacked ∧
      (w.unacked.map (·.seq)).Nodup ∧ (s.peerState w.rank).state = 2 ∧ s.wayOut w.die w.flow = some (0, 0)) :=
  ⟨⟨lineUp, 0, { frameOf 7 (.snapReq 0) with crcOk := false }, by decide +kernel⟩,
   ⟨lineUp, 0, { frameOf 9 (.time false 0 0 0) with crcOk := false }, 0, by decide +kernel⟩,
   ⟨{ lineUp.setFld (LNK_STATUS_PORTS_UP 0) 1 with outFlows := [unsacked] }, 0, 0, unsacked, { body := .snapReq 0 }, by decide +kernel⟩⟩

theorem witness_WritesWithoutScopeAreDenied :
    (∃ (s : State), s.phase = .running ∧ bitOf s.scope 1 = false) ∧
    (∃ (s : State), s.phase = .running ∧ bitOf s.scope 2 = false) :=
  ⟨⟨{ State.reset with phase := .running }, by decide +kernel⟩,
   ⟨{ State.reset with phase := .running }, by decide +kernel⟩⟩

theorem witness_ErrorRecordsAreLogged :
    (∃ (s : State) (unit : Nat) (cls : Nat), s.windowOpen unit = true ∧ 1 ≤ cls ∧ cls ≤ 2) ∧
    (∃ (s : State) (unit : Nat), s.windowOpen unit = false) ∧
    (∃ (s : State) (unit : Nat) (cls : Nat), s.escalated unit cls = 3 ∧ s.mode = 3) :=
  ⟨⟨{ State.reset with windows := [{ unit := 0x1000, cls := 2 }] }, 0x1000, 2, by decide +kernel⟩,
   ⟨State.reset, 0, by decide +kernel⟩,
   ⟨inState 3, 0x8000, 3, by decide +kernel⟩⟩

end Sys2Proof.Tests
end

section
/-!
# What a step keeps

Every operation of the model keeps the queue of waiting commands and the part (`Keeps`, Laws/Ops). There is one lemma for each operation that
makes a state, in the order of the model's files; its proof follows the operation's branches and cites the lemmas of the operations it calls.
A lemma is named after the operation and after what it makes: `keeps_` a state (or the state of a pair), `offers_` a state if any, `gives_`
a value and a state if any, `passes_` a state or a flaw, `retires_` what a core instruction leaves, and `answers_` the outcome of a command.
-/
namespace Sys2Proof.Laws
open Sys2Proof.Machine
variable {z s : State}

/-! ### Rules for updates, branches and results -/

/-- A record update that touches none of the five fields of `Keeps`. Every other field is named, so that unifying with an update finds
the state it starts from. -/
theorem keeps_with
    {phase : Phase} {pwrgood rstN retryPending haltCold coldBoot aligned : Bool} {board : Board} {foundation : Foundation}
    {security : Security} {attempts dies hbmStacks links d2dUp selfRefresh railPg coldCause hbmSet localNs lastBoundary
    nextBoundary slewAt timeMaster stagedLen recSeq ringUnread ringWritten ringGap riskAt : Nat} {ascent : Option Ascent}
    {unusable poison sealing onceTick : List Nat} {hbmMap hbmPrev : HbmMap} {slew freq : Int} {measure : Measure} {measureBy :
    List Word} {stageBy validateBy : Option Word} {commit : Option Commit} {image : Option Image} {shadows : List Shadow}
    {hostMsgs : List HostMsg} {queues : SMap Queue} {cmds : List Pending} {outs : Outputs} {windows : List Window} {counts rests
    hbmSeen hbmTick hbmLast scrubAt replays risk retrains : SMap Nat} {tiles : SMap Tile} {doms : SMap Dom} {net : List Flit} {kvp
    : Kvp} {stash : Stash} {regShadows : SMap Word} {hot : SMap HotRun} {arbs : SMap Arb} {intake : Intake} {peers : SMap
    PeerState} {outFlows : List OutFlow} {inFlows : List InFlow} {colls : List Coll} {tails : List Tail} {tailNotes : SMap (List
    Nat)} {spoolRing : List SpoolRec} {survival : Survival} {power : Power} {facility : Facility} {dbg : Debug}
    (h : Keeps z s) : Keeps z { s with
      phase := phase, pwrgood := pwrgood, rstN := rstN, board := board, foundation := foundation, security := security, attempts
      := attempts, ascent := ascent, retryPending := retryPending, dies := dies, hbmStacks := hbmStacks, links := links, d2dUp :=
      d2dUp, unusable := unusable, selfRefresh := selfRefresh, railPg := railPg, haltCold := haltCold, coldBoot := coldBoot,
      coldCause := coldCause, hbmSet := hbmSet, poison := poison, hbmMap := hbmMap, hbmPrev := hbmPrev, localNs := localNs,
      lastBoundary := lastBoundary, nextBoundary := nextBoundary, slew := slew, slewAt := slewAt, aligned := aligned, freq :=
      freq, timeMaster := timeMaster, measure := measure, measureBy := measureBy, stagedLen := stagedLen, stageBy := stageBy,
      validateBy := validateBy, commit := commit, image := image, shadows := shadows, sealing := sealing, hostMsgs := hostMsgs,
      queues := queues, cmds := cmds, outs := outs, recSeq := recSeq, ringUnread := ringUnread, ringWritten := ringWritten,
      ringGap := ringGap, windows := windows, onceTick := onceTick, counts := counts, tiles := tiles, doms := doms, net := net,
      kvp := kvp, stash := stash, rests := rests, regShadows := regShadows, hbmSeen := hbmSeen, hbmTick := hbmTick, hbmLast :=
      hbmLast, hot := hot, scrubAt := scrubAt, arbs := arbs, replays := replays, risk := risk, riskAt := riskAt, intake := intake,
      peers := peers, outFlows := outFlows, inFlows := inFlows, retrains := retrains, colls := colls, tails := tails, tailNotes :=
      tailNotes, spoolRing := spoolRing, survival := survival, power := power, facility := facility, dbg := dbg } :=
  keeps_of h rfl rfl (le_refl _) rfl rfl

/-- A record update as in `keeps_with` that also uses up free values. -/
theorem keeps_used {n : Nat}
    {phase : Phase} {pwrgood rstN retryPending haltCold coldBoot aligned : Bool} {board : Board} {foundation : Foundation}
    {security : Security} {attempts dies hbmStacks links d2dUp selfRefresh railPg coldCause hbmSet localNs lastBoundary
    nextBoundary slewAt timeMaster stagedLen recSeq ringUnread ringWritten ringGap riskAt : Nat} {ascent : Option Ascent}
    {unusable poison sealing onceTick : List Nat} {hbmMap hbmPrev : HbmMap} {slew freq : Int} {measure : Measure} {measureBy :
    List Word} {stageBy validateBy : Option Word} {commit : Option Commit} {image : Option Image} {shadows : List Shadow}
    {hostMsgs : List HostMsg} {queues : SMap Queue} {cmds : List Pending} {outs : Outputs} {windows : List Window} {counts rests
    hbmSeen hbmTick hbmLast scrubAt replays risk retrains : SMap Nat} {tiles : SMap Tile} {doms : SMap Dom} {net : List Flit} {kvp
    : Kvp} {stash : Stash} {regShadows : SMap Word} {hot : SMap HotRun} {arbs : SMap Arb} {intake : Intake} {peers : SMap
    PeerState} {outFlows : List OutFlow} {inFlows : List InFlow} {colls : List Coll} {tails : List Tail} {tailNotes : SMap (List
    Nat)} {spoolRing : List SpoolRec} {survival : Survival} {power : Power} {facility : Facility} {dbg : Debug}
    (h : Keeps z s) : Keeps z { s with
      fresh := s.fresh + n,
      phase := phase, pwrgood := pwrgood, rstN := rstN, board := board, foundation := foundation, security := security, attempts
      := attempts, ascent := ascent, retryPending := retryPending, dies := dies, hbmStacks := hbmStacks, links := links, d2dUp :=
      d2dUp, unusable := unusable, selfRefresh := selfRefresh, railPg := railPg, haltCold := haltCold, coldBoot := coldBoot,
      coldCause := coldCause, hbmSet := hbmSet, poison := poison, hbmMap := hbmMap, hbmPrev := hbmPrev, localNs := localNs,
      lastBoundary := lastBoundary, nextBoundary := nextBoundary, slew := slew, slewAt := slewAt, aligned := aligned, freq :=
      freq, timeMaster := timeMaster, measure := measure, measureBy := measureBy, stagedLen := stagedLen, stageBy := stageBy,
      validateBy := validateBy, commit := commit, image := image, shadows := shadows, sealing := sealing, hostMsgs := hostMsgs,
      queues := queues, cmds := cmds, outs := outs, recSeq := recSeq, ringUnread := ringUnread, ringWritten := ringWritten,
      ringGap := ringGap, windows := windows, onceTick := onceTick, counts := counts, tiles := tiles, doms := doms, net := net,
      kvp := kvp, stash := stash, rests := rests, regShadows := regShadows, hbmSeen := hbmSeen, hbmTick := hbmTick, hbmLast :=
      hbmLast, hot := hot, scrubAt := scrubAt, arbs := arbs, replays := replays, risk := risk, riskAt := riskAt, intake := intake,
      peers := peers, outFlows := outFlows, inFlows := inFlows, retrains := retrains, colls := colls, tails := tails, tailNotes :=
      tailNotes, spoolRing := spoolRing, survival := survival, power := power, facility := facility, dbg := dbg } :=
  keeps_of h rfl rfl (Nat.le_add_right _ _) rfl rfl

/-- A state that several branches go on from, shown to keep what `z` has once for all of them. -/
theorem keeps_via {u : State} {P : Prop} (f : Keeps z u → P) (k : Keeps z u) : P := f k

/-- The command runs, and the state it leaves keeps what `z` has. -/
def Answers (z : State) (o : Out) : Prop := ∃ t, o = .next t ∧ Keeps z t

theorem answers_next (h : Keeps z s) : Answers z (.next s) := ⟨s, rfl, h⟩

theorem answers_ite {c : Prop} [Decidable c] {a b : Out} (ha : Answers z a) (hb : Answers z b) : Answers z (if c then a else b) := by
  split <;> assumption

theorem keeps_ite_fst {α : Type} {c : Prop} [Decidable c] {a b : State × α} (ha : Keeps z a.1) (hb : Keeps z b.1) :
    Keeps z (if c then a else b).1 := by
  split <;> assumption

theorem keeps_ite_snd {α : Type} {c : Prop} [Decidable c] {a b : α × State} (ha : Keeps z a.2) (hb : Keeps z b.2) :
    Keeps z (if c then a else b).2 := by
  split <;> assumption

theorem keeps_fst_of {α : Type} {p : State × α} {t : State} {a : α} (h : Keeps z p.1) (e : p = (t, a)) : Keeps z t := by
  subst e
  exact h

/-- A state that is offered, if any, keeps what `z` has. -/
def Offers (z : State) (o : Option State) : Prop := ∀ t, o = some t → Keeps z t

theorem offered {o : Option State} {t : State} (h : Offers z o) (e : o = some t) : Keeps z t := h t e

theorem offers_none : Offers z none := by simp [Offers]

theorem offers_some (h : Keeps z s) : Offers z (some s) := by simpa [Offers] using h

theorem offers_ite {c : Prop} [Decidable c] {a b : Option State} (ha : Offers z a) (hb : Offers z b) : Offers z (if c then a else b) := by
  split <;> assumption

/-- A core instruction that does not trap keeps what `z` has. -/
inductive Retires (z : State) : Ran → Prop
  | trap {c : Nat} : Retires z (.trap c)
  | done {s : State} {rd : Nat} {v pc : Word} (h : Keeps z s) : Retires z (.done s rd v pc)

theorem retires_ite {c : Prop} [Decidable c] {a b : Ran} (ha : Retires z a) (hb : Retires z b) : Retires z (if c then a else b) := by
  split <;> assumption

/-- A check that passes keeps what `z` has in the state it hands on. -/
def Passes {ε : Type} (z : State) (r : Except ε State) : Prop := ∀ t, r = .ok t → Keeps z t

theorem passed {ε : Type} {r : Except ε State} {t : State} (h : Passes z r) (e : r = .ok t) : Keeps z t := h t e

theorem passes_ok {ε : Type} (h : Keeps z s) : Passes z (.ok s : Except ε State) := by simpa [Passes] using h

theorem passes_error {ε : Type} {e : ε} : Passes z (.error e) := by simp [Passes]

theorem passes_ite {ε : Type} {c : Prop} [Decidable c] {a b : Except ε State} (ha : Passes z a) (hb : Passes z b) :
    Passes z (if c then a else b) := by
  split <;> assumption

/-- A walker operation that faults nothing keeps what `z` has, when it waits and when it is done. -/
inductive Walks (z : State) : Walk → Prop
  | wait {s : State} (h : Keeps z s) : Walks z (.wait s)
  | fault {st : Nat} : Walks z (.fault st)
  | done {s : State} {st : Nat} (h : Keeps z s) : Walks z (.done s st)

theorem walks_ite {c : Prop} [Decidable c] {a b : Walk} (ha : Walks z a) (hb : Walks z b) : Walks z (if c then a else b) := by
  split <;> assumption

theorem keeps_foldl_fst {α β : Type} {f : State × β → α → State × β} {p : State × β} (xs : List α) (h : Keeps z p.1)
    (hf : ∀ q a, Keeps z q.1 → Keeps z (f q a).1) : Keeps z (xs.foldl f p).1 := by
  induction xs generalizing p with
  | nil => exact h
  | cons a xs ih => exact ih (hf _ _ h)

/-- The state that comes with a value that is found keeps what `z` has. -/
def Gives {α : Type} (z : State) (o : Option (α × State)) : Prop := ∀ a t, o = some (a, t) → Keeps z t

theorem given {α : Type} {o : Option (α × State)} {a : α} {t : State} (h : Gives z o) (e : o = some (a, t)) : Keeps z t := h a t e

theorem gives_none {α : Type} : Gives z (none : Option (α × State)) := by simp [Gives]

theorem gives_some {α : Type} {a : α} (h : Keeps z s) : Gives z (some (a, s)) := by simpa [Gives] using h

theorem gives_ite {α : Type} {c : Prop} [Decidable c] {a b : Option (α × State)} (ha : Gives z a) (hb : Gives z b) :
    Gives z (if c then a else b) := by
  split <;> assumption

theorem gives_foldl {α β : Type} {f : Option (β × State) → α → Option (β × State)} {o : Option (β × State)} (xs : List α)
    (h : Gives z o) (hf : ∀ q a, Gives z q → Gives z (f q a)) : Gives z (xs.foldl f o) := by
  induction xs generalizing o with
  | nil => exact h
  | cons a xs ih => exact ih (hf _ _ h)

/-- Bytes that are left open: a device write whose value is free. -/
theorem keeps_opened {a : Nat} {bs : Bytes} (h : Keeps z s) : Keeps z { s.devWrite a bs with fresh := s.fresh + 1 } :=
  keeps_of (keeps_devWrite a bs h) rfl rfl (by rw [devWrite_fresh]; exact Nat.le_succ _) rfl rfl

/-- A pair-valued operation replaced by its definition as a whole function: the kernel compares the two definitions only, and does not
evaluate what the body matches on. -/
theorem keeps_fst_of_unfold {α β γ : Type} {f F : State → α → β → State × γ} {a : α} {b : β} (e : f = F)
    (h : ∀ r, F s a b = r → Keeps z r.1) : Keeps z (f s a b).1 := by
  subst e
  exact h _ rfl

theorem keeps_of_ok_eq {ε α : Type} {a b : α} {t : State} (h : Keeps z s) (e : (.ok (a, s) : Except ε (α × State)) = .ok (b, t)) :
    Keeps z t := by
  obtain ⟨rfl⟩ := (Prod.mk.inj (Except.ok.inj e)).2
  exact h

/-! ### The operations of Machine/Ops -/

theorem keeps_addScaled {f : Fld} {unit n : Nat} (h : Keeps z s) : Keeps z (s.addScaled f unit n) :=
  keeps_addFld _ _ (keeps_with h)

theorem keeps_resetRegs {as : List Nat} (h : Keeps z s) : Keeps z (s.resetRegs as) := by
  induction as generalizing s with
  | nil => exact h
  | cons a as ih => exact ih (keeps_setReg _ _ h)

theorem keeps_overRegion {r : HbmRegion} {f : State → Nat → Nat → State} (hf : ∀ t a n, Keeps z t → Keeps z (f t a n)) (h : Keeps z s) :
    Keeps z (s.overRegion r f) :=
  keeps_foldl _ _ _ h fun _ _ k => hf _ _ _ k

theorem keeps_engineFault {a n : Nat} (h : Keeps z s) : Keeps z (s.engineFault a n) :=
  keeps_ite h (keeps_setFld _ _ (keeps_setFld _ _ h))

theorem keeps_poisonLine {a : Nat} (h : Keeps z s) : Keeps z (s.poisonLine a) :=
  keeps_with h

theorem keeps_tagHbm {d a n : Nat} (h : Keeps z s) : Keeps z (s.tagHbm d a n) :=
  keeps_ite (keeps_with h) h

theorem keeps_readHbm {d a n : Nat} (h : Keeps z s) : Keeps z (s.readHbm d a n) :=
  keeps_tagHbm (keeps_countHbm _ _ h)

theorem keeps_breakReserve {a n : Nat} (h : Keeps z s) : Keeps z (s.breakReserve a n) := by
  rw [breakReserve_eq]
  exact keeps_with h

theorem keeps_scrambleAll {rs : List (Nat × Nat)} (h : Keeps z s) : Keeps z (s.scrambleAll rs) :=
  keeps_foldl _ _ _ h (fun _ _ k => keeps_openAt _ _ k)

theorem keeps_clearRevoked {t : Nat} (h : Keeps z s) : Keeps z (s.clearRevoked t) :=
  keeps_ite h (keeps_with h)

theorem keeps_correctedOnce {unit : Nat} {i : ErrInfo} (h : Keeps z s) : Keeps z (s.correctedOnce unit i) :=
  keeps_ite h (keeps_report _ _ _ (keeps_with h))

theorem keeps_leaveStopped {unit : Nat} (h : Keeps z s) : Keeps z (s.leaveStopped unit) :=
  keeps_with h

theorem keeps_closeWindows {p : Nat → Bool} (h : Keeps z s) : Keeps z (s.closeWindows p) :=
  keeps_with h

theorem keeps_addScore {k w : Nat} (h : Keeps z s) : Keeps z (s.addScore k w) :=
  keeps_with h

theorem keeps_addRisk {k : Nat} (h : Keeps z s) : Keeps z (s.addRisk k) :=
  keeps_addScore h

theorem keeps_portReplay {unit replays : Nat} {retrain : Bool} (h : Keeps z s) : Keeps z (s.portReplay unit replays retrain) :=
  keeps_via (fun k => keeps_ite (keeps_addRisk k) k) (keeps_ite h (keeps_correctedOnce (keeps_with h)))

theorem keeps_finishWith {h : Word} {status : Nat} (hs : Keeps z s) : Keeps z (s.finishWith h status) :=
  keeps_finish _ _ hs

theorem keeps_finishOk {h : Word} {result : Nat} (hs : Keeps z s) : Keeps z (s.finishOk h result) :=
  keeps_finish _ _ hs

/-! ### The operations of Machine/Domains -/

theorem keeps_setTileState {t v : Nat} (h : Keeps z s) : Keeps z (s.setTileState t v) :=
  keeps_setFld _ _ h

theorem keeps_landRow {x : Nat × Option Nat × Nat} (h : Keeps z s) : Keeps z (s.landRow x) := by
  unfold State.landRow
  split
  · exact keeps_landBytes _ _ h
  · exact keeps_landBytes _ _ (keeps_used h)

theorem keeps_landRows {t : Nat} (h : Keeps z s) : Keeps z (s.landRows t) :=
  keeps_foldl _ _ _ h (fun _ _ k => keeps_landRow k)

theorem keeps_emptyTile {t : Nat} (h : Keeps z s) : Keeps z (s.emptyTile t) :=
  keeps_scramble _ _ (keeps_clearRevoked (keeps_resetRegRange _ _ (keeps_foldl _ _ _ (keeps_used (keeps_setTile _ _ h))
    (fun _ _ k => keeps_setFld _ _ k))))

theorem keeps_resetTile {t : Nat} (h : Keeps z s) : Keeps z (s.resetTile t) :=
  keeps_emptyTile (keeps_landRows h)

theorem keeps_emptyChannels {t : Nat} (h : Keeps z s) : Keeps z (s.emptyChannels t) :=
  keeps_foldl _ _ _ h (fun _ _ k => keeps_ite k (keeps_setFld _ _ (keeps_setTile _ _ (keeps_addFld _ _ k))))

theorem keeps_startTile {d l n : Nat} {replay : Bool} (h : Keeps z s) : Keeps z (s.startTile d l n replay) :=
  keeps_setTileState (keeps_setTile _ _ (keeps_setFld _ _ (keeps_resetRegRange _ _ (keeps_resetRegRange _ _ (keeps_emptyChannels h)))))

theorem keeps_startSlot {d n : Nat} {replay : Bool} (h : Keeps z s) : Keeps z (s.startSlot d n replay) :=
  keeps_foldl _ _ _ (keeps_with (keeps_setDom _ _ h))
    (fun _ _ k1 => keeps_via (fun k2 => keeps_startTile (keeps_ite (keeps_clear _ _ k2) (keeps_ite (keeps_devWrite _ _ k2) k2)))
      (keeps_ite (keeps_scramble _ _ k1) k1))

theorem keeps_loadTile {t : Nat} {body e : Bytes} (h : Keeps z s) : Keeps z (s.loadTile t body e) :=
  keeps_setTile _ _ h

/-! ### The operations of Machine/Handles -/

theorem keeps_setHandle {h : Nat} {x : Handle} (hs : Keeps z s) : Keeps z (s.setHandle h x) := by
  unfold State.setHandle
  dsimp only
  split
  · exact keeps_devWrite _ _ (keeps_with hs)
  · exact keeps_with hs

theorem keeps_freeSpace {as : List Nat} (h : Keeps z s) : Keeps z (s.freeSpace as) :=
  keeps_with h

theorem keeps_freeHandle {h : Nat} {atOnce : Bool} (hs : Keeps z s) : Keeps z (s.freeHandle h atOnce) :=
  keeps_setHandle (keeps_ite (keeps_with hs) (keeps_freeSpace hs))

theorem keeps_stashFinish {d : Nat} (h : Keeps z s) : Keeps z (s.stashFinish d) :=
  keeps_foldl _ _ _ h (fun _ _ k => keeps_ite (keeps_freeHandle k) (keeps_ite k (keeps_setHandle k)))

theorem keeps_stashDiscard {d : Nat} (h : Keeps z s) : Keeps z (s.stashDiscard d) :=
  keeps_foldl _ _ _ h (fun _ _ k => keeps_ite (keeps_freeHandle k) (keeps_ite (keeps_setHandle k) k))

/-! ### The operations of Machine/Layout -/

theorem keeps_newLayout {m : HbmMap} {zeroed : List HbmRegion} (h : Keeps z s) : Keeps z (s.newLayout m zeroed) :=
  keeps_foldl _ _ _ (keeps_with h) (fun _ _ k1 => keeps_ite k1 (keeps_overRegion (fun _ _ _ k2 => keeps_scramble _ _ k2) k1))

theorem keeps_plainLayout (h : Keeps z s) : Keeps z s.plainLayout :=
  keeps_with h

/-! ### The operations of Machine/Modes -/

theorem keeps_setMode {m cause : Nat} (h : Keeps z s) : Keeps z (s.setMode m cause) :=
  keeps_event _ _ _ _ (keeps_ite (keeps_setFld _ _ (keeps_setFld _ _ (keeps_setFld _ _ (keeps_setFld _ _ (keeps_setFld _ _ h)))))
    (keeps_setFld _ _ (keeps_setFld _ _ (keeps_setFld _ _ (keeps_setFld _ _ (keeps_setFld _ _ (keeps_setFld _ _ h)))))))

theorem keeps_firstTethered {cause : Nat} (h : Keeps z s) : Keeps z (s.firstTethered cause) :=
  keeps_event _ _ _ _ (keeps_setFld _ _ (keeps_setFld _ _ h))

theorem keeps_regrid {us : Nat} (h : Keeps z s) : Keeps z (s.regrid us) :=
  keeps_setFld _ _ (keeps_with h)

theorem keeps_tetherTick (h : Keeps z s) : Keeps z s.tetherTick :=
  keeps_setFld _ _ (keeps_regrid h)

theorem keeps_kvpOff (h : Keeps z s) : Keeps z s.kvpOff :=
  keeps_setFld _ _ (keeps_setFld _ _ (keeps_setFld _ _ (keeps_with h)))

theorem keeps_intakeOff (h : Keeps z s) : Keeps z s.intakeOff :=
  keeps_foldl _ _ _ (keeps_setFld _ _ (keeps_setFld _ _ (keeps_setFld _ _ (keeps_with h))))
    (fun _ _ k => keeps_setFld _ _ (keeps_setFld _ _ k))

theorem keeps_dropDomains (h : Keeps z s) : Keeps z s.dropDomains :=
  keeps_foldl _ _ _ (keeps_resetRegRange _ _ (keeps_intakeOff (keeps_kvpOff (keeps_with h))))
    (fun _ _ k => keeps_ite (keeps_setReg _ _ k) (keeps_setReg _ _ (keeps_setReg _ _ k)))

theorem keeps_noImage (h : Keeps z s) : Keeps z s.noImage :=
  keeps_setReg _ _ (keeps_setReg _ _ (keeps_setFld _ _ (keeps_setFld _ _ (keeps_setFld _ _ (keeps_with h)))))

theorem keeps_endImage (h : Keeps z s) : Keeps z s.endImage :=
  keeps_ite (keeps_tetherTick (keeps_noImage (keeps_setFld _ _ (keeps_with (keeps_dropDomains h)))))
    (keeps_noImage (keeps_setFld _ _ (keeps_with (keeps_dropDomains h))))

theorem keeps_writeReport {a : Ascent} {result reason : Nat} (h : Keeps z s) : Keeps z (s.writeReport a result reason) :=
  keeps_with (keeps_foldl _ _ _ h (fun _ _ k => keeps_setReg _ _ k))

theorem keeps_stageEnds {a : Ascent} {ms : Nat} (h : Keeps z s) : Keeps z (s.stageEnds a ms) :=
  keeps_with h

theorem keeps_failStart {a : Ascent} {reason : Nat} {halted hostLink : Bool} (h : Keeps z s) :
    Keeps z (s.failStart a reason halted hostLink) :=
  keeps_event _ _ _ _ (keeps_writeReport (keeps_ite (keeps_setFld _ _ (keeps_setFld _ _ h)) (keeps_setFld _ _ h)))

theorem keeps_showStacks {mask st : Nat} (h : Keeps z s) : Keeps z (s.showStacks mask st) :=
  keeps_foldl _ _ _ h (fun _ _ k => keeps_setFld _ _ k)

theorem keeps_enterHalted {cold : Bool} (h : Keeps z s) : Keeps z (s.enterHalted cold) := by
  unfold State.enterHalted
  refine keeps_ite (keeps_with h)
    (keeps_showStacks (keeps_with (keeps_setMode (keeps_foldl _ _ _ (keeps_endImage (keeps_finishAll _ _ ?_)) (fun _ _ k => ?_)))))
  · split
    · exact keeps_failStart h
    · exact h
  · split
    · exact keeps_setTile _ _ k
    · exact k

theorem keeps_fault {unit cls : Nat} {i : ErrInfo} (h : Keeps z s) : Keeps z (s.fault unit cls i) :=
  keeps_ite (keeps_enterHalted (keeps_report _ _ _ h)) (keeps_report _ _ _ h)

theorem keeps_wordFixed {x k syndrome : Nat} (h : Keeps z s) : Keeps z (s.wordFixed x k syndrome) :=
  keeps_addRisk (keeps_correctedOnce (keeps_addFld _ _ h))

theorem keeps_contain {u : Nat} (h : Keeps z s) : Keeps z (s.contain u) :=
  keeps_leaveStopped (keeps_finishAll _ _ h)

theorem keeps_wordPoisoned {x k syndrome : Nat} (h : Keeps z s) : Keeps z (s.wordPoisoned x k syndrome) :=
  keeps_ite (keeps_contain (keeps_fault (keeps_addFld _ _ (keeps_with h)))) (keeps_fault (keeps_addFld _ _ (keeps_with h)))

theorem keeps_hbmError {f : Found} (h : Keeps z s) : Keeps z (s.hbmError f) := by
  unfold State.hbmError
  refine keeps_ite ?_ h
  split
  · exact h
  · exact keeps_wordFixed h
  · exact keeps_wordPoisoned h

theorem keeps_stopDomain {d code : Nat} {answer : Pending → Completion} (h : Keeps z s) : Keeps z (s.stopDomain d code answer) :=
  keeps_event _ _ _ _ (keeps_closeWindows (keeps_setDom _ _ (keeps_finishAll _ _ (keeps_stashDiscard (keeps_setFld _ _ (keeps_foldl _ _ _ h
    (fun _ _ k => keeps_ite (keeps_resetTile k) (keeps_setTileState (keeps_resetTile k)))))))))

theorem keeps_trapDomain {t status detail : Nat} (h : Keeps z s) : Keeps z (s.trapDomain t status detail) := by
  unfold State.trapDomain
  split
  · exact h
  · exact keeps_ite h (keeps_ite (keeps_fault (keeps_setDom _ _ h)) (keeps_stopDomain (keeps_fault (keeps_setDom _ _ h))))

theorem keeps_resetSteps (h : Keeps z s) : Keeps z s.resetSteps :=
  keeps_setFld _ _ (keeps_setFld _ _ (keeps_with h))

theorem keeps_resetStack {x : Nat} (h : Keeps z s) : Keeps z (s.resetStack x) :=
  keeps_setFld _ _ (keeps_resetRegRange _ _ h)

theorem keeps_clearDies (h : Keeps z s) : Keeps z s.clearDies :=
  keeps_setFld _ _ (keeps_with (keeps_resetRegRange _ _ (keeps_foldl _ _ _ (keeps_resetRegRange _ _ (keeps_resetRegRange _ _
      (keeps_resetRegRange _ _ (keeps_resetRegRange _ _ (keeps_resetRegRange _ _ (keeps_foldl _ _ _ (keeps_resetRegRange _ _
          (keeps_setReg _ _ (keeps_setFld _ _ (keeps_setFld _ _ (keeps_with (keeps_resetSteps (keeps_with (keeps_with h))))))))
        (fun _ _ k1 => keeps_resetStack k1)))))))
    (fun _ _ k2 => keeps_resetRegRange _ _ k2))))

theorem keeps_newIncarnation (h : Keeps z s) : Keeps z s.newIncarnation :=
  keeps_foldl _ _ _ (keeps_setFld _ _ h) (fun _ _ k => keeps_ite k (keeps_setQueue _ _ k))

theorem keeps_lostHandles (h : Keeps z s) : Keeps z s.lostHandles :=
  keeps_foldl _ _ _ (keeps_with h)
    (fun _ _ k => keeps_ite k (keeps_ite (keeps_setFld _ _ (keeps_setFld _ _ (keeps_event _ _ _ _ k)))
      (keeps_setFld _ _ (keeps_event _ _ _ _ k))))

theorem keeps_addCause {bits : Nat} (h : Keeps z s) : Keeps z (s.addCause bits) :=
  keeps_setReg _ _ h

theorem keeps_setRails {en : Nat} (h : Keeps z s) : Keeps z (s.setRails en) :=
  keeps_with h

theorem keeps_measureOffset {k : Nat} (h : Keeps z s) : Keeps z (s.measureOffset k) :=
  keeps_sendPoint _ _ (keeps_with (keeps_freshWord h))

theorem keeps_enableRails {a : Ascent} (h : Keeps z s) : Keeps z (s.enableRails a) :=
  keeps_ite h (keeps_ite (keeps_setRails h)
    (keeps_ite (keeps_setRails h) (keeps_ite (keeps_setRails h) (keeps_setRails (keeps_sendPoint _ _ h)))))

theorem keeps_startAscent (h : Keeps z s) : Keeps z s.startAscent := by
  unfold State.startAscent
  exact keeps_enableRails (keeps_with (keeps_setFld _ _ (keeps_setFld _ _ (keeps_setMode (keeps_with h)))))

theorem keeps_autoAscent (h : Keeps z s) : Keeps z s.autoAscent :=
  keeps_ite (keeps_startAscent h) h

theorem keeps_abortHandles {linkUp : Bool} (h : Keeps z s) : Keeps z (s.abortHandles linkUp) :=
  keeps_ite (keeps_finishAll _ _ (keeps_with h)) (keeps_lostHandles h)

theorem keeps_dropDies {held : Nat} {hold : Bool} (h : Keeps z s) : Keeps z (s.dropDies held hold) :=
  keeps_setRails (keeps_kvpOff (keeps_scramble _ _ (keeps_ite (keeps_showStacks (keeps_setFld _ _ (keeps_with (keeps_clearDies h))))
    (keeps_scramble _ _ (keeps_showStacks (keeps_setFld _ _ (keeps_with (keeps_clearDies h))))))))

theorem keeps_toTethered {causes : Nat} (h : Keeps z s) : Keeps z (s.toTethered causes) :=
  keeps_ite h (keeps_setMode h)

theorem keeps_resetHalted {causes : Nat} (h : Keeps z s) : Keeps z (s.resetHalted causes) :=
  keeps_with (keeps_addCause (keeps_dropDies (keeps_endImage (keeps_newIncarnation (keeps_abortHandles h)))))

theorem keeps_deviceReset {causes : Nat} {hold linkUp : Bool} (h : Keeps z s) : Keeps z (s.deviceReset causes hold linkUp) :=
  keeps_toTethered (keeps_addCause (keeps_dropDies (keeps_endImage (keeps_newIncarnation (keeps_abortHandles h)))))

theorem keeps_coldReset {powerOn : Bool} {causes : Nat} (h : Keeps z s) : Keeps z (s.coldReset powerOn causes) := by
  unfold State.coldReset
  extract_lets _ _ _ u v _
  have hu : Keeps z u := ⟨h.pending, h.part, h.fresh.trans (Nat.le_succ _), fun _ => rfl, fun _ => rfl⟩
  have hv : Keeps z v := keeps_setFld _ _ hu
  exact keeps_ite hv (keeps_setReg _ _ (keeps_setReg _ _ hv))

/-! ### The operations of Machine/Boot -/

theorem keeps_bootWith {forceV forceP : Bool} (h : Keeps z s) : Keeps z (s.bootWith forceV forceP) := by
  unfold State.bootWith
  dsimp only
  split
  · exact keeps_with (keeps_with h)
  · exact keeps_with (keeps_with h)

theorem keeps_bootRom {pufOk : Bool} (h : Keeps z s) : Keeps z (s.bootRom pufOk) :=
  keeps_ite (keeps_logRecord _ _ _ _ (keeps_with (keeps_with h)))
    (keeps_ite (keeps_with (keeps_with h)) (keeps_bootWith (keeps_with h)))

theorem keeps_imagesReached (h : Keeps z s) : Keeps z s.imagesReached :=
  keeps_with (keeps_ite (keeps_ite h (keeps_event _ _ _ _ h)) (keeps_event _ _ _ _ (keeps_ite h (keeps_event _ _ _ _ h))))

/-! ### The operations of Machine/Lines -/

theorem keeps_showPort {n p : Nat} {up : Bool} (h : Keeps z s) : Keeps z (s.showPort n p up) :=
  keeps_setFld _ _ (keeps_setFld _ _ h)

theorem answers_execPortDownTimeout {n : Fin 4} {p : Fin 12} (h : Keeps z s) : Answers z (execPortDownTimeout n p s) :=
  answers_ite (answers_next (keeps_event _ _ _ _ h)) (answers_next h)

theorem keeps_showPeers (h : Keeps z s) : Keeps z s.showPeers :=
  keeps_foldl _ _ _ h (fun _ _ k => keeps_ite (keeps_setFld _ _ k) k)

theorem keeps_setPeer {r : Nat} {x : PeerState} (h : Keeps z s) : Keeps z (s.setPeer r x) :=
  keeps_showPeers (keeps_with h)

theorem keeps_emit {n rank flow seq : Nat} {retx : Bool} {b : Body} (h : Keeps z s) : Keeps z (s.emit n rank flow seq retx b) := by
  unfold State.emit
  split
  · exact keeps_ite (keeps_count _ _ _ (keeps_with h)) h
  · exact h

theorem keeps_pump {w : OutFlow} {n : Nat} (h : Keeps z s) : Keeps z (s.pump w n).1 := by
  induction n generalizing s w with
  | zero => exact h
  | succ n ih =>
    unfold State.pump
    split
    · exact h
    · exact keeps_ite_fst h (ih (keeps_emit h))

theorem keeps_putOut {k : Option Nat} {w : OutFlow} (h : Keeps z s) : Keeps z (s.putOut k w) :=
  keeps_with h

theorem keeps_countLink {n : Nat} {b : Body} (h : Keeps z s) : Keeps z (s.countLink n b) := by
  unfold State.countLink
  split
  · exact keeps_addScaled (keeps_addScaled h)
  · exact h

theorem keeps_sendFrame {n rank type : Nat} {b : Body} (h : Keeps z s) : Keeps z (s.sendFrame n rank type b) :=
  keeps_ite h (keeps_putOut (keeps_pump (keeps_countLink h)))

theorem keeps_sramRead {n : Nat} {f : Found} (h : Keeps z s) : Keeps z (s.sramRead n f) := by
  unfold State.sramRead
  split
  · exact h
  · exact keeps_correctedOnce (keeps_addFld _ _ h)
  · exact keeps_addFld _ _ h

theorem keeps_sramLost {n : Nat} {f : Found} (h : Keeps z s) : Keeps z (s.sramLost n f) :=
  keeps_report _ _ _ (keeps_sramRead h)

theorem keeps_resendFrames {w : OutFlow} {p : Sent → Bool} (h : Keeps z s) : Keeps z (s.resendFrames w p).1 := by
  unfold State.resendFrames
  split
  · exact h
  · exact keeps_setPeer (keeps_addFld _ _ (keeps_foldl _ _ _ h (fun _ _ k => keeps_emit k)))

theorem answers_execRetransmitTimer {n : Fin 4} {k seq : Nat} {ecc : Found} (h : Keeps z s) :
    Answers z (execRetransmitTimer n k seq ecc s) := by
  unfold execRetransmitTimer
  split
  · exact answers_next h
  · exact answers_ite (answers_next h) (answers_next (keeps_putOut (keeps_resendFrames (keeps_sramRead h))))

theorem keeps_resendFlow {q : Nat × Nat → Bool} {k : Nat} (h : Keeps z s) : Keeps z (s.resendFlow q k) :=
  keeps_ite h (keeps_putOut (keeps_resendFrames h))

theorem keeps_resendVia {q : Nat × Nat → Bool} (h : Keeps z s) : Keeps z (s.resendVia q) :=
  keeps_foldl _ _ _ h (fun _ _ k => keeps_resendFlow k)

theorem answers_execPortLinkDown {n : Fin 4} {p : Fin 12} {failed : BitVec 8} {ecc : Found} (h : Keeps z s) :
    Answers z (execPortLinkDown n p failed ecc s) :=
  answers_ite (answers_next h)
    (answers_next (keeps_resendVia (keeps_sramRead (keeps_addRisk (keeps_addFld _ _ (keeps_setFld _ _ (keeps_showPort (keeps_with h))))))))

theorem keeps_takeSack {rank flow cum : Nat} {bitmap : Word} {marks rtt : Nat} {resent : Found} (h : Keeps z s) :
    Keeps z (s.takeSack rank flow cum bitmap marks rtt resent) := by
  unfold State.takeSack
  split
  · exact h
  · exact keeps_putOut (keeps_pump (keeps_ite_fst (keeps_resendFrames (keeps_sramRead (keeps_setPeer h))) (keeps_setPeer h)))

theorem keeps_checkFrame {n : Nat} {f : Frame} {type : Nat} (h : Keeps z s) : Keeps z (s.checkFrame n f type).1 :=
  keeps_ite_fst h (keeps_ite_fst (keeps_addFld _ _ (keeps_addFld _ _ (keeps_freshWord h)))
    (keeps_ite_fst (keeps_count _ _ _ (keeps_ite (keeps_addFld _ _ h) h)) (keeps_addFld _ _ h)))

theorem keeps_readFrame {n : Nat} {f : Frame} {type : Nat} {ecc : Found} (h : Keeps z s) : Keeps z (s.readFrame n f type ecc).1 := by
  unfold State.readFrame
  split
  next s e1 =>
    exact keeps_fst_of (keeps_checkFrame h) e1
  next s e2 =>
    exact keeps_ite_fst (keeps_sramLost (keeps_fst_of (keeps_checkFrame h) e2))
      (keeps_sramRead (keeps_fst_of (keeps_checkFrame h) e2))

theorem keeps_putIn {k : Option Nat} {w : InFlow} (h : Keeps z s) : Keeps z (s.putIn k w) :=
  keeps_with h

theorem keeps_sendSack {k : Nat} (h : Keeps z s) : Keeps z (s.sendSack k) := by
  unfold State.sendSack
  exact keeps_putIn (keeps_emit h)

theorem answers_execSackTimer {n : Fin 4} {k : Nat} (h : Keeps z s) : Answers z (execSackTimer n k s) := by
  unfold execSackTimer
  split
  · exact answers_next h
  · exact answers_ite (answers_next (keeps_sendSack h)) (answers_next h)

theorem keeps_receive {n : Nat} {f : Frame} (h : Keeps z s) : Keeps z (s.receive n f).1 := by
  suffices k : ∀ p, s.receive n f = p → Keeps z p.1 from k _ rfl
  intro p e
  unfold State.receive at e
  split at e
  · subst e
    exact h
  · extract_lets at e
    split at e
    extract_lets u at e
    have hu : Keeps z u := keeps_putIn h
    split at e <;> subst e
    · exact keeps_ite (keeps_sendSack hu) hu
    · exact hu

theorem answers_execSack {n : Fin 4} {f : Frame} {ecc resent : Found} (h : Keeps z s) : Answers z (execSack n f ecc resent s) := by
  have k := keeps_readFrame (n := n.val) (f := f) (type := 2) (ecc := ecc) h
  unfold execSack
  split
  next e _ =>
    have k := keeps_fst_of k e
    exact answers_ite (answers_next (keeps_takeSack k)) (answers_next k)
  next e _ => exact answers_next (keeps_fst_of k e)

theorem keeps_sendHello {n rank : Nat} (h : Keeps z s) : Keeps z (s.sendHello n rank) :=
  keeps_emit h

theorem keeps_dropFlows {rank : Nat} (h : Keeps z s) : Keeps z (s.dropFlows rank) :=
  keeps_with h

theorem keeps_greetPeers {n : Nat} (h : Keeps z s) : Keeps z (s.greetPeers n) :=
  keeps_showPeers (keeps_foldl _ _ _ h (fun _ _ k => keeps_setPeer (keeps_sendHello k)))

theorem answers_execPortLinkUp {n : Fin 4} {p : Fin 12} (h : Keeps z s) : Answers z (execPortLinkUp n p s) :=
  answers_ite (answers_next (keeps_ite (keeps_greetPeers (keeps_showPort (keeps_with h))) (keeps_showPort (keeps_with h))))
    (answers_next h)

/-! ### The operations of Machine/Time -/

theorem keeps_setOffset {o : Int} (h : Keeps z s) : Keeps z (s.setOffset o) :=
  keeps_setReg _ _ h

theorem keeps_stepOffset {o : Int} (h : Keeps z s) : Keeps z (s.stepOffset o) :=
  keeps_with (keeps_setOffset h)

theorem keeps_slewTo {o : Int} {spread : Nat} (h : Keeps z s) : Keeps z (s.slewTo o spread) :=
  keeps_ite (keeps_setFld _ _ (keeps_with h)) (keeps_event _ _ _ _ (keeps_setFld _ _ (keeps_setFld _ _ (keeps_with h))))

theorem keeps_runAligned {dt : Nat} (h : Keeps z s) : Keeps z (s.runAligned dt) :=
  keeps_with (keeps_setOffset h)

theorem keeps_endMeasures {spread : Nat} (h : Keeps z s) : Keeps z (s.endMeasures spread) :=
  keeps_foldl _ _ _ (keeps_with h) (fun _ _ k => keeps_finishOk k)

theorem keeps_askTime (h : Keeps z s) : Keeps z s.askTime :=
  keeps_ite (keeps_emit (keeps_with h)) (keeps_with h)

theorem keeps_startMeasure (h : Keeps z s) : Keeps z s.startMeasure :=
  keeps_askTime (keeps_setFld _ _ (keeps_with h))

theorem keeps_becomeMaster (h : Keeps z s) : Keeps z s.becomeMaster :=
  keeps_endMeasures (keeps_setFld _ _ (keeps_setFld _ _ (keeps_setFld _ _ (keeps_setFld _ _ (keeps_with h)))))

theorem keeps_followMaster {r : Nat} (h : Keeps z s) : Keeps z (s.followMaster r) :=
  keeps_startMeasure (keeps_setFld _ _ (keeps_with h))

theorem keeps_takeTrip {o : Int} (h : Keeps z s) : Keeps z (s.takeTrip o) :=
  keeps_ite (keeps_slewTo (keeps_with h)) (keeps_ite (keeps_askTime (keeps_with h)) (keeps_with h))

theorem answers_execTimeMeasurementEnd (h : Keeps z s) : Answers z (execTimeMeasurementEnd s) :=
  answers_ite (keeps_via (fun k => answers_ite (answers_ite (answers_next (keeps_endMeasures (keeps_slewTo k)))
          (answers_next (keeps_endMeasures (keeps_event _ _ _ _ (keeps_setFld _ _ (keeps_with (keeps_stepOffset k)))))))
        (answers_next (keeps_endMeasures (keeps_event _ _ _ _ (keeps_setFld _ _ k)))))
      (keeps_setFld _ _ (keeps_setFld _ _ (keeps_with h))))
    (answers_next h)

theorem answers_execTimeMeasureRetry (h : Keeps z s) : Answers z (execTimeMeasureRetry s) :=
  answers_ite (answers_next h)
    (answers_ite (answers_next (keeps_ite (keeps_askTime h) h)) (answers_ite (answers_next (keeps_startMeasure h)) (answers_next h)))

theorem answers_execTimeRoundTripPeriod (h : Keeps z s) : Answers z (execTimeRoundTripPeriod s) :=
  answers_ite (answers_next (keeps_askTime (keeps_with h))) (answers_next h)

/-! ### The operations of Machine/Start -/

theorem answers_manage {request : Nat} {full : Bool} {out : Out} (h : Keeps z s) (ho : Answers z out) :
    Answers z (s.manage request full out) :=
  answers_ite (answers_next (keeps_answer _ _ _ h)) ho

theorem keeps_endColdReset {bootSrc mgmtAddr : Nat} {pufOk : Bool} (h : Keeps z s) : Keeps z (s.endColdReset bootSrc mgmtAddr pufOk) :=
  keeps_bootRom (keeps_with h)

theorem answers_execPwrgoodRise {bootSrc : BitVec 2} {mgmtAddr : BitVec 3} {pufOk : Bool} (h : Keeps z s) :
    Answers z (execPwrgoodRise bootSrc mgmtAddr pufOk s) :=
  answers_ite (answers_next h)
    (answers_next (keeps_ite (keeps_endColdReset (keeps_coldReset (keeps_with h))) (keeps_coldReset (keeps_with h))))

theorem answers_execPwrgoodFall (h : Keeps z s) : Answers z (execPwrgoodFall s) :=
  answers_next (keeps_with (keeps_coldReset (keeps_with h)))

theorem answers_execRstNAssert {ns : Nat} (h : Keeps z s) : Answers z (execRstNAssert ns s) :=
  answers_ite (answers_next h) (answers_ite (answers_next (keeps_coldReset (keeps_with h))) (answers_next (keeps_with h)))

theorem answers_execRstNDeassert {bootSrc : BitVec 2} {mgmtAddr : BitVec 3} {pufOk : Bool} (h : Keeps z s) :
    Answers z (execRstNDeassert bootSrc mgmtAddr pufOk s) :=
  answers_ite (answers_next h) (answers_next (keeps_ite (keeps_endColdReset (keeps_with h)) (keeps_with h)))

theorem keeps_showLimit (h : Keeps z s) : Keeps z s.showLimit :=
  keeps_ite (keeps_setFld _ _ (keeps_setFld _ _ h)) (keeps_setFld _ _ h)

theorem answers_execTetheredEntry (h : Keeps z s) : Answers z (execTetheredEntry s) :=
  answers_ite (answers_next (keeps_autoAscent (keeps_imagesReached (keeps_ite (keeps_firstTethered (keeps_tetherTick (keeps_showLimit
        (keeps_with h))))
      (keeps_tetherTick (keeps_showLimit (keeps_with h)))))))
    (answers_next h)

theorem answers_execHostWatchdogExpiry {pufOk : Bool} (h : Keeps z s) : Answers z (execHostWatchdogExpiry pufOk s) :=
  answers_ite (answers_next h) (answers_next (keeps_bootRom (keeps_coldReset h)))

theorem answers_execAscend {full : Bool} (h : Keeps z s) : Answers z (execAscend full s) :=
  answers_manage h (answers_ite (answers_next h)
    (answers_ite (answers_next (keeps_startAscent (keeps_answer _ _ _ h))) (answers_next (keeps_answer _ _ _ h))))

theorem keeps_abortAscent (h : Keeps z s) : Keeps z s.abortAscent := by
  unfold State.abortAscent
  split
  · exact keeps_writeReport h
  · exact h

theorem keeps_resetByRequest {causes : Nat} {hold : Bool} (h : Keeps z s) : Keeps z (s.resetByRequest causes hold) :=
  keeps_toTethered (keeps_addCause (keeps_dropDies (keeps_endImage (keeps_newIncarnation (keeps_abortHandles (keeps_abortAscent h))))))

theorem answers_execDeviceReset {holdHbm full : Bool} (h : Keeps z s) : Answers z (execDeviceReset holdHbm full s) :=
  answers_manage h (answers_ite (answers_next h)
    (answers_ite (answers_next (keeps_answer _ _ _ h))
      (answers_ite (answers_next (keeps_answer _ _ _ h))
        (answers_next (keeps_autoAscent (keeps_resetByRequest (keeps_answer _ _ _ h)))))))

theorem keeps_resetQueues (h : Keeps z s) : Keeps z s.resetQueues :=
  keeps_resetRegRange _ _ (keeps_resetRegRange _ _ (keeps_resetRegRange _ _ (keeps_with h)))

theorem keeps_stopScopes (h : Keeps z s) : Keeps z s.stopScopes :=
  keeps_with (keeps_setFld _ _ h)

theorem keeps_endGrant {cause : Nat} (h : Keeps z s) : Keeps z (s.endGrant cause) := by
  unfold State.endGrant
  split
  · exact h
  · exact keeps_event _ _ _ _ (keeps_stopScopes (keeps_with h))

theorem answers_execHostReset {full : Bool} (h : Keeps z s) : Answers z (execHostReset full s) :=
  answers_manage h (answers_ite (answers_next h)
    (answers_ite (answers_next (keeps_answer _ _ _ h))
      (answers_next (keeps_bootRom (keeps_endGrant (keeps_toTethered (keeps_addCause (keeps_dropDies (keeps_endImage (keeps_newIncarnation
        (keeps_scramble _ _ (keeps_scramble _ _ (keeps_resetQueues (keeps_abortAscent (keeps_answer _ _ _ h)))))))))))))))

theorem answers_execStartClear {full : Bool} (h : Keeps z s) : Answers z (execStartClear full s) :=
  answers_manage h (answers_ite (answers_next h)
    (answers_ite (answers_next (keeps_answer _ _ _ h)) (answers_next (keeps_setFld _ _ (keeps_setFld _ _ (keeps_answer _ _ _ h))))))

theorem answers_execPowerDown {full : Bool} (h : Keeps z s) : Answers z (execPowerDown full s) :=
  answers_manage h (answers_ite (answers_next h)
    (answers_next (keeps_with (keeps_setRails (keeps_resetByRequest (keeps_answer _ _ _ h))))))

theorem answers_execRetryDelayExpiry (h : Keeps z s) : Answers z (execRetryDelayExpiry s) :=
  answers_ite (answers_next (keeps_startAscent h)) (answers_next (keeps_with h))

theorem keeps_showAscent {a : Ascent} (h : Keeps z s) : Keeps z (s.showAscent a) :=
  keeps_setFld _ _ (keeps_setFld _ _ (keeps_setFld _ _ (keeps_with h)))

theorem keeps_beginUnit {a : Ascent} {u : Nat} (h : Keeps z s) : Keeps z (s.beginUnit a u) :=
  keeps_enableRails (keeps_showAscent h)

theorem keeps_nextStage {a : Ascent} {stage : Nat} (h : Keeps z s) : Keeps z (s.nextStage a stage) :=
  keeps_showAscent h

theorem keeps_leaveOut {a : Ascent} {reason : Nat} (h : Keeps z s) : Keeps z (s.leaveOut a reason) :=
  keeps_ite (keeps_beginUnit (keeps_foldl _ _ _ (keeps_foldl _ _ _ (keeps_setFld _ _ (keeps_with h))
        (fun _ _ k1 => keeps_resetStack k1))
      (fun _ _ k2 => keeps_resetRegRange _ _ k2)))
    (keeps_beginUnit h)

theorem keeps_admitUnit {a : Ascent} {holes : Nat} (h : Keeps z s) : Keeps z (s.admitUnit a holes) :=
  keeps_beginUnit (keeps_ite (keeps_with h) (keeps_with h))

theorem answers_execAscentPowerStage {reason : BitVec 12} {ms : Nat} (h : Keeps z s) : Answers z (execAscentPowerStage reason ms s) := by
  unfold execAscentPowerStage
  split
  · exact answers_next h
  · exact answers_ite (answers_next h)
      (answers_ite (answers_next (keeps_leaveOut (keeps_stageEnds h)))
        (answers_ite (answers_next (keeps_showAscent (keeps_measureOffset (keeps_setFld _ _ (keeps_stageEnds h)))))
          (answers_next (keeps_nextStage (keeps_stageEnds h)))))

theorem keeps_endStack {a : Ascent} {reason retries ms : Nat} (h : Keeps z s) : Keeps z (s.endStack a reason retries ms) := by
  unfold State.endStack
  extract_lets _ _ _ _ _ _ _ u v
  have hu : Keeps z u := keeps_ite (keeps_setFld _ _ (keeps_setFld _ _ (keeps_setFld _ _ (keeps_setFld _ _ (keeps_with h)))))
    (keeps_resetStack h)
  have hv : Keeps z v := keeps_with hu
  split
  · exact keeps_showAscent hv
  · exact keeps_ite (keeps_nextStage hv) (keeps_leaveOut hv)

theorem answers_execAscentHbmStack {warmOk : Bool} {reason : BitVec 12} {retries : BitVec 8} {ms : Nat} (h : Keeps z s) :
    Answers z (execAscentHbmStack warmOk reason retries ms s) := by
  unfold execAscentHbmStack
  split
  · exact answers_next h
  · exact answers_next (keeps_endStack (keeps_ite (keeps_with (keeps_setFld _ _ (keeps_stageEnds h))) (keeps_stageEnds h)))

theorem keeps_showTile {bad : List BadColumns} {t : Nat} {ok : Bool} (h : Keeps z s) : Keeps z (s.showTile bad t ok) :=
  keeps_ite (keeps_setFld _ _ (keeps_setFld _ _ (keeps_setFld _ _ (keeps_setFld _ _ (keeps_setReg _ _ (keeps_setReg _ _ (keeps_setReg _ _
      h)))))))
    (keeps_setFld _ _ (keeps_setFld _ _ (keeps_setFld _ _ (keeps_setFld _ _ (keeps_setReg _ _ (keeps_setReg _ _ (keeps_setReg _ _ h)))))))

theorem answers_execAscentArrayStage {unusable : List (Fin 384)} {bad : List BadColumns} {reason : BitVec 12} {ms : Nat}
    (h : Keeps z s) :
    Answers z (execAscentArrayStage unusable bad reason ms s) := by
  unfold execAscentArrayStage
  split
  · exact answers_next h
  · exact answers_ite (answers_next (keeps_leaveOut (keeps_stageEnds h)))
      (answers_next (keeps_nextStage (keeps_foldl _ _ _ (keeps_with (keeps_stageEnds h)) (fun _ _ k => keeps_showTile k))))

theorem answers_execAscentMeshStage {reason : BitVec 12} {ms : Nat} (h : Keeps z s) : Answers z (execAscentMeshStage reason ms s) := by
  unfold execAscentMeshStage
  split
  · exact answers_next h
  · exact answers_next (keeps_ite (keeps_leaveOut (keeps_stageEnds h)) (keeps_nextStage (keeps_stageEnds h)))

theorem answers_execAscentUcieStage {failed : List (Fin 4 × BitVec 12)} {ms : Nat} (h : Keeps z s) :
    Answers z (execAscentUcieStage failed ms s) := by
  unfold execAscentUcieStage
  split
  · exact answers_next h
  · refine answers_ite (answers_next (keeps_leaveOut (keeps_stageEnds h)))
      (answers_ite (answers_next (keeps_leaveOut (keeps_stageEnds h)))
        (answers_next (keeps_admitUnit (keeps_with (keeps_foldl _ _ _ (keeps_stageEnds h) (fun _ _ k => ?_))))))
    split
    · exact keeps_report _ _ _ k
    · exact k

theorem keeps_showPorts {n up : Nat} {failedLanes : List (Fin 12 × BitVec 8)} (h : Keeps z s) : Keeps z (s.showPorts n up failedLanes) :=
  keeps_foldl _ _ _ (keeps_foldl _ _ _ h (fun _ _ k1 => keeps_showPort k1)) (fun _ _ k2 => keeps_setFld _ _ k2)

theorem answers_execAscentLineStage {sramOk : Bool} {ports : BitVec 12} {failedLanes : List (Fin 12 × BitVec 8)} {ms : Nat}
    (h : Keeps z s) :
    Answers z (execAscentLineStage sramOk ports failedLanes ms s) := by
  unfold execAscentLineStage
  split
  · exact answers_next h
  · exact answers_ite (answers_next (keeps_leaveOut (keeps_stageEnds h)))
      (answers_next (keeps_greetPeers (keeps_admitUnit (keeps_setFld _ _ (keeps_showPorts (keeps_stageEnds h))))))

theorem keeps_ascentFails {a : Ascent} {reason : Nat} {hostLink : Bool} (h : Keeps z s) : Keeps z (s.ascentFails a reason hostLink) :=
  keeps_with (keeps_deviceReset (keeps_failStart h))

theorem keeps_enterAloft {a : Ascent} (h : Keeps z s) : Keeps z (s.enterAloft a) :=
  keeps_via (fun k => keeps_ite (keeps_becomeMaster (keeps_with k)) (keeps_followMaster (keeps_with k)))
    (keeps_ite (keeps_with (keeps_setMode (keeps_setFld _ _ (keeps_writeReport h))))
      (keeps_plainLayout (keeps_scramble _ _ (keeps_setMode (keeps_setFld _ _ (keeps_writeReport h))))))

theorem answers_execAscentEntryStage {ms : Nat} (h : Keeps z s) : Answers z (execAscentEntryStage ms s) := by
  unfold execAscentEntryStage
  split
  · exact answers_next h
  · exact answers_ite (answers_next (keeps_enterAloft (keeps_stageEnds h))) (answers_next (keeps_ascentFails (keeps_stageEnds h)))

theorem answers_execStageTimeout {retries : BitVec 8} (h : Keeps z s) : Answers z (execStageTimeout retries s) := by
  unfold execStageTimeout
  split
  · exact answers_next h
  · exact answers_ite (answers_next h)
      (answers_ite (answers_next (keeps_ascentFails (keeps_stageEnds h)))
        (answers_ite (answers_next (keeps_endStack (keeps_ite (keeps_setFld _ _ (keeps_with (keeps_stageEnds h)))
            (keeps_stageEnds h))))
          (answers_ite (answers_next (keeps_admitUnit (keeps_stageEnds h)))
            (answers_ite (answers_next (keeps_leaveOut (keeps_stageEnds h))) (answers_next (keeps_leaveOut (keeps_stageEnds h)))))))

theorem answers_execRailPgRise {r : Fin 15} (h : Keeps z s) : Answers z (execRailPgRise r s) := by
  unfold execRailPgRise
  refine answers_ite ?_ (answers_next h)
  dsimp only
  split
  · exact answers_next (keeps_enableRails (keeps_with h))
  · exact answers_next (keeps_with h)

theorem answers_execRailPgTimeout {r : Fin 15} (h : Keeps z s) : Answers z (execRailPgTimeout r s) := by
  unfold execRailPgTimeout
  split
  · exact answers_next h
  · exact answers_ite (answers_next (keeps_leaveOut (keeps_stageEnds h))) (answers_next h)

theorem answers_execRailPgFall {r : Fin 15} (h : Keeps z s) : Answers z (execRailPgFall r s) :=
  answers_ite (answers_next h)
    (answers_ite (answers_next (keeps_ite (keeps_scramble _ _ (keeps_fault (keeps_setRails (keeps_with h))))
        (keeps_ite (keeps_foldl _ _ _ (keeps_fault (keeps_setRails (keeps_with h))) (fun _ _ k => keeps_scramble _ _ k))
          (keeps_fault (keeps_setRails (keeps_with h))))))
      (answers_next (keeps_with h)))

theorem answers_execHostPortRetrain {k : Fin 4} {replays : Nat} {retrain : Bool} (h : Keeps z s) :
    Answers z (execHostPortRetrain k replays retrain s) :=
  answers_ite (answers_next (keeps_portReplay (keeps_ite (keeps_addFld _ _ h) h))) (answers_next h)

theorem answers_execHostAccessTimeout {addr : BitVec 48} (h : Keeps z s) : Answers z (execHostAccessTimeout addr s) :=
  answers_ite (answers_next (keeps_with (keeps_setFld _ _ (keeps_setFld _ _ h)))) (answers_next h)

/-! ### The operations of Machine/Debug -/

theorem keeps_jtagOut {i : JtagInstr} {out : List Bool} (h : Keeps z s) : Keeps z (s.jtagOut i out) :=
  keeps_with h

theorem keeps_jtagPass {i : JtagInstr} {tdi : List Bool} (h : Keeps z s) : Keeps z (s.jtagPass i tdi) :=
  keeps_jtagOut h

theorem answers_execJtagBypass {tdi : List Bool} (h : Keeps z s) : Answers z (execJtagBypass tdi s) :=
  answers_ite (answers_next (keeps_jtagPass h)) (answers_next h)

theorem answers_execJtagIdcode {tdi : List Bool} (h : Keeps z s) : Answers z (execJtagIdcode tdi s) :=
  answers_ite (answers_next (keeps_jtagOut h)) (answers_next h)

theorem answers_execJtagSamplePreload {tdi pins : List Bool} (h : Keeps z s) : Answers z (execJtagSamplePreload tdi pins s) :=
  answers_ite (answers_next (keeps_jtagOut (keeps_with h))) (answers_next h)

theorem answers_execJtagExtest {tdi pins : List Bool} (h : Keeps z s) : Answers z (execJtagExtest tdi pins s) :=
  answers_ite (answers_next h) (answers_ite (answers_next (keeps_jtagPass h)) (answers_next (keeps_with h)))

theorem answers_execJtagClamp {tdi : List Bool} (h : Keeps z s) : Answers z (execJtagClamp tdi s) :=
  answers_ite (answers_next h) (answers_ite (answers_next (keeps_jtagPass h)) (answers_next (keeps_with h)))

theorem answers_execInstrumentAccess {tdi capture : List Bool} (h : Keeps z s) : Answers z (execInstrumentAccess tdi capture s) :=
  answers_ite (answers_next h) (answers_ite (answers_next (keeps_jtagOut (keeps_with h))) (answers_next (keeps_jtagOut h)))

theorem keeps_deny (h : Keeps z s) : Keeps z s.deny :=
  keeps_addFld _ _ h

theorem answers_execHaltResume {value : Word} (h : Keeps z s) : Answers z (execHaltResume value s) :=
  answers_ite (answers_next h)
    (answers_ite (answers_next (keeps_deny h)) (answers_ite (answers_next (keeps_setTile _ _ h)) (answers_next h)))

theorem answers_execTraceEnable {value : Word} (h : Keeps z s) : Answers z (execTraceEnable value s) :=
  answers_ite (answers_next h) (answers_ite (answers_next (keeps_deny h)) (answers_next (keeps_setReg _ _ h)))

theorem keeps_showCounts {set : Nat} {reg : Nat → Nat} (h : Keeps z s) : Keeps z (s.showCounts set reg) :=
  keeps_foldl _ _ _ h (fun _ _ k => keeps_setReg _ _ k)

theorem answers_execDebugCounterUpdate (h : Keeps z s) : Answers z (execDebugCounterUpdate s) :=
  answers_ite (answers_next h)
    (answers_next (keeps_foldl _ _ _ (keeps_showCounts h) (fun _ _ k => keeps_ite (keeps_showCounts k) k)))

/-! ### The operations of Machine/Queues -/

theorem keeps_takeSequence {q : Nat} (h : Keeps z s) : Keeps z (s.takeSequence q) :=
  keeps_setQueue _ _ h

theorem keeps_pend {q : Nat} {e : Bytes} (h : Keeps z s) : Keeps z (s.pend q e) :=
  keeps_trace _ _ _ _ _ (keeps_with (keeps_addFld _ _ (keeps_takeSequence h)))

theorem keeps_takeRing {q : Nat} {e : Bytes} (h : Keeps z s) : Keeps z (s.takeRing q e) :=
  keeps_ite (keeps_pend h) (keeps_writeRecord _ _ (keeps_trace _ _ _ _ _ (keeps_addFld _ _ (keeps_takeSequence h))))

theorem keeps_takeHead {q : Nat} (h : Keeps z s) : Keeps z (s.takeHead q) :=
  keeps_takeRing (keeps_setFld _ _ (keeps_setFld _ _ (keeps_setQueue _ _ h)))

theorem answers_execRingEntryFetch {q : Fin 256} (h : Keeps z s) : Answers z (execRingEntryFetch q s) :=
  answers_ite (answers_ite (answers_next (keeps_takeHead h)) (answers_next (keeps_setQueue _ _ h))) (answers_next h)

theorem answers_execStaleSlotReread {q : Fin 256} (h : Keeps z s) : Answers z (execStaleSlotReread q s) :=
  answers_ite (answers_ite (answers_next (keeps_ite (keeps_takeHead h) (keeps_setQueue _ _ h)))
      (answers_ite (answers_next (keeps_setQueue _ _ h))
        (answers_next (keeps_event _ _ _ _ (keeps_setFld _ _ (keeps_setFld _ _ (keeps_setQueue _ _ h)))))))
    (answers_next h)

theorem answers_execDoorbell {q : Fin 256} {tail : BitVec 32} (h : Keeps z s) : Answers z (execDoorbell q tail s) :=
  answers_ite (answers_next h)
    (answers_ite (answers_next (keeps_addFld _ _ h))
      (answers_ite (answers_next h) (answers_ite (answers_next h) (answers_next (keeps_setQueue _ _ h)))))

theorem keeps_rejectWindow {q st : Nat} (h : Keeps z s) : Keeps z (s.rejectWindow q st) :=
  keeps_setFld _ _ (keeps_setQueue _ _ h)

theorem keeps_takeWindow {q : Nat} (h : Keeps z s) : Keeps z (s.takeWindow q) :=
  keeps_ite (keeps_rejectWindow h)
    (keeps_ite (keeps_rejectWindow h) (keeps_ite (keeps_setQueue _ _ (keeps_pend h)) (keeps_rejectWindow h)))

theorem answers_execWindowSubmit {q : Fin 256} {off : BitVec 6} {data : Bytes} (h : Keeps z s) :
    Answers z (execWindowSubmit q off data s) :=
  answers_ite (answers_next h)
    (answers_ite (answers_next (keeps_takeWindow (keeps_setQueue _ _ h))) (answers_next (keeps_setQueue _ _ h)))

theorem answers_execQueueEnable {q : Fin 256} (h : Keeps z s) : Answers z (execQueueEnable q s) :=
  answers_ite (answers_next h)
    (answers_ite (answers_next (keeps_setFld _ _ h))
      (answers_next (keeps_setReg _ _ (keeps_setReg _ _ (keeps_setFld _ _ (keeps_setFld _ _ (keeps_setQueue _ _ h)))))))

theorem answers_execQueueDrain {q : Fin 256} (h : Keeps z s) : Answers z (execQueueDrain q s) :=
  answers_ite (answers_next h)
    (answers_ite (answers_next (keeps_setFld _ _ (keeps_setQueue _ _ (keeps_setFld _ _ h)))) (answers_next (keeps_setFld _ _ h)))

theorem answers_execQueueResume {q : Fin 256} (h : Keeps z s) : Answers z (execQueueResume q s) :=
  answers_ite (answers_next (keeps_ite (keeps_takeHead (keeps_setFld _ _ h)) (keeps_setFld _ _ h))) (answers_next h)

theorem answers_execCqHeadWrite {q : Fin 256} {value : Word} (h : Keeps z s) : Answers z (execCqHeadWrite q value s) :=
  answers_ite (answers_next h) (answers_next (keeps_setQueue _ _ (keeps_setFld _ _ h)))

theorem answers_execProtoNegotiate {value : Word} (h : Keeps z s) : Answers z (execProtoNegotiate value s) :=
  answers_ite (answers_next h)
    (answers_ite (answers_next (keeps_with h))
      (answers_next (keeps_setFld _ _ (keeps_setFld _ _ (keeps_setFld _ _ (keeps_setFld _ _ (keeps_setFld _ _ h)))))))

theorem answers_execCoalesceTimerExpiry {q : Fin 256} (h : Keeps z s) : Answers z (execCoalesceTimerExpiry q s) :=
  answers_ite (answers_next (keeps_interrupt _ h)) (answers_next h)

theorem keeps_beginWith {p : Pending} {f : State → State} (hf : ∀ t, Keeps z t → Keeps z (f t)) (h : Keeps z s) :
    Keeps z (s.beginWith p f) := by
  unfold State.beginWith
  split
  · exact keeps_finishWith (keeps_begin _ h)
  · exact hf _ (keeps_begin _ h)

/-! ### The operations of Machine/Push -/

theorem keeps_setChan {t c : Nat} {ms : List Bytes} (h : Keeps z s) : Keeps z (s.setChan t c ms) :=
  keeps_setFld _ _ (keeps_setTile _ _ h)

theorem keeps_offerHost {m : HostMsg} (h : Keeps z s) : Keeps z (s.offerHost m) :=
  keeps_ite (keeps_finishWith h) (keeps_ite (keeps_finishOk (keeps_setChan h)) (keeps_with h))

theorem keeps_retryHost {h : Word} (hs : Keeps z s) : Keeps z (s.retryHost h) :=
  keeps_foldl _ _ _ (keeps_with hs) (fun _ _ k => keeps_offerHost k)

theorem keeps_pushBytes {a : Nat} {data : Bytes} (h : Keeps z s) : Keeps z (s.pushBytes a data) :=
  keeps_ite (keeps_scrambleAll (keeps_setTile _ _ (keeps_devWrite _ _ h))) (keeps_devWrite _ _ h)

theorem answers_execPushWindowWrite {n : Fin 64} {off : BitVec 24} {data : Bytes} (h : Keeps z s) :
    Answers z (execPushWindowWrite n off data s) := by
  unfold execPushWindowWrite
  refine answers_ite (answers_next h) ?_
  split
  · exact answers_next h
  · exact answers_ite (answers_next (keeps_report _ _ _ (keeps_addFld _ _ h)))
      (answers_ite (answers_next (keeps_addFld _ _ h)) (answers_next (keeps_addFld _ _ (keeps_pushBytes h))))

theorem answers_execPushCfgWrite {n : Fin 64} {value : Word} (h : Keeps z s) : Answers z (execPushCfgWrite n value s) :=
  answers_ite (answers_next h)
    (answers_ite (answers_next (keeps_with h))
      (answers_next (keeps_setFld _ _ (keeps_setFld _ _ (keeps_setFld _ _ (keeps_setFld _ _ h))))))

theorem answers_execPushSeal {n : Fin 64} (h : Keeps z s) : Answers z (execPushSeal n s) :=
  answers_ite (answers_next h) (answers_next (keeps_with h))

theorem answers_execPushSealApplied {n : Fin 64} (h : Keeps z s) : Answers z (execPushSealApplied n s) :=
  answers_ite (answers_next h)
    (answers_next (keeps_setFld _ _ (keeps_ite (keeps_foldl _ _ _ (keeps_setFld _ _ (keeps_with h)) (fun _ _ k => keeps_offerHost k))
      (keeps_setFld _ _ (keeps_with h)))))

theorem answers_execSignalRetry {h : Word} (hs : Keeps z s) : Answers z (execSignalRetry h s) :=
  answers_ite (answers_next (keeps_retryHost hs)) (answers_next hs)

/-! ### The operations of Machine/Spool -/

theorem keeps_ringBytes {base size off : Nat} {bs : Bytes} (h : Keeps z s) : Keeps z (s.ringBytes base size off bs) := by
  induction bs generalizing s off with
  | nil => exact h
  | cons b bs ih => exact ih (keeps_store _ _ h)

theorem keeps_sendTo {rank type : Nat} {b : Body} (h : Keeps z s) : Keeps z (s.sendTo rank type b) :=
  keeps_sendFrame h

theorem keeps_toPartner {type : Nat} {b : Body} (h : Keeps z s) : Keeps z (s.toPartner type b) := by
  unfold State.toPartner
  split
  · exact keeps_sendTo h
  · exact h

theorem keeps_wantSnapshots {t : Nat} (h : Keeps z s) : Keeps z (s.wantSnapshots t) :=
  keeps_foldl _ _ _ h (fun _ _ k => keeps_setDom _ _ k)

theorem keeps_requestSnapshots (h : Keeps z s) : Keeps z s.requestSnapshots :=
  keeps_foldl _ _ _ (keeps_wantSnapshots h) (fun _ _ k => keeps_sendTo k)

theorem keeps_spoolWrite {d step : Nat} {bs : Bytes} (h : Keeps z s) : Keeps z (s.spoolWrite d step bs) :=
  keeps_ite h (keeps_ite (keeps_event _ _ _ _ (keeps_requestSnapshots (keeps_setFld _ _ h)))
    (keeps_setFld _ _ (keeps_setFld _ _ (keeps_with (keeps_ringBytes h)))))

theorem keeps_spoolFor {d n kind flags : Nat} {aux : Bytes} {vals : List Nat} (h : Keeps z s) :
    Keeps z (s.spoolFor d n kind flags aux vals) :=
  keeps_ite h (keeps_setDom _ _ (keeps_ite (keeps_with (keeps_toPartner (keeps_spoolWrite h)))
    (keeps_toPartner (keeps_spoolWrite h))))

theorem keeps_spool {d kind flags : Nat} {aux : Bytes} {vals : List Nat} (h : Keeps z s) : Keeps z (s.spool d kind flags aux vals) :=
  keeps_spoolFor h

theorem keeps_spoolChange {dom : Option Nat} {sec width entry off value : Nat} (h : Keeps z s) :
    Keeps z (s.spoolChange dom sec width entry off value) :=
  keeps_foldl _ _ _ h (fun _ _ k => keeps_spool k)

/-! ### The operations of Machine/Steps -/

theorem keeps_dropSnapshot {d status : Nat} (h : Keeps z s) : Keeps z (s.dropSnapshot d status) := by
  unfold State.dropSnapshot
  split
  · exact h
  · exact keeps_foldl _ _ _ (keeps_event _ _ _ _ (keeps_addFld _ _ (keeps_toPartner (keeps_setDom _ _ h))))
      (fun _ _ k => keeps_finishWith k)

theorem keeps_keepWatch {point : Nat} {rec' : Bytes} (h : Keeps z s) : Keeps z (s.keepWatch point rec') :=
  keeps_with h

theorem keeps_dropReading {point : Nat} {r : Reading} (h : Keeps z s) : Keeps z (s.dropReading point r) :=
  keeps_keepWatch (keeps_used h)

theorem keeps_pass2Starts {d : Nat} (h : Keeps z s) : Keeps z (s.pass2Starts d) := by
  unfold State.pass2Starts
  refine keeps_foldl _ _ _ ?_ (fun _ _ k1 => keeps_foldl _ _ _ k1 (fun _ _ k2 => keeps_dropReading k2))
  split
  · exact keeps_ite (keeps_setDom _ _ (keeps_requestSnapshots (keeps_dropSnapshot h))) h
  · exact h

/-! ### The operations of Machine/Struct -/

theorem keeps_setStage {v : Nat} (h : Keeps z s) : Keeps z (s.setStage v) :=
  keeps_setFld _ _ h

theorem keeps_finishStruct {h : Word} {status detail result : Nat} (hs : Keeps z s) : Keeps z (s.finishStruct h status detail result) :=
  keeps_finish _ _ (keeps_setFld _ _ hs)

theorem answers_execStructStage {h : Word} (hs : Keeps z s) : Answers z (execStructStage h s) := by
  unfold execStructStage
  split
  · exact answers_next hs
  · exact answers_ite (answers_next (keeps_finishStruct (keeps_begin _ hs)))
      (answers_ite (answers_next (keeps_finishStruct (keeps_begin _ hs)))
        (answers_ite (answers_next (keeps_finishStruct (keeps_engineFault (keeps_begin _ hs))))
          (answers_next (keeps_setStage (keeps_with (keeps_begin _ hs))))))

theorem answers_execStageCopyEnd (h : Keeps z s) : Answers z (execStageCopyEnd s) := by
  unfold execStageCopyEnd
  split
  · exact answers_next h
  · split
    · exact answers_next (keeps_with h)
    · exact answers_ite (answers_next (keeps_setStage (keeps_with (keeps_with (keeps_store _ _ h)))))
        (answers_next (keeps_finishStruct (keeps_setStage (keeps_with (keeps_store _ _ h)))))

theorem answers_execStructValidate {h : Word} (hs : Keeps z s) : Answers z (execStructValidate h s) := by
  unfold execStructValidate
  split
  · exact answers_next hs
  · exact answers_ite (answers_next (keeps_finishStruct (keeps_begin _ hs)))
      (answers_ite (answers_next (keeps_finishWith (keeps_begin _ hs)))
        (answers_next (keeps_setStage (keeps_with (keeps_begin _ hs)))))

theorem answers_execValidationEnd (h : Keeps z s) : Answers z (execValidationEnd s) := by
  unfold execValidationEnd
  split
  · exact answers_next h
  · dsimp only
    split
    · exact answers_next (keeps_finishStruct (keeps_setStage (keeps_with h)))
    · exact answers_next (keeps_finishStruct (keeps_setStage (keeps_with h)))

theorem answers_execStructDiscard {h : Word} (hs : Keeps z s) : Answers z (execStructDiscard h s) := by
  unfold execStructDiscard
  split
  · exact answers_next hs
  · exact answers_ite (answers_next (keeps_finishWith (keeps_begin _ hs)))
      (answers_next (keeps_finishWith (keeps_setStage (keeps_with (keeps_begin _ hs)))))

theorem answers_execStructCommit {h : Word} (hs : Keeps z s) : Answers z (execStructCommit h s) := by
  unfold execStructCommit
  split
  · exact answers_next hs
  next p _ =>
    extract_lets u flaw
    have hu : Keeps z u := keeps_begin _ hs
    refine answers_ite (answers_next (keeps_finishStruct hu)) (answers_ite (answers_next (keeps_finishWith hu)) ?_)
    clear_value flaw
    cases flaw with
    | some x => exact answers_next (keeps_finishStruct (keeps_setStage hu))
    | none => exact answers_next (keeps_setStage (keeps_with hu))

theorem keeps_dropShadows (h : Keeps z s) : Keeps z s.dropShadows :=
  keeps_foldl _ _ _ (keeps_with h) (fun _ _ k => keeps_finishWith k)

theorem keeps_retire (h : Keeps z s) : Keeps z s.retire :=
  keeps_with (keeps_noImage (keeps_dropDomains (keeps_dropShadows h)))

theorem answers_execCommitQuiescence (h : Keeps z s) : Answers z (execCommitQuiescence s) := by
  unfold execCommitQuiescence
  split
  · exact answers_next h
  · exact answers_ite (answers_next (keeps_with (keeps_retire h))) (answers_next h)

theorem answers_execCommitWaitExpiry (h : Keeps z s) : Answers z (execCommitWaitExpiry s) := by
  unfold execCommitWaitExpiry
  split
  · exact answers_next h
  · exact answers_ite (answers_next (keeps_finishStruct (keeps_setStage (keeps_with h)))) (answers_next h)

theorem keeps_loadProgram {body e : Bytes} (h : Keeps z s) : Keeps z (s.loadProgram body e) :=
  keeps_foldl _ _ _ h (fun _ _ k => keeps_setFld _ _ (keeps_setFld _ _ (keeps_setFld _ _ (keeps_loadTile k))))

theorem keeps_loadPrograms {i : Image} (h : Keeps z s) : Keeps z (s.loadPrograms i) := by
  unfold State.loadPrograms
  split
  · exact keeps_store _ _ (keeps_foldl _ _ _ h (fun _ _ k => keeps_loadProgram k))
  · exact h

theorem keeps_prepare {i : Image} (h : Keeps z s) : Keeps z (s.prepare i) :=
  keeps_loadPrograms (keeps_foldl _ _ _ h (fun _ _ k1 => keeps_overRegion (fun _ _ _ k2 => keeps_clear _ _ k2) k1))

theorem answers_execCommitPreparationEnd {ok : Bool} (h : Keeps z s) : Answers z (execCommitPreparationEnd ok s) := by
  unfold execCommitPreparationEnd
  split
  · exact answers_next h
  · exact answers_ite (answers_next h)
      (answers_ite (answers_next (keeps_with (keeps_prepare h)))
        (answers_next (keeps_finishStruct (keeps_setStage (keeps_tetherTick (keeps_with (keeps_plainLayout (keeps_foldl _ _ _ h
          (fun _ _ k1 => keeps_overRegion (fun _ _ _ k2 => keeps_scramble _ _ k2) k1)))))))))

theorem keeps_placeTile {t state : Nat} (h : Keeps z s) : Keeps z (s.placeTile t state) :=
  keeps_ite h (keeps_setFld _ _ (keeps_setTileState h))

theorem keeps_openDomain {e : Bytes} (h : Keeps z s) : Keeps z (s.openDomain e) :=
  keeps_spool (keeps_foldl _ _ _ (keeps_foldl _ _ _ (keeps_setReg _ _ (keeps_setReg _ _ (keeps_setFld _ _ (keeps_setFld _ _
        (keeps_setFld _ _ (keeps_setReg _ _ (keeps_setReg _ _ (keeps_setFld _ _ (keeps_setFld _ _ (keeps_setDom _ _ h))))))))))
      (fun _ _ k1 => keeps_placeTile k1))
    (fun _ _ k2 => keeps_placeTile k2))

theorem keeps_commitEffect {n : Nat} (h : Keeps z s) : Keeps z (s.commitEffect n) := by
  unfold State.commitEffect
  split
  · exact h
  · exact keeps_ite h (keeps_finishStruct (keeps_foldl _ _ _ (keeps_setFld _ _ (keeps_setFld _ _ (keeps_setFld _ _ (keeps_setFld _ _
        (keeps_setReg _ _ (keeps_setReg _ _ (keeps_setFld _ _ (keeps_setFld _ _ (keeps_setFld _ _ (keeps_setStage
          (keeps_with (keeps_newLayout h))))))))))))
      (fun _ _ k => keeps_openDomain k)))

theorem keeps_putField {sec i off width value : Nat} (h : Keeps z s) : Keeps z (s.putField sec i off width value) := by
  unfold State.putField
  split
  · exact h
  · exact keeps_with h

theorem keeps_applyChange {sec i off width value : Nat} (h : Keeps z s) : Keeps z (s.applyChange sec i off width value) :=
  keeps_spoolChange (keeps_ite (keeps_with (keeps_ite (keeps_setFld _ _ (keeps_putField h)) (keeps_putField h)))
    (keeps_ite (keeps_setFld _ _ (keeps_putField h)) (keeps_putField h)))

theorem keeps_rederive {sec i : Nat} (h : Keeps z s) : Keeps z (s.rederive sec i) := by
  unfold State.rederive
  split
  · exact h
  · refine keeps_via (fun k => keeps_ite (keeps_with k) k) (keeps_ite ?_ (keeps_ite (keeps_newLayout h) h))
    split
    · split
      · exact keeps_loadProgram (keeps_ite (keeps_newLayout h) h)
      · exact keeps_ite (keeps_newLayout h) h
    · exact keeps_ite (keeps_newLayout h) h

theorem keeps_renumber {a b : Nat} (h : Keeps z s) : Keeps z (s.renumber a b) :=
  keeps_ite h (keeps_resetRegs (keeps_setReg _ _ (keeps_setReg _ _ (keeps_setDom _ _ (keeps_setDom _ _ h)))))

theorem keeps_retile {old new : Bytes} (h : Keeps z s) : Keeps z (s.retile old new) :=
  keeps_foldl _ _ _ (keeps_foldl _ _ _ (keeps_foldl _ _ _ h (fun _ _ k1 => keeps_ite k1 (keeps_setFld _ _ (keeps_setTileState k1))))
      (fun _ _ k2 => keeps_placeTile k2))
    (fun _ _ k3 => keeps_placeTile k3)

theorem keeps_writeStatic {sec i off width value : Nat} (h : Keeps z s) : Keeps z (s.writeStatic sec i off width value) :=
  keeps_ite (keeps_retile (keeps_renumber (keeps_rederive (keeps_putField h)))) (keeps_rederive (keeps_putField h))

theorem answers_execStructUpdate {h : Word} (hs : Keeps z s) : Answers z (execStructUpdate h s) := by
  unfold execStructUpdate
  split
  · exact answers_next hs
  · refine answers_ite (answers_next (keeps_finishWith (keeps_begin _ hs)))
      (answers_ite (answers_next (keeps_finishWith (keeps_begin _ hs))) ?_)
    split
    · exact answers_next (keeps_with (keeps_begin _ hs))
    · exact answers_next (keeps_finishWith (keeps_applyChange (keeps_begin _ hs)))
    · exact answers_next (keeps_finishWith (keeps_writeStatic (keeps_begin _ hs)))

theorem keeps_applyShadows {starts : List Nat} (h : Keeps z s) : Keeps z (s.applyShadows starts) := by
  unfold State.applyShadows
  refine keeps_foldl _ _ _ (keeps_with h) (fun _ _ k => ?_)
  split
  · exact keeps_finishWith (keeps_applyChange k)
  · exact keeps_applyChange k

/-! ### The operations of Machine/Slots -/

theorem keeps_endLaunch {d status : Nat} (h : Keeps z s) : Keeps z (s.endLaunch d status) := by
  unfold State.endLaunch
  split
  · exact h
  · exact keeps_finish _ _ (keeps_foldl _ _ _ (keeps_setDom _ _ h)
      (fun _ _ k => keeps_ite (keeps_setTileState (keeps_setTile _ _ k)) (keeps_setTile _ _ k)))

theorem keeps_stopAtBoundary {d : Nat} (h : Keeps z s) : Keeps z (s.stopAtBoundary d) := by
  unfold State.stopAtBoundary
  split
  · exact keeps_ite (keeps_endLaunch h) h
  · exact h

theorem keeps_answerStops {d : Nat} (h : Keeps z s) : Keeps z (s.answerStops d) := by
  unfold State.answerStops
  refine keeps_ite h (keeps_foldl _ _ _ ?_ (fun _ _ k => keeps_finishWith k))
  split
  · exact keeps_finishWith (keeps_setDom _ _ h)
  · exact keeps_setDom _ _ h

theorem keeps_overrun {d : Nat} (h : Keeps z s) : Keeps z (s.overrun d) :=
  keeps_via (fun k => keeps_ite (keeps_ite (keeps_fault (keeps_event _ _ _ _ (keeps_setDom _ _ k)))
        (keeps_stopDomain (keeps_fault (keeps_event _ _ _ _ (keeps_setDom _ _ k)))))
      (keeps_addRisk (keeps_event _ _ _ _ (keeps_setDom _ _ (keeps_setFld _ _ k)))))
    (keeps_addFld _ _ (keeps_setFld _ _ h))

theorem keeps_checkDomain {d : Nat} (h : Keeps z s) : Keeps z (s.checkDomain d) :=
  keeps_ite h (keeps_ite (keeps_setDom _ _ (keeps_setFld _ _ (keeps_ite h (keeps_setFld _ _ h)))) (keeps_overrun h))

theorem keeps_tellMigrations {d : Nat} (h : Keeps z s) : Keeps z (s.tellMigrations d) :=
  keeps_ite h (keeps_via (fun k1 => keeps_ite (keeps_event _ _ _ _ (keeps_setDom _ _ (keeps_setFld _ _ k1)))
      (keeps_setDom _ _ (keeps_setFld _ _ k1)))
    (keeps_foldl _ _ _ h (fun _ _ k2 => keeps_event _ _ _ _ k2)))

theorem keeps_enterDomain {d : Nat} (h : Keeps z s) : Keeps z (s.enterDomain d) := by
  unfold State.enterDomain
  refine keeps_ite ?_ (keeps_startSlot (keeps_setDom _ _ (keeps_setReg _ _ (keeps_tellMigrations (keeps_setFld _ _ h)))))
  split
  · exact keeps_finishWith (keeps_startSlot (keeps_closeWindows (keeps_setDom _ _ (keeps_setFld _ _ (keeps_setFld _ _ h)))))
  · exact keeps_startSlot (keeps_closeWindows (keeps_setDom _ _ (keeps_setFld _ _ (keeps_setFld _ _ h))))

/-! ### The operations of Machine/Recovery -/

theorem keeps_showRecovery {d : Nat} (h : Keeps z s) : Keeps z (s.showRecovery d) :=
  keeps_setFld _ _ h

theorem keeps_landStale {x : Nat × Option Nat × Nat} (h : Keeps z s) : Keeps z (s.landStale x) :=
  keeps_ite (keeps_addFld _ _ (keeps_freshWord (keeps_landRow h))) (keeps_addFld _ _ (keeps_freshWord (keeps_landRow h)))

theorem keeps_resetStale {t : Nat} (h : Keeps z s) : Keeps z (s.resetStale t) :=
  keeps_emptyTile (keeps_foldl _ _ _ h (fun _ _ k => keeps_landStale k))

theorem keeps_suspend {d : Nat} (h : Keeps z s) : Keeps z (s.suspend d) :=
  keeps_via (fun k1 => keeps_ite (keeps_stashDiscard k1) (keeps_setFld _ _ (keeps_stashDiscard k1)))
    (keeps_foldl _ _ _ (keeps_setDom _ _ h)
      (fun _ _ k2 => keeps_ite (keeps_resetStale k2) (keeps_setTileState (keeps_resetStale k2))))

theorem keeps_stopForSpare {d : Nat} (h : Keeps z s) : Keeps z (s.stopForSpare d) := by
  unfold State.stopForSpare
  refine keeps_ite (keeps_fault (keeps_setDom _ _ h)) (keeps_showRecovery (keeps_closeWindows ?_))
  split
  · exact keeps_finishWith (keeps_setDom _ _ (keeps_stopDomain (keeps_fault (keeps_setDom _ _ h))))
  · exact keeps_setDom _ _ (keeps_stopDomain (keeps_fault (keeps_setDom _ _ h)))

theorem keeps_spareFails {t : Nat} (h : Keeps z s) : Keeps z (s.spareFails t) := by
  unfold State.spareFails
  split
  · exact h
  · split
    · exact keeps_ite (keeps_setDom _ _ h) h
    · exact h

theorem keeps_unitFault {u t : Nat} {i : ErrInfo} (h : Keeps z s) : Keeps z (s.unitFault u t i) := by
  unfold State.unitFault
  refine keeps_ite (keeps_fault h) ?_
  split
  · exact keeps_closeWindows (keeps_setTileState (keeps_spareFails (keeps_fault h)))
  · exact keeps_ite (keeps_stopForSpare (keeps_setTileState (keeps_resetTile (keeps_fault h))))
      (keeps_showRecovery (keeps_ite (keeps_suspend (keeps_setDom _ _ (keeps_setTileState (keeps_resetStale (keeps_fault h)))))
        (keeps_setDom _ _ (keeps_setTileState (keeps_resetStale (keeps_fault h))))))

theorem keeps_tileFault {t : Nat} {i : ErrInfo} (h : Keeps z s) : Keeps z (s.tileFault t i) :=
  keeps_unitFault h

theorem keeps_correctedWord {t : Nat} {f : Found} (h : Keeps z s) : Keeps z (s.correctedWord t f) :=
  keeps_correctedOnce h

theorem keeps_tileRead {t : Nat} {f : Found} (h : Keeps z s) : Keeps z (s.tileRead t f).1 := by
  unfold State.tileRead
  split
  · exact h
  · exact keeps_correctedWord h
  · exact keeps_tileFault h

theorem keeps_findError {f : Found} (h : Keeps z s) : Keeps z (s.findError f) := by
  unfold State.findError
  refine keeps_ite ?_ (keeps_hbmError h)
  split
  next s e1 =>
    exact keeps_fst_of (keeps_tileRead h) e1
  next s e2 =>
    exact keeps_scramble _ _ (keeps_fst_of (keeps_tileRead h) e2)

theorem keeps_findErrors {fs : List Found} (h : Keeps z s) : Keeps z (s.findErrors fs) :=
  keeps_foldl _ _ _ h (fun _ _ k => keeps_findError k)

theorem keeps_loadFromStore {l t : Nat} (h : Keeps z s) : Keeps z (s.loadFromStore l t) := by
  unfold State.loadFromStore
  split
  · exact keeps_loadTile h
  · exact h

theorem keeps_migrate {d old t : Nat} (h : Keeps z s) : Keeps z (s.migrate d old t) :=
  keeps_addFld _ _ (keeps_setDom _ _ (keeps_setFld _ _ (keeps_setTileState (keeps_setReg _ _ (keeps_loadFromStore h)))))

theorem answers_execTileRecoveryEnd {d : Fin 64} (h : Keeps z s) : Answers z (execTileRecoveryEnd d s) := by
  unfold execTileRecoveryEnd
  split
  · exact answers_next h
  · refine answers_ite (answers_next (keeps_setDom _ _ h)) ?_
    split
    · exact answers_next (keeps_stopForSpare h)
    · exact answers_ite (answers_next (keeps_showRecovery (keeps_setDom _ _ (keeps_migrate (keeps_setDom _ _ h)))))
        (answers_next (keeps_showRecovery (keeps_suspend (keeps_migrate (keeps_setDom _ _ h)))))

theorem answers_execHeartbeatSend {t : Fin 384} (h : Keeps z s) : Answers z (execHeartbeatSend t s) :=
  answers_ite (answers_next (keeps_setTile _ _ h)) (answers_next h)

theorem answers_execHeartbeatTimeout {t : Fin 384} (h : Keeps z s) : Answers z (execHeartbeatTimeout t s) :=
  answers_ite (answers_next (keeps_tileFault h)) (answers_next h)

theorem answers_execD2dPortRetrain {p : Fin 8} {replays : Nat} {retrain : Bool} (h : Keeps z s) :
    Answers z (execD2dPortRetrain p replays retrain s) :=
  answers_next (keeps_ite (keeps_portReplay h) h)

theorem answers_execD2dPortLoss {p : Fin 4} (h : Keeps z s) : Answers z (execD2dPortLoss p s) :=
  answers_ite (answers_next (keeps_fault h)) (answers_next h)

theorem answers_execErrRingHeadWrite {value : Word} (h : Keeps z s) : Answers z (execErrRingHeadWrite value s) :=
  answers_ite (answers_next h) (answers_next (keeps_with (keeps_setFld _ _ h)))

/-! ### The operations of Machine/Tiles -/

theorem keeps_setOp {t i : Nat} {o : Op} (h : Keeps z s) : Keeps z (s.setOp t i o) :=
  keeps_setTile _ _ h

theorem keeps_opFault {t i status : Nat} (h : Keeps z s) : Keeps z (s.opFault t i status) := by
  unfold State.opFault
  split
  · exact h
  · exact keeps_trapDomain (keeps_setReg _ _ h)

theorem keeps_traceOp {t kind ticket : Nat} {head : Bytes} (h : Keeps z s) : Keeps z (s.traceOp t kind ticket head) := by
  unfold State.traceOp
  split
  · exact h
  · exact keeps_ite (keeps_trace _ _ _ _ _ h) h

theorem keeps_enqueue {t i : Nat} {desc : Bytes} {pre aux : Nat} (h : Keeps z s) : Keeps z (s.enqueue t i desc pre aux) :=
  keeps_traceOp (keeps_setTile _ _ h)

theorem keeps_slotEnded {d t pc : Nat} (h : Keeps z s) : Keeps z (s.slotEnded d t pc) :=
  keeps_setTileState (keeps_setDom _ _ (keeps_setDom _ _ (keeps_devWrite _ _ h)))

theorem keeps_progEnded {d t : Nat} (h : Keeps z s) : Keeps z (s.progEnded d t) := by
  unfold State.progEnded
  split
  · exact h
  · exact keeps_ite (keeps_endLaunch (keeps_setTileState (keeps_setTile _ _ (keeps_setDom _ _ h))))
      (keeps_setTileState (keeps_setTile _ _ (keeps_setDom _ _ h)))

theorem keeps_arrayWaited {t a : Nat} (h : Keeps z s) : Keeps z (s.arrayWaited t a) :=
  keeps_arrayWaits _ _ _ (keeps_freshWord h)

theorem keeps_startOp {t i : Nat} {o : Op} {e : Nat} (h : Keeps z s) : Keeps z (s.startOp t i o e) := by
  unfold State.startOp
  refine keeps_via (fun k => keeps_ite (keeps_opFault k) (keeps_ite (keeps_opFault k) k))
    (keeps_ite ?_ (keeps_paced _ _ _ (keeps_setOp (keeps_scrambleAll h))))
  split
  · exact keeps_pass2Starts (keeps_paced _ _ _ (keeps_setOp (keeps_scrambleAll h)))
  · exact keeps_paced _ _ _ (keeps_setOp (keeps_scrambleAll h))

theorem keeps_releaseUser {t i : Nat} (h : Keeps z s) : Keeps z (s.releaseUser t i) :=
  keeps_with h

theorem keeps_dequeue {t i : Nat} {o : Op} (h : Keeps z s) : Keeps z (s.dequeue t i o) :=
  keeps_traceOp (keeps_releaseUser (keeps_setTile _ _ h))

theorem keeps_waited {t : Nat} {o : Op} (h : Keeps z s) : Keeps z (s.waited t o) :=
  keeps_ite h (keeps_ite (keeps_arrayWaited (keeps_growFree _ h))
    (keeps_ite (keeps_growFree _ (keeps_growFree _ h)) (keeps_ite (keeps_growFree _ (keeps_growFree _ h)) (keeps_growFree _ h))))

theorem answers_execOperationComplete {t : Fin 384} {i : Fin 64} (h : Keeps z s) : Answers z (execOperationComplete t i s) := by
  unfold execOperationComplete
  split
  · exact answers_next h
  · refine answers_ite ?_ (answers_ite (answers_next (keeps_waited (keeps_dequeue (keeps_scrambleAll h)))) (answers_next h))
    dsimp only
    split
    · exact answers_next (keeps_dequeue h)
    · exact answers_ite (answers_next (keeps_slotEnded (keeps_dequeue h))) (answers_next (keeps_progEnded (keeps_dequeue h)))

theorem keeps_actedWith {t i status : Nat} (h : Keeps z s) : Keeps z (s.actedWith t i status) := by
  unfold State.actedWith
  split
  · exact keeps_setOp h
  · exact h

theorem keeps_consumesPoison {t i a : Nat} (h : Keeps z s) : Keeps z (s.consumesPoison t i a) :=
  keeps_ite (keeps_with h) h

theorem keeps_rowsFault {n a st r : Nat} (h : Keeps z s) : Keeps z (s.rowsFault n a st r) := by
  induction r generalizing a with
  | zero => exact h
  | succ r ih => exact keeps_ite ih (keeps_engineFault h)

theorem keeps_copyRows {n a st b dt r : Nat} (h : Keeps z s) : Keeps z (s.copyRows n a st b dt r) := by
  induction r generalizing s a b with
  | zero => exact h
  | succ r ih => exact ih (keeps_devWrite _ _ h)

theorem keeps_openRows {n b dt r : Nat} (h : Keeps z s) : Keeps z (s.openRows n b dt r) := by
  induction r generalizing s b with
  | zero => exact h
  | succ r ih => exact ih (keeps_opened h)

theorem keeps_readRows {d n a st r : Nat} (h : Keeps z s) : Keeps z (s.readRows d n a st r) := by
  induction r generalizing s a with
  | zero => exact h
  | succ r ih => exact ih (keeps_readHbm h)

theorem keeps_tagRows {d n b dt r : Nat} (h : Keeps z s) : Keeps z (s.tagRows d n b dt r) := by
  induction r generalizing s b with
  | zero => exact h
  | succ r ih => exact ih (keeps_tagHbm h)

theorem keeps_countDma {t : Nat} {x : Dma} {a b : Nat} (h : Keeps z s) : Keeps z (s.countDma t x a b) :=
  keeps_count _ _ _ (keeps_tagRows (keeps_readRows h))

theorem answers_copyDma {t : Fin 384} {i : Fin 64} (h : Keeps z s) : Answers z (s.copyDma t i) := by
  unfold State.copyDma
  split
  · exact answers_next h
  · refine answers_ite (answers_next h) ?_
    split
    · exact answers_next (keeps_opFault h)
    · refine answers_ite (answers_next (keeps_actedWith (keeps_rowsFault (keeps_rowsFault h)))) ?_
      split
      · exact answers_next (keeps_actedWith (keeps_consumesPoison (keeps_openRows h)))
      · exact answers_next (keeps_actedWith (keeps_countDma (keeps_copyRows h)))

theorem answers_execDmaCopy {t : Fin 384} {i : Fin 64} {found : List Found} (h : Keeps z s) : Answers z (execDmaCopy t i found s) :=
  answers_copyDma (keeps_findErrors h)

theorem keeps_putFlow {t : Nat} {k : Option Nat} {f : Machine.Flow} (h : Keeps z s) : Keeps z (s.putFlow t k f) :=
  keeps_setTile _ _ h

theorem keeps_undeliverable {t i : Nat} (h : Keeps z s) : Keeps z (s.undeliverable t i) :=
  keeps_actedWith (keeps_addFld _ _ h)

theorem keeps_sendLocal {t i d l c : Nat} {o : Op} (h : Keeps z s) : Keeps z (s.sendLocal t i d l c o) :=
  keeps_ite h (keeps_with (keeps_setOp (keeps_putFlow h)))

theorem keeps_dropFlit {k : Nat} (h : Keeps z s) : Keeps z (s.dropFlit k) :=
  keeps_with h

theorem keeps_answerFlit {f : Flit} {kind : FlitKind} (h : Keeps z s) : Keeps z (s.answerFlit f kind) :=
  keeps_with h

theorem answers_execMessageFlitArrival {k : Nat} (h : Keeps z s) : Answers z (execMessageFlitArrival k s) := by
  unfold execMessageFlitArrival
  split
  · exact answers_next h
  · dsimp only
    split
    · exact answers_next (keeps_answerFlit (keeps_dropFlit h))
    · exact answers_ite (answers_next (keeps_addFld _ _ (keeps_dropFlit h)))
        (answers_ite (answers_next (keeps_answerFlit (keeps_dropFlit h)))
          (answers_ite (answers_next (keeps_answerFlit (keeps_setChan (keeps_setTile _ _ (keeps_dropFlit h)))))
            (answers_next (keeps_answerFlit (keeps_addFld _ _ (keeps_dropFlit h))))))

theorem answers_execMessageAck {k : Nat} (h : Keeps z s) : Answers z (execMessageAck k s) := by
  unfold execMessageAck
  split
  · exact answers_next h
  · refine answers_ite (answers_next h) ?_
    split
    · exact answers_next (keeps_dropFlit h)
    · exact answers_ite (answers_next (keeps_actedWith (keeps_count _ _ _ (keeps_dropFlit (keeps_putFlow h)))))
        (answers_next (keeps_undeliverable (keeps_dropFlit (keeps_putFlow h))))

theorem answers_execMessageRefusal {k : Nat} (h : Keeps z s) : Answers z (execMessageRefusal k s) := by
  unfold execMessageRefusal
  split
  · exact answers_next h
  · refine answers_ite (answers_next h) ?_
    split
    · exact answers_ite (answers_next (keeps_dropFlit h)) (answers_next (keeps_dropFlit (keeps_putFlow h)))
    · exact answers_next (keeps_dropFlit h)

theorem keeps_sendRemote {t d rank c : Nat} {m : Bytes} (h : Keeps z s) : Keeps z (s.sendRemote t d rank c m) :=
  keeps_sendFrame h

theorem answers_execMessageResendTimer {t : Fin 384} {flow : Nat} (h : Keeps z s) : Answers z (execMessageResendTimer t flow s) := by
  unfold execMessageResendTimer
  split
  · exact answers_next h
  · refine answers_ite (answers_next h) ?_
    split
    · exact answers_next h
    · exact answers_ite (answers_next (keeps_with (keeps_addFld _ _ (keeps_putFlow h))))
        (answers_next (keeps_foldl _ _ _ (keeps_addFld _ _ (keeps_putFlow h)) (fun _ _ k => keeps_sendRemote k)))

theorem keeps_setBarrier {d b : Nat} {x : Barrier} (h : Keeps z s) : Keeps z (s.setBarrier d b x) :=
  keeps_setDom _ _ h

theorem offers_arrive {d b l : Nat} (h : Keeps z s) : Offers z (s.arrive d b l) :=
  offers_ite offers_none (offers_ite (offers_some (keeps_setBarrier h)) (offers_some (keeps_setBarrier h)))

theorem answers_execBarrierRelease {d : Fin 64} {b : Fin 8} (h : Keeps z s) : Answers z (execBarrierRelease d b s) :=
  answers_ite (answers_next (keeps_setBarrier h)) (answers_next h)

theorem answers_execBarrierGroupRelease {d : Fin 64} {b g : Fin 8} (h : Keeps z s) : Answers z (execBarrierGroupRelease d b g s) :=
  answers_ite (answers_next h) (answers_ite (answers_next (keeps_setBarrier h)) (answers_next (keeps_setBarrier h)))

/-! ### The operations of Machine/Taps -/

theorem keeps_padPut {t off : Nat} {bs : Bytes} (h : Keeps z s) : Keeps z (s.padPut t off bs) :=
  keeps_breakReserve ⟨h.pending, h.part, h.fresh, fun k => memWf_memWrite _ _ _ (h.mem k), h.regs⟩

theorem keeps_tap {t layer comp v : Nat} {nf : Bool} (h : Keeps z s) : Keeps z (s.tap t layer comp v nf) := by
  unfold State.tap
  dsimp only
  split
  · exact keeps_setFld _ _ (keeps_setTile _ _ h)
  · exact keeps_ite (keeps_addFld _ _ (keeps_setTile _ _ h)) (keeps_event _ _ _ _ (keeps_addFld _ _ (keeps_setTile _ _ h)))

theorem keeps_mergeTaps {d : Nat} (h : Keeps z s) : Keeps z (s.mergeTaps d) :=
  keeps_ite (keeps_setFld _ _ (keeps_setDom _ _ h)) (keeps_setDom _ _ h)

theorem keeps_detect {d : Nat} (h : Keeps z s) : Keeps z (s.detect d) :=
  keeps_ite h (keeps_ite (keeps_event _ _ _ _ h)
    (keeps_ite (keeps_ite (keeps_event _ _ _ _ (keeps_setFld _ _ (keeps_setFld _ _ (keeps_setReg _ _ (keeps_setReg _ _ (keeps_addRisk
          (keeps_event _ _ _ _ (keeps_addFld _ _ h))))))))
        (keeps_setFld _ _ (keeps_addRisk (keeps_event _ _ _ _ (keeps_addFld _ _ h)))))
      (keeps_addFld _ _ (keeps_ite (keeps_setReg _ _ (keeps_setReg _ _ (keeps_setFld _ _ h)))
        (keeps_setReg _ _ (keeps_setReg _ _ (keeps_setFld _ _ h)))))))

theorem keeps_rollBanks {d : Nat} (h : Keeps z s) : Keeps z (s.rollBanks d) :=
  keeps_detect (keeps_ite (keeps_addRisk (keeps_event _ _ _ _ (keeps_addFld _ _ (keeps_setFld _ _ (keeps_setFld _ _ (keeps_setDom _ _
      h))))))
    (keeps_setFld _ _ (keeps_setFld _ _ (keeps_setDom _ _ h))))

/-! ### The operations of Machine/Intake -/

theorem keeps_setSample {i : Nat} {x : Sample} (h : Keeps z s) : Keeps z (s.setSample i x) :=
  keeps_with h

theorem keeps_setEngine {e : Nat} {is : List Nat} (h : Keeps z s) : Keeps z (s.setEngine e is) :=
  keeps_setFld _ _ (keeps_setFld _ _ (keeps_with h))

theorem answers_execIntakeEnable {workers : Bool} (h : Keeps z s) : Answers z (execIntakeEnable workers s) :=
  answers_ite (answers_next h)
    (answers_ite (answers_next (keeps_setFld _ _ (keeps_setFld _ _ (keeps_setFld _ _ h))))
      (answers_next (keeps_setFld _ _ (keeps_ite h (keeps_setFld _ _ h)))))

theorem answers_execIntakeDisable {workers : Bool} (h : Keeps z s) : Answers z (execIntakeDisable workers s) :=
  answers_ite (answers_next h) (answers_next (keeps_setFld _ _ (keeps_intakeOff h)))

theorem answers_execIntakeRingTailWrite {value : Word} (h : Keeps z s) : Answers z (execIntakeRingTailWrite value s) :=
  answers_ite (answers_next h) (answers_next (keeps_setFld _ _ h))

theorem keeps_batchEvent {code dom step pos entry : Nat} (h : Keeps z s) : Keeps z (s.batchEvent code dom step pos entry) :=
  keeps_event _ _ _ _ h

theorem keeps_takeSamples {b : Batch} {list k n : Nat} (h : Keeps z s) : Keeps z (s.takeSamples b list k n) := by
  induction n generalizing s k with
  | zero => exact h
  | succ n ih => exact ih (keeps_with (keeps_setSample h))

theorem answers_execBatchRecordFetch (h : Keeps z s) : Answers z (execBatchRecordFetch s) :=
  answers_ite (answers_next h)
    (answers_ite (answers_next (keeps_batchEvent (keeps_setFld _ _ h)))
      (answers_ite (answers_next (keeps_batchEvent (keeps_setFld _ _ h)))
        (answers_ite (answers_next (keeps_batchEvent (keeps_setFld _ _ h)))
          (answers_next (keeps_setFld _ _ (keeps_takeSamples (keeps_with (keeps_setFld _ _ h))))))))

theorem keeps_toWorker {i : Nat} {x : Sample} {slot : Nat} (h : Keeps z s) : Keeps z (s.toWorker i x slot) :=
  keeps_setSample (keeps_with (keeps_setFld _ _ (keeps_store _ _ h)))

theorem answers_execSampleDispatch (h : Keeps z s) : Answers z (execSampleDispatch s) := by
  unfold execSampleDispatch
  refine answers_ite (answers_next h) ?_
  generalize firstSample _ = o
  cases o with
  | none => exact answers_next h
  | some p =>
    obtain ⟨i, x⟩ := p
    generalize s.freePool = free
    cases free with
    | nil => exact answers_next h
    | cons a as =>
      exact answers_ite (answers_ite (answers_next (keeps_toWorker (keeps_used h))) (answers_next h))
        (answers_next (keeps_setEngine (keeps_setSample (keeps_used h))))

theorem keeps_dropSample {i unit reason worker : Nat} (h : Keeps z s) : Keeps z (s.dropSample i unit reason worker) :=
  keeps_report _ _ _ (keeps_event _ _ _ _ (keeps_setSample h))

theorem keeps_augmentSample {i unit worker : Nat} {sh : Shape} {elems : List Nat} (h : Keeps z s) :
    Keeps z (s.augmentSample i unit worker sh elems) := by
  unfold State.augmentSample
  refine keeps_ite (keeps_dropSample h) ?_
  split
  · exact keeps_dropSample h
  · exact keeps_setSample (keeps_used (keeps_devWrite _ _ h))

theorem answers_execSampleDecodeEnd {e : Fin 16} (h : Keeps z s) : Answers z (execSampleDecodeEnd e s) := by
  unfold execSampleDecodeEnd
  split
  · exact answers_next h
  · refine answers_ite (answers_next (keeps_dropSample (keeps_setEngine h))) ?_
    split
    · exact answers_next (keeps_dropSample (keeps_setEngine h))
    · exact answers_next (keeps_augmentSample (keeps_addFld _ _ (keeps_setEngine h)))

theorem answers_execWorkerDone {value : Word} (h : Keeps z s) : Answers z (execWorkerDone value s) := by
  unfold execWorkerDone
  refine answers_ite (answers_next h) ?_
  split
  · exact answers_next (keeps_addFld _ _ h)
  · refine answers_ite (answers_next (keeps_with h)) (answers_ite (answers_next (keeps_dropSample h)) ?_)
    split
    · exact answers_next (keeps_dropSample h)
    · exact answers_next (keeps_augmentSample h)

theorem keeps_sealPosition {d step n p : Nat} {notes : List Nat} (h : Keeps z s) : Keeps z (s.sealPosition d step n p notes).1 := by
  unfold State.sealPosition
  split
  · exact h
  · refine keeps_ite_fst (keeps_setSample h)
      (keeps_ite_fst ?_ (keeps_addFld _ _ (keeps_ite (keeps_addFld _ _ h) (keeps_addFld _ _ (keeps_setSample h)))))
    split
    · exact keeps_addFld _ _ (keeps_setSample (keeps_ite (keeps_addFld _ _ h) (keeps_addFld _ _ (keeps_setSample h))))
    · exact keeps_addFld _ _ (keeps_batchEvent (keeps_ite (keeps_addFld _ _ h) (keeps_addFld _ _ (keeps_setSample h))))

theorem keeps_writeTable {d step flags : Nat} {xs : List (Nat × Sample)} (h : Keeps z s) : Keeps z (s.writeTable d step flags xs) :=
  keeps_devWrite _ _ h

theorem keeps_spoolSeal {d step flags b : Nat} {indices notes : List Nat} (h : Keeps z s) :
    Keeps z (s.spoolSeal d step flags b indices notes) :=
  keeps_ite (keeps_spoolFor h) (keeps_spoolFor (keeps_spoolFor h))

theorem keeps_endSeal {d step : Nat} (h : Keeps z s) : Keeps z (s.endSeal d step) :=
  keeps_setFld _ _ (keeps_with (keeps_setDom _ _ h))

theorem keeps_seal {d step n : Nat} (h : Keeps z s) : Keeps z (s.seal d step n) := by
  unfold State.seal
  split
  · exact keeps_endSeal (keeps_spoolSeal (keeps_batchEvent (keeps_writeTable h)))
  next b _ =>
    have hp := keeps_foldl_fst (f := fun (q : State × List Nat) p => q.1.sealPosition d step n p q.2) (p := (s, []))
      (List.range b.count) h fun _ _ k => keeps_sealPosition k
    exact keeps_endSeal (keeps_spoolSeal (keeps_writeTable hp))

theorem keeps_freeListed {d : Nat} (h : Keeps z s) : Keeps z (s.freeListed d) :=
  keeps_with h

/-! ### The operations of Machine/Arrays -/

theorem keeps_putRow {t : Nat} {o : Op} {out : FloatFmt} {argmax nbase m : Nat} {row : List (Nat × Nat)} (h : Keeps z s) :
    Keeps z (s.putRow t o out argmax nbase m row) :=
  keeps_ite (keeps_addFld _ _ (keeps_addFld _ _ (keeps_addFld _ _ (keeps_padPut h))))
    (keeps_padPut (keeps_addFld _ _ (keeps_addFld _ _ (keeps_addFld _ _ (keeps_padPut h)))))

theorem keeps_setFoot {t a : Nat} {held : Bool} {sums : List (Nat × Nat)} (h : Keeps z s) : Keeps z (s.setFoot t a held sums) :=
  keeps_used (keeps_setTile _ _ h)

theorem keeps_runArray {t i : Nat} {o : Op} {fm fs : Format} (h : Keeps z s) : Keeps z (s.runArray t i o fm fs) :=
  keeps_via (fun k1 => keeps_via (fun k2 => keeps_actedWith (keeps_ite (keeps_tap (keeps_count _ _ _ (keeps_addFld _ _ k2)))
        (keeps_count _ _ _ (keeps_addFld _ _ k2))))
      (keeps_ite (keeps_addFld _ _ (keeps_count _ _ _ (keeps_addFld _ _ (keeps_ite k1 (keeps_setTile _ _ k1)))))
        (keeps_count _ _ _ (keeps_addFld _ _ (keeps_count _ _ _ (keeps_addFld _ _ (keeps_ite k1 (keeps_setTile _ _ k1))))))))
    (keeps_foldl _ _ _ (keeps_setFoot h) (fun _ _ k3 => keeps_putRow k3))

theorem keeps_arrayOp {t i op : Nat} (h : Keeps z s) : Keeps z (s.arrayOp t i op) := by
  unfold State.arrayOp
  split
  · exact h
  · split
    · exact keeps_opFault h
    · refine keeps_ite (keeps_actedWith h) (keeps_ite h ?_)
      split
      · exact keeps_runArray h
      · exact h

theorem answers_execMmaS {t : Fin 384} {i : Fin 64} (h : Keeps z s) : Answers z (execMmaS t i s) :=
  answers_next (keeps_arrayOp h)

theorem answers_execMmaT {t : Fin 384} {i : Fin 64} (h : Keeps z s) : Answers z (execMmaT t i s) :=
  answers_next (keeps_arrayOp h)

theorem answers_execMmaW {t : Fin 384} {i : Fin 64} (h : Keeps z s) : Answers z (execMmaW t i s) :=
  answers_next (keeps_arrayOp h)

theorem answers_execMmaD {t : Fin 384} {i : Fin 64} (h : Keeps z s) : Answers z (execMmaD t i s) :=
  answers_next (keeps_arrayOp h)

theorem answers_execTurn {t : Fin 384} {i : Fin 64} (h : Keeps z s) : Answers z (execTurn t i s) := by
  unfold execTurn
  split
  · exact answers_next h
  · split
    · exact answers_next (keeps_opFault h)
    · exact answers_next (keeps_actedWith (keeps_foldl _ _ _ h (fun _ _ k => keeps_padPut k)))

/-! ### The operations of Machine/Vector -/

theorem keeps_vecCount {t : Nat} {o : Op} {cs : List Nat} (h : Keeps z s) : Keeps z (s.vecCount t o cs) :=
  keeps_addFld _ _ (keeps_addFld _ _ (keeps_addFld _ _ h))

theorem keeps_vecBeats {t : Nat} {o : Op} {passes : Nat} {eff : Option Nat} (h : Keeps z s) : Keeps z (s.vecBeats t o passes eff) := by
  unfold State.vecBeats
  split
  · exact keeps_addFld _ _ (keeps_count _ _ _ (keeps_addFld _ _ h))
  · exact keeps_count _ _ _ (keeps_addFld _ _ h)

theorem keeps_vecReduce {t : Nat} {o : Op} {rows : List (List Cell)} (h : Keeps z s) : Keeps z (s.vecReduce t o rows) := by
  unfold State.vecReduce
  refine keeps_ite (keeps_addFld _ _ h)
    (keeps_ite (keeps_foldl _ _ _ (keeps_addFld _ _ h) (fun _ _ k => keeps_vecCount (keeps_padPut k))) ?_)
  dsimp only
  split
  · exact keeps_setReg _ _ (keeps_addFld _ _ h)
  · exact keeps_tap (keeps_setReg _ _ (keeps_addFld _ _ h))
  · exact keeps_ite (keeps_tap (keeps_setReg _ _ (keeps_addFld _ _ h))) (keeps_tap (keeps_setReg _ _ (keeps_addFld _ _ h)))
  · exact keeps_setReg _ _ (keeps_addFld _ _ h)

theorem keeps_vecWrite {t : Nat} {o : Op} {rows : List (List Cell)} (h : Keeps z s) : Keeps z (s.vecWrite t o rows) :=
  keeps_vecReduce (keeps_ite h (keeps_foldl _ _ _ h (fun _ _ k => keeps_vecCount (keeps_padPut k))))

theorem keeps_vecOp {t i op : Nat} {run : Op → Except Nat State} (hr : ∀ o, Passes z (run o)) (h : Keeps z s) :
    Keeps z (s.vecOp t i op run) := by
  unfold State.vecOp
  split
  · exact h
  · split
    · exact keeps_opFault h
    · refine keeps_ite h ?_
      split
      · exact keeps_opFault h
      next e => exact keeps_actedWith (passed (hr _) e)

theorem keeps_vecPlain {t i op : Nat} (h : Keeps z s) : Keeps z (s.vecPlain t i op) :=
  keeps_vecOp (fun _ => passes_ok (keeps_vecBeats (keeps_vecWrite h))) h

theorem keeps_recWrite {t : Nat} {o : Op} {rec : Nat → Nat → Nat} (h : Keeps z s) : Keeps z (s.recWrite t o rec) := by
  unfold State.recWrite
  exact keeps_vecBeats (keeps_ite h (keeps_foldl _ _ _ h (fun _ _ k => keeps_vecCount (keeps_padPut k))))

theorem answers_execVecCopy {t : Fin 384} {i : Fin 64} (h : Keeps z s) : Answers z (execVecCopy t i s) :=
  answers_next (keeps_vecOp (fun _ => passes_ite (passes_ok (keeps_recWrite h)) (passes_ok (keeps_vecBeats (keeps_vecWrite h)))) h)

theorem answers_execVecAdd {t : Fin 384} {i : Fin 64} (h : Keeps z s) : Answers z (execVecAdd t i s) :=
  answers_next (keeps_vecPlain h)

theorem answers_execVecSub {t : Fin 384} {i : Fin 64} (h : Keeps z s) : Answers z (execVecSub t i s) :=
  answers_next (keeps_vecPlain h)

theorem answers_execVecMul {t : Fin 384} {i : Fin 64} (h : Keeps z s) : Answers z (execVecMul t i s) :=
  answers_next (keeps_vecPlain h)

theorem answers_execVecFma {t : Fin 384} {i : Fin 64} (h : Keeps z s) : Answers z (execVecFma t i s) :=
  answers_next (keeps_vecPlain h)

theorem answers_execVecMul3 {t : Fin 384} {i : Fin 64} (h : Keeps z s) : Answers z (execVecMul3 t i s) :=
  answers_next (keeps_vecPlain h)

theorem answers_execVecDiv {t : Fin 384} {i : Fin 64} (h : Keeps z s) : Answers z (execVecDiv t i s) :=
  answers_next (keeps_vecPlain h)

theorem answers_execVecMax {t : Fin 384} {i : Fin 64} (h : Keeps z s) : Answers z (execVecMax t i s) :=
  answers_next (keeps_vecPlain h)

theorem answers_execVecMin {t : Fin 384} {i : Fin 64} (h : Keeps z s) : Answers z (execVecMin t i s) :=
  answers_next (keeps_vecPlain h)

theorem answers_execVecAbs {t : Fin 384} {i : Fin 64} (h : Keeps z s) : Answers z (execVecAbs t i s) :=
  answers_next (keeps_vecPlain h)

theorem answers_execVecCmp {t : Fin 384} {i : Fin 64} (h : Keeps z s) : Answers z (execVecCmp t i s) :=
  answers_next (keeps_vecPlain h)

theorem answers_execVecSelect {t : Fin 384} {i : Fin 64} (h : Keeps z s) : Answers z (execVecSelect t i s) :=
  answers_next (keeps_vecPlain h)

theorem answers_execVecSqrt {t : Fin 384} {i : Fin 64} (h : Keeps z s) : Answers z (execVecSqrt t i s) :=
  answers_next (keeps_vecPlain h)

theorem answers_execVecRsqrt {t : Fin 384} {i : Fin 64} (h : Keeps z s) : Answers z (execVecRsqrt t i s) :=
  answers_next (keeps_vecPlain h)

theorem answers_execVecRecip {t : Fin 384} {i : Fin 64} (h : Keeps z s) : Answers z (execVecRecip t i s) :=
  answers_next (keeps_vecPlain h)

theorem answers_execVecExp {t : Fin 384} {i : Fin 64} (h : Keeps z s) : Answers z (execVecExp t i s) :=
  answers_next (keeps_vecPlain h)

theorem answers_execVecLog {t : Fin 384} {i : Fin 64} (h : Keeps z s) : Answers z (execVecLog t i s) :=
  answers_next (keeps_vecPlain h)

theorem answers_execVecTanh {t : Fin 384} {i : Fin 64} (h : Keeps z s) : Answers z (execVecTanh t i s) :=
  answers_next (keeps_vecPlain h)

theorem answers_execVecSigmoid {t : Fin 384} {i : Fin 64} (h : Keeps z s) : Answers z (execVecSigmoid t i s) :=
  answers_next (keeps_vecPlain h)

theorem answers_execVecSilu {t : Fin 384} {i : Fin 64} (h : Keeps z s) : Answers z (execVecSilu t i s) :=
  answers_next (keeps_vecPlain h)

theorem answers_execVecGelu {t : Fin 384} {i : Fin 64} (h : Keeps z s) : Answers z (execVecGelu t i s) :=
  answers_next (keeps_vecPlain h)

theorem answers_execVecSin {t : Fin 384} {i : Fin 64} (h : Keeps z s) : Answers z (execVecSin t i s) :=
  answers_next (keeps_vecPlain h)

theorem answers_execVecCos {t : Fin 384} {i : Fin 64} (h : Keeps z s) : Answers z (execVecCos t i s) :=
  answers_next (keeps_vecPlain h)

theorem answers_execAmaxMerge {t : Fin 384} {i : Fin 64} (h : Keeps z s) : Answers z (execAmaxMerge t i s) :=
  answers_next (keeps_vecOp (fun _ => passes_ok (keeps_recWrite h)) h)

/-! ### The operations of Machine/Quant -/

theorem keeps_putEscapes {t base e : Nat} {q : QUnit} (h : Keeps z s) : Keeps z (s.putEscapes t base e q) :=
  keeps_foldl _ _ _ h (fun _ _ k => keeps_padPut k)

theorem keeps_countUnit {t c : Nat} {q : QUnit} (h : Keeps z s) : Keeps z (s.countUnit t c q) :=
  keeps_addFld _ _ (keeps_addFld _ _ (keeps_addFld _ _ (keeps_addFld _ _ (keeps_addFld _ _ h))))

theorem keeps_runQuant {t : Nat} {o : Op} {f : Format} (h : Keeps z s) : Keeps z (s.runQuant t o f) :=
  keeps_via (fun k1 => keeps_vecBeats (keeps_foldl _ _ _ (keeps_ite (keeps_ite k1 (keeps_padPut k1))
        (keeps_foldl _ _ _ (keeps_ite k1 (keeps_padPut k1)) (fun _ _ k2 => keeps_putEscapes k2)))
      (fun _ _ k3 => keeps_countUnit k3)))
    (keeps_ite h (keeps_foldl _ _ _ h (fun _ _ k4 => keeps_padPut k4)))

theorem keeps_blkOp {t i op : Nat} {run : Op → Format → State} (hr : ∀ o f, Keeps z (run o f)) (h : Keeps z s) :
    Keeps z (s.blkOp t i op run) := by
  refine keeps_vecOp (fun o => ?_) h
  dsimp only
  split
  · exact passes_error
  · split
    · exact passes_error
    · exact passes_ok (hr _ _)

theorem answers_execQuant {t : Fin 384} {i : Fin 64} (h : Keeps z s) : Answers z (execQuant t i s) :=
  answers_next (keeps_blkOp (fun _ _ => keeps_runQuant h) h)

theorem answers_execPrepass {t : Fin 384} {i : Fin 64} (h : Keeps z s) : Answers z (execPrepass t i s) :=
  answers_next (keeps_blkOp (fun _ _ => keeps_vecBeats (keeps_padPut h)) h)

theorem answers_execDequant {t : Fin 384} {i : Fin 64} (h : Keeps z s) : Answers z (execDequant t i s) :=
  answers_next (keeps_blkOp (fun _ _ => keeps_vecBeats (keeps_ite h (keeps_foldl _ _ _ h (fun _ _ k => keeps_vecCount
      (keeps_padPut k)))))
    h)

theorem answers_execMask {t : Fin 384} {i : Fin 64} (h : Keeps z s) : Answers z (execMask t i s) :=
  answers_next (keeps_blkOp (fun _ _ => keeps_vecBeats (keeps_vecWrite h)) h)

/-! ### The operations of Machine/Pages -/

theorem keeps_putPte {v : Nat} {e : Pte} (h : Keeps z s) : Keeps z (s.putPte v e) :=
  keeps_devWrite _ _ h

theorem keeps_dropLine {v : Nat} (h : Keeps z s) : Keeps z (s.dropLine v) :=
  keeps_with h

theorem keeps_changePte {v : Nat} {e : Pte} (h : Keeps z s) : Keeps z (s.changePte v e) :=
  keeps_dropLine (keeps_putPte h)

theorem keeps_putSeq {i : Nat} {q : Machine.Seq} (h : Keeps z s) : Keeps z (s.putSeq i q) :=
  keeps_devWrite _ _ h

theorem keeps_putBlock {f : Nat} {b : Block} (h : Keeps z s) : Keeps z (s.putBlock f b) :=
  keeps_with h

theorem keeps_takeSlot {p f j : Nat} (h : Keeps z s) : Keeps z (s.takeSlot p f j) :=
  keeps_putBlock h

theorem keeps_unreserve {f : Nat} (h : Keeps z s) : Keeps z (s.unreserve f) := by
  unfold State.unreserve
  dsimp only
  split
  · exact h
  · exact keeps_putBlock (keeps_changePte h)

theorem gives_allocate {p v : Nat} (h : Keeps z s) : Gives z (s.allocate p v) := by
  unfold State.allocate
  extract_lets j u loose steal rest
  have hl (t : State) (k : Keeps z t) : Gives z (loose t) := by
    unfold loose
    split
    · exact gives_some (keeps_takeSlot (keeps_used k))
    · exact gives_none
  have hs : Gives z steal := by
    unfold steal
    split
    · exact hl _ (keeps_addFld _ _ (keeps_unreserve h))
    · exact gives_none
  have hr : Gives z rest := by
    unfold rest
    split
    next e => exact fun f t e' => hl s h f t (e.trans e')
    · split
      · exact gives_some (keeps_takeSlot (keeps_used h))
      · exact hs
  split
  · exact gives_ite hr (gives_some (keeps_takeSlot h))
  · refine gives_ite hr ?_
    split
    · exact hr
    · exact gives_some (keeps_putBlock (keeps_with (keeps_changePte (keeps_used h))))

theorem keeps_allocate {p v f : Nat} {t : State} (h : Keeps z s) (e : s.allocate p v = some (f, t)) : Keeps z t :=
  given (gives_allocate h) e

theorem keeps_freeFrame {f : Nat} (h : Keeps z s) : Keeps z (s.freeFrame f) :=
  keeps_with h

theorem keeps_freeHost {tier f : Nat} (h : Keeps z s) : Keeps z (s.freeHost tier f) :=
  keeps_ite (keeps_with h) (keeps_with h)

theorem keeps_freePage {tier f : Nat} (h : Keeps z s) : Keeps z (s.freePage tier f) :=
  keeps_ite (keeps_freeFrame h) (keeps_freeHost h)

theorem keeps_returnFrames {n : Nat} (h : Keeps z s) : Keeps z (s.returnFrames n) := by
  unfold State.returnFrames
  refine keeps_foldl _ _ _ (keeps_with h) (fun _ _ k => ?_)
  split
  · exact keeps_putBlock k
  · exact k

theorem keeps_unheld {v : Nat} (h : Keeps z s) : Keeps z (s.unheld v) := by
  unfold State.unheld
  split
  · exact h
  · extract_lets q u
    have hu : Keeps z u := keeps_putSeq h
    exact keeps_ite (keeps_subFld _ _ hu) hu

theorem keeps_lowerRefs {v : Nat} (h : Keeps z s) : Keeps z (s.lowerRefs v) :=
  keeps_ite (keeps_unheld (keeps_freePage (keeps_changePte h))) (keeps_changePte h)

theorem keeps_mapNew {v f : Nat} (h : Keeps z s) : Keeps z (s.mapNew v f) :=
  keeps_changePte h

theorem keeps_copyPage {p src dst : Nat} (h : Keeps z s) : Keeps z (s.copyPage p src dst) :=
  keeps_devWrite _ _ (keeps_countHbm _ _ h)

theorem keeps_touch {v : Nat} (h : Keeps z s) : Keeps z (s.touch v) :=
  keeps_ite (keeps_changePte h) h

theorem keeps_lookup {t v : Nat} (h : Keeps z s) : Keeps z (s.lookup t v) :=
  keeps_ite (keeps_addFld _ _ (keeps_with h)) (keeps_addFld _ _ (keeps_with h))

theorem gives_returnFrames' {p n : Nat} {intact : Bool} (h : Keeps z s) : Gives z (s.returnFrames' p intact n) := by
  unfold State.returnFrames'
  refine gives_ite ?_ (gives_foldl _ (gives_some h) fun r _ hr => ?_)
  · split
    · exact gives_some (keeps_putBlock (keeps_used h))
    · exact gives_none
  · split
    · exact gives_none
    next fs t =>
      have k : Keeps z t := given hr rfl
      split
      · exact gives_some (keeps_takeSlot (keeps_used k))
      · exact gives_none

theorem keeps_returnFrames' {p n : Nat} {intact : Bool} {fs : List Nat} {t : State} (h : Keeps z s)
    (e : s.returnFrames' p intact n = some (fs, t)) : Keeps z t :=
  given (gives_returnFrames' h) e

theorem keeps_startReturn {p g : Nat} (h : Keeps z s) : Keeps z (s.startReturn p g) := by
  unfold State.startReturn
  refine keeps_ite h ?_
  split
  · exact h
  next fs s e =>
    exact keeps_with (keeps_foldl _ _ _ (keeps_returnFrames' h e) (fun _ _ k => keeps_changePte k))

theorem gives_hostSpace {tier u n : Nat} (h : Keeps z s) : Gives z (s.hostSpace tier u n) := by
  induction n generalizing s with
  | zero => exact gives_some h
  | succ n ih =>
    unfold State.hostSpace
    split
    extract_lets
    split
    · exact gives_none
    · extract_lets v
      have hv : Keeps z v := keeps_with h
      split
      next e => exact gives_some (given (ih hv) e)
      · exact gives_none

theorem keeps_hostSpace {tier u n : Nat} {as : List Nat} {t : State} (h : Keeps z s) (e : s.hostSpace tier u n = some (as, t)) :
    Keeps z t :=
  given (gives_hostSpace h) e

theorem offers_startSpill {p g : Nat} (h : Keeps z s) : Offers z (s.startSpill p g) := by
  unfold State.startSpill
  dsimp only
  split
  next s e1 =>
    refine offers_some (offered ?_ e1)
    split
    · exact offers_none
    next as s e2 =>
      exact offers_some (keeps_with (keeps_foldl _ _ _ (keeps_hostSpace h e2) (fun _ _ k1 => keeps_changePte k1)))
  · split
    · exact offers_none
    next as s e3 =>
      exact offers_some (keeps_with (keeps_foldl _ _ _ (keeps_hostSpace h e3) (fun _ _ k2 => keeps_changePte k2)))

theorem keeps_sweepStep {p left : Nat} (h : Keeps z s) : Keeps z (s.sweepStep p left).1 := by
  refine keeps_fst_of_unfold (f := State.sweepStep) (by delta State.sweepStep; rfl) fun r e => ?_
  extract_lets +onlyGivenNames g hand at e
  generalize eu : ({ s with kvp := { s.kvp with hands := smapIns s.kvp.hands p hand } } : State) = u at e
  have hu : Keeps z u := eu ▸ keeps_with h
  extract_lets +onlyGivenNames _ w at e
  have hw : Keeps z w := by
    refine keeps_foldl _ _ _ hu fun _ _ k => ?_
    exact keeps_ite (keeps_changePte k) k
  have ho : Offers z (w.startSpill p g) := offers_startSpill hw
  clear_value w
  generalize w.startSpill p g = o at e ho
  generalize eq : (if w.spillable p g && decide (w.fld (KVP_POOL_STATE_AGE_CUT p) ≤ w.groupAge p g) then _ else (w, left) :
    State × Nat) = q at e
  have hq : Keeps z q.1 := by
    split at eq
    · cases o with
      | some t =>
        subst eq
        exact keeps_with (offered ho rfl)
      | none =>
        dsimp only at eq
        split at eq <;> subst eq
        · exact hw
        · exact keeps_event _ _ _ _ (keeps_with hw)
    · subst eq
      exact hw
  obtain ⟨t, left⟩ := q
  subst e
  exact keeps_ite_fst hq (keeps_with (keeps_ite hq (keeps_setFld _ _ hq)))

theorem keeps_sweep {p n left : Nat} (h : Keeps z s) : Keeps z (s.sweep p n left) := by
  induction n generalizing s left with
  | zero =>
    unfold State.sweep
    exact h
  | succ n ih =>
    cases left with
    | zero =>
      unfold State.sweep
      exact h
    | succ left =>
      unfold State.sweep
      exact ih (keeps_sweepStep h)

theorem keeps_reclaimPool {p : Nat} (h : Keeps z s) : Keeps z (s.reclaimPool p) :=
  keeps_via (fun k => keeps_ite k (keeps_ite (keeps_setFld _ _ (keeps_setFld _ _ (keeps_sweep k))) (keeps_sweep k)))
    (keeps_ite (keeps_event _ _ _ _ (keeps_setFld _ _ (keeps_with h))) h)

theorem keeps_reclaim {n : Nat} (h : Keeps z s) : Keeps z (s.reclaim n) :=
  keeps_ite h (keeps_ite (keeps_foldl _ _ _ (keeps_returnFrames h) (fun _ _ k => keeps_reclaimPool k)) (keeps_returnFrames h))

theorem keeps_endPage {m : PageMove} {x : Nat × Nat × Nat × Nat × Nat} (h : Keeps z s) : Keeps z (s.endPage m x) :=
  keeps_freePage (keeps_changePte (keeps_copyPage h))

theorem keeps_endMove {id : Nat} {spill : Bool} (h : Keeps z s) : Keeps z (s.endMove id spill) := by
  unfold State.endMove
  split
  · exact h
  next m _ =>
    extract_lets _ u v _ unmarked f marked _ aged
    have hu : Keeps z u := keeps_with h
    have hv : Keeps z v := keeps_foldl _ _ _ hu fun _ _ k => keeps_endPage k
    have hn : Keeps z unmarked := by
      unfold unmarked
      split
      · exact keeps_unreserve hv
      · exact keeps_changePte hv
    exact keeps_ite h (keeps_ite (keeps_addFld _ _ hn)
      (keeps_addFld _ _ (keeps_ite (keeps_putBlock (keeps_with (keeps_changePte hv))) hv)))

theorem answers_execSpillMoveEnd {id : Nat} {found : List Found} (h : Keeps z s) : Answers z (execSpillMoveEnd id found s) :=
  answers_next (keeps_endMove (keeps_findErrors h))

theorem answers_execReturnMoveEnd {id : Nat} {found : List Found} (h : Keeps z s) : Answers z (execReturnMoveEnd id found s) :=
  answers_next (keeps_endMove (keeps_findErrors h))

theorem keeps_adoptEntry {v : Nat} (h : Keeps z s) : Keeps z (s.adoptEntry v) := by
  unfold State.adoptEntry
  extract_lets e k u
  have hu : Keeps z u := by
    refine keeps_ite ?_ h
    split
    · exact keeps_takeSlot h
    · exact keeps_with h
    · exact keeps_with h
    · exact h
  refine keeps_ite ?_ hu
  split
  · exact keeps_putBlock (keeps_with hu)
  · exact hu

theorem keeps_clearHead {r : HbmRegion} {n : Nat} (h : Keeps z s) : Keeps z (s.clearHead r n) :=
  keeps_store _ _ (keeps_foldl _ _ _ h (fun _ _ k => keeps_clear _ _ k))

theorem answers_execKvpEnable {init : Bool} {found : List Found} (h : Keeps z s) : Answers z (execKvpEnable init found s) := by
  unfold execKvpEnable
  extract_lets u v w x c y l
  have hu : Keeps z u := keeps_findErrors h
  have hv : Keeps z v := keeps_setFld _ _ hu
  have hx : Keeps z x := keeps_setReg _ _ (keeps_setFld _ _ (keeps_setFld _ _ (keeps_with hv)))
  have hc : Keeps z c := by
    unfold c
    split
    · exact keeps_clearHead hx
    · exact hx
  have hy : Keeps z y := keeps_foldl _ _ _ hx fun _ _ k => keeps_adoptEntry k
  exact answers_ite (answers_next hu) (answers_ite (answers_next hv) (answers_ite (answers_next (keeps_setFld _ _ hv))
    (answers_next (keeps_ite (keeps_setFld _ _ hc) (keeps_setFld _ _ hy)))))

theorem answers_execKvpDisable (h : Keeps z s) : Answers z (execKvpDisable s) :=
  answers_ite (answers_next h) (answers_next (keeps_setFld _ _ (keeps_setFld _ _ h)))

theorem answers_execKvpDrainEnd (h : Keeps z s) : Answers z (execKvpDrainEnd s) :=
  answers_ite (answers_next (keeps_setFld _ _ h)) (answers_next h)

/-! ### The operations of Machine/Commands -/

theorem passes_copyArgs {d src n : Nat} (h : Keeps z s) : Passes z (s.copyArgs d src n) := by
  unfold State.copyArgs
  refine passes_ite (passes_ok h) (passes_ite passes_error ?_)
  split
  · exact passes_error
  · exact passes_ok (keeps_devWrite _ _ h)

theorem answers_execLaunch {h : Word} {found : List Found} (hs : Keeps z s) : Answers z (execLaunch h found s) := by
  unfold execLaunch
  dsimp only
  split
  · exact answers_next (keeps_findErrors hs)
  · refine answers_ite (answers_next (keeps_findErrors hs))
      (answers_next (keeps_beginWith (fun _ k => keeps_ite (keeps_finishWith k) ?_) (keeps_findErrors hs)))
    split
    · exact keeps_finish _ _ (keeps_engineFault k)
    next s e =>
      exact keeps_setDom _ _ (passed (passes_copyArgs k) e)

theorem answers_execStop {h : Word} (hs : Keeps z s) : Answers z (execStop h s) := by
  unfold execStop
  split
  · exact answers_next hs
  · exact answers_ite (answers_next (keeps_setDom _ _ (keeps_begin _ hs))) (answers_next (keeps_finishWith (keeps_begin _ hs)))

theorem answers_execSignal {h : Word} (hs : Keeps z s) : Answers z (execSignal h s) := by
  unfold execSignal
  split
  · exact answers_next hs
  · exact answers_next (keeps_beginWith (fun _ k => keeps_ite (keeps_offerHost k) (keeps_finishWith k)) hs)

theorem answers_execStepResume {h : Word} (hs : Keeps z s) : Answers z (execStepResume h s) := by
  unfold execStepResume
  split
  · exact answers_next hs
  · exact answers_ite (answers_next (keeps_finishWith (keeps_begin _ hs)))
      (answers_ite (answers_next (keeps_finishWith (keeps_begin _ hs))) (answers_next (keeps_setDom _ _ (keeps_begin _ hs))))

theorem answers_execQueryInfo {h : Word} (hs : Keeps z s) : Answers z (execQueryInfo h s) := by
  unfold execQueryInfo
  split
  · exact answers_next hs
  next p _ =>
    have hb : Keeps z (s.begin p) := keeps_begin _ hs
    exact answers_ite (answers_next (keeps_finishOk (keeps_opened hb))) (answers_next (keeps_finishWith (keeps_engineFault hb)))

theorem answers_execTimeMeasure {h : Word} (hs : Keeps z s) : Answers z (execTimeMeasure h s) := by
  unfold execTimeMeasure
  split
  · exact answers_next hs
  · exact answers_ite (answers_next (keeps_finishOk (keeps_begin _ hs)))
      (answers_next (keeps_ite (keeps_with (keeps_begin _ hs)) (keeps_startMeasure (keeps_with (keeps_begin _ hs)))))

theorem answers_execHandleState {h : Word} (hs : Keeps z s) : Answers z (execHandleState h s) := by
  unfold execHandleState
  split
  · exact answers_next hs
  · exact answers_next (keeps_finishOk (keeps_begin _ hs))

/-! ### The operations of Machine/Collectives -/

theorem answers_execCollPost {t : Fin 384} {i : Fin 64} {found : List Found} (h : Keeps z s) : Answers z (execCollPost t i found s) := by
  unfold execCollPost
  dsimp only
  split
  · split
    · exact answers_next (keeps_opFault (keeps_findErrors h))
    · exact answers_ite (answers_next (keeps_opFault (keeps_findErrors h)))
        (answers_next (keeps_actedWith (keeps_setDom _ _ (keeps_findErrors h))))
  · exact answers_next (keeps_findErrors h)

theorem keeps_setColl {c : Coll} (h : Keeps z s) : Keeps z (s.setColl c) := by
  unfold State.setColl
  split
  · exact keeps_with h
  · exact keeps_with h

theorem keeps_sendMember {c : Coll} {i n type : Nat} {b : Body} (h : Keeps z s) : Keeps z (s.sendMember c i n type b) :=
  keeps_ite h (keeps_sendFrame h)

theorem keeps_showTails {n : Nat} (h : Keeps z s) : Keeps z (s.showTails n) :=
  keeps_setFld _ _ h

theorem keeps_noteTail {d id item : Nat} (h : Keeps z s) : Keeps z (s.noteTail d id item) :=
  keeps_with h

theorem keeps_dropTail {c : Coll} {member reason : Nat} (h : Keeps z s) : Keeps z (s.dropTail c member reason) :=
  keeps_ite h (keeps_showTails (keeps_noteTail (keeps_addFld _ _ (keeps_with h))))

theorem keeps_takeTail {c : Coll} {member chunk : Nat} {nf : Bool} {kin : Kin} {bs : Bytes} (h : Keeps z s) :
    Keeps z (s.takeTail c member chunk nf kin bs) := by
  unfold State.takeTail
  refine keeps_ite (keeps_dropTail h) (keeps_ite h (keeps_ite (keeps_dropTail h) ?_))
  split
  · exact keeps_event _ _ _ _ (keeps_dropTail h)
  · exact keeps_showTails (keeps_ite (keeps_with h) (keeps_with h))

theorem keeps_endColl {c : Coll} (h : Keeps z s) : Keeps z (s.endColl c) :=
  keeps_showTails (keeps_with (keeps_setColl h))

theorem keeps_failColl {c : Coll} {status time : Nat} (h : Keeps z s) : Keeps z (s.failColl c status time) :=
  keeps_endColl (keeps_closeWindows (keeps_fault (keeps_addFld _ _ (keeps_devWrite _ _ (keeps_openRows h)))))

theorem keeps_tryReduce {c : Coll} (h : Keeps z s) : Keeps z (s.tryReduce c) := by
  unfold State.tryReduce
  split
  · exact h
  · exact keeps_ite h (keeps_ite (keeps_setColl h)
      (keeps_foldl _ _ _ (keeps_setColl h) (fun _ _ k1 => keeps_foldl _ _ _ k1 (fun _ _ k2 => keeps_sendMember k2))))

theorem keeps_expireTails {c : Coll} {v : Verdict} (h : Keeps z s) : Keeps z (s.expireTails c v) :=
  keeps_showTails (keeps_addFld _ _ (keeps_with (keeps_foldl _ _ _ h (fun _ _ k => keeps_ite k (keeps_noteTail k)))))

theorem keeps_lateParts {c : Coll} {parts : SMap Bytes} (h : Keeps z s) : Keeps z (s.lateParts c parts) :=
  keeps_foldl _ _ _ (keeps_foldl _ _ _ h (fun _ _ k1 => keeps_takeTail k1)) (fun _ _ k2 => keeps_dropTail k2)

theorem keeps_applyVerdict {c : Coll} {v : Verdict} (h : Keeps z s) : Keeps z (s.applyVerdict c v) :=
  keeps_ite h (keeps_ite (keeps_setColl h)
    (keeps_ite (keeps_tryReduce (keeps_lateParts (keeps_spoolFor (keeps_trace _ _ _ _ _ (keeps_with (keeps_expireTails (keeps_setColl
        h)))))))
      (keeps_failColl (keeps_spoolFor (keeps_trace _ _ _ _ _ (keeps_with (keeps_expireTails (keeps_setColl h))))))))

theorem keeps_settle {c : Coll} {status : Nat} (h : Keeps z s) : Keeps z (s.settle c status) :=
  keeps_applyVerdict (keeps_foldl _ _ _ h (fun _ _ k => keeps_ite (keeps_sendMember k) k))

theorem keeps_weigh {c : Coll} (h : Keeps z s) : Keeps z (s.weigh c) :=
  keeps_ite h (keeps_ite (keeps_settle h) (keeps_ite (keeps_settle h) h))

theorem keeps_collTick (h : Keeps z s) : Keeps z s.collTick :=
  keeps_foldl _ _ _ h (fun _ _ k => keeps_ite (keeps_setColl k) k)

theorem answers_execCollGraceExpiry {d : Fin 64} {c : Nat} (h : Keeps z s) : Answers z (execCollGraceExpiry d c s) := by
  unfold execCollGraceExpiry
  split
  · exact answers_next (keeps_settle h)
  · exact answers_next h

theorem answers_execCollHardTimeout {d : Fin 64} {c : Nat} (h : Keeps z s) : Answers z (execCollHardTimeout d c s) := by
  unfold execCollHardTimeout
  split
  · exact answers_next (keeps_settle h)
  · exact answers_next h

theorem keeps_sendParts {c : Coll} (h : Keeps z s) : Keeps z (s.sendParts c).1 :=
  keeps_ite_fst h (keeps_foldl _ _ _ h (fun _ _ k1 => keeps_ite k1 (keeps_foldl _ _ _ k1 (fun _ _ k2 => keeps_sendMember k2))))

theorem keeps_giveNotice {c : Coll} (h : Keeps z s) : Keeps z (s.giveNotice c).1 :=
  keeps_ite_fst h (keeps_sendMember h)

theorem keeps_clearColls {d id step : Nat} (h : Keeps z s) : Keeps z (s.clearColls d id step) :=
  keeps_with h

theorem keeps_launchColl {d : Nat} {q : Post} (h : Keeps z s) : Keeps z (s.launchColl d q) := by
  unfold State.launchColl
  extract_lets _ _ _ u _ v _ _ _ _ c w x
  have hu : Keeps z u := keeps_clearColls h
  have hv : Keeps z v := keeps_ite (keeps_setDom _ _ hu) hu
  have hx : Keeps z x := keeps_countHbm _ _ (keeps_devWrite _ _ hv)
  refine keeps_ite (keeps_failColl hx) ?_
  have hp := keeps_sendParts (c := c) hx
  generalize x.sendParts c = p at hp
  obtain ⟨y, c⟩ := p
  have hg := keeps_giveNotice (c := c) hp
  dsimp only at hg ⊢
  generalize y.giveNotice c = p at hg
  obtain ⟨y, c⟩ := p
  have hy : Keeps z (y.setColl c) := keeps_setColl hg
  dsimp only
  split
  · exact keeps_applyVerdict hy
  · exact keeps_applyVerdict hy
  · exact keeps_weigh hy

theorem keeps_launchPosts {d : Nat} (h : Keeps z s) : Keeps z (s.launchPosts d) :=
  keeps_foldl _ _ _ (keeps_setDom _ _ h) (fun _ _ k => keeps_launchColl k)

theorem keeps_nextReduces {c : Coll} (h : Keeps z s) : Keeps z (s.nextReduces c) := by
  unfold State.nextReduces
  split
  · exact keeps_tryReduce h
  · exact h

theorem keeps_takePart {d id step member chunk : Nat} {nf : Bool} {kin : Kin} {bs : Bytes} (h : Keeps z s) :
    Keeps z (s.takePart d id step member chunk nf kin bs) := by
  unfold State.takePart
  split
  · exact keeps_ite h (keeps_dropTail h)
  · exact keeps_ite (keeps_ite (keeps_nextReduces (keeps_takeTail h)) h) (keeps_tryReduce (keeps_setColl h))

theorem keeps_takeResult {d id step member chunk : Nat} {bs : Bytes} (h : Keeps z s) :
    Keeps z (s.takeResult d id step member chunk bs) :=
  keeps_ite h (keeps_setColl h)

theorem keeps_losePart {d id step member : Nat} (h : Keeps z s) : Keeps z (s.losePart d id step member) := by
  unfold State.losePart
  split
  · exact h
  · exact keeps_ite (keeps_ite (keeps_nextReduces (keeps_dropTail h)) h) (keeps_setColl h)

theorem keeps_takeNotice {d id step member crc : Nat} {nf : Bool} (h : Keeps z s) : Keeps z (s.takeNotice d id step member crc nf) :=
  keeps_ite h (keeps_weigh (keeps_setColl h))

theorem keeps_takeVerdict {d id step : Nat} {v : Verdict} (h : Keeps z s) : Keeps z (s.takeVerdict d id step v) :=
  keeps_ite h (keeps_applyVerdict h)

theorem keeps_completeColl {c : Coll} {v : Verdict} {blocks : List (Nat × Bytes)} (h : Keeps z s) :
    Keeps z (s.completeColl c v blocks) :=
  keeps_via (fun k1 => keeps_endColl (keeps_ite (keeps_addFld _ _ (keeps_ite (keeps_addFld _ _ (keeps_addFld _ _ (keeps_devWrite _ _
          k1)))
        (keeps_addFld _ _ (keeps_devWrite _ _ k1))))
      (keeps_event _ _ _ _ (keeps_addFld _ _ (keeps_ite (keeps_addFld _ _ (keeps_addFld _ _ (keeps_devWrite _ _ k1)))
        (keeps_addFld _ _ (keeps_devWrite _ _ k1)))))))
    (keeps_foldl _ _ _ h (fun _ _ k2 => keeps_devWrite _ _ k2))

theorem answers_execCollComplete {d : Fin 64} {c : Nat} (h : Keeps z s) : Answers z (execCollComplete d c s) := by
  unfold execCollComplete
  split
  · exact answers_next h
  · split
    · exact answers_next h
    · split
      · exact answers_next (keeps_completeColl h)
      · exact answers_next h

theorem keeps_reNotice (h : Keeps z s) : Keeps z s.reNotice :=
  keeps_foldl _ _ _ h (fun _ _ k => keeps_ite (keeps_weigh (keeps_setColl (keeps_giveNotice k))) k)

theorem keeps_endHome {n : Nat} (h : Keeps z s) : Keeps z (s.endHome n) :=
  keeps_foldl _ _ _ h (fun _ _ k => keeps_failColl k)

theorem answers_execLinkDiePortLoss {n : Fin 4} {ecc : Found} (h : Keeps z s) : Answers z (execLinkDiePortLoss n ecc s) := by
  unfold execLinkDiePortLoss
  refine answers_ite ?_ (answers_next h)
  extract_lets u v
  have hv : Keeps z v := keeps_resetRegRange _ _ (keeps_with (keeps_endHome h))
  refine answers_next (keeps_resendVia ?_)
  cases v.carrier n.val with
  | none => exact hv
  | some k => exact keeps_sramRead hv

/-! ### The operations of Machine/Optimizer -/

theorem answers_execStepBegin {h : Word} (hs : Keeps z s) : Answers z (execStepBegin h s) := by
  unfold execStepBegin
  split
  · exact answers_next hs
  · exact answers_next (keeps_setDom _ _ (keeps_begin _ hs))

theorem answers_execStepUpdate {h : Word} (hs : Keeps z s) : Answers z (execStepUpdate h s) := by
  unfold execStepUpdate
  split
  · exact answers_next hs
  · exact answers_ite (answers_next (keeps_finishWith (keeps_begin _ hs)))
      (answers_ite (answers_next (keeps_finishWith (keeps_begin _ hs))) (answers_next (keeps_setDom _ _ (keeps_begin _ hs))))

theorem keeps_takeUpdate {d : Nat} {u : Update} (h : Keeps z s) : Keeps z (s.takeUpdate d u) :=
  keeps_ite (keeps_finishWith h)
    (keeps_ite (keeps_finishWith h) (keeps_spool (keeps_setFld _ _ (keeps_setFld _ _ (keeps_setDom _ _ h)))))

theorem keeps_latchUpdates {d : Nat} (h : Keeps z s) : Keeps z (s.latchUpdates d) :=
  keeps_foldl _ _ _ (keeps_setDom _ _ h) (fun _ _ k => keeps_takeUpdate k)

theorem keeps_completeUpdate {d : Nat} (h : Keeps z s) : Keeps z (s.completeUpdate d) := by
  unfold State.completeUpdate
  split
  · exact h
  · exact keeps_ite (keeps_finishWith (keeps_setDom _ _ h)) h

theorem keeps_put32 {t c off : Nat} {x : Machine.Num} (h : Keeps z s) : Keeps z (s.put32 t c off x) :=
  keeps_ite (keeps_addFld _ _ (keeps_padPut h)) (keeps_ite (keeps_addFld _ _ (keeps_padPut h)) (keeps_padPut h))

theorem keeps_puts32 {t c off : Nat} {xs : List Machine.Num} (h : Keeps z s) : Keeps z (s.puts32 t c off xs) :=
  keeps_foldl _ _ _ h (fun _ _ k => keeps_put32 k)

theorem keeps_updBeats {t : Nat} {x : Shard} {k : Nat} (h : Keeps z s) : Keeps z (s.updBeats t x k) :=
  keeps_count _ _ _ (keeps_addFld _ _ h)

theorem keeps_runPass1 {t : Nat} {o : Op} (h : Keeps z s) : Keeps z (s.runPass1 t o) :=
  keeps_updBeats (keeps_setReg _ _ (keeps_ite (keeps_puts32 (keeps_puts32 (keeps_put32 h))) (keeps_put32 h)))

theorem answers_execUpdPass1 {t : Fin 384} {i : Fin 64} (h : Keeps z s) : Answers z (execUpdPass1 t i s) := by
  unfold execUpdPass1
  split
  · exact answers_next h
  · split
    · exact answers_next (keeps_opFault h)
    · exact answers_next (keeps_actedWith (keeps_runPass1 h))

theorem keeps_latchOutcome {d : Nat} {u : Update} {x : Shard} (h : Keeps z s) : Keeps z (s.latchOutcome d u x) :=
  keeps_ite (keeps_addFld _ _ (keeps_setFld _ _ (keeps_setFld _ _ (keeps_setDom _ _ h))))
    (keeps_setFld _ _ (keeps_setFld _ _ (keeps_setDom _ _ h)))

theorem keeps_writeCopy {t : Nat} {o : Op} {x : Shard} {f : Format} {out scale tensor : Nat} {w : List (List Machine.Num)}
    (h : Keeps z s) :
    Keeps z (s.writeCopy t o x f out scale tensor w) :=
  keeps_via (fun k1 => keeps_ite (keeps_addFld _ _ k1) k1)
    (keeps_foldl _ _ _ (keeps_padPut (keeps_foldl _ _ _ h (fun _ _ k2 => keeps_padPut k2))) (fun _ _ k3 => keeps_countUnit k3))

theorem keeps_updTap {t : Nat} {x : Shard} {comp : Nat} {v : Machine.Num} (h : Keeps z s) : Keeps z (s.updTap t x comp v) :=
  keeps_ite (keeps_tap h) (keeps_tap h)

theorem keeps_updSummary {d t : Nat} {o : Op} {nz : Nat} {floored carried : Bool} (h : Keeps z s) :
    Keeps z (s.updSummary d t o nz floored carried) :=
  keeps_ite (keeps_addFld _ _ (keeps_addFld _ _ (keeps_setReg _ _ h))) (keeps_addFld _ _ (keeps_setReg _ _ h))

theorem keeps_applyUpdate {d t : Nat} {o : Op} {u : Update} {f b : Format} (h : Keeps z s) : Keeps z (s.applyUpdate d t o u f b) :=
  keeps_via (fun k1 => keeps_via (fun k2 => keeps_via (fun k3 => keeps_updBeats (keeps_updSummary (keeps_ite (keeps_updTap
            (keeps_updTap (keeps_writeCopy (keeps_writeCopy k3))))
          (keeps_writeCopy (keeps_writeCopy k3)))))
        (keeps_ite (keeps_puts32 (keeps_puts32 (keeps_put32 k2))) k2))
      (keeps_ite k1 (keeps_foldl _ _ _ k1 (fun _ _ k4 => keeps_puts32 k4))))
    (keeps_foldl _ _ _ h (fun _ _ k5 => keeps_puts32 k5))

theorem keeps_noteFinal {d t : Nat} {o : Op} (h : Keeps z s) : Keeps z (s.noteFinal d t o) :=
  keeps_ite (keeps_setDom _ _ h) h

theorem keeps_decided {d t : Nat} {o : Op} (h : Keeps z s) : Keeps z (s.decided d t o) := by
  unfold State.decided
  split
  · exact keeps_ite h (keeps_latchOutcome h)
  · exact h

theorem keeps_runPass2 {d t i : Nat} {o : Op} {f b : Format} (h : Keeps z s) : Keeps z (s.runPass2 d t i o f b) := by
  unfold State.runPass2
  dsimp only
  split
  · exact keeps_decided h
  · exact keeps_ite (keeps_opFault (keeps_decided h))
      (keeps_actedWith (keeps_noteFinal (keeps_ite (keeps_updBeats (keeps_updSummary (keeps_decided h)))
        (keeps_applyUpdate (keeps_decided h)))))

theorem answers_execUpdPass2 {t : Fin 384} {i : Fin 64} {found : List Found} (h : Keeps z s) : Answers z (execUpdPass2 t i found s) := by
  unfold execUpdPass2
  dsimp only
  split
  · refine answers_ite (answers_next (keeps_opFault (keeps_findErrors h)))
      (answers_ite (answers_next (keeps_actedWith (keeps_noteFinal (keeps_findErrors h))))
        (answers_ite (answers_next (keeps_opFault (keeps_findErrors h)))
          (answers_ite (answers_next (keeps_opFault (keeps_findErrors h))) ?_)))
    split
    · split
      · exact answers_next (keeps_opFault (keeps_findErrors h))
      · exact answers_ite (answers_next (keeps_findErrors h)) (answers_next (keeps_runPass2 (keeps_findErrors h)))
    · exact answers_next (keeps_opFault (keeps_findErrors h))
  · exact answers_next (keeps_findErrors h)

/-! ### The operations of Machine/Walker -/

theorem keeps_walkOp {t i op : Nat} {named : List (Nat × Nat)} {extra : Op → Bool} {run : Op → Nat → Walk}
    (hr : ∀ o d, Walks z (run o d)) (h : Keeps z s) : Keeps z (s.walkOp t i op named extra run) := by
  unfold State.walkOp
  split
  next o d _ _ =>
    have k := hr o d
    refine keeps_ite (keeps_opFault h) (keeps_ite (keeps_opFault h) ?_)
    split
    next e =>
      rw [e] at k
      cases k with
      | wait k => exact k
    next => exact keeps_opFault h
    next e =>
      rw [e] at k
      cases k with
      | done k => exact keeps_actedWith k
  · exact h

theorem offers_writable {p v : Nat} (h : Keeps z s) : Offers z (s.writable p v) := by
  unfold State.writable
  refine offers_ite (offers_some h) ?_
  split
  · exact offers_none
  next f s e =>
    exact offers_ite (offers_some (keeps_lowerRefs (keeps_mapNew (keeps_copyPage (keeps_allocate h e)))))
      (offers_some (keeps_ite (keeps_devWrite _ _ (keeps_mapNew (keeps_allocate h e))) (keeps_mapNew (keeps_allocate h e))))

theorem keeps_writableAll {p : Nat} {vs : List Nat} (h : Keeps z s) : Keeps z (s.writableAll p vs).1 := by
  induction vs generalizing s with
  | nil => exact h
  | cons v vs ih =>
    unfold State.writableAll
    split
    next e => exact ih (offered (offers_writable h) e)
    · exact h

theorem keeps_gatherToken {t p : Nat} {g : Gather} {ws : List (Nat × Bytes)} {k : Nat} {src : Option Nat} {j : Nat} (h : Keeps z s) :
    Keeps z (s.gatherToken t p g ws k src j) := by
  unfold State.gatherToken
  extract_lets row body scale tagged u v w
  have ht (t : State) (a n : Nat) (k : Keeps z t) : Keeps z (tagged t a n) := by
    unfold tagged
    split
    · exact keeps_readHbm k
    · exact k
  have hu : Keeps z u := keeps_ite (keeps_padPut (ht _ _ _ h)) h
  have hv : Keeps z v := keeps_ite (keeps_padPut (ht _ _ _ hu)) hu
  have hw : Keeps z w := keeps_ite (keeps_padPut hv) hv
  exact keeps_ite hv (keeps_ite (keeps_padPut hw) hw)

theorem keeps_gatherCount {t p : Nat} {vs : List Nat} (h : Keeps z s) : Keeps z (s.gatherCount t p vs) :=
  keeps_foldl _ _ _ (keeps_foldl _ _ _ (keeps_addFld _ _ (keeps_addFld _ _ (keeps_addFld _ _ h)))
      (fun _ _ k1 => keeps_ite (keeps_lookup k1) k1))
    (fun _ _ k2 => keeps_touch k2)

theorem keeps_gatherPrefetch {p : Nat} {q : Machine.Seq} {g : Gather} (h : Keeps z s) : Keeps z (s.gatherPrefetch p q g) :=
  keeps_ite h (keeps_foldl _ _ _ h (fun _ _ k => keeps_ite (keeps_startReturn k) k))

theorem keeps_runGather {t i : Nat} {q : Machine.Seq} {g : Gather} (h : Keeps z s) : Keeps z (s.runGather t i q g).1 := by
  unfold State.runGather
  refine keeps_gatherPrefetch ?_
  split
  · exact keeps_consumesPoison (keeps_gatherCount (keeps_used (keeps_foldl _ _ _ h (fun _ _ k => keeps_gatherToken k))))
  · exact keeps_gatherCount (keeps_used (keeps_foldl _ _ _ h (fun _ _ k => keeps_gatherToken k)))

theorem answers_execGather {t : Fin 384} {i : Fin 64} {found : List Found} (h : Keeps z s) : Answers z (execGather t i found s) :=
  answers_next (keeps_walkOp (fun _ _ => walks_ite Walks.fault (walks_ite Walks.fault (walks_ite (Walks.wait (keeps_findErrors h))
      (Walks.done (keeps_runGather (keeps_findErrors h))))))
    (keeps_findErrors h))

theorem keeps_poolEmpty {t d p seq : Nat} (h : Keeps z s) : Keeps z (s.poolEmpty t d p seq) :=
  keeps_event _ _ _ _ (keeps_setFld _ _ h)

theorem keeps_appendToken {t p : Nat} {o : Op} {q : Machine.Seq} {stream pos k : Nat} (h : Keeps z s) :
    Keeps z (s.appendToken t p o q stream pos k) :=
  keeps_foldl _ _ _ h (fun _ _ k => keeps_tagHbm (keeps_devWrite _ _ k))

theorem keeps_appendRaces {t i d : Nat} {o : Op} (h : Keeps z s) : Keeps z (s.appendRaces t i d o) := by
  unfold State.appendRaces
  refine keeps_foldl _ _ _ h (fun _ _ k => keeps_scrambleAll ?_)
  dsimp only
  split
  · refine keeps_setOp ?_
    split
    · exact keeps_setOp k
    · exact k
  · split
    · exact keeps_setOp k
    · exact k

theorem answers_execAppend {t : Fin 384} {i : Fin 64} {found : List Found} (h : Keeps z s) : Answers z (execAppend t i found s) := by
  unfold execAppend
  refine answers_next (keeps_walkOp (fun _ _ => ?_) (keeps_findErrors h))
  split
  · exact Walks.fault
  · exact walks_ite (Walks.wait (keeps_findErrors h))
      (walks_ite (Walks.done (keeps_findErrors h))
        (walks_ite (Walks.done (keeps_poolEmpty (keeps_writableAll (keeps_findErrors h))))
          (keeps_via (fun k1 => Walks.done (keeps_ite (keeps_putSeq k1) k1))
            (keeps_appendRaces (keeps_foldl _ _ _ (keeps_foldl _ _ _ (keeps_writableAll (keeps_findErrors h))
                (fun _ _ k2 => keeps_appendToken k2))
              (fun _ _ k3 => keeps_touch k3))))))

theorem answers_execSeqOpen {t : Fin 384} {i : Fin 64} {found : List Found} (h : Keeps z s) : Answers z (execSeqOpen t i found s) := by
  unfold execSeqOpen
  extract_lets u
  have hu : Keeps z u := keeps_findErrors h
  refine answers_next (keeps_walkOp (fun o d => ?_) hu)
  generalize List.range 65536 = js
  exact walks_ite Walks.fault (walks_ite (Walks.done hu) (walks_ite (Walks.done hu) (walks_ite (Walks.done hu)
    (Walks.done (keeps_addFld _ _ (keeps_putSeq hu))))))

theorem keeps_release {v : Nat} (h : Keeps z s) : Keeps z (s.release v).1 := by
  unfold State.release
  refine keeps_via (fun k => keeps_ite_fst (keeps_ite k (keeps_changePte k))
      (keeps_ite_fst (keeps_ite_fst (keeps_freePage (keeps_changePte k)) (keeps_changePte k)) (keeps_lowerRefs (keeps_changePte k))))
    ?_
  split
  · exact keeps_ite (keeps_unreserve h) h
  · exact h

theorem offers_forkPage {p src dst : Nat} {share : Bool} (h : Keeps z s) : Offers z (s.forkPage p src dst share) := by
  unfold State.forkPage
  refine offers_ite (offers_some h)
    (offers_ite (offers_some h)
      (offers_ite (offers_some (keeps_changePte (keeps_changePte (keeps_ite (keeps_release h) h))))
        (offers_ite (offers_some (keeps_copyPage h)) ?_)))
  split
  · exact offers_none
  next f s e =>
    exact offers_some (keeps_mapNew (keeps_copyPage (keeps_allocate (keeps_ite (keeps_ite (keeps_release h) h) h) e)))

theorem keeps_forkAll {p : Nat} {xs : List (Nat × Nat × Bool)} (h : Keeps z s) : Keeps z (s.forkAll p xs).1 := by
  induction xs generalizing s with
  | nil => exact h
  | cons x xs ih =>
    unfold State.forkAll
    split
    next e => exact ih (offered (offers_forkPage h) e)
    · exact h

theorem answers_execFork {t : Fin 384} {i : Fin 64} {found : List Found} (h : Keeps z s) : Answers z (execFork t i found s) :=
  answers_next (keeps_walkOp (fun _ _ => walks_ite Walks.fault (walks_ite (Walks.done (keeps_findErrors h))
      (walks_ite Walks.fault (walks_ite Walks.fault (walks_ite (Walks.wait (keeps_setOp (keeps_findErrors h)))
        (walks_ite (Walks.done (keeps_poolEmpty (keeps_forkAll (keeps_findErrors h))))
          (Walks.done (keeps_putSeq (keeps_forkAll (keeps_findErrors h))))))))))
    (keeps_findErrors h))

theorem answers_execSeqClose {t : Fin 384} {i : Fin 64} {found : List Found} (h : Keeps z s) : Answers z (execSeqClose t i found s) := by
  unfold execSeqClose
  extract_lets u
  have hu : Keeps z u := keeps_findErrors h
  refine answers_next (keeps_walkOp (fun o d => ?_) hu)
  extract_lets _ _ vs r v
  have hr : Keeps z r.1 := keeps_foldl_fst vs hu fun x _ k => keeps_release k
  have hv : Keeps z v := keeps_putSeq hr
  exact walks_ite (Walks.done hu) (walks_ite Walks.fault (walks_ite (Walks.wait hu)
    (Walks.done (keeps_ite (keeps_subFld _ _ hv) hv))))

theorem answers_execKvpList {t : Fin 384} {i : Fin 64} {found : List Found} (h : Keeps z s) : Answers z (execKvpList t i found s) :=
  answers_next (keeps_walkOp (fun _ _ => walks_ite Walks.fault (Walks.done (keeps_padPut (keeps_findErrors h))))
    (keeps_findErrors h))

/-! ### The operations of Machine/Stash -/

theorem keeps_countEncoded {k raw : Nat} {part : Bytes × List Nat} (h : Keeps z s) : Keeps z (s.countEncoded k raw part) :=
  keeps_addScaled (keeps_addFld _ _ (keeps_addFld _ _ (keeps_addScaled (keeps_addScaled h))))

theorem keeps_countDecoded {k raw stored corrupt : Nat} (h : Keeps z s) : Keeps z (s.countDecoded k raw stored corrupt) :=
  keeps_addFld _ _ (keeps_addScaled (keeps_addScaled h))

theorem keeps_writePart {k a : Nat} {coded : Bool} {raw : Nat} {part : Bytes × List Nat} (h : Keeps z s) :
    Keeps z (s.writePart k a coded raw part) :=
  keeps_ite (keeps_countEncoded (keeps_devWrite _ _ h)) (keeps_devWrite _ _ h)

theorem offers_capture {h : Nat} {x : Handle} {ranges : List (Nat × Nat)} {coded : Bool} {p q : Bytes} (hs : Keeps z s) :
    Offers z (s.capture h x ranges coded p q) := by
  unfold State.capture
  dsimp only
  split
  · exact offers_none
  · exact offers_some (keeps_setHandle (keeps_ite (keeps_writePart (keeps_writePart (keeps_with hs)))
      (keeps_writePart (keeps_with hs))))

theorem offers_placeCapture {h d : Nat} {x : Handle} {p q : Bytes} (hs : Keeps z s) : Offers z (s.placeCapture h d x p q) := by
  unfold State.placeCapture
  extract_lets +onlyGivenNames policy coded near
  have hn : Offers z near := offers_ite offers_none (offers_capture hs)
  have hf : Offers z (s.capture h { x with demoted := policy != 2 } s.hostRanges coded p q) := offers_capture hs
  clear_value near
  generalize s.capture h { x with demoted := policy != 2 } s.hostRanges coded p q = far at hf
  cases near with
  | some t => exact offers_some (offered hn rfl)
  | none =>
    cases far with
    | some t => exact offers_some (keeps_ite (offered hf rfl) (keeps_addFld _ _ (offered hf rfl)))
    | none => exact offers_none

theorem answers_execStashRegister {t : Fin 384} {i : Fin 64} {found : List Found} (h : Keeps z s) :
    Answers z (execStashRegister t i found s) := by
  unfold execStashRegister
  dsimp only
  split
  · split
    · exact answers_next (keeps_opFault (keeps_findErrors h))
    · refine answers_ite (answers_next (keeps_actedWith (keeps_setHandle (keeps_findErrors h))))
        (answers_ite (answers_next (keeps_actedWith (keeps_engineFault (keeps_engineFault (keeps_findErrors h))))) ?_)
      split
      · exact answers_next (keeps_actedWith (keeps_consumesPoison (keeps_findErrors h)))
      · split
        next s e =>
          exact answers_next (keeps_actedWith (offered (offers_placeCapture (keeps_readHbm (keeps_readHbm (keeps_findErrors h)))) e))
        · exact answers_next (keeps_actedWith (keeps_event _ _ _ _ (keeps_addFld _ _ (keeps_findErrors h))))
  · exact answers_next (keeps_findErrors h)

theorem answers_execStashCaptureEnd {id : Nat} (h : Keeps z s) : Answers z (execStashCaptureEnd id s) :=
  answers_ite (answers_next (keeps_setHandle h)) (answers_next h)

theorem keeps_runFetch {t i : Nat} {f : Fetch} {x : Handle} (h : Keeps z s) : Keeps z (s.runFetch t i f x).1 := by
  unfold State.runFetch
  split
  extract_lets _ _ poison _ _ _ _ u v w y
  have hu : Keeps z u := keeps_foldl _ _ _ h fun _ _ k => keeps_devWrite _ _ k
  have hv : Keeps z v := keeps_ite (keeps_countDecoded hu) hu
  have hw : Keeps z w := keeps_readHbm (keeps_count _ _ _ hv)
  clear_value poison
  cases poison with
  | some p => exact keeps_consumesPoison hw
  | none => exact hw

theorem keeps_noteFetch {h part : Nat} (hs : Keeps z s) : Keeps z (s.noteFetch h part) :=
  keeps_ite hs (keeps_ite (keeps_event _ _ _ _ (keeps_ite (keeps_addFld _ _ (keeps_setHandle hs)) (keeps_setHandle hs)))
    (keeps_ite (keeps_addFld _ _ (keeps_setHandle hs)) (keeps_setHandle hs)))

theorem keeps_markRelease {h : Nat} (hs : Keeps z s) : Keeps z (s.markRelease h) :=
  keeps_setHandle hs

theorem answers_execStashFetch {t : Fin 384} {i : Fin 64} {found : List Found} (h : Keeps z s) :
    Answers z (execStashFetch t i found s) := by
  unfold execStashFetch
  dsimp only
  split
  · split
    · exact answers_next (keeps_opFault (keeps_findErrors h))
    · exact answers_ite (answers_next (keeps_noteFetch (keeps_findErrors h)))
        (answers_next (keeps_actedWith (keeps_ite (keeps_markRelease (keeps_ite_fst (keeps_runFetch (keeps_noteFetch (keeps_findErrors
              h)))
            (keeps_engineFault (keeps_noteFetch (keeps_findErrors h)))))
          (keeps_ite_fst (keeps_runFetch (keeps_noteFetch (keeps_findErrors h)))
            (keeps_engineFault (keeps_noteFetch (keeps_findErrors h)))))))
  · exact answers_next (keeps_findErrors h)

theorem answers_execStashRelease {t : Fin 384} {i : Fin 64} (h : Keeps z s) : Answers z (execStashRelease t i s) := by
  unfold execStashRelease
  split
  · exact answers_ite (answers_next (keeps_opFault h))
      (answers_ite (answers_next (keeps_opFault h))
        (answers_ite (answers_next (keeps_opFault h)) (answers_next (keeps_actedWith (keeps_markRelease h)))))
  · exact answers_next h

theorem offers_startMove {h st : Nat} {ranges : List (Nat × Nat)} {code : Bool} (hs : Keeps z s) : Offers z (s.startMove h st ranges code) := by
  unfold State.startMove
  dsimp only
  split
  · exact offers_none
  · exact offers_some (keeps_setHandle (keeps_readHbm (keeps_readHbm (keeps_with hs))))

theorem keeps_demote {d k n fuel : Nat} (h : Keeps z s) : Keeps z (s.demote d k n fuel) := by
  induction fuel generalizing s with
  | zero => exact h
  | succ fuel ih =>
    have ho : Offers z (match s.victim d k n with
        | none => none
        | some (h, x) => s.startMove h 4 s.hostRanges (s.classCompress x.cls)) := by
      split
      · exact offers_none
      · exact offers_startMove h
    unfold State.demote
    refine keeps_ite ?_ h
    dsimp only
    split
    next e => exact ih (keeps_addFld _ _ (offered ho e))
    · exact keeps_event _ _ _ _ (keeps_addFld _ _ h)

theorem keeps_prefetch {d k n : Nat} {hs : List (Nat × Handle)} (h : Keeps z s) : Keeps z (s.prefetch d k n hs) := by
  induction hs generalizing s with
  | nil => exact h
  | cons x hs ih =>
    unfold State.prefetch
    split
    · exact h
    next e => exact ih (keeps_setHandle (offered (offers_startMove h) e))

theorem keeps_stashMoves {d n : Nat} (h : Keeps z s) : Keeps z (s.stashMoves d n) :=
  keeps_ite h (keeps_foldl _ _ _ h (fun _ _ k => keeps_prefetch (keeps_demote k)))

theorem keeps_endPart {x : Handle} {i a : Nat} {coded : Bool} (h : Keeps z s) : Keeps z (s.endPart x i a coded) :=
  keeps_ite (keeps_foldl _ _ _ (keeps_writePart h) (fun _ _ k => keeps_ite (keeps_poisonLine k) k)) (keeps_writePart h)

theorem answers_execStashMoveEnd {id : Nat} {found : List Found} (h : Keeps z s) : Answers z (execStashMoveEnd id found s) := by
  unfold execStashMoveEnd
  dsimp only
  split
  · exact answers_next (keeps_freeSpace (keeps_with (keeps_findErrors h)))
  · split
    · exact answers_next (keeps_findErrors h)
    · exact answers_ite (answers_next (keeps_findErrors h))
        (answers_next (keeps_ite (keeps_addFld _ _ (keeps_setHandle (keeps_freeSpace (keeps_ite (keeps_endPart (keeps_endPart
              (keeps_findErrors h)))
            (keeps_endPart (keeps_findErrors h))))))
          (keeps_setHandle (keeps_freeSpace (keeps_ite (keeps_endPart (keeps_endPart (keeps_findErrors h)))
            (keeps_endPart (keeps_findErrors h)))))))

theorem keeps_stashOpen (h : Keeps z s) : Keeps z s.stashOpen := by
  unfold State.stashOpen
  dsimp only
  split
  · exact keeps_foldl _ _ _ (keeps_with h) (fun _ _ k => keeps_resetRegs k)
  · split
    · exact keeps_clearHead (keeps_foldl _ _ _ (keeps_with h) (fun _ _ k => keeps_resetRegs k))
    · exact keeps_foldl _ _ _ (keeps_with h) (fun _ _ k => keeps_resetRegs k)

theorem answers_execMoveCopy {h : Word} (hs : Keeps z s) : Answers z (execMoveCopy h s) := by
  unfold execMoveCopy
  split
  · exact answers_next hs
  · exact answers_next (keeps_beginWith (fun _ k => keeps_ite k (keeps_finishWith (keeps_engineFault (keeps_engineFault (keeps_engineFault
        k)))))
      hs)

theorem answers_execMoveFill {h : Word} (hs : Keeps z s) : Answers z (execMoveFill h s) := by
  unfold execMoveFill
  split
  · exact answers_next hs
  · exact answers_next (keeps_beginWith (fun _ k => keeps_ite k (keeps_finishWith (keeps_engineFault k))) hs)

theorem keeps_endCodec {p : Pending} (h : Keeps z s) : Keeps z (s.endCodec p) :=
  keeps_ite (keeps_finishOk (keeps_countEncoded (keeps_devWrite _ _ h)))
    (keeps_ite (keeps_finish _ _ h) (keeps_finish _ _ (keeps_countDecoded (keeps_devWrite _ _ h))))

theorem keeps_endCopy {p : Pending} (h : Keeps z s) : Keeps z (s.endCopy p) := by
  unfold State.endCopy
  extract_lets n w u v poison
  have hu : Keeps z u := keeps_tagHbm (keeps_readHbm h)
  have hv : Keeps z v := keeps_ite (keeps_readHbm hu) hu
  clear_value poison
  cases poison with
  | some a => exact keeps_finish _ _ (keeps_openRows hv)
  | none =>
    exact keeps_ite (keeps_finishOk (keeps_openRows hv)) (keeps_ite (keeps_finishOk (keeps_devWrite _ _ hv)) (keeps_endCodec hv))

theorem answers_execMoveTransferDone {h : Word} {found : List Found} (hs : Keeps z s) : Answers z (execMoveTransferDone h found s) := by
  unfold execMoveTransferDone
  dsimp only
  split
  · exact answers_next (keeps_findErrors hs)
  · exact answers_ite (answers_next (keeps_findErrors hs))
      (answers_ite (answers_next (keeps_endCopy (keeps_findErrors hs)))
        (answers_next (keeps_finishOk (keeps_devWrite _ _ (keeps_findErrors hs)))))

/-! ### The operations of Machine/Survival -/

theorem keeps_putProtect {r : Protect} (h : Keeps z s) : Keeps z (s.putProtect r) :=
  keeps_with h

theorem keeps_streamRegion {n : Nat} {last : Bool} {r : Protect} (h : Keeps z s) : Keeps z (s.streamRegion n last r) :=
  keeps_putProtect (keeps_foldl _ _ _ h (fun _ _ k => keeps_toPartner k))

theorem keeps_mirrorSlot {d : Nat} (h : Keeps z s) : Keeps z (s.mirrorSlot d) :=
  keeps_ite (keeps_foldl _ _ _ h (fun _ _ k => keeps_streamRegion k)) h

theorem keeps_mirrorStep {d : Nat} (h : Keeps z s) : Keeps z (s.mirrorStep d) :=
  keeps_ite h (keeps_setDom _ _ (keeps_foldl _ _ _ (keeps_ite (keeps_event _ _ _ _ h) h) (fun _ _ k => keeps_streamRegion k)))

theorem answers_execMirrorCommit {d : Fin 64} (h : Keeps z s) : Answers z (execMirrorCommit d s) := by
  unfold execMirrorCommit
  dsimp only
  split
  · exact answers_ite (answers_next h)
      (answers_next (keeps_ite (keeps_setReg _ _ (keeps_setDom _ _ (keeps_toPartner h))) (keeps_setDom _ _ (keeps_toPartner h))))
  · exact answers_next h

theorem keeps_setUpMirror (h : Keeps z s) : Keeps z s.setUpMirror :=
  keeps_foldl _ _ _ (keeps_with (keeps_ite h (keeps_event _ _ _ _ (keeps_with h))))
    (fun _ _ k => keeps_setReg _ _ (keeps_setDom _ _ k))

theorem keeps_sendPlan (h : Keeps z s) : Keeps z s.sendPlan := by
  unfold State.sendPlan
  split
  · exact keeps_sendTo (keeps_setUpMirror h)
  · exact h

theorem keeps_countChanged {d : Nat} (h : Keeps z s) : Keeps z (s.countChanged d) :=
  keeps_foldl _ _ _ h (fun _ _ k => keeps_ite (keeps_putProtect k) (keeps_event _ _ _ _ (keeps_putProtect k)))

theorem keeps_chooseMethods {d : Nat} (h : Keeps z s) : Keeps z (s.chooseMethods d) :=
  keeps_ite (keeps_countChanged h) (keeps_sendPlan (keeps_countChanged h))

theorem answers_execStepSnapshot {h : Word} (hs : Keeps z s) : Answers z (execStepSnapshot h s) := by
  unfold execStepSnapshot
  split
  · exact answers_next hs
  · exact answers_ite (answers_next (keeps_finishWith (keeps_begin _ hs)))
      (answers_next (keeps_requestSnapshots (keeps_setDom _ _ (keeps_begin _ hs))))

theorem keeps_streamSnapshot {d : Nat} {p : Snap} (h : Keeps z s) : Keeps z (s.streamSnapshot d p) :=
  keeps_toPartner (keeps_foldl _ _ _ (keeps_toPartner (keeps_toPartner h))
    (fun _ _ k => keeps_ite (keeps_toPartner k) (keeps_toPartner k)))

theorem keeps_stageFront {p : Snap} (h : Keeps z s) : Keeps z (s.stageFront p) := by
  unfold State.stageFront
  split
  · exact keeps_devWrite _ _ h
  · exact h

theorem keeps_startSnapshot {d n : Nat} {replay : Bool} (h : Keeps z s) : Keeps z (s.startSnapshot d n replay) := by
  unfold State.startSnapshot
  refine keeps_ite h (keeps_ite (keeps_foldl _ _ _ (keeps_setDom _ _ h) (fun _ _ k => keeps_finishWith k))
    (keeps_ite ?_ (keeps_streamSnapshot (keeps_stageFront (keeps_setDom _ _ (keeps_setDom _ _ h))))))
  split
  · exact keeps_openAt _ _ (keeps_setDom _ _ (keeps_setDom _ _ h))
  · exact keeps_setDom _ _ (keeps_setDom _ _ h)

theorem answers_execSnapshotFrontCopyEnd {d : Fin 64} {found : List Found} (h : Keeps z s) :
    Answers z (execSnapshotFrontCopyEnd d found s) := by
  unfold execSnapshotFrontCopyEnd
  dsimp only
  split
  · exact answers_ite (answers_next (keeps_streamSnapshot (keeps_stageFront (keeps_setDom _ _ (keeps_findErrors h)))))
      (answers_next (keeps_findErrors h))
  · exact answers_next (keeps_findErrors h)

theorem keeps_showWhole {d : Nat} (h : Keeps z s) : Keeps z (s.showWhole d) :=
  keeps_setReg _ _ h

theorem answers_execSnapshotWhole {d : Fin 64} (h : Keeps z s) : Answers z (execSnapshotWhole d s) := by
  unfold execSnapshotWhole
  split
  · exact answers_next h
  · split
    · exact answers_next h
    · exact answers_next (keeps_foldl _ _ _ (keeps_event _ _ _ _ (keeps_setFld _ _ (keeps_addFld _ _ (keeps_showWhole (keeps_setDom _ _
          (keeps_with h))))))
        (fun _ _ k => keeps_finishWith k))

theorem answers_execSnapshotIntervalExpiry (h : Keeps z s) : Answers z (execSnapshotIntervalExpiry s) :=
  answers_ite (answers_next (keeps_requestSnapshots h)) (answers_next h)

theorem keeps_putServing {d : Nat} {x : Served} (h : Keeps z s) : Keeps z (s.putServing d x) :=
  keeps_with h

theorem keeps_keepStaged (h : Keeps z s) : Keeps z s.keepStaged :=
  keeps_foldl _ _ _ h (fun _ _ k => keeps_ite k (keeps_stageFront k))

theorem keeps_blurSlots (h : Keeps z s) : Keeps z s.blurSlots :=
  keeps_keepStaged (keeps_foldl _ _ _ h (fun _ _ k1 => keeps_overRegion (fun _ _ _ k2 => keeps_scramble _ _ k2) k1))

theorem keeps_takeBlock {d n region block : Nat} {whole : Bool} {bs : Bytes} (h : Keeps z s) :
    Keeps z (s.takeBlock d n region block whole bs) := by
  unfold State.takeBlock
  refine keeps_putServing ?_
  split
  · exact keeps_devWrite _ _ h
  · exact h

theorem keeps_takeCommit {d n image : Nat} {r : DomRecord} (h : Keeps z s) : Keeps z (s.takeCommit d n image r) := by
  unfold State.takeCommit
  refine keeps_putServing ?_
  split
  · exact keeps_devWrite _ _ h
  · exact h

theorem keeps_putSlot {d i : Nat} {x : PartnerSlot} (h : Keeps z s) : Keeps z (s.putSlot d i x) :=
  keeps_putServing h

theorem keeps_fillSlot {d n : Nat} {f : Basis → Basis} (h : Keeps z s) : Keeps z (s.fillSlot d n f) := by
  unfold State.fillSlot
  split
  · exact keeps_putSlot h
  · exact h

theorem keeps_takeSurvival {rank : Nat} {x : Body} (h : Keeps z s) : Keeps z (s.takeSurvival rank x) := by
  unfold State.takeSurvival
  split
  · exact keeps_ite (keeps_takeBlock h) h
  · exact keeps_ite (keeps_takeCommit h) h
  · exact keeps_ite (keeps_with h) h
  · exact keeps_ite h (keeps_ite (keeps_sendTo (keeps_putSlot (keeps_putServing h)))
      (keeps_putSlot (keeps_blurSlots (keeps_putServing h))))
  · exact keeps_fillSlot h
  · exact keeps_fillSlot h
  · exact keeps_fillSlot h
  · split
    · exact h
    · exact keeps_sendTo (keeps_putServing (keeps_putSlot h))
  · split
    · exact keeps_putSlot h
    · exact h
  · split
    · exact keeps_ite (keeps_setDom _ _ h) h
    · exact h
  · split
    · exact keeps_ite (keeps_event _ _ _ _ (keeps_dropSnapshot h)) h
    · exact h
  · exact keeps_ite (keeps_store _ _ h) h
  · exact keeps_wantSnapshots h
  · exact keeps_ite (keeps_putServing h) h
  · exact h

theorem keeps_offer {i : Nat} (h : Keeps z s) : Keeps z (s.offer i) := by
  unfold State.offer
  split
  · exact keeps_with h
  · exact keeps_event _ _ _ _ (keeps_setFld _ _ (keeps_with h))

theorem keeps_seekPartner (h : Keeps z s) : Keeps z s.seekPartner :=
  keeps_offer (keeps_setReg _ _ (keeps_with h))

theorem keeps_takePartner {i rank room : Nat} {same : Bool} (h : Keeps z s) : Keeps z (s.takePartner i rank room same) :=
  keeps_requestSnapshots (keeps_foldl _ _ _ (keeps_setUpMirror (keeps_setFld _ _ (keeps_setFld _ _ (keeps_setFld _ _ (keeps_with h)))))
    (fun _ _ k => keeps_sendTo k))

theorem keeps_recommitPartner (h : Keeps z s) : Keeps z s.recommitPartner := by
  unfold State.recommitPartner
  split
  · exact keeps_seekPartner h
  · split
    · exact keeps_sendPlan (keeps_setFld _ _ h)
    · exact keeps_seekPartner h

theorem answers_execPartnerOfferAnswer {i : Fin 4} {status : BitVec 16} {feed loop : BitVec 32} {room : Nat} (h : Keeps z s) :
    Answers z (execPartnerOfferAnswer i status feed loop room s) := by
  unfold execPartnerOfferAnswer
  refine answers_ite (answers_next h) ?_
  extract_lets _ _ _ _ _ _ _ u v
  have hu : Keeps z u := keeps_ite (keeps_setFld _ _ h) h
  have hv : Keeps z v := keeps_ite (keeps_event _ _ _ _ hu) hu
  refine answers_ite (answers_next (keeps_offer (keeps_addFld _ _ hv))) (answers_ite (answers_next (keeps_offer (keeps_with hv)))
    (answers_ite (answers_next (keeps_offer hv)) ?_))
  generalize State.rankOf _ _ = o
  cases o with
  | some r => exact answers_next (keeps_takePartner hv)
  | none => exact answers_next (keeps_offer hv)

theorem answers_execPartnerOfferReceived {rank : Nat} {feed loop : BitVec 32} {plan : List (Nat × List (Nat × Nat))} {strict : Bool}
    (h : Keeps z s) :
    Answers z (execPartnerOfferReceived rank feed loop plan strict s) :=
  answers_ite (answers_next h)
    (answers_ite (answers_next (keeps_with h)) (answers_ite (answers_next (keeps_with h)) (answers_next (keeps_with h))))

theorem keeps_loseCopies {d : Nat} (h : Keeps z s) : Keeps z (s.loseCopies d) :=
  keeps_ite (keeps_setReg _ _ (keeps_showWhole (keeps_setDom _ _ h)))
    (keeps_event _ _ _ _ (keeps_setReg _ _ (keeps_showWhole (keeps_setDom _ _ h))))

theorem keeps_endFill {d : Nat} {r : Restore} {status : Nat} (h : Keeps z s) : Keeps z (s.endFill d r status) :=
  keeps_finishWith (keeps_event _ _ _ _ (keeps_setDom _ _ h))

theorem keeps_loseRestore {d : Nat} (h : Keeps z s) : Keeps z (s.loseRestore d) := by
  unfold State.loseRestore
  split
  · exact keeps_ite h (keeps_endFill h)
  · exact h

theorem keeps_losePartner {rank : Nat} (h : Keeps z s) : Keeps z (s.losePartner rank) :=
  keeps_ite h (keeps_seekPartner (keeps_foldl _ _ _ h (fun _ _ k => keeps_loseRestore (keeps_loseCopies (keeps_dropSnapshot k)))))

theorem answers_execStepRestore {h : Word} {whole : Bool} (hs : Keeps z s) : Answers z (execStepRestore h whole s) := by
  unfold execStepRestore
  split
  · exact answers_next hs
  · dsimp only
    split
    · exact answers_next (keeps_finishWith (keeps_begin _ hs))
    · exact answers_next (keeps_finish _ _ (keeps_begin _ hs))
    · exact answers_next (keeps_setDom _ _ (keeps_begin _ hs))

theorem keeps_loadFront {d : Nat} {f : Front} (h : Keeps z s) : Keeps z (s.loadFront d f) :=
  keeps_via (fun k1 => keeps_ite k1 (keeps_foldl _ _ _ k1 (fun _ _ k2 => keeps_adoptEntry k2)))
    (keeps_foldl _ _ _ (keeps_foldl _ _ _ (keeps_foldl _ _ _ h (fun _ _ k3 => keeps_freeHandle k3))
        (fun _ _ k4 => keeps_devWrite _ _ k4))
      (fun _ _ k5 => keeps_setHandle (keeps_with k5)))

theorem keeps_reloadSamples {d : Nat} {reserve : List Sample} (h : Keeps z s) : Keeps z (s.reloadSamples d reserve) :=
  keeps_foldl _ _ _ (keeps_with h) (fun _ _ k => keeps_setEngine k)

theorem keeps_loadRecord {d : Nat} {r : DomRecord} (h : Keeps z s) : Keeps z (s.loadRecord d r) :=
  keeps_foldl _ _ _ (keeps_with (keeps_reloadSamples (keeps_setReg _ _ (keeps_setReg _ _ (keeps_setReg _ _ (keeps_setFld _ _
      (keeps_setFld _ _ (keeps_setDom _ _ h))))))))
    (fun _ _ k => keeps_showTails k)

theorem answers_execRestoreBasisLoaded {d : Fin 64} {outcome : BitVec 16} {basis : Basis} (h : Keeps z s) :
    Answers z (execRestoreBasisLoaded d outcome basis s) := by
  unfold execRestoreBasisLoaded
  split
  · exact answers_next h
  · exact answers_ite (answers_next h)
      (answers_ite (answers_next (keeps_endFill h))
        (answers_next (keeps_setDom _ _ (keeps_with (keeps_loadRecord (keeps_loadFront (keeps_foldl _ _ _ h (fun _ _ k => keeps_devWrite _ _
          k))))))))

theorem keeps_loseRecords {d salt : Nat} (h : Keeps z s) (hf : z.fresh ≤ salt) : Keeps z (s.loseRecords d salt) := by
  unfold State.loseRecords
  extract_lets u f mine samples g tail tails _ v w
  have hu : Keeps z u := keeps_foldl _ _ _ h fun _ _ k => keeps_ite (keeps_setHandle k) (keeps_freeHandle k)
  have hv : Keeps z v := ⟨hu.pending, hu.part, hf.trans (by show salt ≤ salt + 2 ^ 22 + 2 ^ 40 + 2 ^ 40; omega), hu.mem, hu.regs⟩
  have hw : Keeps z w := keeps_foldl _ _ _ hv fun _ _ k => keeps_setEngine k
  exact keeps_foldl _ _ _ hw fun _ _ k => keeps_showTails k

theorem keeps_loseProtected {d : Nat} (h : Keeps z s) : Keeps z (s.loseProtected d) := by
  unfold State.loseProtected
  extract_lets mine u _ v f _ w x y
  have hu : Keeps z u := keeps_scrambleAll (keeps_foldl _ _ _ h fun _ _ k => keeps_overRegion (fun _ _ _ k => keeps_scramble _ _ k)
    k)
  have hv : Keeps z v := keeps_setDom _ _ hu
  have hw : Keeps z w := keeps_setReg _ _ (keeps_setReg _ _ hv)
  have hx : Keeps z x := keeps_setFld _ _ (keeps_setFld _ _ hw)
  have hy : Keeps z y := keeps_setFld _ _ (keeps_setFld _ _ (keeps_setFld _ _ hx))
  exact keeps_loseRecords hy (hv.fresh.trans (by show v.fresh ≤ v.fresh + 2 ^ 16 + 7; omega))

theorem keeps_checkLoss {d step : Nat} (h : Keeps z s) : Keeps z (s.checkLoss d step) := by
  unfold State.checkLoss
  split
  · exact h
  · exact keeps_ite h (keeps_ite (keeps_finish _ _ (keeps_loseProtected (keeps_setDom _ _ h)))
      (keeps_ite (keeps_finishWith (keeps_setDom _ _ h)) h))

theorem keeps_replayChanges {d : Nat} (h : Keeps z s) : Keeps z (s.replayChanges d) := by
  unfold State.replayChanges
  dsimp only
  split
  · exact h
  · exact keeps_ite h (keeps_foldl _ _ _ h (fun _ _ k => keeps_applyChange k))

theorem keeps_healthTick (h : Keeps z s) : Keeps z s.healthTick :=
  keeps_ite (keeps_setFld _ _ (keeps_with h))
    (keeps_ite (keeps_ite (keeps_setFld _ _ (keeps_requestSnapshots (keeps_event _ _ _ _ (keeps_setFld _ _ (keeps_with h)))))
        (keeps_setFld _ _ (keeps_with h)))
      (keeps_ite (keeps_setFld _ _ (keeps_setFld _ _ (keeps_with h))) (keeps_setFld _ _ (keeps_with h))))

theorem answers_execRiskSecond (h : Keeps z s) : Answers z (execRiskSecond s) :=
  answers_next (keeps_ite (keeps_ite (keeps_addRisk h) h) (keeps_addScore (keeps_ite (keeps_addRisk h) h)))

/-! ### The operations of Machine/Power -/

theorem keeps_showRequest (h : Keeps z s) : Keeps z s.showRequest :=
  keeps_setFld _ _ (keeps_setFld _ _ (keeps_setFld _ _ h))

theorem keeps_setStep {n : Nat} {agreed urgent : Bool} (h : Keeps z s) : Keeps z (s.setStep n agreed urgent) :=
  keeps_ite (keeps_with h)
    (keeps_ite (keeps_event _ _ _ _ (keeps_event _ _ _ _ (keeps_trace _ _ _ _ _ (keeps_addFld _ _ (keeps_setFld _ _ (keeps_with h))))))
      (keeps_event _ _ _ _ (keeps_trace _ _ _ _ _ (keeps_addFld _ _ (keeps_setFld _ _ (keeps_with h))))))

theorem keeps_raiseVolts {n : Nat} (h : Keeps z s) : Keeps z (s.raiseVolts n) :=
  keeps_ite (keeps_sendPoints _ (keeps_with h)) h

theorem keeps_lowerVolts {n : Nat} (h : Keeps z s) : Keeps z (s.lowerVolts n) :=
  keeps_sendPoints _ (keeps_with h)

theorem keeps_seekStep (h : Keeps z s) : Keeps z s.seekStep :=
  keeps_ite (keeps_lowerVolts (keeps_setStep h))
    (keeps_ite (keeps_ite (keeps_setStep h) (keeps_raiseVolts (keeps_with h))) (keeps_setStep h))

theorem answers_execVoltageSettled (h : Keeps z s) : Answers z (execVoltageSettled s) := by
  unfold execVoltageSettled
  split
  · exact answers_next h
  · exact answers_next (keeps_ite (keeps_setStep (keeps_with h)) (keeps_with h))

theorem keeps_takeDecision {at_ n : Nat} (h : Keeps z s) : Keeps z (s.takeDecision at_ n) :=
  keeps_raiseVolts (keeps_with (keeps_ite (keeps_addFld _ _ h) h))

theorem keeps_takeRequest {rank n : Nat} (h : Keeps z s) : Keeps z (s.takeRequest rank n) :=
  keeps_with h

theorem keeps_takeFstep {rank : Nat} {x : Body} (h : Keeps z s) : Keeps z (s.takeFstep rank x) := by
  unfold State.takeFstep
  split
  · exact keeps_ite (keeps_takeRequest h) h
  · exact keeps_ite (keeps_takeDecision h) h
  · exact h

theorem keeps_decideStep {t : Nat} (h : Keeps z s) : Keeps z (s.decideStep t) :=
  keeps_ite h (keeps_takeDecision (keeps_foldl _ _ _ (keeps_with h) (fun _ _ k => keeps_sendTo k)))

theorem keeps_stepBoundary {t : Nat} (h : Keeps z s) : Keeps z (s.stepBoundary t) := by
  unfold State.stepBoundary
  refine keeps_ite (keeps_showRequest h)
    (keeps_via (fun k => keeps_ite (keeps_decideStep (keeps_takeRequest (keeps_seekStep (keeps_showRequest k))))
        (keeps_sendTo (keeps_seekStep (keeps_showRequest k))))
      ?_)
  split
  · exact keeps_setFld _ _ (keeps_with (keeps_with h))
  · exact keeps_with h

theorem keeps_newMaster (h : Keeps z s) : Keeps z s.newMaster :=
  keeps_with h

theorem keeps_takeEmergency (h : Keeps z s) : Keeps z s.takeEmergency :=
  keeps_ite (keeps_sendPoints _ (keeps_with (keeps_setStep (keeps_addFld _ _ (keeps_setFld _ _ h)))))
    (keeps_with (keeps_addFld _ _ (keeps_setFld _ _ h)))

theorem answers_execDroop {k : Fin 4} {depth : BitVec 16} (h : Keeps z s) : Answers z (execDroop k depth s) :=
  answers_ite (answers_next h)
    (answers_next (keeps_addRisk (keeps_takeEmergency (keeps_event _ _ _ _ (keeps_addFld _ _ (keeps_with h))))))

theorem answers_execEmergencyHoldEnd (h : Keeps z s) : Answers z (execEmergencyHoldEnd s) :=
  answers_ite (answers_next h)
    (answers_next (keeps_ite (keeps_raiseVolts (keeps_setFld _ _ (keeps_with h))) (keeps_setFld _ _ (keeps_with h))))

theorem keeps_thermalCritical {j : Nat × Nat × Nat} (h : Keeps z s) : Keeps z (s.thermalCritical j) :=
  keeps_with (keeps_setRails (keeps_event _ _ _ _ (keeps_fault h)))

theorem keeps_thermalTrip {j : Nat × Nat × Nat} (h : Keeps z s) : Keeps z (s.thermalTrip j) :=
  keeps_ite h (keeps_takeEmergency (keeps_event _ _ _ _ (keeps_with h)))

theorem answers_execThermalSample {compute link hbm : List (Fin 256)} {host : Fin 256} {outlet : BitVec 16} (h : Keeps z s) :
    Answers z (execThermalSample compute link hbm host outlet s) := by
  unfold execThermalSample
  refine answers_ite (answers_next h) ?_
  extract_lets _ _ _ _ u v w x
  have hv : Keeps z v := keeps_setFld _ _ (keeps_setFld _ _ (keeps_with h))
  have hx : Keeps z x := keeps_setFld _ _ (keeps_setFld _ _ (keeps_setFld _ _ hv))
  generalize hottest _ = o
  cases o with
  | none => exact answers_next hx
  | some j =>
    have ht := keeps_ite (c := 105 ≤ j.2.2) (keeps_thermalTrip (j := j) hx) hx
    exact answers_next (keeps_ite (keeps_thermalCritical ht) ht)

theorem answers_execThermalStepPeriod (h : Keeps z s) : Answers z (execThermalStepPeriod s) := by
  unfold execThermalStepPeriod
  refine answers_ite (answers_next h) ?_
  split
  · exact answers_next (keeps_ite (keeps_event _ _ _ _ (keeps_with h)) (keeps_with h))
  · exact answers_next (keeps_with h)

theorem answers_execPowerSample {rails : List (BitVec 16 × BitVec 16)} {vddc : BitVec 16 × BitVec 16} (h : Keeps z s) :
    Answers z (execPowerSample rails vddc s) :=
  answers_ite (answers_next h)
    (answers_next (keeps_setFld _ _ (keeps_setFld _ _ (keeps_setFld _ _ (keeps_count _ _ _ (keeps_with (keeps_foldl _ _ _ h
      (fun _ _ k => keeps_setFld _ _ (keeps_setFld _ _ k)))))))))

theorem answers_execCapControllerPeriod (h : Keeps z s) : Answers z (execCapControllerPeriod s) :=
  answers_ite (answers_next h)
    (answers_next (keeps_ite (keeps_event _ _ _ _ (keeps_with (keeps_setFld _ _ (keeps_with h)))) (keeps_setFld _ _ (keeps_with h))))

theorem keeps_showEnvelopes (h : Keeps z s) : Keeps z s.showEnvelopes :=
  keeps_foldl _ _ _ h (fun _ _ k => keeps_setFld _ _ k)

theorem keeps_scaleEnvelopes (h : Keeps z s) : Keeps z s.scaleEnvelopes :=
  keeps_ite (keeps_event _ _ _ _ (keeps_showEnvelopes h)) (keeps_showEnvelopes h)

theorem keeps_estimatePower (h : Keeps z s) : Keeps z s.estimatePower :=
  keeps_foldl _ _ _ h (fun _ _ k1 => keeps_via (fun k2 => keeps_ite (keeps_addFld _ _ (keeps_with k2)) (keeps_with k2))
    (keeps_setFld _ _ (keeps_freshWord (keeps_freshWord k1))))

theorem keeps_reviewEnvelopes {before : Bool} (h : Keeps z s) : Keeps z (s.reviewEnvelopes before) :=
  keeps_ite (keeps_showEnvelopes h) (keeps_scaleEnvelopes h)

theorem answers_execSetCap {cap : BitVec 16} {window : BitVec 8} {full : Bool} (h : Keeps z s) :
    Answers z (execSetCap cap window full s) :=
  answers_manage h (answers_ite (answers_next h)
    (answers_ite (answers_next (keeps_answer _ _ _ h))
      (answers_next (keeps_scaleEnvelopes (keeps_setFld _ _ (keeps_setFld _ _ (keeps_answer _ _ _ h)))))))

theorem answers_execClearShed {full : Bool} (h : Keeps z s) : Answers z (execClearShed full s) :=
  answers_manage h (answers_ite (answers_next h) (answers_next (keeps_scaleEnvelopes (keeps_setFld _ _ (keeps_answer _ _ _ h)))))

/-! ### The operations of Machine/Security -/

theorem answers_execDebugNonce {full : Bool} (h : Keeps z s) : Answers z (execDebugNonce full s) :=
  answers_manage h (answers_ite (answers_next h) (answers_next (keeps_answer _ _ _ (keeps_with h))))

theorem answers_execDebugGrant {g : Bytes} {full : Bool} (h : Keeps z s) : Answers z (execDebugGrant g full s) :=
  answers_manage h (answers_ite (answers_next h)
    (answers_ite (answers_next (keeps_answer _ _ _ h))
      (answers_next (keeps_event _ _ _ _ (keeps_with (keeps_endGrant (keeps_answer _ _ _ h)))))))

theorem answers_execDebugRevoke {full : Bool} (h : Keeps z s) : Answers z (execDebugRevoke full s) :=
  answers_manage h (answers_ite (answers_next h) (answers_next (keeps_endGrant (keeps_answer _ _ _ h))))

theorem answers_execDebugGrantExpiry (h : Keeps z s) : Answers z (execDebugGrantExpiry s) :=
  answers_next (keeps_endGrant h)

theorem answers_execDebugNonceExpiry (h : Keeps z s) : Answers z (execDebugNonceExpiry s) :=
  answers_next (keeps_with h)

theorem answers_execEnrolOwner {key signature : Bytes} {full : Bool} (h : Keeps z s) :
    Answers z (execEnrolOwner key signature full s) := by
  unfold execEnrolOwner
  refine answers_manage h (answers_ite (answers_next h) ?_)
  dsimp only
  split
  · exact answers_next (keeps_answer _ _ _ (keeps_with h))
  · exact answers_ite (answers_next (keeps_answer _ _ _ (keeps_with h))) (answers_next (keeps_answer _ _ _ h))

theorem answers_execReadLog {first : BitVec 16} {count : BitVec 8} {full : Bool} (h : Keeps z s) :
    Answers z (execReadLog first count full s) :=
  answers_manage h (answers_ite (answers_next h)
    (answers_ite (answers_next (keeps_answer _ _ _ h)) (answers_next (keeps_answer _ _ _ h))))

theorem keeps_reply {status : Nat} {data : Bytes} (h : Keeps z s) : Keeps z (s.reply status data) :=
  keeps_with h

theorem answers_execMctpControl {addr : Option (BitVec 7)} {eid : Option (BitVec 8)} (h : Keeps z s) :
    Answers z (execMctpControl addr eid s) := by
  unfold execMctpControl
  refine answers_ite (answers_next h) ?_
  extract_lets u v
  have hu : Keeps z u := by
    unfold u
    split
    · exact keeps_setFld _ _ h
    · exact h
  have hv : Keeps z v := by
    unfold v
    split
    · exact keeps_setFld _ _ hu
    · exact hu
  exact answers_next (keeps_reply hv)

theorem answers_execPldmSensorRefresh (h : Keeps z s) : Answers z (execPldmSensorRefresh s) :=
  answers_ite (answers_next h) (answers_next (keeps_with h))

theorem answers_execPldmSensorRead {i : Fin 10} (h : Keeps z s) : Answers z (execPldmSensorRead i s) :=
  answers_ite (answers_next h) (answers_next (keeps_reply h))

theorem answers_execPldmStartReportRead {off len : Nat} (h : Keeps z s) : Answers z (execPldmStartReportRead off len s) :=
  answers_ite (answers_next h) (answers_next (keeps_reply h))

theorem keeps_setTransfer {kind : Nat} {x : Option Transfer} (h : Keeps z s) : Keeps z (s.setTransfer kind x) :=
  keeps_with h

theorem answers_execFirmwareUpdateTransfer {component : BitVec 16} {first : Bool} {data : Bytes} {floor : Option (Nat × Bytes)}
    (h : Keeps z s) :
    Answers z (execFirmwareUpdateTransfer component first data floor s) := by
  unfold execFirmwareUpdateTransfer
  refine answers_ite (answers_next h) (answers_ite (answers_next (keeps_reply h)) ?_)
  split
  · exact answers_next (keeps_reply h)
  · exact answers_next (keeps_reply h)
  · exact answers_next (keeps_reply (keeps_setTransfer (keeps_with h)))
  · exact answers_next (keeps_reply (keeps_setTransfer h))

theorem answers_execVerifyComplete {component : BitVec 16} (h : Keeps z s) : Answers z (execVerifyComplete component s) := by
  unfold execVerifyComplete
  dsimp only
  split
  · exact answers_next h
  · exact answers_ite (answers_next (keeps_reply (keeps_setTransfer (keeps_with h))))
      (answers_next (keeps_reply (keeps_setTransfer (keeps_with h))))

theorem keeps_applied {x : Transfer} (h : Keeps z s) : Keeps z (s.applied x) :=
  keeps_reply (keeps_with (keeps_addFld _ _ (keeps_setTransfer h)))

theorem answers_execApplyComplete {component : BitVec 16} (h : Keeps z s) : Answers z (execApplyComplete component s) := by
  unfold execApplyComplete
  split
  · exact answers_next h
  · exact answers_ite (answers_next h)
      (answers_ite (answers_next (keeps_bootWith (keeps_applied h))) (answers_next (keeps_applied h)))

theorem answers_spdm {data : Bytes} (h : Keeps z s) : Answers z (s.spdm data) :=
  answers_ite (answers_next h) (answers_next (keeps_reply (keeps_addFld _ _ h)))

theorem answers_execGetVersion (h : Keeps z s) : Answers z (execGetVersion s) :=
  answers_spdm h

theorem answers_execGetCapabilities (h : Keeps z s) : Answers z (execGetCapabilities s) :=
  answers_spdm (keeps_used h)

theorem answers_execNegotiateAlgorithms (h : Keeps z s) : Answers z (execNegotiateAlgorithms s) :=
  answers_spdm h

theorem answers_execGetDigests (h : Keeps z s) : Answers z (execGetDigests s) :=
  answers_spdm h

theorem answers_execGetCertificate {off len : Nat} (h : Keeps z s) : Answers z (execGetCertificate off len s) :=
  answers_spdm h

theorem answers_execChallenge {nonce : Bytes} (h : Keeps z s) : Answers z (execChallenge nonce s) :=
  answers_spdm h

theorem answers_execGetMeasurements {index : Nat} {nonce : Option Bytes} (h : Keeps z s) :
    Answers z (execGetMeasurements index nonce s) :=
  answers_spdm h

theorem keeps_putOutput {h : Word} {a size : Nat} {data : Bytes} (hs : Keeps z s) : Keeps z (s.putOutput h a size data) :=
  keeps_ite (keeps_finishWith hs) (keeps_ite (keeps_finishWith (keeps_engineFault hs)) (keeps_finishOk (keeps_devWrite _ _ hs)))

theorem answers_execIdentityGet {h : Word} (hs : Keeps z s) : Answers z (execIdentityGet h s) := by
  unfold execIdentityGet
  split
  · exact answers_next hs
  · exact answers_next (keeps_putOutput (keeps_begin _ hs))

theorem answers_execAttestGet {h : Word} {found : List Found} (hs : Keeps z s) : Answers z (execAttestGet h found s) := by
  unfold execAttestGet
  dsimp only
  split
  · exact answers_next (keeps_findErrors hs)
  · refine answers_ite (answers_next (keeps_finishWith (keeps_engineFault (keeps_begin _ (keeps_findErrors hs))))) ?_
    split
    · exact answers_next (keeps_finish _ _ (keeps_begin _ (keeps_findErrors hs)))
    · exact answers_next (keeps_putOutput (keeps_begin _ (keeps_findErrors hs)))

/-! ### The operations of Machine/Access -/

theorem keeps_peek {w : Nat} (h : Keeps z s) : Keeps z (s.peek w).2 :=
  keeps_ite_snd h (keeps_ite_snd h (keeps_setFld _ _ h))

theorem keeps_readReg {a : Nat} (h : Keeps z s) : Keeps z (s.readReg a).2 := by
  unfold State.readReg
  refine keeps_ite_snd h ?_
  split
  · exact keeps_freshWord h
  · split
    · exact keeps_peek h
    · exact keeps_ite_snd (keeps_freshWord h) h

theorem keeps_loadReg {a size : Nat} (h : Keeps z s) : Keeps z (s.loadReg a size).2 :=
  keeps_ite_snd (keeps_readReg h) (keeps_used h)

theorem keeps_writePlain {a : Nat} {r : RegRow} {v : Nat} (h : Keeps z s) : Keeps z (s.writePlain a r v) :=
  keeps_ite (keeps_with h) (keeps_ite (keeps_with (keeps_setReg _ _ h)) (keeps_setReg _ _ h))

theorem keeps_state {o : Out} (ho : Answers z o) : Keeps z (o.state s) := by
  obtain ⟨t, rfl, k⟩ := ho
  exact k

theorem keeps_writeQueueCtrl {q : Fin 256} {v : Nat} (h : Keeps z s) : Keeps z (s.writeQueueCtrl q v) :=
  keeps_via (fun k => keeps_ite (keeps_state (answers_execQueueResume k)) k)
    (keeps_ite (keeps_state (answers_execQueueEnable h)) (keeps_state (answers_execQueueDrain h)))

theorem keeps_writeProgram {t v : Nat} {r : RegRow} (h : Keeps z s) : Keeps z (s.writeProgram t v r) := by
  unfold State.writeProgram
  refine keeps_ite ?_ (keeps_with h)
  split
  · exact keeps_writePlain h
  · split
    · exact keeps_writePlain h
    · exact keeps_foldl _ _ _ (keeps_putField (keeps_putField (keeps_putField (keeps_writePlain h))))
        (fun _ _ k => keeps_setReg _ _ k)

theorem keeps_writeCtl {a v : Nat} {r : RegRow} (h : Keeps z s) : Keeps z (s.writeCtl a v r) :=
  keeps_ite (keeps_state (answers_execErrRingHeadWrite h))
    (keeps_ite (keeps_ite (keeps_applyChange (keeps_writePlain h)) (keeps_writePlain h)) (keeps_writePlain h))

theorem keeps_writeHst {a v : Nat} {r : RegRow} (h : Keeps z s) : Keeps z (s.writeHst a v r) := by
  unfold State.writeHst
  refine keeps_ite (keeps_state (answers_execProtoNegotiate h)) ?_
  split
  · exact keeps_state (answers_execPushCfgWrite h)
  · exact keeps_state (answers_execPushSeal h)
  · exact keeps_writeQueueCtrl h
  · exact keeps_state (answers_execCqHeadWrite h)
  · exact keeps_writePlain h

theorem keeps_writeDbg {a v : Nat} {r : RegRow} (h : Keeps z s) : Keeps z (s.writeDbg a v r) :=
  keeps_ite (keeps_state (answers_execTraceEnable h))
    (keeps_ite (keeps_state (answers_execHaltResume h))
      (keeps_ite (keeps_ite (keeps_deny h) (keeps_ite h (keeps_writePlain h)))
        (keeps_ite (keeps_ite (keeps_writePlain h) (keeps_deny h)) (keeps_writePlain h))))

theorem keeps_writeEngine {a v : Nat} {r : RegRow} (h : Keeps z s) : Keeps z (s.writeEngine a v r) :=
  keeps_ite (keeps_state (answers_ite (answers_execIntakeEnable h) (answers_execIntakeDisable h)))
    (keeps_ite (keeps_state (answers_execIntakeRingTailWrite h))
      (keeps_ite (keeps_state (answers_execWorkerDone h))
        (keeps_ite (keeps_setFld _ _ (keeps_state (answers_ite (answers_execKvpEnable h) (answers_execKvpDisable h))))
          (keeps_writePlain h))))

theorem keeps_writeUnit {a v : Nat} {r : RegRow} (h : Keeps z s) : Keeps z (s.writeUnit a v r) := by
  unfold State.writeUnit
  split
  · refine keeps_ite (keeps_setFld _ _ h) ?_
    split
    · exact keeps_with h
    · exact keeps_writePlain h
  · exact keeps_ite (keeps_writeProgram h) (keeps_ite (keeps_ite (keeps_setReg _ _ h) h) (keeps_writePlain h))
  · exact keeps_writePlain h

theorem keeps_storeReg {a v : Nat} (h : Keeps z s) : Keeps z (s.storeReg a v) := by
  unfold State.storeReg
  refine keeps_ite h ?_
  split
  · exact h
  · exact keeps_ite (keeps_writeCtl h)
      (keeps_ite (keeps_ite h (keeps_writePlain h))
        (keeps_ite (keeps_writeDbg h) (keeps_ite (keeps_writeHst h) (keeps_ite (keeps_writeEngine h) (keeps_writeUnit h)))))

theorem answers_execRegisterWrite {addr : BitVec 48} {size : Nat} {value : Word} (h : Keeps z s) :
    Answers z (execRegisterWrite addr size value s) :=
  answers_ite (answers_next h) (answers_ite (answers_next (keeps_with h)) (answers_next (keeps_storeReg (keeps_with h))))

theorem keeps_hostFaults {a : Nat} {unmapped : Bool} (h : Keeps z s) : Keeps z (s.hostFaults a unmapped) :=
  keeps_with (keeps_ite (keeps_setFld _ _ (keeps_setFld _ _ h)) h)

theorem keeps_hostLoads {bs : Bytes} (h : Keeps z s) : Keeps z (s.hostLoads bs) :=
  keeps_with h

theorem keeps_loadWindow {kind n o size : Nat} (h : Keeps z s) : Keeps z (s.loadWindow kind n o size).2 :=
  keeps_ite_snd h (keeps_ite_snd h (keeps_ite_snd h (keeps_used h)))

theorem keeps_storeWindow {kind n o : Nat} {bs : Bytes} (h : Keeps z s) : Keeps z (s.storeWindow kind n o bs) :=
  keeps_ite (keeps_state (answers_execPushWindowWrite h))
    (keeps_ite (keeps_state (answers_execWindowSubmit h))
      (keeps_ite (keeps_state (answers_execDoorbell h)) (keeps_ite (keeps_store _ _ h) h)))

theorem answers_hostAccess {dir : Dir} {addr : BitVec 48} {size : Nat} {value : Word} (h : Keeps z s) :
    Answers z (s.hostAccess dir addr size value) := by
  unfold State.hostAccess
  refine answers_ite (answers_next h) (answers_ite ?_ ?_)
  · split
    · exact answers_next (keeps_hostLoads (keeps_loadReg h))
    · exact answers_next (keeps_hostLoads (keeps_state (answers_execRegisterWrite h)))
  · split
    · split
      · exact answers_next (keeps_hostLoads (keeps_loadWindow h))
      · exact answers_next (keeps_hostLoads (keeps_storeWindow h))
    · refine answers_ite (answers_next (keeps_hostFaults h)) ?_
      split
      · exact answers_ite (answers_next (keeps_hostFaults h)) (answers_next (keeps_hostLoads (keeps_countHbm _ _ h)))
      · exact answers_next (keeps_hostLoads (keeps_devWrite _ _ h))

theorem answers_execHostCoreAccess {dir : Dir} {addr : BitVec 48} {size : Nat} {value : Word} {found : List Found} (h : Keeps z s)
    :
    Answers z (execHostCoreAccess dir addr size value found s) :=
  answers_hostAccess (keeps_findErrors h)

theorem keeps_pcieFaults {a : Nat} (h : Keeps z s) : Keeps z (s.pcieFaults a) :=
  keeps_with (keeps_setFld _ _ (keeps_setFld _ _ h))

theorem answers_pcieAccess {dir : Dir} {target : Option (BitVec 48)} {size : Nat} {data : Bytes} (h : Keeps z s) :
    Answers z (s.pcieAccess dir target size data) := by
  unfold State.pcieAccess
  refine answers_ite (answers_next h) ?_
  cases target with
  | none => exact answers_next (keeps_with h)
  | some t =>
    refine answers_ite (answers_next (keeps_pcieFaults h)) ?_
    cases dir with
    | load =>
      have k := keeps_countHbm (a := t.toNat) (n := size) h
      refine answers_next ⟨k.pending, k.part, ?_, k.mem, k.regs⟩
      dsimp only
      split
      · exact h.fresh.trans (Nat.le_succ _)
      · exact h.fresh
    | store => exact answers_next (keeps_with (keeps_devWrite _ _ h))

theorem answers_execPcieInboundRequest {dir : Dir} {target : Option (BitVec 48)} {size : Nat} {data : Bytes} {found : List Found}
    (h : Keeps z s) :
    Answers z (execPcieInboundRequest dir target size data found s) :=
  answers_pcieAccess (keeps_findErrors h)

/-! ### The operations of Machine/Memory -/

theorem keeps_scrubFixed {x k syndrome : Nat} (h : Keeps z s) : Keeps z (s.scrubFixed x k syndrome) :=
  keeps_wordFixed (keeps_addFld _ _ h)

theorem answers_execHbmScrubRead {x : Fin 16} {ecc : Ecc} {syndrome : BitVec 15} (h : Keeps z s) :
    Answers z (execHbmScrubRead x ecc syndrome s) := by
  unfold execHbmScrubRead
  refine answers_ite (answers_next h) ?_
  split
  · exact answers_next (keeps_ite (keeps_addFld _ _ (keeps_with h)) (keeps_with h))
  · exact answers_next (keeps_scrubFixed (keeps_ite (keeps_addFld _ _ (keeps_with h)) (keeps_with h)))
  · exact answers_next (keeps_wordPoisoned (keeps_ite (keeps_addFld _ _ (keeps_with h)) (keeps_with h)))

theorem keeps_coolDie {k : Nat} (h : Keeps z s) : Keeps z (s.coolDie k) :=
  keeps_foldl _ _ _ h (fun _ _ k => keeps_setFld _ _ k)

theorem keeps_raiseHotspot {k pc count imbalance : Nat} (h : Keeps z s) : Keeps z (s.raiseHotspot k pc count imbalance) :=
  keeps_event _ _ _ _ (keeps_addFld _ _ (keeps_setFld _ _ (keeps_setFld _ _ (keeps_setFld _ _ h))))

theorem keeps_detectHotspot {k : Nat} (h : Keeps z s) : Keeps z (s.detectHotspot k) :=
  keeps_ite (keeps_coolDie (keeps_with h))
    (keeps_ite (keeps_raiseHotspot (keeps_with h)) (keeps_ite (keeps_coolDie (keeps_with h)) (keeps_with h)))

theorem keeps_hotspots (h : Keeps z s) : Keeps z s.hotspots :=
  keeps_with (keeps_foldl _ _ _ h (fun _ _ k => keeps_detectHotspot k))

theorem keeps_setArb {a : ArbId} {x : Arb} (h : Keeps z s) : Keeps z (s.setArb a x) :=
  keeps_with h

theorem keeps_bankWaits {a : ArbId} {waits : List Nat} (h : Keeps z s) : Keeps z (s.bankWaits a waits) :=
  keeps_ite (keeps_addFld _ _ h) h

theorem answers_execArbiterDecision {a : ArbId} {asks : List Ask} (h : Keeps z s) : Answers z (execArbiterDecision a asks s) := by
  unfold execArbiterDecision
  dsimp only
  split
  · exact answers_next h
  · exact answers_next (keeps_bankWaits (keeps_setArb h))

theorem answers_execArbiterWindowReset {a : ArbId} (h : Keeps z s) : Answers z (execArbiterWindowReset a s) :=
  answers_next (keeps_setArb h)

theorem answers_execArbiterBackoffExpiry {a : ArbId} {r : Nat} (h : Keeps z s) : Answers z (execArbiterBackoffExpiry a r s) :=
  answers_next (keeps_setArb h)

theorem keeps_restartWindows (h : Keeps z s) : Keeps z s.restartWindows :=
  keeps_ite h (keeps_with h)

/-! ### The operations of Machine/Seal -/

theorem keeps_listSample {d step k : Nat} (h : Keeps z s) : Keeps z (s.listSample d step k) := by
  unfold State.listSample
  split
  · exact keeps_setSample h
  · exact h

theorem keeps_replayNote {d step note orig repl : Nat} (h : Keeps z s) : Keeps z (s.replayNote d step note orig repl) := by
  unfold State.replayNote
  dsimp only
  split
  · exact keeps_ite (keeps_addFld _ _ (keeps_addFld _ _ h)) (keeps_setSample (keeps_addFld _ _ (keeps_addFld _ _ h)))
  · exact keeps_addFld _ _ (keeps_addFld _ _ h)

theorem keeps_replayNotes {d step : Nat} {r : Bytes} (h : Keeps z s) : Keeps z (s.replayNotes d step r) :=
  keeps_foldl _ _ _ h (fun _ _ k => keeps_replayNote k)

theorem keeps_replaySeal {d step : Nat} {rs : List Bytes} (h : Keeps z s) : Keeps z (s.replaySeal d step rs) := by
  unfold State.replaySeal
  split
  · exact h
  · refine keeps_endSeal (keeps_writeTable ?_)
    split
    · exact keeps_replayNotes (keeps_foldl _ _ _ h (fun _ _ k => keeps_listSample k))
    · exact keeps_foldl _ _ _ h (fun _ _ k => keeps_listSample k)

theorem keeps_makeSeal {d step n : Nat} (h : Keeps z s) : Keeps z (s.makeSeal d step n) := by
  unfold State.makeSeal
  split
  · exact keeps_replaySeal h
  · exact keeps_seal h

theorem keeps_makeSeals {d n : Nat} (h : Keeps z s) : Keeps z (s.makeSeals d n) :=
  keeps_foldl _ _ _ h (fun _ _ k => keeps_ite (keeps_makeSeal k) (keeps_setDom _ _ k))

theorem answers_execIntakeSeal {d : Fin 64} (h : Keeps z s) : Answers z (execIntakeSeal d s) := by
  unfold execIntakeSeal
  refine answers_ite (answers_next h) ?_
  split
  · exact answers_next h
  · exact answers_next (keeps_makeSeal (keeps_runAligned h))

/-! ### The operations of Machine/Watch -/

theorem answers_execWatchReadingEnd {point : Fin 256} {found : List Found} (h : Keeps z s) :
    Answers z (execWatchReadingEnd point found s) := by
  unfold execWatchReadingEnd
  dsimp only
  split
  · exact answers_next (keeps_findErrors h)
  · exact answers_next (keeps_keepWatch (keeps_countHbm _ _ (keeps_used (keeps_findErrors h))))

theorem keeps_startWatches {d n : Nat} {replay : Bool} (h : Keeps z s) : Keeps z (s.startWatches d n replay) := by
  unfold State.startWatches
  refine keeps_foldl _ _ _ h (fun _ _ k => ?_)
  split
  · exact keeps_ite (keeps_with k) k
  · exact k

theorem answers_execWatchRead {h : Word} (hs : Keeps z s) : Answers z (execWatchRead h s) := by
  unfold execWatchRead
  split
  · exact answers_next hs
  · exact answers_ite (answers_next (keeps_finishOk (keeps_devWrite _ _ (keeps_begin _ hs))))
      (answers_next (keeps_finishWith (keeps_engineFault (keeps_begin _ hs))))

theorem answers_execWatchClear {h : Word} (hs : Keeps z s) : Answers z (execWatchClear h s) := by
  unfold execWatchClear
  split
  · exact answers_next hs
  · exact answers_next (keeps_finishWith (keeps_with (keeps_begin _ hs)))

/-! ### The operations of Machine/Boundary -/

theorem keeps_reachBoundary (h : Keeps z s) : Keeps z s.reachBoundary :=
  keeps_with (keeps_runAligned h)

theorem keeps_planBoundary (h : Keeps z s) : Keeps z s.planBoundary :=
  keeps_with h

theorem keeps_countBoundary (h : Keeps z s) : Keeps z s.countBoundary :=
  keeps_trace _ _ _ _ _ (keeps_with (keeps_count _ _ _ (keeps_setReg _ _ (keeps_with (keeps_restartWindows (keeps_hotspots h))))))

theorem keeps_checkSlot {d : Nat} (h : Keeps z s) : Keeps z (s.checkSlot d) := by
  unfold State.checkSlot
  have k : Keeps z (if s.coreHalted d = true then s else s.checkDomain d) := keeps_ite h (keeps_checkDomain h)
  exact keeps_ite (keeps_ite (keeps_count _ _ _ k) k) (keeps_answerStops (keeps_stopAtBoundary (keeps_ite (keeps_count _ _ _ k) k)))

theorem keeps_closeSlot {d : Nat} (h : Keeps z s) : Keeps z (s.closeSlot d) :=
  keeps_ite (keeps_mirrorStep (keeps_completeUpdate (keeps_stashFinish (keeps_mergeTaps h))))
    (keeps_mirrorSlot (keeps_completeUpdate (keeps_stashFinish (keeps_mergeTaps h))))

theorem keeps_spoolEnd {d : Nat} (h : Keeps z s) : Keeps z (s.spoolEnd d) :=
  keeps_spool h

theorem keeps_rotateDirty {d : Nat} (h : Keeps z s) : Keeps z (s.rotateDirty d) :=
  keeps_with h

theorem keeps_leaveStep {d : Nat} (h : Keeps z s) : Keeps z (s.leaveStep d) := by
  unfold State.leaveStep
  refine keeps_setDom _ _ (keeps_rotateDirty (keeps_resetRegs (keeps_freeListed ?_)))
  split
  · exact keeps_ite (keeps_ite (keeps_checkLoss (keeps_spoolEnd h)) h)
      (keeps_finishWith (keeps_ite (keeps_checkLoss (keeps_spoolEnd h)) h))
  · exact keeps_ite (keeps_checkLoss (keeps_spoolEnd h)) h

theorem keeps_openStep {d : Nat} {h : Word} {n : Nat} (hs : Keeps z s) : Keeps z (s.openStep d h n) :=
  keeps_startWatches (keeps_startSnapshot (keeps_finishOk (keeps_setDom _ _ (keeps_leaveStep (keeps_ite (keeps_setDom _ _
      (keeps_ite hs (keeps_rollBanks hs)))
    (keeps_chooseMethods (keeps_setDom _ _ (keeps_ite hs (keeps_rollBanks hs)))))))))

theorem keeps_beginStep {d : Nat} (h : Keeps z s) : Keeps z (s.beginStep d) := by
  unfold State.beginStep
  dsimp only
  split
  · exact keeps_ite (keeps_openStep h) h
  · exact h

theorem keeps_clearCounts (h : Keeps z s) : Keeps z s.clearCounts :=
  keeps_with (keeps_resetRegRange _ _ (keeps_foldl _ _ _ (keeps_resetRegs (keeps_foldl _ _ _ (keeps_foldl _ _ _ h (fun _ _ k1 => keeps_resetRegs
        (keeps_resetRegRange _ _ (keeps_resetRegRange _ _ (keeps_resetRegRange _ _ k1)))))
      (fun _ _ k2 => keeps_resetRegs k2)))
    (fun _ _ k3 => keeps_setFld _ _ k3)))

theorem keeps_freshSurvival (h : Keeps z s) : Keeps z s.freshSurvival :=
  keeps_setFld _ _ (keeps_setFld _ _ (keeps_setFld _ _ (keeps_ite (keeps_setReg _ _ (keeps_with h)) (keeps_with h))))

theorem keeps_protectImage (h : Keeps z s) : Keeps z s.protectImage :=
  keeps_recommitPartner (keeps_with h)

theorem keeps_commitTurn {n : Nat} (h : Keeps z s) : Keeps z (s.commitTurn n) := by
  unfold State.commitTurn
  split
  · exact h
  · exact keeps_ite (keeps_scaleEnvelopes (keeps_foldl _ _ _ (keeps_protectImage (keeps_stashOpen (keeps_commitEffect (keeps_freshSurvival
          (keeps_clearCounts h)))))
        (fun _ _ k => keeps_showTails k)))
      (keeps_ite (keeps_with h) h)

theorem keeps_shadowTurn {ds : List Nat} (h : Keeps z s) : Keeps z (s.shadowTurn ds) :=
  keeps_foldl _ _ _ (keeps_foldl _ _ _ (keeps_foldl _ _ _ (keeps_with (keeps_reviewEnvelopes (keeps_applyShadows h)))
        (fun _ _ k1 => keeps_setReg _ _ k1))
      (fun _ _ k2 => keeps_latchUpdates k2))
    (fun _ _ k3 => keeps_replayChanges k3)

theorem keeps_collTurn {ds : List Nat} (h : Keeps z s) : Keeps z (s.collTurn ds) :=
  keeps_collTick (keeps_foldl _ _ _ h (fun _ _ k => keeps_launchPosts k))

theorem keeps_holdTurn {d : Nat} (h : Keeps z s) : Keeps z (s.holdTurn d) :=
  keeps_ite (keeps_setDom _ _ (keeps_addFld _ _ h)) h

theorem keeps_firstTurns (h : Keeps z s) : Keeps z s.firstTurns :=
  keeps_commitTurn (keeps_foldl _ _ _ (keeps_foldl _ _ _ (keeps_foldl _ _ _ h (fun _ _ k1 => keeps_checkSlot k1))
      (fun _ _ k2 => keeps_closeSlot k2))
    (fun _ _ k3 => keeps_beginStep k3))

theorem keeps_laterTurns {ds : List Nat} (h : Keeps z s) : Keeps z (s.laterTurns ds) :=
  keeps_foldl _ _ _ (keeps_foldl _ _ _ (keeps_foldl _ _ _ (keeps_foldl _ _ _ (keeps_reclaim (keeps_collTurn (keeps_stepBoundary
            (keeps_shadowTurn h))))
          (fun _ _ k1 => keeps_stashMoves k1))
        (fun _ _ k2 => keeps_makeSeals k2))
      (fun _ _ k3 => keeps_holdTurn k3))
    (fun _ _ k4 => keeps_enterDomain k4)

theorem keeps_serveBoundary (h : Keeps z s) : Keeps z s.serveBoundary :=
  keeps_planBoundary (keeps_estimatePower (keeps_healthTick (keeps_laterTurns (keeps_firstTurns (keeps_countBoundary (keeps_reachBoundary
    h))))))

theorem answers_execTickBoundary {control : Option (Fin 64)} {sram : List (Fin 4 × Found)} {found : List Found} (h : Keeps z s)
    :
    Answers z (execTickBoundary control sram found s) := by
  unfold execTickBoundary
  refine answers_ite (answers_next h) ?_
  split
  · exact answers_next (keeps_serveBoundary (keeps_findErrors (keeps_foldl _ _ _ h (fun _ _ k => keeps_sramRead k))))
  · exact answers_next (keeps_serveBoundary (keeps_fault (keeps_findErrors (keeps_foldl _ _ _ h (fun _ _ k => keeps_sramRead k)))))

/-! ### The operations of Machine/Cut -/

theorem keeps_cutHandle {x : Handle} (h : Keeps z s) : Keeps z (s.cutHandle x) := by
  unfold State.cutHandle
  split
  · exact keeps_dropLines _ _ (keeps_dropLines _ _ h)
  · exact keeps_ite (keeps_landBytes _ _ (keeps_landBytes _ _ h)) (keeps_landBytes _ _ h)
  · exact h

theorem keeps_cutMove {p : Pending} (h : Keeps z s) : Keeps z (s.cutMove p) :=
  keeps_ite (keeps_landBytes _ _ h) (keeps_ite (keeps_landBytes _ _ h) (keeps_ite (keeps_landBytes _ _ h) (keeps_dropLines _ _ h)))

theorem keeps_cutColl {c : Coll} (h : Keeps z s) : Keeps z (s.cutColl c) := by
  unfold State.cutColl
  split
  · exact keeps_foldl _ _ _ h (fun _ _ k => keeps_landBytes _ _ k)
  · exact h

theorem keeps_cutPages (h : Keeps z s) : Keeps z s.cutPages :=
  keeps_foldl _ _ _ h (fun _ _ k1 => keeps_foldl _ _ _ k1 (fun _ _ k2 => keeps_landBytes _ _ k2))

theorem keeps_cutAll (h : Keeps z s) : Keeps z s.cutAll :=
  keeps_foldl _ _ _ (keeps_foldl _ _ _ (keeps_cutPages (keeps_foldl _ _ _ (keeps_foldl _ _ _ h (fun _ _ k1 => keeps_landRows k1))
        (fun _ _ k2 => keeps_cutHandle k2)))
      (fun _ _ k3 => keeps_cutMove k3))
    (fun _ _ k4 => keeps_cutColl k4)

theorem keeps_cutGrants {u : Nat} (h : Keeps z s) : Keeps z (s.cutGrants u) :=
  keeps_ite (keeps_foldl _ _ _ h (fun _ _ k1 => keeps_cutHandle k1))
    (keeps_ite (keeps_cutPages h)
      (keeps_foldl _ _ _ (keeps_foldl _ _ _ h (fun _ _ k2 => keeps_cutMove k2)) (fun _ _ k3 => keeps_cutColl k3)))

theorem answers_execArbiterWatchdogExpiry {a : ArbId} (h : Keeps z s) : Answers z (execArbiterWatchdogExpiry a s) := by
  unfold execArbiterWatchdogExpiry
  dsimp only
  split
  · exact answers_next h
  · refine answers_ite (answers_next h) ?_
    split
    · exact answers_next (keeps_unitFault (keeps_event _ _ _ _ (keeps_addFld _ _ (keeps_setArb h))))
    · exact answers_next (keeps_ite (keeps_contain (keeps_fault (keeps_cutGrants (keeps_event _ _ _ _ (keeps_addFld _ _
          (keeps_setArb h))))))
        (keeps_fault (keeps_cutGrants (keeps_event _ _ _ _ (keeps_addFld _ _ (keeps_setArb h))))))

theorem answers_execHostLinkLoss {k : Fin 4} (h : Keeps z s) : Answers z (execHostLinkLoss k s) := by
  unfold execHostLinkLoss
  refine answers_ite (answers_ite (answers_next (keeps_resetHalted (keeps_setFld _ _ (keeps_cutAll h)))) ?_) (answers_next h)
  split
  · exact answers_next (keeps_ascentFails (keeps_setFld _ _ (keeps_cutAll h)))
  · exact answers_next (keeps_autoAscent (keeps_deviceReset (keeps_setFld _ _ (keeps_cutAll h))))

/-! ### The operations of Machine/Facility -/

theorem keeps_modbusReply {pins : BitVec 3} {fn : Nat} {data : Bytes} (h : Keeps z s) : Keeps z (s.modbusReply pins fn data) :=
  keeps_with h

theorem keeps_modbusRefuse {pins : BitVec 3} {fn code : Nat} (h : Keeps z s) : Keeps z (s.modbusRefuse pins fn code) :=
  keeps_modbusReply h

theorem keeps_modbusRead {unit : BitVec 8} {pins : BitVec 3} {fn addr count size : Nat} {get : Nat → Nat} (h : Keeps z s) :
    Keeps z (s.modbusRead unit pins fn addr count size get) :=
  keeps_ite h (keeps_ite (keeps_modbusRefuse h) (keeps_ite (keeps_modbusRefuse h) (keeps_modbusReply h)))

theorem keeps_modbusOther {unit : BitVec 8} {pins : BitVec 3} {fn : Nat} (h : Keeps z s) : Keeps z (s.modbusOther unit pins fn) :=
  keeps_ite h (keeps_modbusRefuse h)

theorem answers_execModbusReadHoldingRegisters {unit : BitVec 8} {pins : BitVec 3} {other : Option (BitVec 8)}
    {addr count : BitVec 16} (h : Keeps z s) :
    Answers z (execModbusReadHoldingRegisters unit pins other addr count s) := by
  unfold execModbusReadHoldingRegisters
  split
  · exact answers_next (keeps_modbusRead h)
  · exact answers_next (keeps_modbusOther h)

theorem answers_execModbusReadInputRegisters {unit : BitVec 8} {pins : BitVec 3} {addr count : BitVec 16} (h : Keeps z s) :
    Answers z (execModbusReadInputRegisters unit pins addr count s) :=
  answers_next (keeps_modbusRead h)

theorem keeps_modbusWrite {unit : BitVec 8} {pins : BitVec 3} {fn addr : Nat} {vals : List Nat} {reply : Bytes} (h : Keeps z s) :
    Keeps z (s.modbusWrite unit pins fn addr vals reply) :=
  keeps_ite h (keeps_ite (keeps_ite (keeps_modbusRefuse h) h)
    (keeps_ite (keeps_ite (keeps_modbusRefuse h) h) (keeps_ite (keeps_modbusReply (keeps_with h)) (keeps_with h))))

theorem answers_execModbusWriteSingleRegister {unit : BitVec 8} {pins : BitVec 3} {addr value : BitVec 16} (h : Keeps z s) :
    Answers z (execModbusWriteSingleRegister unit pins addr value s) :=
  answers_next (keeps_modbusWrite h)

theorem answers_execModbusWriteMultipleRegisters {unit : BitVec 8} {pins : BitVec 3} {addr : BitVec 16}
    {values : List (BitVec 16)} (h : Keeps z s) :
    Answers z (execModbusWriteMultipleRegisters unit pins addr values s) :=
  answers_ite (answers_next (keeps_ite (keeps_modbusRefuse h) h)) (answers_next (keeps_modbusWrite h))

theorem answers_execFieldRepeatPeriod (h : Keeps z s) : Answers z (execFieldRepeatPeriod s) :=
  answers_next (keeps_with h)

theorem answers_execFieldValueTimeout (h : Keeps z s) : Answers z (execFieldValueTimeout s) :=
  answers_next (keeps_with h)

theorem keeps_takeField {type : Nat} {f : FieldFrame} (h : Keeps z s) : Keeps z (s.takeField type f).1 :=
  keeps_ite_fst h (keeps_ite_fst (keeps_addFld _ _ (keeps_addFld _ _ h))
    (keeps_ite_fst (keeps_addFld _ _ h) (keeps_ite_fst h (keeps_setFld _ _ (keeps_addFld _ _ h)))))

theorem keeps_takeValue {type : Nat} {f : FieldFrame} (h : Keeps z s) : Keeps z (s.takeValue type f).1 :=
  keeps_takeField h

theorem keeps_judgeCoolant (h : Keeps z s) : Keeps z s.judgeCoolant :=
  keeps_ite (keeps_event _ _ _ _ (keeps_with h)) (keeps_with h)

theorem answers_execInletTemp {f : FieldFrame} (h : Keeps z s) : Answers z (execInletTemp f s) :=
  answers_next (keeps_ite (keeps_judgeCoolant (keeps_setFld _ _ (keeps_takeValue h))) (keeps_takeValue h))

theorem answers_execFlow {f : FieldFrame} (h : Keeps z s) : Answers z (execFlow f s) :=
  answers_next (keeps_ite (keeps_judgeCoolant (keeps_setFld _ _ (keeps_takeValue h))) (keeps_takeValue h))

theorem answers_execPressure {f : FieldFrame} (h : Keeps z s) : Answers z (execPressure f s) :=
  answers_next (keeps_ite (keeps_setFld _ _ (keeps_takeValue h)) (keeps_takeValue h))

theorem answers_execLeak {f : FieldFrame} (h : Keeps z s) : Answers z (execLeak f s) := by
  unfold execLeak
  split
  next s e1 =>
    exact answers_next (keeps_fst_of (keeps_takeField h) e1)
  next s e2 =>
    exact answers_ite (answers_next (keeps_fst_of (keeps_takeField h) e2))
      (keeps_via (fun k1 => keeps_via (fun k2 => answers_ite (answers_ite (answers_next (keeps_with (keeps_event _ _ _ _ k2)))
              (answers_ite (answers_next (keeps_with (keeps_setRails (keeps_resetByRequest (keeps_event _ _ _ _ k2)))))
                (answers_next (keeps_event _ _ _ _ k2))))
            (answers_next k2))
          (keeps_ite (keeps_with k1) k1))
        (keeps_setFld _ _ (keeps_fst_of (keeps_takeField h) e2)))

theorem answers_execFeedId {f : FieldFrame} (h : Keeps z s) : Answers z (execFeedId f s) :=
  answers_next (keeps_ite (keeps_setFld _ _ (keeps_takeValue h)) (keeps_takeValue h))

theorem answers_execFeedState {f : FieldFrame} (h : Keeps z s) : Answers z (execFeedState f s) := by
  unfold execFeedState
  split
  next s e1 =>
    exact answers_next (keeps_fst_of (keeps_takeValue h) e1)
  next s e2 =>
    have k : Keeps z (s.setFld FAC_STATE_FEED_STATE f.value.toNat) := keeps_setFld _ _ (keeps_fst_of (keeps_takeValue h) e2)
    exact answers_next (keeps_ite (keeps_addRisk (keeps_event _ _ _ _ k)) k)

theorem answers_execLoopId {f : FieldFrame} (h : Keeps z s) : Answers z (execLoopId f s) :=
  answers_next (keeps_ite (keeps_setFld _ _ (keeps_takeValue h)) (keeps_takeValue h))

theorem answers_execShed {f : FieldFrame} (h : Keeps z s) : Answers z (execShed f s) := by
  unfold execShed
  split
  next s e1 =>
    exact answers_next (keeps_fst_of (keeps_takeField h) e1)
  next s e2 =>
    exact answers_ite (answers_next (keeps_fst_of (keeps_takeField h) e2))
      (keeps_via (fun k => answers_ite (answers_next (keeps_scaleEnvelopes k))
          (answers_next (keeps_scaleEnvelopes (keeps_event _ _ _ _ k))))
        (keeps_setFld _ _ (keeps_with (keeps_fst_of (keeps_takeField h) e2))))

theorem answers_execFacilityHeartbeat {f : FieldFrame} (h : Keeps z s) : Answers z (execFacilityHeartbeat f s) := by
  unfold execFacilityHeartbeat
  split
  next s e1 =>
    exact answers_next (keeps_fst_of (keeps_takeField h) e1)
  next s e2 =>
    exact answers_ite (answers_next (keeps_fst_of (keeps_takeField h) e2))
      (answers_next (keeps_setFld _ _ (keeps_with (keeps_fst_of (keeps_takeField h) e2))))

theorem answers_execFieldStatus {f : FieldFrame} {errors : BitVec 16} {major minor : BitVec 8} (h : Keeps z s) :
    Answers z (execFieldStatus f errors major minor s) := by
  unfold execFieldStatus
  split
  next s e1 =>
    exact answers_next (keeps_fst_of (keeps_takeField h) e1)
  next s e2 =>
    exact answers_next (keeps_setFld _ _ (keeps_setFld _ _ (keeps_with (keeps_fst_of (keeps_takeField h) e2))))

theorem answers_execFacilityStaleTimeout (h : Keeps z s) : Answers z (execFacilityStaleTimeout s) :=
  answers_ite (answers_next h)
    (answers_next (keeps_event _ _ _ _ (keeps_judgeCoolant (keeps_setFld _ _ (keeps_setReg _ _ (keeps_setFld _ _ (keeps_setFld _ _
      (keeps_setFld _ _ (keeps_setFld _ _ h)))))))))

theorem answers_execFacilityOutboundPeriod (h : Keeps z s) : Answers z (execFacilityOutboundPeriod s) :=
  answers_ite (answers_next h) (answers_next (keeps_with h))

/-! ### The operations of Machine/Frames -/

theorem keeps_acceptRemote {m : Bytes} (h : Keeps z s) : Keeps z (s.acceptRemote m).1 := by
  unfold State.acceptRemote
  dsimp only
  split
  · exact h
  · exact keeps_ite_fst (keeps_addFld _ _ h) (keeps_ite_fst h (keeps_ite_fst (keeps_setChan h) (keeps_addFld _ _ h)))

theorem keeps_endRemote {rank status : Nat} {m : Bytes} (h : Keeps z s) : Keeps z (s.endRemote rank status m) := by
  unfold State.endRemote
  refine keeps_ite h ?_
  dsimp only
  split
  · exact h
  · split
    · exact h
    · exact keeps_ite h (keeps_ite (keeps_putFlow h)
        (keeps_ite (keeps_actedWith (keeps_count _ _ _ (keeps_putFlow h)))
          (keeps_ite (keeps_undeliverable (keeps_putFlow h)) (keeps_actedWith (keeps_putFlow h)))))

theorem keeps_sendAway {t i d l c rank : Nat} {o : Op} (h : Keeps z s) : Keeps z (s.sendAway t i d l c rank o) :=
  keeps_ite (keeps_actedWith h)
    (keeps_ite h (keeps_ite (keeps_ite (keeps_acceptRemote (keeps_setOp (keeps_putFlow h)))
        (keeps_endRemote (keeps_acceptRemote (keeps_setOp (keeps_putFlow h)))))
      (keeps_sendRemote (keeps_setOp (keeps_putFlow h)))))

theorem answers_execSend {t : Fin 384} {i : Fin 64} (h : Keeps z s) : Answers z (execSend t i s) := by
  unfold execSend
  split
  · exact answers_next h
  · refine answers_ite (answers_next (keeps_opFault h)) (answers_ite (answers_next (keeps_opFault h)) ?_)
    split
    · exact answers_next h
    · exact answers_ite (answers_next h)
        (answers_ite (answers_next (keeps_ite (keeps_sendLocal h) (keeps_undeliverable h))) (answers_next (keeps_sendAway h)))

theorem keeps_deliver {n rank : Nat} {b : Body} (h : Keeps z s) : Keeps z (s.deliver n rank b) := by
  unfold State.deliver
  split
  · exact keeps_ite (keeps_takeResult h) (keeps_takePart h)
  · exact keeps_takeNotice h
  · exact keeps_takeVerdict h
  · exact keeps_ite (keeps_acceptRemote h) (keeps_sendFrame (keeps_acceptRemote h))
  · exact keeps_endRemote h
  · exact keeps_takeFstep h
  · exact keeps_takeFstep h
  · exact keeps_takeSurvival h

theorem keeps_loseBody {b : Body} (h : Keeps z s) : Keeps z (s.loseBody b) := by
  unfold State.loseBody
  split
  · exact keeps_losePart h
  · exact h

theorem keeps_takeInOrder {n : Nat} {f : Frame} (h : Keeps z s) : Keeps z (s.takeInOrder n f) :=
  keeps_foldl _ _ _ (keeps_receive h) (fun _ _ k => keeps_deliver (keeps_countLink k))

theorem keeps_takeFrame {n : Nat} {f : Frame} {type : Nat} {ecc : Found} (h : Keeps z s) : Keeps z (s.takeFrame n f type ecc) := by
  unfold State.takeFrame
  split
  next s e1 =>
    exact keeps_fst_of (keeps_checkFrame h) e1
  next s e2 =>
    exact keeps_ite (keeps_takeInOrder (keeps_fst_of (keeps_checkFrame h) e2))
      (keeps_ite (keeps_takeInOrder (keeps_loseBody (keeps_sramLost (keeps_fst_of (keeps_checkFrame h) e2))))
        (keeps_takeInOrder (keeps_sramRead (keeps_fst_of (keeps_checkFrame h) e2))))

theorem answers_execCollData {n : Fin 4} {f : Frame} {ecc : Found} (h : Keeps z s) : Answers z (execCollData n f ecc s) :=
  answers_next (keeps_takeFrame h)

theorem answers_execCollCtrl {n : Fin 4} {f : Frame} {ecc : Found} (h : Keeps z s) : Answers z (execCollCtrl n f ecc s) :=
  answers_next (keeps_takeFrame h)

theorem answers_execRemoteMsg {n : Fin 4} {f : Frame} {ecc : Found} (h : Keeps z s) : Answers z (execRemoteMsg n f ecc s) :=
  answers_next (keeps_takeFrame h)

theorem answers_execMirrorFrame {n : Fin 4} {f : Frame} {ecc : Found} (h : Keeps z s) : Answers z (execMirrorFrame n f ecc s) :=
  answers_next (keeps_takeFrame h)

theorem answers_execSnapshotFrame {n : Fin 4} {f : Frame} {ecc : Found} (h : Keeps z s) : Answers z (execSnapshotFrame n f ecc s) :=
  answers_next (keeps_takeFrame h)

theorem answers_execSnapReq {n : Fin 4} {f : Frame} {ecc : Found} (h : Keeps z s) : Answers z (execSnapReq n f ecc s) := by
  unfold execSnapReq
  split
  · exact answers_next (keeps_takeFrame h)
  · exact answers_next (keeps_takeFrame h)
  · exact answers_next h

theorem answers_execSpoolFrame {n : Fin 4} {f : Frame} {ecc : Found} (h : Keeps z s) : Answers z (execSpoolFrame n f ecc s) :=
  answers_next (keeps_takeFrame h)

theorem answers_execFstepFrame {n : Fin 4} {f : Frame} {ecc : Found} (h : Keeps z s) : Answers z (execFstepFrame n f ecc s) :=
  answers_next (keeps_takeFrame h)

theorem answers_execTimeFrame {n : Fin 4} {f : Frame} {ns : Nat} {ecc : Found} (h : Keeps z s) :
    Answers z (execTimeFrame n f ns ecc s) := by
  unfold execTimeFrame
  extract_lets u
  have k := keeps_readFrame (n := n.val) (f := f) (type := 9) (ecc := ecc)
    (keeps_runAligned (dt := min ns (s.nextBoundary - s.now)) h)
  split
  next e _ =>
    have k := keeps_fst_of k e
    exact answers_ite (answers_next k) (answers_ite (answers_next (keeps_emit k)) (answers_ite (answers_next (keeps_takeTrip k))
      (answers_next k)))
  next e _ => exact answers_next (keeps_fst_of k e)

theorem keeps_dropSends {rank : Nat} (h : Keeps z s) : Keeps z (s.dropSends rank) :=
  keeps_foldl _ _ _ h (fun _ _ k1 => keeps_setTile _ _ (keeps_foldl _ _ _ k1 (fun _ _ k2 => keeps_actedWith k2)))

theorem keeps_changeMaster (h : Keeps z s) : Keeps z s.changeMaster :=
  keeps_ite (keeps_with (keeps_becomeMaster (keeps_newMaster h))) (keeps_followMaster (keeps_newMaster h))

theorem keeps_adoptMaster {r master : Nat} (h : Keeps z s) : Keeps z (s.adoptMaster r master) :=
  keeps_via (fun k => keeps_ite (keeps_with k) k)
    (keeps_ite h (keeps_ite (keeps_newMaster (keeps_with h))
      (keeps_ite (keeps_becomeMaster (keeps_newMaster h)) (keeps_followMaster (keeps_newMaster h)))))

theorem answers_execHello {n : Fin 4} {f : Frame} {ecc : Found} (h : Keeps z s) : Answers z (execHello n f ecc s) := by
  have k := keeps_readFrame (n := n.val) (f := f) (type := 1) (ecc := ecc) h
  unfold execHello
  split
  next t moduleId major lo hi master e _ =>
    have ht : Keeps z t := keeps_fst_of k e
    extract_lets r x ok u v w
    have hu : Keeps z u := keeps_ite (keeps_adoptMaster ht) ht
    have hv : Keeps z v := keeps_ite hu (keeps_sendHello hu)
    have hw : Keeps z w := keeps_dropFlows hv
    exact answers_ite (answers_next (keeps_setPeer hw)) (answers_next (keeps_event _ _ _ _ (keeps_setPeer hw)))
  next e _ => exact answers_next (keeps_fst_of k e)

theorem keeps_missPeer {rank : Nat} (h : Keeps z s) : Keeps z (s.missPeer rank) :=
  keeps_with h

theorem answers_execPeerTimeout {n : Fin 4} {rank : Nat} (h : Keeps z s) : Answers z (execPeerTimeout n rank s) :=
  answers_ite (answers_next h)
    (answers_next (keeps_losePartner (keeps_foldl _ _ _ (keeps_reNotice (keeps_ite (keeps_changeMaster (keeps_dropSends (keeps_dropFlows
          (keeps_event _ _ _ _ (keeps_missPeer (keeps_setPeer h))))))
        (keeps_dropSends (keeps_dropFlows (keeps_event _ _ _ _ (keeps_missPeer (keeps_setPeer h)))))))
      (fun _ _ k => keeps_ite (keeps_weigh k) k))))

/-! ### The operations of Machine/Races -/

theorem answers_execOperationStart {t : Fin 384} {engine : BitVec 4} {ecc : Found} (h : Keeps z s) :
    Answers z (execOperationStart t engine ecc s) := by
  unfold execOperationStart
  split
  · exact answers_next h
  · split
    · refine answers_ite (answers_next h) ?_
      split
      next s e1 =>
        exact answers_next (keeps_startOp (keeps_fst_of (keeps_tileRead h) e1))
      next s e2 =>
        exact answers_next (keeps_fst_of (keeps_tileRead h) e2)
    · exact answers_next h

theorem keeps_noteSpans {t i : Nat} (h : Keeps z s) : Keeps z (s.noteSpans t i) := by
  unfold State.noteSpans
  split
  · exact h
  · exact keeps_setTile _ _ h

/-! ### The operations of Machine/TileCore -/

theorem keeps_coreLoad {t a n v : Nat} {u : State} (h : Keeps z s) (e : s.coreLoad t a n = .ok (v, u)) : Keeps z u := by
  unfold State.coreLoad at e
  split at e
  · cases e
  · split at e
    · exact keeps_of_ok_eq h e
    · exact keeps_of_ok_eq h e
    · exact keeps_of_ok_eq h e
    · split at e
      · exact keeps_of_ok_eq (keeps_readReg h) e
      · cases e
    · cases e

theorem passes_coreStore {t a n v : Nat} (h : Keeps z s) : Passes z (s.coreStore t a n v) := by
  unfold State.coreStore
  refine passes_ite passes_error ?_
  split
  · exact passes_ok (keeps_setTile _ _ h)
  · exact passes_ok ⟨h.pending, h.part, h.fresh, fun k => memWf_memWrite _ _ _ (h.mem k), h.regs⟩
  · exact passes_ite (passes_ok (keeps_with (keeps_storeReg h))) passes_error
  · exact passes_error

theorem keeps_coreTrap {t cause : Nat} (h : Keeps z s) : Keeps z (s.coreTrap t cause) :=
  keeps_setTile _ _ (keeps_trapDomain (keeps_setReg _ _ h))

theorem keeps_retireCore {t : Nat} {r : Ran} (h : Keeps z s) (hr : Retires z r) : Keeps z (s.retireCore t r) := by
  cases hr with
  | trap => exact keeps_coreTrap h
  | done k => exact keeps_setTile _ _ k

theorem retires_runAtomic {t w : Nat} {next : Word} (h : Keeps z s) : Retires z (s.runAtomic t w next) := by
  unfold State.runAtomic
  refine retires_ite Retires.trap (retires_ite Retires.trap (retires_ite Retires.trap (retires_ite ?_ (retires_ite (retires_ite ?_
      (Retires.done (keeps_setTile _ _ h)))
    ?_))))
  · split
    next v s e1 =>
      exact Retires.done (keeps_setTile _ _ (keeps_coreLoad h e1))
    · exact Retires.trap
  · split
    next s e2 =>
      exact Retires.done (passed (passes_coreStore (keeps_setTile _ _ h)) e2)
    · exact Retires.trap
  · split
    · exact Retires.trap
    next v s e3 =>
      split
      next s e4 =>
        exact Retires.done (passed (passes_coreStore (keeps_coreLoad h e3)) e4)
      · exact Retires.trap

theorem retires_runCsr {t w : Nat} {next : Word} (h : Keeps z s) : Retires z (s.runCsr t w next) :=
  retires_ite Retires.trap (retires_ite (Retires.done (keeps_setTile _ _ (keeps_freshWord h)))
    (retires_ite (Retires.done h) Retires.trap))

theorem retires_runAccess {t w : Nat} {next : Word} (h : Keeps z s) : Retires z (s.runAccess t w next) := by
  unfold State.runAccess
  refine retires_ite (retires_ite Retires.trap ?_) (retires_ite Retires.trap ?_)
  · split
    next v s e1 =>
      exact Retires.done (keeps_coreLoad h e1)
    · exact Retires.trap
  · split
    next s e2 =>
      exact Retires.done (passed (passes_coreStore h) e2)
    · exact Retires.trap

theorem retires_ranOf {rd : Nat} {next : Word} {x : Option Word} (h : Keeps z s) : Retires z (ranOf s rd next x) := by
  unfold ranOf
  split
  · exact Retires.done h
  · exact Retires.trap

theorem retires_runSystem {t w : Nat} {next : Word} (h : Keeps z s) : Retires z (s.runSystem t w next) :=
  retires_ite Retires.trap (retires_ite (Retires.done h) (retires_ite Retires.trap (retires_runCsr h)))

theorem retires_runWord {t w len : Nat} (h : Keeps z s) : Retires z (s.runWord t w len) := by
  unfold State.runWord
  split
  · exact Retires.done h
  · exact Retires.done h
  · exact Retires.done h
  · exact retires_ite (Retires.done h) Retires.trap
  · dsimp only
    split
    · exact Retires.done h
    · exact Retires.trap
  · exact retires_runAccess h
  · exact retires_runAccess h
  · exact retires_ranOf h
  · exact retires_ranOf h
  · exact retires_ranOf h
  · exact retires_ranOf h
  · exact retires_ite (Retires.done h) Retires.trap
  · exact retires_runAtomic h
  · exact retires_runSystem h
  · exact Retires.trap

theorem keeps_coreStep {t : Nat} (h : Keeps z s) : Keeps z (s.coreStep t) := by
  unfold State.coreStep
  split
  · exact keeps_coreTrap h
  · exact keeps_ite h (keeps_retireCore h (retires_runWord h))

theorem answers_execCoreInstruction {t : Fin 384} {ecc : Found} (h : Keeps z s) : Answers z (execCoreInstruction t ecc s) := by
  unfold execCoreInstruction
  refine answers_ite ?_ (answers_next h)
  split
  next s e1 =>
    exact answers_next (keeps_coreStep (keeps_fst_of (keeps_tileRead h) e1))
  next s e2 =>
    exact answers_next (keeps_fst_of (keeps_tileRead h) e2)

theorem answers_execEbreak {t : Fin 384} (h : Keeps z s) : Answers z (execEbreak t s) := by
  unfold execEbreak
  refine answers_ite ?_ (answers_next h)
  split
  · exact answers_ite (answers_next h) (answers_ite (answers_next (keeps_setTile _ _ h)) (answers_next (keeps_coreTrap h)))
  · exact answers_next h

/-! ### The operations of Machine/Issue -/

theorem keeps_retire4 {t rd v : Nat} (h : Keeps z s) : Keeps z (s.retire4 t rd v) :=
  keeps_retireCore h (Retires.done h)

theorem keeps_issue {t rd : Nat} {desc : Bytes} {pre i : Nat} (h : Keeps z s) : Keeps z (s.issue t rd desc pre i) := by
  unfold State.issue
  dsimp only
  split
  · exact keeps_noteSpans (keeps_enqueue (keeps_used h))
  · split
    · exact keeps_opFault (keeps_noteSpans (keeps_enqueue (keeps_used h)))
    · exact keeps_retire4 (keeps_noteSpans (keeps_enqueue (keeps_used h)))

theorem keeps_fullStall {t : Nat} (h : Keeps z s) : Keeps z (s.fullStall t) :=
  keeps_setTile _ _ (keeps_freshWord h)

theorem answers_execOpIssue {t : Fin 384} {rd rs1 rs2 : Fin 32} (h : Keeps z s) : Answers z (execOpIssue t rd rs1 rs2 s) := by
  unfold execOpIssue
  split
  · exact answers_next h
  · refine answers_ite (answers_next h) ?_
    dsimp only
    split
    · exact answers_next (keeps_coreTrap h)
    · exact answers_next (keeps_fullStall h)
    · exact answers_next (keeps_issue h)

theorem answers_execOpTry {t : Fin 384} {rd rs1 rs2 : Fin 32} (h : Keeps z s) : Answers z (execOpTry t rd rs1 rs2 s) := by
  unfold execOpTry
  split
  · exact answers_next h
  · refine answers_ite (answers_next h) ?_
    dsimp only
    split
    · exact answers_next (keeps_coreTrap h)
    · exact answers_next (keeps_retire4 h)
    · exact answers_next (keeps_issue h)

theorem answers_execOpWait {t : Fin 384} {rs1 : Fin 32} (h : Keeps z s) : Answers z (execOpWait t rs1 s) := by
  unfold execOpWait
  split
  · exact answers_next h
  · exact answers_ite (answers_next (keeps_retire4 h)) (answers_next h)

theorem answers_execOpTest {t : Fin 384} {rd rs1 : Fin 32} (h : Keeps z s) : Answers z (execOpTest t rd rs1 s) := by
  unfold execOpTest
  split
  · exact answers_next h
  · exact answers_ite (answers_next h) (answers_next (keeps_retire4 h))

theorem answers_execOpStatus {t : Fin 384} {rd rs1 : Fin 32} (h : Keeps z s) : Answers z (execOpStatus t rd rs1 s) := by
  unfold execOpStatus
  split
  · exact answers_next h
  · exact answers_ite (answers_next h) (answers_next (keeps_retire4 h))

theorem keeps_indexOf {v : Word} {n : Nat} (h : Keeps z s) : Keeps z (s.indexOf v n).2 :=
  keeps_ite_snd h (keeps_used h)

theorem keeps_takeMessage {t c a rd : Nat} {m : Bytes} {ms : List Bytes} (h : Keeps z s) : Keeps z (s.takeMessage t c a rd m ms) :=
  keeps_retire4 (keeps_setTile _ _ (keeps_setChan h))

theorem answers_execMsgRecv {t : Fin 384} {rd rs1 rs2 : Fin 32} (h : Keeps z s) : Answers z (execMsgRecv t rd rs1 rs2 s) := by
  unfold execMsgRecv
  dsimp only
  split
  · exact answers_next h
  · refine answers_ite (answers_next h) ?_
    split
    · exact answers_next (keeps_coreTrap h)
    · split
      · exact answers_next h
      · exact answers_next (keeps_takeMessage (keeps_indexOf h))

theorem answers_execMsgPoll {t : Fin 384} {rd rs1 rs2 : Fin 32} (h : Keeps z s) : Answers z (execMsgPoll t rd rs1 rs2 s) := by
  unfold execMsgPoll
  dsimp only
  split
  · exact answers_next h
  · refine answers_ite (answers_next h) ?_
    split
    · exact answers_next (keeps_coreTrap h)
    · split
      · exact answers_next (keeps_retire4 (keeps_indexOf h))
      · exact answers_next (keeps_takeMessage (keeps_indexOf h))

theorem answers_execBarArrive {t : Fin 384} {rs1 : Fin 32} (h : Keeps z s) : Answers z (execBarArrive t rs1 s) := by
  unfold execBarArrive
  split
  · refine answers_ite (answers_next h) ?_
    dsimp only
    split
    next s2 e =>
      exact answers_next (keeps_retire4 (offered (offers_arrive (keeps_indexOf h)) e))
    · exact answers_next h
  · exact answers_next h

theorem answers_execBarWait {t : Fin 384} {rs1 : Fin 32} (h : Keeps z s) : Answers z (execBarWait t rs1 s) := by
  unfold execBarWait
  split
  · exact answers_ite (answers_next h) (answers_ite (answers_next h) (answers_next (keeps_retire4 (keeps_indexOf h))))
  · exact answers_next h

theorem keeps_control {t op aux : Nat} (h : Keeps z s) : Keeps z (s.control t op aux) := by
  unfold State.control
  split
  · exact keeps_fullStall h
  · exact keeps_setTile _ _ (keeps_enqueue (keeps_used h))

theorem answers_execSlotEnd {t : Fin 384} {rs1 : Fin 32} (h : Keeps z s) : Answers z (execSlotEnd t rs1 s) := by
  unfold execSlotEnd
  split
  · exact answers_next h
  · exact answers_ite (answers_next h) (answers_next (keeps_control h))

theorem answers_execProgEnd {t : Fin 384} (h : Keeps z s) : Answers z (execProgEnd t s) := by
  unfold execProgEnd
  split
  · exact answers_next h
  · exact answers_next (keeps_control h)

theorem answers_execSumRead {t : Fin 384} {rd rs1 : Fin 32} (h : Keeps z s) : Answers z (execSumRead t rd rs1 s) := by
  unfold execSumRead
  split
  · exact answers_next h
  · exact answers_ite (answers_next h)
      (answers_ite (answers_next (keeps_retire4 h)) (answers_next (keeps_retire4 (keeps_freshWord h))))

/-! ### Every command, and the step -/

/-- Whatever a command does, it runs and keeps the queue and the part. -/
theorem answers_exec (i : Instr) (h : Keeps z s) : Answers z (exec i s) :=
  match i with
  | .registerWrite .. => answers_execRegisterWrite h
  | .pwrgoodRise .. => answers_execPwrgoodRise h
  | .pwrgoodFall .. => answers_execPwrgoodFall h
  | .rstNAssert .. => answers_execRstNAssert h
  | .rstNDeassert .. => answers_execRstNDeassert h
  | .tetheredEntry .. => answers_execTetheredEntry h
  | .hostWatchdogExpiry .. => answers_execHostWatchdogExpiry h
  | .ascend .. => answers_execAscend h
  | .deviceReset .. => answers_execDeviceReset h
  | .hostReset .. => answers_execHostReset h
  | .startClear .. => answers_execStartClear h
  | .powerDown .. => answers_execPowerDown h
  | .retryDelayExpiry .. => answers_execRetryDelayExpiry h
  | .ascentPowerStage .. => answers_execAscentPowerStage h
  | .ascentHbmStack .. => answers_execAscentHbmStack h
  | .ascentArrayStage .. => answers_execAscentArrayStage h
  | .ascentMeshStage .. => answers_execAscentMeshStage h
  | .ascentUcieStage .. => answers_execAscentUcieStage h
  | .ascentLineStage .. => answers_execAscentLineStage h
  | .ascentEntryStage .. => answers_execAscentEntryStage h
  | .stageTimeout .. => answers_execStageTimeout h
  | .railPgRise .. => answers_execRailPgRise h
  | .railPgTimeout .. => answers_execRailPgTimeout h
  | .railPgFall .. => answers_execRailPgFall h
  | .hostPortRetrain .. => answers_execHostPortRetrain h
  | .hostLinkLoss .. => answers_execHostLinkLoss h
  | .hostAccessTimeout .. => answers_execHostAccessTimeout h
  | .tickBoundary .. => answers_execTickBoundary h
  | .timeMeasurementEnd .. => answers_execTimeMeasurementEnd h
  | .timeMeasureRetry .. => answers_execTimeMeasureRetry h
  | .timeRoundTripPeriod .. => answers_execTimeRoundTripPeriod h
  | .structStage .. => answers_execStructStage h
  | .stageCopyEnd .. => answers_execStageCopyEnd h
  | .structValidate .. => answers_execStructValidate h
  | .validationEnd .. => answers_execValidationEnd h
  | .structCommit .. => answers_execStructCommit h
  | .commitQuiescence .. => answers_execCommitQuiescence h
  | .commitWaitExpiry .. => answers_execCommitWaitExpiry h
  | .commitPreparationEnd .. => answers_execCommitPreparationEnd h
  | .structDiscard .. => answers_execStructDiscard h
  | .structUpdate .. => answers_execStructUpdate h
  | .pushWindowWrite .. => answers_execPushWindowWrite h
  | .pushCfgWrite .. => answers_execPushCfgWrite h
  | .pushSeal .. => answers_execPushSeal h
  | .pushSealApplied .. => answers_execPushSealApplied h
  | .hostCoreAccess .. => answers_execHostCoreAccess h
  | .pcieInboundRequest .. => answers_execPcieInboundRequest h
  | .doorbell .. => answers_execDoorbell h
  | .ringEntryFetch .. => answers_execRingEntryFetch h
  | .staleSlotReread .. => answers_execStaleSlotReread h
  | .windowSubmit .. => answers_execWindowSubmit h
  | .queueEnable .. => answers_execQueueEnable h
  | .queueDrain .. => answers_execQueueDrain h
  | .queueResume .. => answers_execQueueResume h
  | .cqHeadWrite .. => answers_execCqHeadWrite h
  | .protoNegotiate .. => answers_execProtoNegotiate h
  | .coalesceTimerExpiry .. => answers_execCoalesceTimerExpiry h
  | .launch .. => answers_execLaunch h
  | .stop .. => answers_execStop h
  | .signal .. => answers_execSignal h
  | .signalRetry .. => answers_execSignalRetry h
  | .moveCopy .. => answers_execMoveCopy h
  | .moveFill .. => answers_execMoveFill h
  | .moveTransferDone .. => answers_execMoveTransferDone h
  | .stepBegin .. => answers_execStepBegin h
  | .stepUpdate .. => answers_execStepUpdate h
  | .stepResume .. => answers_execStepResume h
  | .stepSnapshot .. => answers_execStepSnapshot h
  | .stepRestore .. => answers_execStepRestore h
  | .restoreBasisLoaded .. => answers_execRestoreBasisLoaded h
  | .identityGet .. => answers_execIdentityGet h
  | .attestGet .. => answers_execAttestGet h
  | .watchRead .. => answers_execWatchRead h
  | .watchClear .. => answers_execWatchClear h
  | .queryInfo .. => answers_execQueryInfo h
  | .timeMeasure .. => answers_execTimeMeasure h
  | .handleState .. => answers_execHandleState h
  | .coreInstruction .. => answers_execCoreInstruction h
  | .ebreak .. => answers_execEbreak h
  | .opIssue .. => answers_execOpIssue h
  | .opTry .. => answers_execOpTry h
  | .opWait .. => answers_execOpWait h
  | .opTest .. => answers_execOpTest h
  | .opStatus .. => answers_execOpStatus h
  | .msgRecv .. => answers_execMsgRecv h
  | .msgPoll .. => answers_execMsgPoll h
  | .barArrive .. => answers_execBarArrive h
  | .barWait .. => answers_execBarWait h
  | .slotEnd .. => answers_execSlotEnd h
  | .progEnd .. => answers_execProgEnd h
  | .sumRead .. => answers_execSumRead h
  | .operationStart .. => answers_execOperationStart h
  | .operationComplete .. => answers_execOperationComplete h
  | .dmaCopy .. => answers_execDmaCopy h
  | .send .. => answers_execSend h
  | .collPost .. => answers_execCollPost h
  | .mmaS .. => answers_execMmaS h
  | .mmaT .. => answers_execMmaT h
  | .mmaW .. => answers_execMmaW h
  | .mmaD .. => answers_execMmaD h
  | .turn .. => answers_execTurn h
  | .vecCopy .. => answers_execVecCopy h
  | .vecAdd .. => answers_execVecAdd h
  | .vecSub .. => answers_execVecSub h
  | .vecMul .. => answers_execVecMul h
  | .vecFma .. => answers_execVecFma h
  | .vecMul3 .. => answers_execVecMul3 h
  | .vecDiv .. => answers_execVecDiv h
  | .vecMax .. => answers_execVecMax h
  | .vecMin .. => answers_execVecMin h
  | .vecAbs .. => answers_execVecAbs h
  | .vecCmp .. => answers_execVecCmp h
  | .vecSelect .. => answers_execVecSelect h
  | .vecSqrt .. => answers_execVecSqrt h
  | .vecRsqrt .. => answers_execVecRsqrt h
  | .vecRecip .. => answers_execVecRecip h
  | .vecExp .. => answers_execVecExp h
  | .vecLog .. => answers_execVecLog h
  | .vecTanh .. => answers_execVecTanh h
  | .vecSigmoid .. => answers_execVecSigmoid h
  | .vecSilu .. => answers_execVecSilu h
  | .vecGelu .. => answers_execVecGelu h
  | .vecSin .. => answers_execVecSin h
  | .vecCos .. => answers_execVecCos h
  | .quant .. => answers_execQuant h
  | .prepass .. => answers_execPrepass h
  | .dequant .. => answers_execDequant h
  | .mask .. => answers_execMask h
  | .amaxMerge .. => answers_execAmaxMerge h
  | .updPass1 .. => answers_execUpdPass1 h
  | .updPass2 .. => answers_execUpdPass2 h
  | .gather .. => answers_execGather h
  | .append .. => answers_execAppend h
  | .seqOpen .. => answers_execSeqOpen h
  | .fork .. => answers_execFork h
  | .seqClose .. => answers_execSeqClose h
  | .kvpList .. => answers_execKvpList h
  | .spillMoveEnd .. => answers_execSpillMoveEnd h
  | .returnMoveEnd .. => answers_execReturnMoveEnd h
  | .kvpEnable .. => answers_execKvpEnable h
  | .kvpDisable .. => answers_execKvpDisable h
  | .kvpDrainEnd .. => answers_execKvpDrainEnd h
  | .stashRegister .. => answers_execStashRegister h
  | .stashCaptureEnd .. => answers_execStashCaptureEnd h
  | .stashFetch .. => answers_execStashFetch h
  | .stashRelease .. => answers_execStashRelease h
  | .stashMoveEnd .. => answers_execStashMoveEnd h
  | .messageFlitArrival .. => answers_execMessageFlitArrival h
  | .messageAck .. => answers_execMessageAck h
  | .messageRefusal .. => answers_execMessageRefusal h
  | .messageResendTimer .. => answers_execMessageResendTimer h
  | .barrierRelease .. => answers_execBarrierRelease h
  | .barrierGroupRelease .. => answers_execBarrierGroupRelease h
  | .heartbeatSend .. => answers_execHeartbeatSend h
  | .heartbeatTimeout .. => answers_execHeartbeatTimeout h
  | .tileRecoveryEnd .. => answers_execTileRecoveryEnd h
  | .d2dPortRetrain .. => answers_execD2dPortRetrain h
  | .d2dPortLoss .. => answers_execD2dPortLoss h
  | .linkDiePortLoss .. => answers_execLinkDiePortLoss h
  | .errRingHeadWrite .. => answers_execErrRingHeadWrite h
  | .hbmScrubRead .. => answers_execHbmScrubRead h
  | .arbiterDecision .. => answers_execArbiterDecision h
  | .arbiterWindowReset .. => answers_execArbiterWindowReset h
  | .arbiterBackoffExpiry .. => answers_execArbiterBackoffExpiry h
  | .arbiterWatchdogExpiry .. => answers_execArbiterWatchdogExpiry h
  | .intakeEnable .. => answers_execIntakeEnable h
  | .intakeDisable .. => answers_execIntakeDisable h
  | .intakeRingTailWrite .. => answers_execIntakeRingTailWrite h
  | .batchRecordFetch .. => answers_execBatchRecordFetch h
  | .sampleDispatch .. => answers_execSampleDispatch h
  | .sampleDecodeEnd .. => answers_execSampleDecodeEnd h
  | .workerDone .. => answers_execWorkerDone h
  | .intakeSeal .. => answers_execIntakeSeal h
  | .portLinkUp .. => answers_execPortLinkUp h
  | .portLinkDown .. => answers_execPortLinkDown h
  | .portDownTimeout .. => answers_execPortDownTimeout h
  | .hello .. => answers_execHello h
  | .sack .. => answers_execSack h
  | .collData .. => answers_execCollData h
  | .collCtrl .. => answers_execCollCtrl h
  | .remoteMsg .. => answers_execRemoteMsg h
  | .mirrorFrame .. => answers_execMirrorFrame h
  | .snapshotFrame .. => answers_execSnapshotFrame h
  | .spoolFrame .. => answers_execSpoolFrame h
  | .timeFrame .. => answers_execTimeFrame h
  | .fstepFrame .. => answers_execFstepFrame h
  | .retransmitTimer .. => answers_execRetransmitTimer h
  | .sackTimer .. => answers_execSackTimer h
  | .peerTimeout .. => answers_execPeerTimeout h
  | .collGraceExpiry .. => answers_execCollGraceExpiry h
  | .collHardTimeout .. => answers_execCollHardTimeout h
  | .collComplete .. => answers_execCollComplete h
  | .mirrorCommit .. => answers_execMirrorCommit h
  | .snapshotIntervalExpiry .. => answers_execSnapshotIntervalExpiry h
  | .snapReq .. => answers_execSnapReq h
  | .snapshotFrontCopyEnd .. => answers_execSnapshotFrontCopyEnd h
  | .snapshotWhole .. => answers_execSnapshotWhole h
  | .partnerOfferAnswer .. => answers_execPartnerOfferAnswer h
  | .riskSecond .. => answers_execRiskSecond h
  | .powerSample .. => answers_execPowerSample h
  | .capControllerPeriod .. => answers_execCapControllerPeriod h
  | .thermalSample .. => answers_execThermalSample h
  | .thermalStepPeriod .. => answers_execThermalStepPeriod h
  | .droop .. => answers_execDroop h
  | .emergencyHoldEnd .. => answers_execEmergencyHoldEnd h
  | .voltageSettled .. => answers_execVoltageSettled h
  | .setCap .. => answers_execSetCap h
  | .clearShed .. => answers_execClearShed h
  | .modbusReadHoldingRegisters .. => answers_execModbusReadHoldingRegisters h
  | .modbusReadInputRegisters .. => answers_execModbusReadInputRegisters h
  | .modbusWriteSingleRegister .. => answers_execModbusWriteSingleRegister h
  | .modbusWriteMultipleRegisters .. => answers_execModbusWriteMultipleRegisters h
  | .inletTemp .. => answers_execInletTemp h
  | .flow .. => answers_execFlow h
  | .pressure .. => answers_execPressure h
  | .leak .. => answers_execLeak h
  | .feedId .. => answers_execFeedId h
  | .feedState .. => answers_execFeedState h
  | .loopId .. => answers_execLoopId h
  | .shed .. => answers_execShed h
  | .facilityHeartbeat .. => answers_execFacilityHeartbeat h
  | .fieldStatus .. => answers_execFieldStatus h
  | .facilityStaleTimeout .. => answers_execFacilityStaleTimeout h
  | .facilityOutboundPeriod .. => answers_execFacilityOutboundPeriod h
  | .fieldRepeatPeriod .. => answers_execFieldRepeatPeriod h
  | .fieldValueTimeout .. => answers_execFieldValueTimeout h
  | .debugNonce .. => answers_execDebugNonce h
  | .debugGrant .. => answers_execDebugGrant h
  | .debugRevoke .. => answers_execDebugRevoke h
  | .debugGrantExpiry .. => answers_execDebugGrantExpiry h
  | .debugNonceExpiry .. => answers_execDebugNonceExpiry h
  | .enrolOwner .. => answers_execEnrolOwner h
  | .readLog .. => answers_execReadLog h
  | .mctpControl .. => answers_execMctpControl h
  | .pldmSensorRead .. => answers_execPldmSensorRead h
  | .pldmSensorRefresh .. => answers_execPldmSensorRefresh h
  | .pldmStartReportRead .. => answers_execPldmStartReportRead h
  | .firmwareUpdateTransfer .. => answers_execFirmwareUpdateTransfer h
  | .verifyComplete .. => answers_execVerifyComplete h
  | .applyComplete .. => answers_execApplyComplete h
  | .getVersion .. => answers_execGetVersion h
  | .getCapabilities .. => answers_execGetCapabilities h
  | .negotiateAlgorithms .. => answers_execNegotiateAlgorithms h
  | .getDigests .. => answers_execGetDigests h
  | .getCertificate .. => answers_execGetCertificate h
  | .challenge .. => answers_execChallenge h
  | .getMeasurements .. => answers_execGetMeasurements h
  | .jtagBypass .. => answers_execJtagBypass h
  | .jtagIdcode .. => answers_execJtagIdcode h
  | .jtagSamplePreload .. => answers_execJtagSamplePreload h
  | .jtagExtest .. => answers_execJtagExtest h
  | .jtagClamp .. => answers_execJtagClamp h
  | .instrumentAccess .. => answers_execInstrumentAccess h
  | .haltResume .. => answers_execHaltResume h
  | .traceEnable .. => answers_execTraceEnable h
  | .debugCounterUpdate .. => answers_execDebugCounterUpdate h
  | .watchReadingEnd .. => answers_execWatchReadingEnd h
  | .partnerOfferReceived .. => answers_execPartnerOfferReceived h

/-- A step runs the front command on the state with the rest of the queue, and what a command keeps holds from there on. -/
theorem step_keeps {t : State} (h : step s = .next t) : Keeps { s with pending := s.pending.tail } t := by
  unfold step at h
  cases hp : s.pending with
  | nil =>
    rw [hp] at h
    cases h
    exact ⟨hp, rfl, le_refl _, id, id⟩
  | cons c cs =>
    rw [hp] at h
    obtain ⟨u, hu, k⟩ := answers_exec c (keeps_refl { s with pending := cs })
    cases hu.symm.trans h
    exact k

/-- Settles O5: every command keeps the queue it is given and the part (`answers_exec`), and a step gives it the rest of the queue. -/
theorem stepKeepsQueueAndPart : Obligations.StepKeepsQueueAndPart :=
  ⟨fun _ _ h => (step_keeps h).pending, fun _ _ h => (step_keeps h).part⟩

end Sys2Proof.Laws
end

section
/-!
# Mode changes, resets and the start of an Ascent

What an event, a change of mode, a cold reset and the rails of a POWER stage leave is said once each: the parts of the state they may change
(`LogOnly`, `enableRails_eq`, `coldReset_units`), and what the registers read afterwards. The statements about resets, pins and the start
of an Ascent follow from these.
-/
namespace Sys2Proof.Laws
open Sys2Proof.Machine

/-! ## What an event and a mode change leave (R29, R55, R418, R497) -/

/-- `t` differs from `s` in registers, memory and the counts of the log and the event ring alone. -/
structure LogOnly (s t : State) : Prop where
  eq : t = { s with regs := t.regs, mem := t.mem, recSeq := t.recSeq, ringUnread := t.ringUnread, ringWritten := t.ringWritten,
                    ringGap := t.ringGap }

section
variable {z s : State}

theorem LogOnly.part {t : State} (h : LogOnly s t) : t.part = s.part := by rw [h.eq]
theorem LogOnly.attempts {t : State} (h : LogOnly s t) : t.attempts = s.attempts := by rw [h.eq]
theorem LogOnly.retryPending {t : State} (h : LogOnly s t) : t.retryPending = s.retryPending := by rw [h.eq]
theorem LogOnly.dies {t : State} (h : LogOnly s t) : t.dies = s.dies := by rw [h.eq]
theorem LogOnly.hbmStacks {t : State} (h : LogOnly s t) : t.hbmStacks = s.hbmStacks := by rw [h.eq]
theorem LogOnly.links {t : State} (h : LogOnly s t) : t.links = s.links := by rw [h.eq]
theorem LogOnly.railPg {t : State} (h : LogOnly s t) : t.railPg = s.railPg := by rw [h.eq]
theorem LogOnly.localNs {t : State} (h : LogOnly s t) : t.localNs = s.localNs := by rw [h.eq]
theorem LogOnly.outs {t : State} (h : LogOnly s t) : t.outs = s.outs := by rw [h.eq]

theorem logOnly_refl (s : State) : LogOnly s s := ⟨rfl⟩

theorem logOnly_of {t : State} (h : LogOnly z s)
    (e : t = { s with regs := t.regs, mem := t.mem, recSeq := t.recSeq, ringUnread := t.ringUnread, ringWritten := t.ringWritten,
                      ringGap := t.ringGap }) : LogOnly z t := by
  rw [h.eq] at e
  exact ⟨e⟩

theorem logOnly_setFld (f : Fld) (v : Nat) (h : LogOnly z s) : LogOnly z (s.setFld f v) := logOnly_of h rfl

theorem logOnly_addFld (f : Fld) (n : Nat) (h : LogOnly z s) : LogOnly z (s.addFld f n) := logOnly_of h rfl

theorem logOnly_store (a : Nat) (bs : Bytes) (h : LogOnly z s) : LogOnly z (s.store a bs) := by
  rw [store_frame]
  exact logOnly_of h rfl

theorem logOnly_ringPut (e : Bytes) (h : LogOnly z s) : LogOnly z (s.ringPut e) := by
  unfold State.ringPut
  dsimp only
  split
  · exact logOnly_of (logOnly_addFld CTL_ERR_STATUS_RING_LOST 1 h) rfl
  · exact logOnly_setFld _ _ (logOnly_store _ _ (logOnly_of h rfl))

theorem logOnly_nextSeq (h : LogOnly z s) : LogOnly z s.nextSeq := logOnly_setFld _ _ (logOnly_of h rfl)

theorem logOnly_event (unit code dom : Nat) (args : Bytes) (h : LogOnly z s) : LogOnly z (s.event unit code dom args) := by
  have k : LogOnly z s.nextSeq := logOnly_nextSeq h
  unfold State.event State.ringEntry
  dsimp only
  split
  · exact logOnly_ringPut _ (logOnly_nextSeq (logOnly_ringPut _ k))
  · exact logOnly_ringPut _ k

theorem logOnly_setMode (m cause : Nat) (h : LogOnly z s) : LogOnly z (s.setMode m cause) := by
  unfold State.setMode
  refine logOnly_event _ _ _ _ ?_
  have k := logOnly_setFld CTL_MODE_UNIT_INDEX 0 (logOnly_setFld CTL_MODE_UNIT_KIND 0 (logOnly_setFld CTL_MODE_STAGE 0
    (logOnly_setFld CTL_MODE_MODE m (logOnly_setFld CTL_MODE_PREV_MODE s.mode h))))
  split
  · exact k
  · exact logOnly_setFld _ _ k

end

theorem reg_of_regs {s t : State} (h : t.regs = s.regs) (r : Nat) : t.reg r = s.reg r := by
  rw [State.reg, h, State.reg]

theorem store_reg (s : State) (a : Nat) (bs : Bytes) (r : Nat) : (s.store a bs).reg r = s.reg r :=
  reg_of_regs (by rw [store_frame]) r

theorem reg_ring (s : State) (unread written gap r : Nat) :
    { s with ringUnread := unread, ringWritten := written, ringGap := gap }.reg r = s.reg r := reg_of_regs rfl r

theorem ringPut_reg_ne (s : State) (e : Bytes) {r : Nat} (hs : r ≠ CTL_ERR_STATUS) (hp : r ≠ CTL_ERR_RING_PTR) :
    (s.ringPut e).reg r = s.reg r := by
  unfold State.ringPut
  dsimp only
  split
  · exact (reg_ring _ _ _ _ r).trans (reg_addFld_ne s CTL_ERR_STATUS_RING_LOST 1 hs)
  · rw [reg_setFld_ne _ CTL_ERR_RING_PTR_TAIL _ hp, store_reg]
    exact reg_ring _ _ _ _ r

theorem nextSeq_reg_ne (s : State) {r : Nat} (hs : r ≠ CTL_ERR_STATUS) : s.nextSeq.reg r = s.reg r :=
  (reg_setFld_ne _ CTL_ERR_STATUS_LOG_NEXT _ hs).trans (reg_of_regs rfl r)

/-- An event changes the status of the log and the ring's tail alone among the registers. -/
theorem event_reg_ne (s : State) (unit code dom : Nat) (args : Bytes) {r : Nat} (hs : r ≠ CTL_ERR_STATUS)
    (hp : r ≠ CTL_ERR_RING_PTR) : (s.event unit code dom args).reg r = s.reg r := by
  unfold State.event State.ringEntry
  dsimp only
  split
  · rw [ringPut_reg_ne _ _ hs hp, nextSeq_reg_ne _ hs, ringPut_reg_ne _ _ hs hp, nextSeq_reg_ne _ hs]
  · rw [ringPut_reg_ne _ _ hs hp, nextSeq_reg_ne _ hs]

theorem event_fld (s : State) (unit code dom : Nat) (args : Bytes) {f : Fld} (hs : f.reg ≠ CTL_ERR_STATUS)
    (hp : f.reg ≠ CTL_ERR_RING_PTR) : (s.event unit code dom args).fld f = s.fld f := by
  unfold State.fld
  rw [event_reg_ne s unit code dom args hs hp]

/-- The fields of CTL_MODE other than HOLES as a mode change sets them. -/
theorem setMode_fld (s : State) (m cause : Nat) {f : Fld} (hf : f.reg = CTL_MODE) (h : apart CTL_MODE_HOLES f = true) :
    (s.setMode m cause).fld f = (((((s.setFld CTL_MODE_PREV_MODE s.mode).setFld CTL_MODE_MODE m).setFld CTL_MODE_STAGE 0).setFld
      CTL_MODE_UNIT_KIND 0).setFld CTL_MODE_UNIT_INDEX 0).fld f := by
  unfold State.setMode
  dsimp only
  rw [event_fld _ _ _ _ _ (by rw [hf]; decide) (by rw [hf]; decide)]
  split
  · rfl
  · exact fld_setFld_of_apart _ 0 h

/-- The mode is four bits wide. -/
theorem mode_lt (s : State) : s.mode < 2 ^ 4 := bitsOf_lt _ _ _

theorem setMode_mode (s : State) (m cause : Nat) : (s.setMode m cause).mode = m % 2 ^ 4 := by
  rw [State.mode, setMode_fld _ _ _ (by decide) (by decide)]
  simp (disch := decide) only [fld_setFld_of_apart]
  exact fld_setFld_same _ CTL_MODE_MODE m (by decide)

theorem setMode_prevMode (s : State) (m cause : Nat) : (s.setMode m cause).fld CTL_MODE_PREV_MODE = s.mode := by
  rw [setMode_fld _ _ _ (by decide) (by decide)]
  simp (disch := decide) only [fld_setFld_of_apart]
  exact (fld_setFld_same _ CTL_MODE_PREV_MODE s.mode (by decide)).trans (Nat.mod_eq_of_lt (mode_lt s))

theorem setMode_unitIndex (s : State) (m cause : Nat) : (s.setMode m cause).fld CTL_MODE_UNIT_INDEX = 0 := by
  rw [setMode_fld _ _ _ (by decide) (by decide)]
  exact fld_setFld_same _ CTL_MODE_UNIT_INDEX 0 (by decide)

/-! ## Cold reset (R48, R54) -/

/-- The registers that a cold reset does not set are back at their reset values. -/
theorem coldReset_reg (s : State) (powerOn : Bool) (bits : Nat) {r : Nat} (hp : r ≠ PWR_CAP)
    (hk : powerOn = true ∨ r ≠ CTL_RESET_CAUSE ∧ r ≠ CTL_START_COUNT) : (s.coldReset powerOn bits).reg r = regReset r := by
  unfold State.coldReset
  cases powerOn with
  | true => exact reg_setFld_ne _ PWR_CAP_CAP_W _ hp
  | false =>
    obtain ⟨hc, hn⟩ := hk.resolve_left Bool.false_ne_true
    exact (reg_setReg_ne _ _ hn).trans ((reg_setReg_ne _ _ hc).trans (reg_setFld_ne _ PWR_CAP_CAP_W _ hp))

/-- Without a loss of power the causes gather and the start counts stay. -/
theorem coldReset_keptRegs (s : State) (bits : Nat) :
    (s.coldReset false bits).reg CTL_RESET_CAUSE = (s.reg CTL_RESET_CAUSE ||| word bits) ∧
    (s.coldReset false bits).reg CTL_START_COUNT = s.reg CTL_START_COUNT := by
  unfold State.coldReset
  exact ⟨(reg_setReg_ne _ _ (by decide)).trans (reg_setReg_same _ _ _), reg_setReg_same _ _ _⟩

theorem coldReset_capW (s : State) (powerOn : Bool) (bits : Nat) :
    (s.coldReset powerOn bits).fld PWR_CAP_CAP_W = s.part.tdp % 2 ^ 16 := by
  unfold State.coldReset
  cases powerOn with
  | true => exact fld_setFld_same _ PWR_CAP_CAP_W _ (by decide)
  | false =>
    exact (fld_setReg_ne _ _ (by decide)).trans ((fld_setReg_ne _ _ (by decide)).trans
      (fld_setFld_same _ PWR_CAP_CAP_W _ (by decide)))

/-- A field that a cold reset does not set reads as after reset. -/
theorem coldReset_fld (s : State) (powerOn : Bool) (bits : Nat) {f : Fld} (hp : f.reg ≠ PWR_CAP)
    (hk : powerOn = true ∨ f.reg ≠ CTL_RESET_CAUSE ∧ f.reg ≠ CTL_START_COUNT) :
    (s.coldReset powerOn bits).fld f = State.reset.fld f := by
  rw [State.fld, coldReset_reg s powerOn bits hp hk]
  rfl

/-- What a cold reset leaves outside the registers. -/
theorem coldReset_units (s : State) (powerOn : Bool) (bits : Nat) :
    (s.coldReset powerOn bits).phase = .coldReset ∧ (s.coldReset powerOn bits).cmds = [] ∧ (s.coldReset powerOn bits).queues = [] ∧
    (s.coldReset powerOn bits).image = none ∧ (s.coldReset powerOn bits).tiles = [] ∧ (s.coldReset powerOn bits).doms = [] ∧
    (s.coldReset powerOn bits).hbmStacks = 0 ∧ (s.coldReset powerOn bits).mem.cells = [] ∧
    (s.coldReset powerOn bits).localNs = 0 ∧ (s.coldReset powerOn bits).part = s.part ∧
    (s.coldReset powerOn bits).security.vendorA = s.security.vendorA ∧ (s.coldReset powerOn bits).pending = s.pending := by
  unfold State.coldReset
  cases powerOn <;> simp [State.setFld, State.reset]

/-! ## The rails of a POWER stage (R487) -/

theorem setRails_eq (s : State) (en : Nat) :
    s.setRails en = { s with outs := (s.setRails en).outs, railPg := (s.setRails en).railPg } := rfl

theorem sendPoint_eq (s : State) (r n : Nat) : s.sendPoint r n = { s with outs := (s.sendPoint r n).outs } := rfl

/-- The rails change outputs and the noted PG alone. -/
theorem enableRails_eq (s : State) (a : Ascent) :
    s.enableRails a = { s with outs := (s.enableRails a).outs, railPg := (s.enableRails a).railPg } := by
  unfold State.enableRails
  dsimp only
  split_ifs
  · rfl
  · exact setRails_eq _ _
  · exact setRails_eq _ _
  · exact setRails_eq _ _
  · rw [setRails_eq, sendPoint_eq]

section
variable (s : State) (a : Ascent)
@[simp] theorem enableRails_regs : (s.enableRails a).regs = s.regs := by rw [enableRails_eq]
@[simp] theorem enableRails_attempts : (s.enableRails a).attempts = s.attempts := by rw [enableRails_eq]
@[simp] theorem enableRails_ascent : (s.enableRails a).ascent = s.ascent := by rw [enableRails_eq]
@[simp] theorem enableRails_retryPending : (s.enableRails a).retryPending = s.retryPending := by rw [enableRails_eq]
@[simp] theorem enableRails_dies : (s.enableRails a).dies = s.dies := by rw [enableRails_eq]
@[simp] theorem enableRails_links : (s.enableRails a).links = s.links := by rw [enableRails_eq]
@[simp] theorem enableRails_hbmStacks : (s.enableRails a).hbmStacks = s.hbmStacks := by rw [enableRails_eq]
end

/-- The first compute die's POWER stage with rail 9's first supply off: that supply is enabled. -/
theorem enableRails_supply (s : State) (a : Ascent) (hu : a.unit = 0) (h : bitOf s.railPg 9 = false) :
    (s.enableRails a).outs.railEn = withBit s.outs.railEn 9 := by
  simp [State.enableRails, State.setRails, hu, h]

/-- With both supplies of rail 9 good the die's own rail is enabled. -/
theorem enableRails_core (s : State) (a : Ascent) (hu : a.unit = 0) (h9 : bitOf s.railPg 9 = true) (h14 : bitOf s.railPg 14 = true) :
    (s.enableRails a).outs.railEn = withBit s.outs.railEn 0 := by
  simp [State.enableRails, State.setRails, State.sendPoint, Ascent.rail, hu, h9, h14]

/-! ## The start of an Ascent (R34, R38) -/

/-- One attempt more, and nothing admitted. -/
def noneAdmitted (s : State) : State :=
  { s with attempts := s.attempts + 1, retryPending := false, dies := 0, links := 0, hbmStacks := 0 }

/-- CTL_MODE shows ASCENT at the first compute die's POWER stage. -/
def atFirstPower (s : State) : State :=
  (((noneAdmitted s).setMode 2 0).setFld CTL_MODE_STAGE 1).setFld CTL_MODE_UNIT_KIND 1

/-- The Ascent that begins in state `s`. -/
def firstAscent (s : State) : Ascent :=
  { unit := 0, stage := 1, start := s.now, since := s.localNs, entries := freshEntries s.part }

/-- The Ascent under way, before the first rail is enabled. -/
def ascending (s : State) : State := { atFirstPower s with ascent := some (firstAscent (atFirstPower s)) }

theorem startAscent_eq (s : State) : s.startAscent = (ascending s).enableRails (firstAscent (atFirstPower s)) := rfl

theorem atFirstPower_logOnly (s : State) : LogOnly (noneAdmitted s) (atFirstPower s) :=
  logOnly_setFld _ _ (logOnly_setFld _ _ (logOnly_setMode _ _ (logOnly_refl _)))

theorem startAscent_fld (s : State) (f : Fld) : s.startAscent.fld f = (atFirstPower s).fld f := by
  rw [State.fld, State.fld, reg_of_regs (s := atFirstPower s)]
  rw [startAscent_eq, enableRails_regs, ascending]

/-- What an Ascent leaves outside registers, memory and log (R38): one attempt more, nothing admitted, no retry pending. -/
theorem startAscent_units (s : State) :
    s.startAscent.attempts = s.attempts + 1 ∧ s.startAscent.retryPending = false ∧ s.startAscent.dies = 0 ∧
    s.startAscent.links = 0 ∧ s.startAscent.hbmStacks = 0 := by
  have h := atFirstPower_logOnly s
  simp [startAscent_eq, ascending, h.attempts, h.retryPending, h.dies, h.links, h.hbmStacks, noneAdmitted]

theorem startAscent_ascent (s : State) : ∃ n, s.startAscent.ascent =
    some { unit := 0, stage := 1, start := n, since := s.localNs, entries := freshEntries s.part } := by
  have h := atFirstPower_logOnly s
  simp [startAscent_eq, ascending, firstAscent, h.localNs, h.part, noneAdmitted]

/-- The rail that an Ascent enables first (R487). -/
theorem startAscent_rails (s : State) :
    (bitOf s.railPg 9 = false → s.startAscent.outs.railEn = withBit s.outs.railEn 9) ∧
    (bitOf s.railPg 9 = true → bitOf s.railPg 14 = true → s.startAscent.outs.railEn = withBit s.outs.railEn 0) := by
  have h := atFirstPower_logOnly s
  have hg : (ascending s).railPg = s.railPg := by simp [ascending, h.railPg, noneAdmitted]
  have ho : (ascending s).outs = s.outs := by simp [ascending, h.outs, noneAdmitted]
  rw [startAscent_eq, ← hg, ← ho]
  exact ⟨enableRails_supply _ _ rfl, enableRails_core _ _ rfl⟩

/-- CTL_MODE as an Ascent begins (R29, Table MOD-13). -/
theorem startAscent_mode (s : State) :
    s.startAscent.mode = 2 ∧ s.startAscent.fld CTL_MODE_PREV_MODE = s.mode ∧ s.startAscent.fld CTL_MODE_STAGE = 1 ∧
    s.startAscent.fld CTL_MODE_UNIT_KIND = 1 ∧ s.startAscent.fld CTL_MODE_UNIT_INDEX = 0 := by
  rw [State.mode]
  simp only [startAscent_fld, atFirstPower]
  refine ⟨?_, ?_, ?_, fld_setFld_same _ CTL_MODE_UNIT_KIND 1 (by decide), ?_⟩
  · simp (disch := decide) only [fld_setFld_of_apart]
    exact setMode_mode _ 2 0
  · simp (disch := decide) only [fld_setFld_of_apart]
    exact setMode_prevMode (noneAdmitted s) 2 0
  · rw [fld_setFld_of_apart _ _ (by decide)]
    exact fld_setFld_same _ CTL_MODE_STAGE 1 (by decide)
  · simp (disch := decide) only [fld_setFld_of_apart]
    exact setMode_unitIndex _ 2 0

/-- Settles O9: a cold reset begins from the reset state and sets three registers; the start of an Ascent is a mode change and the first
rail. -/
theorem resetAndAscentLeave : Obligations.ResetAndAscentLeave := by
  refine ⟨fun s powerOn bits => ?_, fun s => ?_⟩
  · obtain ⟨hphase, hcmds, hqueues, himage, htiles, hdoms, hstacks, hmem, htime, hpart, hflash, hpending⟩ :=
      coldReset_units s powerOn bits
    have hmode : (s.coldReset powerOn bits).mode = 1 :=
      (coldReset_fld s powerOn bits (f := CTL_MODE_MODE) (by decide) (.inr (by decide))).trans (by decide)
    have hinc : (s.coldReset powerOn bits).fld CTL_INCARNATION_INCARNATION = 1 :=
      (coldReset_fld s powerOn bits (by decide) (.inr (by decide))).trans (by decide)
    have hon (h : powerOn = true) : (s.coldReset powerOn bits).reg CTL_RESET_CAUSE = regReset CTL_RESET_CAUSE ∧
        (s.coldReset powerOn bits).reg CTL_START_COUNT = regReset CTL_START_COUNT :=
      ⟨coldReset_reg s powerOn bits (by decide) (.inl h), coldReset_reg s powerOn bits (by decide) (.inl h)⟩
    have hkept (h : powerOn = false) : (s.coldReset powerOn bits).reg CTL_RESET_CAUSE = (s.reg CTL_RESET_CAUSE ||| word bits) ∧
        (s.coldReset powerOn bits).reg CTL_START_COUNT = s.reg CTL_START_COUNT := by
      subst h
      exact coldReset_keptRegs s bits
    exact ⟨hphase, hcmds, hqueues, himage, htiles, hdoms, hstacks, hmem, htime, hpart, hflash, hpending, hmode, hinc,
      coldReset_capW s powerOn bits, hon, hkept⟩
  · obtain ⟨hattempts, hretry, hdies, hlinks, hstacks⟩ := startAscent_units s
    obtain ⟨hsupply, hcore⟩ := startAscent_rails s
    exact ⟨hattempts, hretry, hdies, hlinks, hstacks, startAscent_ascent s, hsupply, hcore, startAscent_mode s⟩

/-! ## Reset, pins and boot (R48, R54, R468, R490) -/

/-- Settles O3: the reset state lists no register and no byte, so that each reads as its default and both stores are canonical. -/
theorem resetHoldsResetValues : Obligations.ResetHoldsResetValues :=
  ⟨rfl, rfl, rfl, rfl, fun _ => rfl, by decide, rfl⟩

/-- The module held in cold reset by RST_N since reset. -/
def heldInReset : State := ({ State.reset with rstN := false }).coldReset false 2

/-- EXTEST drives one cell at the pins while RST_N is low. -/
def extestDrives : State :=
  { heldInReset with dbg := { heldInReset.dbg with ir := .extest, cells := [true], driven := [true] },
                     outs := { heldInReset.outs with jtag := [true] } }

/-- A pulse of RST_N of 1 µs and a scan lead there from reset. -/
theorem extestDrives_reached : exec (.rstNAssert 1000) State.reset = .next heldInReset ∧
    exec (.jtagExtest [true] [true]) heldInReset = .next extestDrives := ⟨rfl, rfl⟩

/-- The values driven at the pins of the Debug Port after a command. -/
def drivenAfter : Out → List Bool
  | .next t => t.dbg.driven
  | _ => []

/-- Refutes O8: the statement has the rise of RST_N keep the driven cells, and the model clears them, since EXTEST acts as BYPASS from
then on (R468); EXTEST under reset is such a state. -/
theorem not_pinsAndBootComplete : ¬ Obligations.PinsAndBootComplete := by
  intro h
  obtain ⟨-, -, -, -, -, -, rise, -⟩ := h
  have stays := congrArg drivenAfter (rise extestDrives 2 0 true rfl rfl)
  exact absurd stays (by decide)

end Sys2Proof.Laws
end

section
/-!
# Requests of the Management Port

An answer changes two registers of the MGT block and the port's outputs (`onlyRegs_answered`, `answer_eq`); each request's effect is the
branch of its definition that the mode selects.
-/
namespace Sys2Proof.Laws
open Sys2Proof.Machine

/-! ## Operations on the registers of a list -/

section
variable {z s : State} {as : List Nat}

theorem onlyRegs_refl (s : State) (as : List Nat) : onlyRegs s s as := ⟨rfl, fun _ _ => rfl⟩

theorem frame_trans {t : State} (h : s = { z with regs := s.regs }) (e : t = { s with regs := t.regs }) :
    t = { z with regs := t.regs } := by
  rw [h] at e
  exact e

theorem onlyRegs_setFld (f : Fld) (v : Nat) (hf : f.reg ∈ as) (h : onlyRegs z s as) : onlyRegs z (s.setFld f v) as := by
  obtain ⟨frame, keeps⟩ := h
  refine ⟨frame_trans frame (setFld_eq s f v), fun a ha => ?_⟩
  have hne : a ≠ f.reg := ne_of_mem_of_not_mem hf ha |>.symm
  rw [reg_setFld_ne s f v hne, keeps a ha]

theorem onlyRegs_addFld (f : Fld) (n : Nat) (hf : f.reg ∈ as) (h : onlyRegs z s as) : onlyRegs z (s.addFld f n) as :=
  onlyRegs_setFld f _ hf h

end

/-! ## Requests of the Management Port (R34, R456, R464) -/

/-- A request that finds four waiting is answered REJECTED_FULL, whatever it asks. -/
theorem manage_full {s : State} (request : Nat) (out : Out) (h : s.phase = .running) :
    s.manage request true out = .next (s.answer request ST_REJECTED_FULL []) := by
  simp [State.manage, h]

@[simp] theorem manage_room (s : State) (request : Nat) (out : Out) : s.manage request false out = out := rfl

/-- The MGT block after an answer. -/
def answered (s : State) (request status : Nat) : State :=
  let u := ((s.addFld MGT_COUNTS_REQUESTS 1).setFld MGT_LAST_REQUEST request).setFld MGT_LAST_STATUS status
  if status = 0 then u else u.addFld MGT_COUNTS_REJECTED 1

theorem answer_def (s : State) (request status : Nat) (data : Bytes) : s.answer request status data =
    { answered s request status with outs := { (answered s request status).outs with mgmtStatus := status, mgmtData := data } } := rfl

/-- An answer changes two registers of the MGT block alone. -/
theorem onlyRegs_answered (s : State) (request status : Nat) : onlyRegs s (answered s request status) [MGT_COUNTS, MGT_LAST] := by
  have k := onlyRegs_setFld MGT_LAST_STATUS status (by decide) (onlyRegs_setFld MGT_LAST_REQUEST request (by decide)
    (onlyRegs_addFld MGT_COUNTS_REQUESTS 1 (by decide) (onlyRegs_refl s [MGT_COUNTS, MGT_LAST])))
  unfold answered
  dsimp only
  split
  · exact k
  · exact onlyRegs_addFld MGT_COUNTS_REJECTED 1 (by decide) k

/-- A field of MGT_LAST as an answer sets it. -/
theorem answered_fld (s : State) (request status : Nat) {f : Fld} (h : apart MGT_COUNTS_REJECTED f = true) :
    (answered s request status).fld f =
      (((s.addFld MGT_COUNTS_REQUESTS 1).setFld MGT_LAST_REQUEST request).setFld MGT_LAST_STATUS status).fld f := by
  unfold answered
  dsimp only
  split
  · rfl
  · exact fld_addFld_of_apart _ 1 h

theorem answered_lastStatus (s : State) (request status : Nat) :
    (answered s request status).fld MGT_LAST_STATUS = status % 2 ^ 16 := by
  rw [answered_fld s request status (by decide)]
  exact fld_setFld_same _ MGT_LAST_STATUS status (by decide)

theorem answered_lastRequest (s : State) (request status : Nat) :
    (answered s request status).fld MGT_LAST_REQUEST = request % 2 ^ 16 := by
  rw [answered_fld s request status (by decide), fld_setFld_of_apart _ _ (by decide)]
  exact fld_setFld_same _ MGT_LAST_REQUEST request (by decide)

theorem answer_reg (s : State) (request status : Nat) (data : Bytes) (r : Nat) :
    (s.answer request status data).reg r = (answered s request status).reg r := by
  rw [answer_def, State.reg, State.reg]

theorem answer_fld (s : State) (request status : Nat) (data : Bytes) (f : Fld) :
    (s.answer request status data).fld f = (answered s request status).fld f := by
  rw [State.fld, answer_reg, State.fld]

theorem answer_eq (s : State) (request status : Nat) (data : Bytes) : s.answer request status data =
    { s with regs := (s.answer request status data).regs, outs := { s.outs with mgmtStatus := status, mgmtData := data } } := by
  rw [answer_def, (onlyRegs_answered s request status).1]

/-- A reset is possible outside a Halted that only a cold reset ends (R33). -/
theorem not_haltedCold (s : State) (h : s.mode = 0xF → s.haltCold = false) : ¬ (s.mode = 0xF ∧ s.haltCold = true) := by
  rintro ⟨hm, hc⟩
  exact Bool.false_ne_true ((h hm).symm.trans hc)

/-- Settles O10: a request takes the branch of Table MOD-3 that the mode selects, and one that finds four waiting takes none; the answer
itself changes the MGT block and the port's outputs. -/
theorem modeRequestsComplete : Obligations.ModeRequestsComplete := by
  refine ⟨⟨?ascend, ?resetTethered, ?reset, ?hostReset, ?startClear, ?powerDown, ?retry⟩, ?ascendRejected, ?resetRejected,
    ?hostResetRejected, ?startClearRejected, ?full, ?answer⟩
  case ascend =>
    intro s hp hm he
    show execAscend false s = _
    simp [execAscend, hp, hm, he]
  case resetTethered =>
    intro s hold hp hm
    show execDeviceReset hold false s = _
    simp [execDeviceReset, hp, hm]
  case reset =>
    intro s hold hp hm hc
    show execDeviceReset hold false s = _
    have hr := not_haltedCold s hc
    simp only [execDeviceReset, manage_room, hp, hm, hr, not_true, ne_eq, if_false]
  case hostReset =>
    intro s hp hc
    show execHostReset false s = _
    have hr := not_haltedCold s hc
    simp only [execHostReset, manage_room, hp, hr, not_true, ne_eq, if_false]
  case startClear =>
    intro s hp hm
    show execStartClear false s = _
    simp [execStartClear, hp, hm]
  case powerDown =>
    intro s hp
    refine ⟨?_, rfl⟩
    show execPowerDown false s = _
    simp only [execPowerDown, manage_room, hp, not_true, ne_eq, if_false]
  case retry =>
    intro s hr ha hm he
    show execRetryDelayExpiry s = _
    simp [execRetryDelayExpiry, hr, ha, hm, he]
  case ascendRejected =>
    intro s hp h
    show execAscend false s = _
    have hr : ¬ (s.mode = 1 ∧ s.fld CTL_START_COUNT_EXHAUSTED = 0) := by tauto
    simp [execAscend, hp, hr]
  case resetRejected =>
    intro s hold hp hm hc
    show execDeviceReset hold false s = _
    simp [execDeviceReset, hp, hm, hc]
  case hostResetRejected =>
    intro s hp hm hc
    show execHostReset false s = _
    simp [execHostReset, hp, hm, hc]
  case startClearRejected =>
    intro s hp hm
    show execStartClear false s = _
    simp [execStartClear, hp, hm]
  case full =>
    intro s hold cap first window count g key signature hp e he
    fin_cases he <;> exact manage_full _ _ hp
  case answer =>
    intro s request status data
    refine ⟨answer_eq s request status data, ?_, ?_, fun a hc hl => ?_⟩
    · rw [answer_fld, answered_lastStatus]
    · rw [answer_fld, answered_lastRequest]
    · rw [answer_reg]
      exact (onlyRegs_answered s request status).2 a (by simp [hc, hl])

end Sys2Proof.Laws
end

section
/-!
# The stages of Ascent

How a stage's reason follows from its outcome and its time, and how the POWER, HBM and LINE stages end; then one case for each clause.
-/
namespace Sys2Proof.Laws
open Sys2Proof.Machine

/-! ## The stages of Ascent (R38 to R47) -/

section
variable {s : State} {a : Ascent} {stage : Nat}

/-- A stage that passed within its maximum has no reason. -/
theorem stageReason_passed {ms : Nat} (h : ms ≤ stageMax stage) : stageReason stage 0#12 ms = 0 := by
  simp [stageReason, Nat.not_lt.mpr h]

/-- A stage that failed within its maximum shows the outcome it ended with. -/
theorem stageReason_failed {r : BitVec 12} {ms : Nat} (h : ms ≤ stageMax stage) (hr : r ≠ 0#12) :
    stageReason stage r ms = stage * 0x1000 + r.toNat := by
  simp [stageReason, Nat.not_lt.mpr h, hr]

/-- A stage past its maximum ends with STAGE_TIMEOUT. -/
theorem stageReason_late {ms : Nat} (r : BitVec 12) (h : stageMax stage < ms) : stageReason stage r ms = stage * 0x1000 + 0xFFF := by
  simp [stageReason, h]

@[simp] theorem stageEnds_part (s : State) (a : Ascent) (ms : Nat) : (s.stageEnds a ms).part = s.part := rfl
@[simp] theorem stageEnds_dies (s : State) (a : Ascent) (ms : Nat) : (s.stageEnds a ms).dies = s.dies := rfl
@[simp] theorem stageEnds_selfRefresh (s : State) (a : Ascent) (ms : Nat) : (s.stageEnds a ms).selfRefresh = s.selfRefresh := rfl
@[simp] theorem stageEnds_fld (s : State) (a : Ascent) (ms : Nat) (f : Fld) : (s.stageEnds a ms).fld f = s.fld f := rfl

@[simp] theorem spend_unit (a : Ascent) (ms : Nat) : (a.spend ms).unit = a.unit := rfl
@[simp] theorem spend_holes (a : Ascent) (ms : Nat) : (a.spend ms).holes = a.holes := rfl

/-- The POWER stage is over with a reason: the unit is left out. -/
theorem powerStage_leavesOut {r : BitVec 12} {ms reason : Nat} (h : s.inStage 1 = some a) (hr : stageReason 1 r ms = reason)
    (hne : reason ≠ 0) : exec (.ascentPowerStage r ms) s = .next ((s.stageEnds a ms).leaveOut (a.spend ms) reason) := by
  show execAscentPowerStage r ms s = _
  simp [execAscentPowerStage, h, hr, hne]

/-- The stack in training ends with a reason, 0 when it is admitted; one in self-refresh that retrains warm is admitted whatever the
cold training would say. -/
theorem hbmStack_ends {warm : Bool} {r : BitVec 12} {n : BitVec 8} {ms : Nat} (h : s.inStage 2 = some a) (ht : ms ≤ 3000)
    (hw : bitOf s.selfRefresh (4 * a.unit + a.site) = true → warm = true) :
    exec (.ascentHbmStack warm r n ms) s = .next ((s.stageEnds a ms).endStack (a.spend ms)
      (if bitOf s.selfRefresh (4 * a.unit + a.site) then 0 else if r = 0#12 then 0 else 0x2000 + r.toNat) n.toNat ms) := by
  show execAscentHbmStack warm r n ms s = _
  cases hx : bitOf s.selfRefresh (4 * a.unit + a.site) with
  | false => simp [execAscentHbmStack, h, hx, Nat.not_lt.mpr ht]
  | true => simp [execAscentHbmStack, h, hx, hw hx, Nat.not_lt.mpr ht]

/-- The LINE stage ends with the first of its reasons: buffer SRAM, no port, a peer of another major version. -/
theorem lineStage_leavesOut {sram : Bool} {ports : BitVec 12} {failed : List (Fin 12 × BitVec 8)} {ms up reason : Nat}
    (h : s.inStage 6 = some a) (ht : ms ≤ 4500) (hup : s.portsTrained (a.unit - 4) ports.toNat failed = up)
    (hr : (if !sram then RS_SRAM_BIST else if up = 0 then RS_NO_PORT_UP else if s.peerRejected then RS_ZWINE_VERSION else 0) = reason)
    (hne : reason ≠ 0) :
    exec (.ascentLineStage sram ports failed ms) s =
      .next ((s.stageEnds a ms).leaveOut { a.spend ms with holes := popcount up } reason) := by
  show execAscentLineStage sram ports failed ms s = _
  simp only [execAscentLineStage, h, hup, if_neg (Nat.not_lt.mpr ht), hr, ne_eq, hne, not_false_eq_true, if_true]

end

/-- Settles O11: each clause is the branch of its stage's definition that its hypotheses select. -/
theorem ascentStagesComplete : Obligations.AscentStagesComplete := by
  refine ⟨?power, ?powerLink, ?powerFailed, ?powerLate, ?stack, ?stackWarm, ?array, ?mesh, ?ucie, ?lineSram, ?lineNoPort, ?lineVersion,
    ?line, ?entry, ?timeout, ?timeoutAlone, ?timeoutStack, ?timeoutLine, ?timeoutEntry⟩
  case power =>
    intro s a ms h hg ht hu
    show execAscentPowerStage 0#12 ms s = _
    simp [execAscentPowerStage, h, hg, stageReason_passed (stage := 1) ht, hu]
  case powerLink =>
    intro s a ms h hg ht hu
    show execAscentPowerStage 0#12 ms s = _
    simp [execAscentPowerStage, h, hg, stageReason_passed (stage := 1) ht, Nat.not_lt.mpr hu]
  case powerFailed =>
    intro s a r ms h hr ht
    exact powerStage_leavesOut h (stageReason_failed ht hr) (by omega)
  case powerLate =>
    intro s a r ms h ht
    exact powerStage_leavesOut h (stageReason_late r ht) (by omega)
  case stack =>
    intro s a warm r n ms h ht hx
    rw [hbmStack_ends h ht (by simp [hx]), hx]
    rfl
  case stackWarm =>
    intro s a r n ms h ht hx
    rw [hbmStack_ends h ht (fun _ => rfl), hx]
    rfl
  case array =>
    intro s a bad ms h ht tiles out u hout
    show execAscentArrayStage [] bad 0#12 ms s = _
    have hroom : ¬ out.length > s.foundation.maxTileHoles := Nat.not_lt.mpr hout
    simp only [execAscentArrayStage, h, stageReason_passed (stage := 3) ht, List.any_nil, Bool.false_or]
    rw [if_neg (not_not.mpr (if_neg (fun k => hroom k.2)))]
  case mesh =>
    intro s a ms h ht
    show execAscentMeshStage 0#12 ms s = _
    simp [execAscentMeshStage, h, stageReason_passed (stage := 4) ht]
  case ucie =>
    intro s a ms h ht u
    show execAscentUcieStage [] ms s = _
    simp [execAscentUcieStage, h, Nat.not_lt.mpr ht, List.foldl_fixed, u]
  case lineSram =>
    intro s a ports failed ms h ht
    exact lineStage_leavesOut h ht rfl (by simp) (by decide)
  case lineNoPort =>
    intro s a ports failed ms h ht hup
    have hnone : popcount 0 = 0 := by decide
    rw [lineStage_leavesOut (reason := RS_NO_PORT_UP) h ht hup (by simp) (by decide), hnone]
  case lineVersion =>
    intro s a ports failed ms h ht up hup hp
    exact lineStage_leavesOut h ht rfl (by simp [up, hup, hp]) (by decide)
  case line =>
    intro s a ports failed ms h ht n up hup hp
    show execAscentLineStage true ports failed ms s = _
    simp [execAscentLineStage, h, Nat.not_lt.mpr ht, n, up, hup, hp]
  case entry =>
    intro s a ms h ht he
    show execAscentEntryStage ms s = _
    simp [execAscentEntryStage, h, Nat.not_lt.mpr ht, he]
  case timeout =>
    intro s a n ha hm h7 h2 h6 h5
    show execStageTimeout n s = _
    have h5 : ¬ (a.stage = 5 ∧ portsOf s.dies a.unit = []) := fun k => h5 k.1 k.2
    simp [execStageTimeout, ha, hm, h7, h2, h6, h5]
  case timeoutAlone =>
    intro s a n ha hm h5 hports
    show execStageTimeout n s = _
    simp [execStageTimeout, ha, hm, h5, hports, stageMax]
  case timeoutStack =>
    intro s a n ha hm h2 hx
    show execStageTimeout n s = _
    simp [execStageTimeout, ha, hm, h2, hx, stageMax]
  case timeoutLine =>
    intro s a n ha hm h6
    show execStageTimeout n s = _
    simp [execStageTimeout, ha, hm, h6, stageMax]
  case timeoutEntry =>
    intro s a n ha hm h7
    show execStageTimeout n s = _
    simp [execStageTimeout, ha, hm, h7, stageMax]

end Sys2Proof.Laws
end

section
/-!
# Rails, host-die ports and host timeouts

The loss of the host link cuts transfers short, which changes memory and what is kept of accesses to it, and no register and no mode
(`MemoryOnly`).
-/
namespace Sys2Proof.Laws
open Sys2Proof.Machine

/-! ## Transfers cut short (R108) -/

/-- `t` differs from `s` in memory, in what is kept of accesses to it, in the tiles' reservations and in free values alone. -/
structure MemoryOnly (s t : State) : Prop where
  eq : t = { s with mem := t.mem, poison := t.poison, hbmSeen := t.hbmSeen, hbmTick := t.hbmTick, counts := t.counts,
                    survival := t.survival, tiles := t.tiles, fresh := t.fresh }

section
variable {z s : State}

theorem MemoryOnly.regs {t : State} (h : MemoryOnly s t) : t.regs = s.regs := by rw [h.eq]
theorem MemoryOnly.ascent {t : State} (h : MemoryOnly s t) : t.ascent = s.ascent := by rw [h.eq]
theorem MemoryOnly.haltCold {t : State} (h : MemoryOnly s t) : t.haltCold = s.haltCold := by rw [h.eq]

theorem MemoryOnly.fld {t : State} (h : MemoryOnly s t) (f : Fld) : t.fld f = s.fld f := by
  rw [State.fld, reg_of_regs h.regs, State.fld]

theorem memoryOnly_refl (s : State) : MemoryOnly s s := ⟨rfl⟩

theorem memoryOnly_of {t : State} (h : MemoryOnly z s)
    (e : t = { s with mem := t.mem, poison := t.poison, hbmSeen := t.hbmSeen, hbmTick := t.hbmTick, counts := t.counts,
                      survival := t.survival, tiles := t.tiles, fresh := t.fresh }) : MemoryOnly z t := by
  rw [h.eq] at e
  exact ⟨e⟩

theorem memoryOnly_ite {c : Prop} [Decidable c] {a b : State} (ha : MemoryOnly z a) (hb : MemoryOnly z b) :
    MemoryOnly z (if c then a else b) := by
  split <;> assumption

theorem memoryOnly_foldl {α : Type} (f : State → α → State) (xs : List α) (s : State) (hs : MemoryOnly z s)
    (hf : ∀ t x, MemoryOnly z t → MemoryOnly z (f t x)) : MemoryOnly z (xs.foldl f s) := by
  induction xs generalizing s with
  | nil => exact hs
  | cons x xs ih => exact ih _ (hf _ _ hs)

theorem memoryOnly_fresh (n : Nat) (h : MemoryOnly z s) : MemoryOnly z { s with fresh := n } := memoryOnly_of h rfl

theorem memoryOnly_physWrite (a : Nat) (bs : Bytes) (h : MemoryOnly z s) : MemoryOnly z (s.physWrite a bs) := by
  rw [physWrite_frame]
  exact memoryOnly_of h rfl

theorem memoryOnly_unpoison (a n : Nat) (h : MemoryOnly z s) : MemoryOnly z (s.unpoison a n) := by
  rw [unpoison_eq]
  exact memoryOnly_of h rfl

theorem memoryOnly_countHbm (a n : Nat) (h : MemoryOnly z s) : MemoryOnly z (s.countHbm a n) := by
  rw [countHbm_eq]
  exact memoryOnly_of h rfl

theorem memoryOnly_markDirty (a n : Nat) (h : MemoryOnly z s) : MemoryOnly z (s.markDirty a n) := by
  rw [markDirty_eq]
  exact memoryOnly_of h rfl

theorem memoryOnly_breakReserve (a n : Nat) (h : MemoryOnly z s) : MemoryOnly z (s.breakReserve a n) := by
  rw [breakReserve_eq]
  exact memoryOnly_of h rfl

theorem memoryOnly_devWrite (a : Nat) (bs : Bytes) (h : MemoryOnly z s) : MemoryOnly z (s.devWrite a bs) :=
  memoryOnly_breakReserve _ _ (memoryOnly_markDirty _ _ (memoryOnly_countHbm _ _ (memoryOnly_unpoison _ _ (memoryOnly_physWrite _ _ h))))

theorem memoryOnly_landBytes (dst : Nat) (bs : Bytes) (h : MemoryOnly z s) : MemoryOnly z (s.landBytes dst bs) :=
  memoryOnly_fresh _ (memoryOnly_foldl _ _ _ h fun _ _ k => memoryOnly_ite (memoryOnly_devWrite _ _ k) k)

theorem memoryOnly_openAt (a n : Nat) (h : MemoryOnly z s) : MemoryOnly z (s.openAt a n) :=
  memoryOnly_ite (memoryOnly_of h rfl) (memoryOnly_fresh _ (memoryOnly_devWrite _ _ h))

theorem memoryOnly_dropLines (dst n : Nat) (h : MemoryOnly z s) : MemoryOnly z (s.dropLines dst n) :=
  memoryOnly_fresh _ (memoryOnly_foldl _ _ _ h fun _ _ k => memoryOnly_ite k (memoryOnly_openAt _ _ k))

theorem memoryOnly_landRow (x : Nat × Option Nat × Nat) (h : MemoryOnly z s) : MemoryOnly z (s.landRow x) := by
  unfold State.landRow
  split
  · exact memoryOnly_landBytes _ _ h
  · exact memoryOnly_landBytes _ _ (memoryOnly_fresh _ h)

theorem memoryOnly_landRows (t : Nat) (h : MemoryOnly z s) : MemoryOnly z (s.landRows t) :=
  memoryOnly_foldl _ _ _ h fun _ _ k => memoryOnly_landRow _ k

theorem memoryOnly_cutHandle (x : Handle) (h : MemoryOnly z s) : MemoryOnly z (s.cutHandle x) := by
  unfold State.cutHandle
  split
  · exact memoryOnly_dropLines _ _ (memoryOnly_dropLines _ _ h)
  · exact memoryOnly_ite (memoryOnly_landBytes _ _ (memoryOnly_landBytes _ _ h)) (memoryOnly_landBytes _ _ h)
  · exact h

theorem memoryOnly_cutMove (p : Pending) (h : MemoryOnly z s) : MemoryOnly z (s.cutMove p) :=
  memoryOnly_ite (memoryOnly_landBytes _ _ h) (memoryOnly_ite (memoryOnly_landBytes _ _ h)
    (memoryOnly_ite (memoryOnly_landBytes _ _ h) (memoryOnly_dropLines _ _ h)))

theorem memoryOnly_cutColl (c : Coll) (h : MemoryOnly z s) : MemoryOnly z (s.cutColl c) := by
  unfold State.cutColl
  split
  · exact memoryOnly_foldl _ _ _ h fun _ _ k => memoryOnly_landBytes _ _ k
  · exact h

theorem memoryOnly_cutPages (h : MemoryOnly z s) : MemoryOnly z s.cutPages :=
  memoryOnly_foldl _ _ _ h fun _ _ k => memoryOnly_foldl _ _ _ k fun _ _ l => memoryOnly_landBytes _ _ l

/-- What the loss of the host link cuts short reaches no register and no mode (R108). -/
theorem memoryOnly_cutAll (s : State) : MemoryOnly s s.cutAll := by
  have rows := memoryOnly_foldl (fun s e => s.landRows e.1) s.tiles s (memoryOnly_refl s) fun _ _ k => memoryOnly_landRows _ k
  have handles := fun hs => memoryOnly_foldl (fun (s : State) (e : Nat × Handle) => s.cutHandle e.2) hs _ rows
    fun _ _ k => memoryOnly_cutHandle _ k
  exact memoryOnly_foldl _ _ _ (memoryOnly_foldl _ _ _ (memoryOnly_cutPages (handles _)) fun _ _ k => memoryOnly_cutMove _ k)
    fun _ _ k => memoryOnly_cutColl _ k

end

/-! ## Rails and host-die ports (R48, R50, R487) -/

/-- The rails noted good decide neither the mode nor the stage. -/
@[simp] theorem inMode_railPg (s : State) (pg m : Nat) : { s with railPg := pg }.inMode m = s.inMode m := rfl

@[simp] theorem inStage_railPg (s : State) (pg stage : Nat) : { s with railPg := pg }.inStage stage = s.inStage stage := rfl

/-- The state in which the loss of the host link is decided: transfers cut short and LOST shown. -/
def linkLost (s : State) (k : Nat) : State :=
  s.cutAll.setFld HST_LINK_STATUS_LOST (withBit (s.cutAll.fld HST_LINK_STATUS_LOST) k)

theorem linkLost_ascent (s : State) (k : Nat) : (linkLost s k).ascent = s.ascent := (memoryOnly_cutAll s).ascent

theorem linkLost_haltCold (s : State) (k : Nat) : (linkLost s k).haltCold = s.haltCold := (memoryOnly_cutAll s).haltCold

theorem linkLost_mode (s : State) (k : Nat) : (linkLost s k).mode = s.mode :=
  (fld_setFld_of_apart _ _ (by decide)).trans ((memoryOnly_cutAll s).fld CTL_MODE_MODE)

/-- LOST gains the port's bit, which no transfer cut short has changed. -/
theorem linkLost_eq (s : State) (k : Nat) :
    s.cutAll.setFld HST_LINK_STATUS_LOST (withBit (s.fld HST_LINK_STATUS_LOST) k) = linkLost s k := by
  rw [linkLost, (memoryOnly_cutAll s).fld]

/-- The loss of a port in a Halted that only a cold reset ends. -/
theorem execHostLinkLoss_halted {s : State} {k : Fin 4} (hp : s.phase = .running)
    (hup : bitOf (s.fld HST_LINK_STATUS_UP) k.val = true) (hh : s.mode = 0xF ∧ s.haltCold = true) :
    execHostLinkLoss k s = .next ((linkLost s k.val).resetHalted 8) := by
  unfold execHostLinkLoss
  rw [if_pos ⟨hp, hup⟩]
  dsimp only
  rw [linkLost_eq, linkLost_mode, linkLost_haltCold, if_pos hh]

/-- The loss of a port while no Ascent runs. -/
theorem execHostLinkLoss_idle {s : State} {k : Fin 4} (hp : s.phase = .running)
    (hup : bitOf (s.fld HST_LINK_STATUS_UP) k.val = true) (hh : ¬ (s.mode = 0xF ∧ s.haltCold = true)) (ha : s.ascent = none) :
    execHostLinkLoss k s = .next ((linkLost s k.val).deviceReset 8 false false).autoAscent := by
  unfold execHostLinkLoss
  rw [if_pos ⟨hp, hup⟩]
  dsimp only
  rw [linkLost_eq, linkLost_mode, linkLost_haltCold, if_neg hh, linkLost_ascent, ha]

/-- Settles O12: each clause is the branch of its command's definition that its hypotheses select; the loss of the host link reads the
mode behind the transfers that it cuts short, which change none of it. -/
theorem railsAndPortsComplete : Obligations.RailsAndPortsComplete := by
  refine ⟨?rise, ?riseAlone, ?timeout, ?fall, ?fallAloft, ?retrain, ?retrainGone, ?loss, ?lossHalted, ?access, ?accessFree⟩
  case rise =>
    intro s r a hen h
    show execRailPgRise r s = _
    simp [execRailPgRise, hen, h]
  case riseAlone =>
    intro s r hen h
    show execRailPgRise r s = _
    simp [execRailPgRise, hen, h]
  case timeout =>
    intro s r a h hen hpg
    show execRailPgTimeout r s = _
    simp [execRailPgTimeout, h, hen, hpg]
  case fall =>
    intro s r hpg h3 hF
    show execRailPgFall r s = _
    simp [execRailPgFall, hpg, h3, hF]
  case fallAloft =>
    intro s r h4 h9 h14 hpg h3 u
    show execRailPgFall r s = _
    simp [execRailPgFall, hpg, h3, h14, h9, Nat.not_lt.mpr h4, u]
  case retrain =>
    intro s k replays hup
    constructor
    · show execHostPortRetrain k replays true s = _
      simp [execHostPortRetrain, hup]
    · show execHostPortRetrain k replays false s = _
      simp [execHostPortRetrain, hup]
  case retrainGone =>
    intro s k replays retrain hup
    show execHostPortRetrain k replays retrain s = _
    simp [execHostPortRetrain, hup]
  case loss =>
    intro s k hp hup ha hc
    exact execHostLinkLoss_idle hp hup (not_haltedCold s hc) ha
  case lossHalted =>
    intro s k hp hup hm hc
    exact execHostLinkLoss_halted hp hup ⟨hm, hc⟩
  case access =>
    intro s addr k hp hk hup u
    show execHostAccessTimeout addr s = _
    unfold execHostAccessTimeout
    rw [if_pos ⟨hp, by simp [hk, hup]⟩]
  case accessFree =>
    intro s addr hk
    show execHostAccessTimeout addr s = _
    simp [execHostAccessTimeout, hk]

end Sys2Proof.Laws
end

section
/-!
# The STRUCT commands

What each command does once it has started: the branch of its definition that the staging area, the commit in progress or the field it
names selects.
-/
namespace Sys2Proof.Laws
open Sys2Proof.Machine

section
variable {s : State} {h : Word} {p : Pending}

/-! ## Staging, validation and discard (R64, R65) -/

/-- A STAGE of an allowed length, from a source in host DDR, starts its copy. -/
theorem execStructStage_starts (hr : s.ready h 3 1 = some p) (hb : (s.begin p).structBusy = false)
    (hlo : 128 ≤ fieldAt p.entry 24 4) (hhi : fieldAt p.entry 24 4 ≤ 2 ^ 28)
    (hfirst : (s.begin p).isDdr (fieldAt p.entry 16 8) = true)
    (hlast : (s.begin p).isDdr (fieldAt p.entry 16 8 + fieldAt p.entry 24 4 - 1) = true) :
    execStructStage h s = .next ({ s.begin p with stageBy := some h }.setStage 6) := by
  have hlen : ¬ (fieldAt p.entry 24 4 < 128 ∨ fieldAt p.entry 24 4 > 2 ^ 28) := by omega
  simp only [execStructStage, hr, hb, hfirst, hlast, if_neg hlen, Bool.and_self, Bool.not_true, Bool.false_eq_true, if_false]

/-- The state in which the copy of a STAGE has ended: the source's bytes are staged. -/
def stageCopied (s : State) (e : Bytes) : State :=
  { s.store s.stageBase (s.bytesAt (fieldAt e 16 8) (fieldAt e 24 4)) with stageBy := none, stagedLen := fieldAt e 24 4 }

/-- The end of a copy: VALIDATE_AFTER decides between validation and the end of the STAGE. -/
theorem execStageCopyEnd_of_copying (hs : s.stageBy = some h) (hc : s.cmd h = some p) :
    execStageCopyEnd s =
      if bitOf (fieldAt p.entry 28 1) 0 then .next ({ stageCopied s p.entry with validateBy := some h }.setStage 2)
      else .next (((stageCopied s p.entry).setStage 1).finishStruct h ST_OK 0 0) := by
  simp only [execStageCopyEnd, hs, hc]
  rfl

/-- A VALIDATE of a staging area that is not empty starts the validation. -/
theorem execStructValidate_starts (hr : s.ready h 3 2 = some p) (hb : (s.begin p).structBusy = false)
    (hne : (s.begin p).stageState ≠ 0) :
    execStructValidate h s = .next ({ s.begin p with validateBy := some h }.setStage 2) := by
  simp only [execStructValidate, hr, hb, if_neg hne, Bool.false_eq_true, if_false]

/-- A DISCARD that nothing keeps busy empties the staging area. -/
theorem execStructDiscard_empties (hr : s.ready h 3 4 = some p) (hb : (s.begin p).structBusy = false) :
    execStructDiscard h s = .next (({ s.begin p with stagedLen := 0 }.setStage 0).finishWith h ST_OK) := by
  simp only [execStructDiscard, hr, hb, Bool.false_eq_true, if_false]

/-! ## Commit (R69) -/

/-- A COMMIT of a valid image that fits the units admitted begins to wait for quiescence. -/
theorem execStructCommit_of_valid (hr : s.ready h 3 3 = some p) (hb : (s.begin p).structBusy = false)
    (hv : (s.begin p).stageState = 3) (hu : unitChecks (s.begin p).units (trim (s.begin p).staged) = none) :
    execStructCommit h s = .next
      ({ s.begin p with commit := some { handle := h, wait := fieldAt p.entry 16 2, image := imageOf (trim (s.begin p).staged),
                                         had := (s.begin p).image.isSome } }.setStage 5) := by
  have hne : ¬ (s.begin p).stageState = 0 := by omega
  simp only [execStructCommit, hr, hb, if_neg hne, if_pos hv, hu, Bool.false_eq_true, if_false]

variable {c : Commit}

theorem execCommitQuiescence_of_quiescent (hc : s.commit = some c) (hp : c.phase = 0) (hq : s.quiescent = true) :
    execCommitQuiescence s = .next { s.retire with commit := some { c with phase := 1 } } := by
  simp only [execCommitQuiescence, hc]
  rw [if_pos ⟨hp, hq⟩]

theorem execCommitWaitExpiry_of_busy (hc : s.commit = some c) (hp : c.phase = 0) (hw : c.wait = 0) (hq : s.quiescent = false) :
    execCommitWaitExpiry s = .next (({ s with commit := none }.setStage 3).finishStruct c.handle ST_COMMIT_BUSY 0 0) := by
  simp only [execCommitWaitExpiry, hc]
  rw [if_pos ⟨hp, hw, hq⟩]

theorem execCommitPreparationEnd_prepared (hc : s.commit = some c) (hp : c.phase = 1) :
    execCommitPreparationEnd true s = .next { s.prepare c.image with commit := some { c with phase := 2 } } := by
  simp only [execCommitPreparationEnd, hc, if_neg (not_not.mpr hp), if_true]

/-! ## UPDATE (R58, R498) -/

/-- The state in which an accepted UPDATE of a field of class `k` has taken effect, or waits for its boundary. -/
def updateTaken (u : State) (h : Word) (sec width i off value : Nat) : ChangeClass → State
  | .tick => { u with shadows := u.shadows ++ [⟨sec, i, off, width, value, some h⟩] }
  | .live => (u.applyChange sec i off width value).finishWith h ST_OK
  | .static => (u.writeStatic sec i off width value).finishWith h ST_OK

/-- An UPDATE that passes its checks takes effect as its field's class says. -/
theorem execStructUpdate_of_accepted {k : ChangeClass} (hr : s.ready h 3 5 = some p) (hi : (s.begin p).image.isSome = true)
    (ok : (s.begin p).updateStatus (fieldAt p.entry 16 1) (fieldAt p.entry 17 1) (fieldAt p.entry 20 4) (fieldAt p.entry 24 4)
      (fieldAt p.entry 32 8) = ST_OK)
    (hk : ((fieldsOf (fieldAt p.entry 16 1) (fieldAt p.entry 20 4 == 0xFFFFFFFF)).find? (fun f => f.off == fieldAt p.entry 24 4)).map
      (·.cls) = some k) :
    execStructUpdate h s = .next (updateTaken (s.begin p) h (fieldAt p.entry 16 1) (fieldAt p.entry 17 1) (fieldAt p.entry 20 4)
      (fieldAt p.entry 24 4) (fieldAt p.entry 32 8) k) := by
  have image : (s.begin p).image.isNone = false := by simpa using hi
  simp only [execStructUpdate, hr, image, ok, hk, ne_eq, not_true_eq_false, Bool.false_eq_true, if_false]
  cases k <;> rfl

end

/-- Settles O14: one lemma above for each command and each phase of a commit. -/
theorem structureCommandsComplete : Obligations.StructureCommandsComplete := by
  refine ⟨?stage, ?copied, ?copiedValidates, ?validate, ?validated, ?commit, ?quiescent, ?expired, ?prepared, ?discard, ?update⟩
  case stage => exact fun _ _ _ hr hb hlo hhi hfirst hlast => execStructStage_starts hr hb hlo hhi hfirst hlast
  case copied =>
    intro s h p hs hc hbit u
    exact (execStageCopyEnd_of_copying hs hc).trans (if_neg (by simp [hbit]))
  case copiedValidates =>
    intro s h p hs hc hbit u
    exact (execStageCopyEnd_of_copying hs hc).trans (if_pos hbit)
  case validate => exact fun _ _ _ hr hb hne => execStructValidate_starts hr hb hne
  case validated =>
    intro s h hv u
    show execValidationEnd s = _
    simp only [execValidationEnd, hv]
    cases validateImage s.part u.units u.staged <;> rfl
  case commit => exact fun _ _ _ hr hb hv hu => execStructCommit_of_valid hr hb hv hu
  case quiescent => exact fun _ _ hc hp hq => execCommitQuiescence_of_quiescent hc hp hq
  case expired => exact fun _ _ hc hp hw hq => execCommitWaitExpiry_of_busy hc hp hw hq
  case prepared => exact fun _ _ hc hp => execCommitPreparationEnd_prepared hc hp
  case discard => exact fun _ _ _ hr hb => execStructDiscard_empties hr hb
  case update =>
    intro s h p k hr hi u sec width i off value ok hk
    refine (execStructUpdate_of_accepted hr hi ok hk).trans ?_
    cases k <;> rfl

end Sys2Proof.Laws
end

section
/-!
# The commands of the queues

How a fetch, a re-read, a doorbell and a submission act on a queue in the state that lets them act, and what a write of the protocol
register leaves (`protoWritten`).
-/
namespace Sys2Proof.Laws
open Sys2Proof.Machine

section
variable {s : State} {q : Fin 256}

/-! ## Fetching from a ring (R116, R117, R120) -/

/-- A queue that may fetch takes a fresh head slot and finds any other stale. -/
theorem execRingEntryFetch_of_mayFetch (hf : s.mayFetch q.val = true) (hs : (s.queue q.val).stale = false) :
    execRingEntryFetch q s =
      if s.headFresh q.val then .next (s.takeHead q.val)
      else .next (s.setQueue q.val { s.queue q.val with stale := true, rereads := 0 }) :=
  if_pos ⟨hf, hs⟩

/-- A stale slot that has become fresh is taken where there is room, and else left for a later fetch. -/
theorem execStaleSlotReread_fresh (hs : (s.queue q.val).stale = true) (he : s.fld (HST_Q_STATUS_STATE q.val) = 1)
    (hf : s.headFresh q.val = true) :
    execStaleSlotReread q s = .next (if s.hasRoom q.val then s.takeHead q.val
      else s.setQueue q.val { s.queue q.val with stale := false, rereads := 0 }) :=
  (if_pos ⟨hs, he⟩).trans (if_pos hf)

/-- The queue that has become STALE at the slot it reads next. -/
def queueStale (s : State) (q : Nat) : State :=
  let u := s.setQueue q { s.queue q with stale := false, rereads := 0 }
  (u.setFld (HST_Q_STATUS_STATE q) 3).setFld (HST_Q_STATUS_STALE_SLOT q) (s.headSlot q)

/-- The eighth re-read that fails makes the queue STALE. -/
theorem execStaleSlotReread_eighth (hs : (s.queue q.val).stale = true) (he : s.fld (HST_Q_STATUS_STATE q.val) = 1)
    (hf : s.headFresh q.val = false) (h7 : (s.queue q.val).rereads = 7) :
    execStaleSlotReread q s = .next ((queueStale s q.val).event 0x7400 EV_QUEUE_STALE noDomain
      (leBytes 1 q.val ++ zeros 1 ++ leBytes 2 (s.headSlot q.val) ++ leBytes 4 ((queueStale s q.val).nextSequence q.val) ++
        leBytes 2 ((queueStale s q.val).headPass q.val))) := by
  have last : ¬ (s.queue q.val).rereads < 7 := by omega
  unfold execStaleSlotReread
  dsimp only
  rw [if_pos ⟨hs, he⟩, if_neg (by simp [hf]), if_neg last]
  rfl

/-- A STALE queue whose head slot is fresh is enabled again, and fetches it where there is room. -/
theorem execQueueResume_of_fresh (hp : s.phase = .running) (hst : s.fld (HST_Q_STATUS_STATE q.val) = 3)
    (hf : s.headFresh q.val = true) :
    let u := s.setFld (HST_Q_STATUS_STATE q.val) 1
    execQueueResume q s = .next (if u.hasRoom q.val then u.takeHead q.val else u) :=
  if_pos ⟨hp, hst, hf⟩

/-! ## Doorbells and submission windows (R116, R118) -/

/-- The doorbell of an enabled ring: an index beyond the ring is counted, the head's changes nothing, any other becomes the tail. -/
theorem execDoorbell_of_enabledRing {tail : BitVec 32} (hp : s.phase = .running) (he : s.fld (HST_Q_STATUS_STATE q.val) = 1)
    (hm : s.fld (HST_Q_CONFIG_MODE q.val) = 0) :
    execDoorbell q tail s =
      if tail.toNat ≥ 2 ^ s.fld (HST_Q_CONFIG_SQ_LOG2 q.val) then .next (s.addFld (HST_Q_STATUS_BAD_DOORBELL q.val) 1)
      else if tail.toNat = s.headSlot q.val then .next s
      else .next (s.setQueue q.val { s.queue q.val with tail := tail.toNat }) := by
  simp [execDoorbell, hp, he, hm]

/-- Bytes written into a submission window; the entry is taken when its last word is among them. -/
theorem execWindowSubmit_of_running {off : BitVec 6} {data : Bytes} (hp : s.phase = .running) :
    execWindowSubmit q off data s =
      let u := s.setQueue q.val { s.queue q.val with submit := putAt (padTo 64 (s.queue q.val).submit) off.toNat data }
      if off.toNat ≤ 56 ∧ 64 ≤ off.toNat + data.length then .next (u.takeWindow q.val) else .next u :=
  if_neg (not_not.mpr hp)

/-! ## Enabling and draining (R111, R112) -/

/-- The ENABLE of a disabled queue: accepted with an allowed configuration, refused with any other. -/
theorem execQueueEnable_of_disabled (hp : s.phase = .running) (hd : s.fld (HST_Q_STATUS_STATE q.val) = 0) :
    let u := s.setQueue q.val { firstSeq := s.fld (HST_Q_CONFIG_START_SEQ q.val) }
    let v := (u.setFld (HST_Q_CTRL_ENABLE q.val) 1).setFld (HST_Q_STATUS_STATE q.val) 1
    execQueueEnable q s =
      if !s.queueOk q.val then .next (s.setFld (HST_Q_STATUS_LAST_REJECT q.val) ST_QUEUE_CONFIG)
      else .next ((v.setReg (HST_Q_SQ_HEAD q.val) 0#64).setReg (HST_Q_CQ_HEAD q.val) 0#64) :=
  if_neg (by simp [hp, hd])

end

/-! ## The protocol version (R61, R129) -/

/-- The protocol register written with a range of minors, and the minor chosen with its status. -/
def protoWritten (s : State) (major lo hi chosen status : Nat) : State :=
  ((((s.setFld HST_PROTO_MAJOR major).setFld HST_PROTO_MIN_MINOR lo).setFld HST_PROTO_MAX_MINOR hi).setFld HST_PROTO_CHOSEN_MINOR
    chosen).setFld HST_PROTO_STATUS status

section
variable (s : State) (major lo hi chosen status : Nat)

theorem onlyRegs_protoWritten : onlyRegs s (protoWritten s major lo hi chosen status) [HST_PROTO] := by
  have here {f : Fld} (e : f.reg = HST_PROTO) : f.reg ∈ [HST_PROTO] := by simp [e]
  exact onlyRegs_setFld _ _ (here rfl) (onlyRegs_setFld _ _ (here rfl) (onlyRegs_setFld _ _ (here rfl)
    (onlyRegs_setFld _ _ (here rfl) (onlyRegs_setFld _ _ (here rfl) (onlyRegs_refl s _)))))

theorem protoWritten_major : (protoWritten s major lo hi chosen status).fld HST_PROTO_MAJOR = major % 2 ^ 8 := by
  unfold protoWritten
  rw [fld_setFld_of_apart _ _ (by decide), fld_setFld_of_apart _ _ (by decide), fld_setFld_of_apart _ _ (by decide),
    fld_setFld_of_apart _ _ (by decide)]
  exact fld_setFld_same s HST_PROTO_MAJOR major (by decide)

theorem protoWritten_chosenMinor : (protoWritten s major lo hi chosen status).fld HST_PROTO_CHOSEN_MINOR = chosen % 2 ^ 8 := by
  unfold protoWritten
  rw [fld_setFld_of_apart _ _ (by decide)]
  exact fld_setFld_same _ HST_PROTO_CHOSEN_MINOR chosen (by decide)

theorem protoWritten_status : (protoWritten s major lo hi chosen status).fld HST_PROTO_STATUS = status % 2 ^ 16 :=
  fld_setFld_same _ HST_PROTO_STATUS status (by decide)

end

/-- A range of minors of major 1 that reaches down to a minor known here, 0 to 2. -/
abbrev protoCommon (value : Word) : Prop :=
  bitsOf value.toNat 0 8 = 1 ∧ bitsOf value.toNat 8 8 ≤ min 2 (bitsOf value.toNat 16 8)

/-- While every queue is disabled, the highest common minor is chosen, or none. -/
theorem execProtoNegotiate_of_disabled {s : State} (value : Word) (hp : s.phase = .running)
    (hd : ∀ q, q < 256 → s.fld (HST_Q_STATUS_STATE q) = 0) :
    execProtoNegotiate value s = .next (protoWritten s (bitsOf value.toNat 0 8) (bitsOf value.toNat 8 8) (bitsOf value.toNat 16 8)
      (if protoCommon value then min 2 (bitsOf value.toNat 16 8) else 0xFF)
      (if protoCommon value then ST_OK else ST_REJECTED_VERSION)) := by
  have allDisabled : (List.range 256).any (fun q => s.fld (HST_Q_STATUS_STATE q) != 0) = false := by
    rw [List.any_eq_false]
    intro q hq
    simp [hd q (List.mem_range.mp hq)]
  unfold execProtoNegotiate
  rw [if_neg (not_not.mpr hp), allDisabled]
  simp only [Bool.false_eq_true, if_false, Bool.and_eq_true, decide_eq_true_eq]
  rfl

/-- Settles O18: one lemma above for each command, which the clause's hypotheses lead to one of its branches. -/
theorem queueCommandsComplete : Obligations.QueueCommandsComplete := by
  refine ⟨?doorbell, ?badDoorbell, ?fetch, ?fetchStale, ?reread, ?rereadFull, ?rereadEighth, ?window, ?windowPart, ?enable, ?refused,
    ?drain, ?resume, ?cqHead, ?proto, ?coalesce⟩
  case doorbell =>
    intro s q tail hp he hm hlt ht
    exact (execDoorbell_of_enabledRing hp he hm).trans ((if_neg (Nat.not_le.mpr hlt)).trans (if_neg ht))
  case badDoorbell =>
    intro s q tail hp he hm hle
    exact (execDoorbell_of_enabledRing hp he hm).trans (if_pos hle)
  case fetch =>
    intro s q hf hs fresh
    exact (execRingEntryFetch_of_mayFetch hf hs).trans (if_pos fresh)
  case fetchStale =>
    intro s q hf hs old
    exact (execRingEntryFetch_of_mayFetch hf hs).trans (if_neg (by simp [old]))
  case reread =>
    intro s q hs he fresh room
    exact (execStaleSlotReread_fresh hs he fresh).trans (congrArg _ (if_pos room))
  case rereadFull =>
    intro s q hs he fresh full
    exact (execStaleSlotReread_fresh hs he fresh).trans (congrArg _ (if_neg (by simp [full])))
  case rereadEighth =>
    intro s q hs he old h7 u v
    exact execStaleSlotReread_eighth hs he old h7
  case window =>
    intro s q off data hp hoff hlen
    exact (execWindowSubmit_of_running hp).trans (if_pos ⟨hoff, hlen⟩)
  case windowPart =>
    intro s q off data hp hlen
    exact (execWindowSubmit_of_running hp).trans (if_neg fun k => Nat.not_le.mpr hlen k.2)
  case enable =>
    intro s q hp hd ok u v
    exact (execQueueEnable_of_disabled hp hd).trans (if_neg (by simp [ok]))
  case refused =>
    intro s q hp hd bad
    exact (execQueueEnable_of_disabled hp hd).trans (if_pos (by simp [bad]))
  case drain =>
    intro s q hp he u
    show execQueueDrain q s = _
    simp only [execQueueDrain, hp, he, ne_eq, not_true_eq_false, if_false, true_or, if_true, u]
  case resume => exact fun _ _ hp hst fresh => execQueueResume_of_fresh hp hst fresh
  case cqHead =>
    intro s q value hp v cap hv hne
    exact if_neg (by simp [hp, v, cap, hv, hne])
  case proto =>
    intro s value hp hd
    refine ⟨_, execProtoNegotiate_of_disabled value hp hd, onlyRegs_protoWritten .., ?_, ?_, ?_⟩
    · rw [protoWritten_major]
      exact Nat.mod_eq_of_lt (bitsOf_lt _ _ _)
    · rw [protoWritten_chosenMinor]
      apply Nat.mod_eq_of_lt
      split <;> omega
    · rw [protoWritten_status]
      apply Nat.mod_eq_of_lt
      split <;> decide
  case coalesce =>
    intro s q hp hu hc
    exact if_pos ⟨hp, hu, hc⟩

end Sys2Proof.Laws
end

section
/-!
# The time commands

Which registers the detectors and the trace record of a boundary leave alone (`RegKept`), so that the tick counter counts by one; where a
rounded time lies on the grid; and what the end of a measurement and of a round trip leave.
-/
namespace Sys2Proof.Laws
open Sys2Proof.Machine

/-! ## The tick grid (R89) -/

theorem roundUp_onGrid (p t : Nat) : roundUp p t % p = 0 := Nat.mul_mod_left ..

theorem le_roundUp {p : Nat} (t : Nat) (hp : 0 < p) : t ≤ roundUp p t := by
  have split := Nat.div_add_mod' (t + p - 1) p
  have rest := Nat.mod_lt (t + p - 1) hp
  unfold roundUp
  omega

theorem roundUp_lt {p : Nat} (t : Nat) (hp : 0 < p) : roundUp p t < t + p := by
  have split := Nat.div_mul_le_self (t + p - 1) p
  unfold roundUp
  omega

/-! ## The tick counter (R74) -/

/-- Register `r` reads in `s` as it reads in `z`. -/
structure RegKept (r : Nat) (z s : State) : Prop where
  eq : s.reg r = z.reg r

section
variable {r : Nat} {z s : State}

theorem regKept_refl (s : State) : RegKept r s s := ⟨rfl⟩

theorem regKept_of {t : State} (h : RegKept r z s) (e : t.regs = s.regs) : RegKept r z t := ⟨(reg_of_regs e r).trans h.eq⟩

theorem regKept_ite {c : Prop} [Decidable c] {a b : State} (ha : RegKept r z a) (hb : RegKept r z b) :
    RegKept r z (if c then a else b) := by
  split <;> assumption

theorem regKept_foldl {α : Type} (f : State → α → State) (xs : List α) (s : State) (hs : RegKept r z s)
    (hf : ∀ u x, RegKept r z u → RegKept r z (f u x)) : RegKept r z (xs.foldl f s) := by
  induction xs generalizing s with
  | nil => exact hs
  | cons x xs ih => exact ih _ (hf s x hs)

theorem regKept_setFld (f : Fld) (v : Nat) (hr : r ≠ f.reg) (h : RegKept r z s) : RegKept r z (s.setFld f v) :=
  ⟨(reg_setFld_ne s f v hr).trans h.eq⟩

theorem regKept_addFld (f : Fld) (n : Nat) (hr : r ≠ f.reg) (h : RegKept r z s) : RegKept r z (s.addFld f n) :=
  regKept_setFld f _ hr h

theorem regKept_event (unit code dom : Nat) (args : Bytes) (hs : r ≠ CTL_ERR_STATUS) (hp : r ≠ CTL_ERR_RING_PTR) (h : RegKept r z s) :
    RegKept r z (s.event unit code dom args) := ⟨(event_reg_ne s unit code dom args hs hp).trans h.eq⟩

theorem regKept_store (a : Nat) (bs : Bytes) (h : RegKept r z s) : RegKept r z (s.store a bs) := ⟨(store_reg s a bs r).trans h.eq⟩

/-- A trace record changes its pointer alone among the registers. -/
theorem regKept_trace (unit kind dom ticket : Nat) (args : Bytes) (hr : r ≠ DBG_TRACE_PTR) (h : RegKept r z s) :
    RegKept r z (s.trace unit kind dom ticket args) := by
  unfold State.trace
  dsimp only
  split
  · have drawn : RegKept r z { s with fresh := s.fresh + 1 } := regKept_of h rfl
    have stored := fun (a : Nat) (bs : Bytes) => regKept_store a bs drawn
    exact regKept_ite (regKept_addFld _ _ hr drawn)
      (regKept_ite (regKept_setFld _ _ hr (stored _ _)) (regKept_ite (regKept_setFld _ _ hr (stored _ _))
        (regKept_setFld _ _ hr (regKept_setFld _ _ hr (stored _ _)))))
  · exact h

theorem tickCount_ne_hotspot (x : Nat) : CTL_TICK_COUNT ≠ HBM_HOTSPOT x := by
  unfold CTL_TICK_COUNT HBM_HOTSPOT
  omega

theorem tickCount_coolDie (k : Nat) (h : RegKept CTL_TICK_COUNT z s) : RegKept CTL_TICK_COUNT z (s.coolDie k) :=
  regKept_foldl _ _ _ h fun _ _ hu => regKept_setFld _ _ (tickCount_ne_hotspot _) hu

theorem tickCount_raiseHotspot (k pc count imbalance : Nat) (h : RegKept CTL_TICK_COUNT z s) :
    RegKept CTL_TICK_COUNT z (s.raiseHotspot k pc count imbalance) :=
  have elsewhere := tickCount_ne_hotspot (pc / 64)
  regKept_event _ _ _ _ (by decide) (by decide)
    (regKept_addFld _ _ elsewhere (regKept_setFld _ _ elsewhere (regKept_setFld _ _ elsewhere (regKept_setFld _ _ elsewhere h))))

theorem tickCount_detectHotspot (k : Nat) (h : RegKept CTL_TICK_COUNT z s) : RegKept CTL_TICK_COUNT z (s.detectHotspot k) :=
  regKept_ite (tickCount_coolDie k (regKept_of h rfl))
    (regKept_ite (tickCount_raiseHotspot k _ _ _ (regKept_of h rfl))
      (regKept_ite (tickCount_coolDie k (regKept_of h rfl)) (regKept_of h rfl)))

/-- Neither the detectors of hotspots nor the arbiters' windows change the tick count. -/
theorem tickCount_restartWindows (s : State) : RegKept CTL_TICK_COUNT s s.hotspots.restartWindows :=
  have detected : RegKept CTL_TICK_COUNT s s.hotspots :=
    regKept_of (regKept_foldl State.detectHotspot _ _ (regKept_refl s) fun _ k hu => tickCount_detectHotspot k hu) rfl
  regKept_ite detected (regKept_of detected rfl)

end

theorem tick_eq (s : State) : s.tick = (s.reg CTL_TICK_COUNT).toNat := by
  have width := (s.reg CTL_TICK_COUNT).isLt
  simp only [State.tick, State.fld, CTL_TICK_COUNT_VALUE, bitsOf, Nat.pow_zero, Nat.div_one]
  exact Nat.mod_eq_of_lt width

/-- A boundary counts itself: what runs before the count and the trace record after it write other registers. -/
theorem countBoundary_tickCount (s : State) : s.countBoundary.reg CTL_TICK_COUNT = word (s.tick + 1) := by
  have before : s.hotspots.restartWindows.tick = s.tick := by
    rw [tick_eq, (tickCount_restartWindows s).eq, ← tick_eq]
  have counted : ∀ (u t : State) (v : Word), t.regs = (u.setReg CTL_TICK_COUNT v).regs → t.reg CTL_TICK_COUNT = v :=
    fun u t v e => (reg_of_regs e _).trans (reg_setReg_same u _ v)
  rw [← before]
  exact (regKept_trace 0x8000 5 noDomain 0 _ (by decide) (regKept_refl _)).eq.trans (counted _ _ _ rfl)

/-! ## Round trips and measurements (R86 to R88) -/

section
variable {s : State}

theorem emit_measure (s : State) (n rank flow seq : Nat) (retx : Bool) (b : Body) : (s.emit n rank flow seq retx b).measure = s.measure := by
  unfold State.emit
  split
  · split <;> rfl
  · rfl

theorem askTime_trips (s : State) : s.askTime.measure.trips = s.measure.trips := by
  unfold State.askTime
  split
  · rw [emit_measure]
  · rfl

/-- The state in which the 16 round trips of a measurement are evaluated; `due` says that it is to be repeated. -/
def measured (s : State) (due : Bool) : State :=
  ({ s with measure := { s.measure with trips := [], sent := none, due := due, tripTick := s.tick } }.setFld
    CTL_TIME_STATUS_MEASURING 0).setFld CTL_TIME_STATUS_SPREAD (satTo 0xFFFF (spreadOf s.measure.trips))

theorem measured_offset (s : State) (due : Bool) : (measured s due).offset = s.offset := by
  have kept : RegKept CTL_TIME_OFFSET s (measured s due) :=
    regKept_setFld _ _ (by decide) (regKept_setFld _ _ (by decide) (regKept_of (regKept_refl s) rfl))
  rw [State.offset, kept.eq, State.offset]

theorem measured_aligned (s : State) (due : Bool) : (measured s due).aligned = s.aligned :=
  (setFld_aligned ..).trans (setFld_aligned ..)

theorem measured_timeMaster (s : State) (due : Bool) : (measured s due).timeMaster = s.timeMaster :=
  (setFld_timeMaster ..).trans (setFld_timeMaster ..)

/-- The first accepted measurement: aligned time steps to its offset `o`, and an event says so. -/
def alignedAt (u : State) (o : Int) (spread : Nat) : State :=
  let v := ({ (u.stepOffset o) with aligned := true, slew := 0, slewAt := u.localNs,
                                    measure := { u.measure with errAt := u.localNs } }).setFld CTL_TIME_STATUS_ALIGNED 1
  v.event 0x8000 EV_TIME_ALIGNED noDomain
    (leBytes 8 (unsignedOf 64 u.offset) ++ leBytes 8 (unsignedOf 64 o) ++ leBytes 2 (satTo 0xFFFF spread) ++ leBytes 2 v.timeMaster)

/-- A rejected measurement: aligned time stays, and an event gives the error. -/
def rejectedAt (u : State) (o : Int) (spread : Nat) : State :=
  (u.setFld CTL_TIME_STATUS_POOR 1).event 0x8000 EV_TIME_ALIGN_POOR noDomain
    (leBytes 8 (unsignedOf 64 (o - u.offset)) ++ leBytes 2 (satTo 0xFFFF spread) ++ leBytes 2 u.timeMaster)

/-- What a measurement with offset `o` and spread `spread` leaves: a later accepted one slews, the first one steps, a rejected one neither. -/
def judged (u : State) (o : Int) (spread : Nat) : State :=
  if spread ≤ 100 then if u.aligned = true then u.slewTo o spread else alignedAt u o spread else rejectedAt u o spread

theorem execTimeMeasurementEnd_of_full (hm : s.fld CTL_TIME_STATUS_MEASURING = 1) (ht : s.measure.trips.length = 16) :
    execTimeMeasurementEnd s = .next ((judged (measured s (!decide (spreadOf s.measure.trips ≤ 100))) (medianOf s.measure.trips)
      (spreadOf s.measure.trips)).endMeasures (spreadOf s.measure.trips)) := by
  have branches : ∀ (u : State) (o : Int) (sp : Nat),
      (if sp ≤ 100 then if u.aligned = true then Host.Outcome.next ((u.slewTo o sp).endMeasures sp)
        else .next ((alignedAt u o sp).endMeasures sp) else .next ((rejectedAt u o sp).endMeasures sp) : Out) =
      .next ((judged u o sp).endMeasures sp) := by
    intro u o sp
    unfold judged
    split
    · split <;> rfl
    · rfl
  unfold execTimeMeasurementEnd
  rw [if_pos ⟨hm, ht⟩]
  exact branches _ _ _

end

/-- Settles O13: the commands by their branches; the counter by what the boundary's other actions leave alone; the next boundary by the
bounds of the rounded time. -/
theorem timeCommandsComplete : Obligations.TimeCommandsComplete := by
  refine ⟨⟨?boundary, ?slewed, ?stepped, ?rejected, ?repeated, ?asked, ?period, ?single, ?trip⟩, ?counted, ?planned⟩
  case boundary =>
    intro s sram fs ht v
    have runs : ∀ c, exec (.tickBoundary c sram fs) s = execTickBoundary c sram fs s := fun _ => rfl
    refine ⟨?_, fun u => ?_⟩ <;> rw [runs, execTickBoundary, if_neg (by simp [ht])]
  case slewed =>
    intro s o sp hm ht hs ha v u
    refine (execTimeMeasurementEnd_of_full hm ht).trans ?_
    rw [judged, if_pos hs, if_pos ((measured_aligned ..).trans ha), decide_eq_true hs]
    rfl
  case stepped =>
    intro s o sp hm ht hs ha w u v
    refine (execTimeMeasurementEnd_of_full hm ht).trans ?_
    rw [judged, if_pos hs, if_neg (by simp [measured_aligned, ha]), decide_eq_true hs]
    rfl
  case rejected =>
    intro s o sp hm ht hs v u
    refine (execTimeMeasurementEnd_of_full hm ht).trans ?_
    rw [judged, if_neg (Nat.not_le.mpr hs), decide_eq_false (Nat.not_le.mpr hs), rejectedAt, measured_offset,
      measured_timeMaster]
    rfl
  case repeated =>
    intro s ha hm hne hd
    show execTimeMeasureRetry s = _
    simp [execTimeMeasureRetry, ha, hm, hne, hd]
  case asked =>
    intro s ha hm he ht
    show execTimeMeasureRetry s = _
    simp [execTimeMeasureRetry, ha, hm, he, ht]
  case period =>
    intro s ha hm hal he ht
    exact if_pos ⟨ha, hm, hal, he, ht⟩
  case single =>
    intro s o hs
    exact if_pos hs
  case trip =>
    intro s o hs
    simp only [State.takeTrip, hs, Bool.false_eq_true, if_false]
    split
    · rw [askTime_trips]
    · rfl
  case counted =>
    intro s hlt
    rw [tick_eq, countBoundary_tickCount, word_toNat, tick_eq]
    exact Nat.mod_eq_of_lt hlt
  case planned =>
    intro s hp t
    have low := le_roundUp (s.lastBoundary + s.periodNs) hp
    have high := roundUp_lt (s.lastBoundary + s.periodNs) hp
    have next : t.nextBoundary = roundUp s.periodNs (s.lastBoundary + s.periodNs) := rfl
    refine ⟨next ▸ roundUp_onGrid .., ?_, ?_, rfl⟩ <;> omega

end Sys2Proof.Laws
end

section
/-!
# The MOVE, SECURE, WATCH and QUERY commands

What a command with payload ranges does as it begins (`beginWith`), when a transfer of the MOVE engine takes effect, and what the commands
that report write.
-/
namespace Sys2Proof.Laws
open Sys2Proof.Machine

section
variable {s : State} {h : Word} {p : Pending}

/-! ## MOVE (Table CMD-5) -/

theorem beginWith_flawed {st : Nat} (f : State → State) (hf : rangeFlaw p.entry = some st) :
    s.beginWith p f = (s.begin p).finishWith p.handle st := by
  simp only [State.beginWith, hf]

theorem beginWith_sound (f : State → State) (hf : rangeFlaw p.entry = none) : s.beginWith p f = f (s.begin p) := by
  simp only [State.beginWith, hf]

theorem execMoveCopy_flawed {st : Nat} (hr : s.ready h 2 1 = some p) (hf : rangeFlaw p.entry = some st) :
    execMoveCopy h s = .next ((s.begin p).finishWith p.handle st) := by
  simp only [execMoveCopy, hr, beginWith_flawed _ hf]

/-- A COPY without a base, between mapped ranges, starts. -/
theorem execMoveCopy_starts (hr : s.ready h 2 1 = some p) (hf : rangeFlaw p.entry = none) (hc : p.codec < 3)
    (hsrc : (s.begin p).mappedAll p.src ((s.begin p).copyReads p) = true)
    (hdst : (s.begin p).mappedAll p.dst (copyWrites p) = true) : execMoveCopy h s = .next (s.begin p) := by
  have noBase : decide (p.codec ≥ 3) = false := decide_eq_false (Nat.not_le.mpr hc)
  simp only [execMoveCopy, hr, beginWith_sound _ hf, hsrc, hdst, noBase, Bool.not_false, Bool.true_or, Bool.and_self, if_true]

theorem execMoveFill_flawed {st : Nat} (hr : s.ready h 2 2 = some p) (hf : rangeFlaw p.entry = some st) :
    execMoveFill h s = .next ((s.begin p).finishWith p.handle st) := by
  simp only [execMoveFill, hr, beginWith_flawed _ hf]

/-- A FILL starts over a mapped range and ends at once over another. -/
theorem execMoveFill_sound (hr : s.ready h 2 2 = some p) (hf : rangeFlaw p.entry = none) :
    execMoveFill h s = .next (if (s.begin p).mappedAll p.src p.len = true then s.begin p
      else ((s.begin p).engineFault p.src p.len).finishWith h ST_ADDRESS_UNMAPPED) := by
  simp only [execMoveFill, hr, beginWith_sound _ hf]

/-- A transfer whose turn it is takes effect. -/
theorem execMoveTransferDone_of_turn (hc : s.cmd h = some p) (hcls : p.cls = 2) (hs : p.started = true) (hd : p.done = none)
    (hport : s.revoked (s.movePort p) = false) (hturn : s.moveTurn p = true) :
    execMoveTransferDone h [] s = if p.op = 1 then .next (s.endCopy p)
      else .next ((s.devWrite p.src (fillBytes (fieldAt p.entry 24 8) p.len)).finishOk h p.len) := by
  simp [execMoveTransferDone, State.findErrors, hc, hcls, hs, hd, hport, hturn]

/-- A transfer waits for its turn. -/
theorem execMoveTransferDone_waits (hc : s.cmd h = some p) (hturn : s.moveTurn p = false) : execMoveTransferDone h [] s = .next s := by
  simp [execMoveTransferDone, State.findErrors, hc, hturn]

/-- A FILL repeats the eight bytes of its pattern. -/
theorem fillBytes_getElem? (v : Nat) {n i : Nat} (hi : i < n) :
    (fillBytes v n)[i]? = some (BitVec.ofNat 8 (bitsOf v (8 * (i % 8)) 8)) := by
  have octet : v / 256 ^ (i % 8) = v / 2 ^ (8 * (i % 8)) := by rw [Nat.pow_mul]
  simp only [fillBytes, List.getElem?_map, List.getElem?_range hi, Option.map_some, byte, bitsOf, octet]
  exact congrArg some (BitVec.eq_of_toNat_eq (by simp))

/-! ## SECURE and WATCH (R127, R463, R466, R478) -/

theorem execIdentityGet_of_ready (hr : s.ready h 5 1 = some p) :
    execIdentityGet h s = .next ((s.begin p).putOutput h (fieldAt p.entry 16 8) (fieldAt p.entry 24 4) s.chain) := by
  simp only [execIdentityGet, hr]

/-- The measurements are signed with a nonce that is there and intact. -/
theorem execAttestGet_signs (hr : s.ready h 5 2 = some p) (hm : (s.begin p).mappedAll (fieldAt p.entry 16 8) 32 = true)
    (hp : (s.begin p).poisonedIn (fieldAt p.entry 16 8) 32 = none) :
    execAttestGet h [] s = .next ((s.begin p).putOutput h (fieldAt p.entry 24 8) (fieldAt p.entry 32 4)
      ((s.begin p).signed ((s.begin p).physRead (fieldAt p.entry 16 8) 32) (s.begin p).measurements.flatten)) := by
  simp only [execAttestGet, State.findErrors, List.foldl_nil, hr, hm, hp, Bool.true_eq_false, if_false]

theorem execWatchRead_writes (hr : s.ready h 6 1 = some p)
    (hm : (s.begin p).mappedAll (fieldAt p.entry 24 8) (64 * ((s.begin p).watched (fieldAt p.entry 16 1)).length) = true) :
    execWatchRead h s = .next (((s.begin p).devWrite (fieldAt p.entry 24 8) ((s.begin p).watched (fieldAt p.entry 16 1)).flatten).finishOk h
      ((s.begin p).watched (fieldAt p.entry 16 1)).length) := by
  simp only [execWatchRead, hr, hm, if_true]

theorem execWatchClear_of_ready (hr : s.ready h 6 2 = some p) :
    execWatchClear h s = .next
      ({ s.begin p with dbg := { (s.begin p).dbg with points := smapDel (s.begin p).dbg.points (fieldAt p.entry 16 1) } }.finishWith h
        ST_OK) := by
  simp only [execWatchClear, hr]

/-! ## QUERY (R86, Table CMD-7) -/

theorem execQueryInfo_writes (hr : s.ready h 7 1 = some p) (hm : (s.begin p).mappedAll (fieldAt p.entry 16 8) 512 = true) :
    execQueryInfo h s = .next ({ ((s.begin p).devWrite (fieldAt p.entry 16 8) ((s.begin p).freeBytes 512)) with
      fresh := (s.begin p).fresh + 1 }.finishOk h 512) := by
  simp only [execQueryInfo, hr, hm, if_true]

theorem execHandleState_of_ready (hr : s.ready h 7 3 = some p) :
    execHandleState h s = .next ((s.begin p).finishOk h ((s.begin p).handleState (word (fieldAt p.entry 16 8)))) := by
  simp only [execHandleState, hr]

theorem execTimeMeasure_of_master (hr : s.ready h 7 2 = some p) (hm : (s.begin p).isTimeMaster = true) :
    execTimeMeasure h s = .next ((s.begin p).finishOk h 0) := by
  simp only [execTimeMeasure, hr, hm, if_true]

/-- The state in which a TIME_MEASURE waits for a measurement. -/
def awaitingMeasure (u : State) (h : Word) : State := { u with measureBy := u.measureBy ++ [h] }

theorem execTimeMeasure_waits (hr : s.ready h 7 2 = some p) (hm : (s.begin p).isTimeMaster = false) :
    execTimeMeasure h s = .next (if (awaitingMeasure (s.begin p) h).fld CTL_TIME_STATUS_MEASURING = 1 then awaitingMeasure (s.begin p) h
      else (awaitingMeasure (s.begin p) h).startMeasure) := by
  simp only [execTimeMeasure, hr, hm, Bool.false_eq_true, if_false]
  rfl

end

/-- Settles O22: one lemma above for each command and each branch that a clause names. -/
theorem moveAndReportCommandsComplete : Obligations.MoveAndReportCommandsComplete := by
  refine ⟨⟨?flawed, ?copyStarts, ?fillStarts, ?fillUnmapped, ?copyEnds, ?fillEnds, ?waits, ?found, ?pattern⟩,
    ⟨?identity, ?attest, ?attestFound, ?watchRead, ?watchClear, ?info, ?handle, ?master, ?measure⟩⟩
  case flawed => exact fun _ _ _ _ hf => ⟨fun hr => execMoveCopy_flawed hr hf, fun hr => execMoveFill_flawed hr hf⟩
  case copyStarts => exact fun _ _ _ hr hf hc hsrc hdst => execMoveCopy_starts hr hf hc hsrc hdst
  case fillStarts => exact fun _ _ _ hr hf hm => (execMoveFill_sound hr hf).trans (congrArg _ (if_pos hm))
  case fillUnmapped =>
    intro s h p hr hf hm
    exact (execMoveFill_sound hr hf).trans (congrArg _ (if_neg (by simp [hm])))
  case copyEnds =>
    intro s h p hc hcls hop hs hd hport hturn
    exact (execMoveTransferDone_of_turn hc hcls hs hd hport hturn).trans (if_pos hop)
  case fillEnds =>
    intro s h p hc hcls hop hs hd hport hturn
    exact (execMoveTransferDone_of_turn hc hcls hs hd hport hturn).trans (if_neg (by simp [hop]))
  case waits => exact fun _ _ _ hc hturn => execMoveTransferDone_waits hc hturn
  case found => exact fun _ _ _ => rfl
  case pattern => exact fun v _ _ hi => fillBytes_getElem? v hi
  case identity => exact fun _ _ _ hr => execIdentityGet_of_ready hr
  case attest => exact fun _ _ _ hr hm hp => execAttestGet_signs hr hm hp
  case attestFound => exact fun _ _ _ => rfl
  case watchRead => exact fun _ _ _ hr hm => execWatchRead_writes hr hm
  case watchClear => exact fun _ _ _ hr => execWatchClear_of_ready hr
  case info => exact fun _ _ _ hr hm => execQueryInfo_writes hr hm
  case handle => exact fun _ _ _ hr => execHandleState_of_ready hr
  case master => exact fun _ _ _ hr hm => execTimeMeasure_of_master hr hm
  case measure => exact fun _ _ _ hr hm => execTimeMeasure_waits hr hm

end Sys2Proof.Laws
end

section
/-!
# The frames of Zwine

What reading a frame and its checks leave, for the frames of the flows (`takeFrame`) and for those outside them (`readFrame`), and what
each type that passes them does.
-/
namespace Sys2Proof.Laws
open Sys2Proof.Machine

section
variable {s : State} {n type : Nat} {f : Frame} {ecc : Found}

/-! ## Data-carrying frames (R348, R351, R356) -/

/-- The commands that take the frames of a flow, with their types. -/
def flowFrames : List ((Fin 4 → Frame → Found → Instr) × Nat) :=
  [(Instr.collData, 3), (Instr.collCtrl, 4), (Instr.remoteMsg, 5), (Instr.mirrorFrame, 6), (Instr.snapshotFrame, 7),
   (Instr.spoolFrame, 8), (Instr.fstepFrame, 10)]

theorem exec_flowFrame : ∀ x ∈ flowFrames, ∀ (s : State) (n : Fin 4) (f : Frame) (ecc : Found),
    exec (x.1 n f ecc) s = .next (s.takeFrame n.val f x.2 ecc) := by
  intro x hx s n f ecc
  simp only [flowFrames, List.mem_cons, List.not_mem_nil, or_false] at hx
  rcases hx with rfl | rfl | rfl | rfl | rfl | rfl | rfl <;> rfl

theorem takeFrame_failed (h : (s.checkFrame n f type).2 = false) : s.takeFrame n f type ecc = (s.checkFrame n f type).1 := by
  unfold State.takeFrame
  split
  · next hc => rw [hc]
  · next hc => simp [hc] at h

/-- A frame that passed its checks: a duplicate is acknowledged again, a new one read from buffer SRAM. -/
theorem takeFrame_passed (h : (s.checkFrame n f type).2 = true) : s.takeFrame n f type ecc =
    if (s.checkFrame n f type).1.isNew f = false then (s.checkFrame n f type).1.takeInOrder n f
    else if ecc.ecc = .uncorrectable then (((s.checkFrame n f type).1.sramLost n ecc).loseBody f.body).takeInOrder n (emptied f)
    else ((s.checkFrame n f type).1.sramRead n ecc).takeInOrder n f := by
  unfold State.takeFrame
  split
  · next hc => simp [hc] at h
  · next hc => rw [hc]

/-- What a frame places in its flow is delivered in order. -/
theorem takeInOrder_eq (s : State) (n : Nat) (f : Frame) : s.takeInOrder n f =
    (s.receive n f).2.foldl (fun (w : State) b => (w.countLink n b).deliver n f.srcRank b) (s.receive n f).1 := rfl

/-! ## Frames outside the flows (R86, R88, R348 to R356) -/

theorem readFrame_passed (h : (s.checkFrame n f type).2 = true) : s.readFrame n f type ecc =
    if ecc.ecc = .uncorrectable then ((s.checkFrame n f type).1.sramLost n ecc, false)
    else ((s.checkFrame n f type).1.sramRead n ecc, true) := by
  unfold State.readFrame
  split
  · next hc => simp [hc] at h
  · next hc => rw [hc]

variable {n : Fin 4}

/-- A HELLO with a common version makes its peer live. -/
theorem execHello_accepts {id : BitVec 64} {lo hi master : Nat} (hb : f.body = .hello id 1 lo hi master)
    (hr : (s.readFrame n.val f 1 ecc).2 = true) (hv : lo ≤ min hi zwineMinor) :
    let u := (s.readFrame n.val f 1 ecc).1
    let x := u.peerState f.srcRank
    let v := u.adoptMaster f.srcRank master
    execHello n f ecc s = .next (((if x.state = 1 then v else v.sendHello n.val f.srcRank).dropFlows f.srcRank).setPeer f.srcRank
      { x with state := 2, minor := min hi zwineMinor }) := by
  rcases hread : s.readFrame n.val f 1 ecc with ⟨u, ok⟩
  rw [hread] at hr
  obtain rfl : ok = true := hr
  have common : ((1 : Nat) == 1 && decide (lo ≤ min hi zwineMinor)) = true := by simp [hv]
  simp only [execHello, hread, hb, common, if_true]

/-- A SACK of a live peer acknowledges. -/
theorem execSack_live {flow cum marks rtt : Nat} {bitmap : Word} {resent : Found} (hb : f.body = .sack flow cum bitmap marks rtt)
    (hr : (s.readFrame n.val f 2 ecc).2 = true) (hl : ((s.readFrame n.val f 2 ecc).1.peerState f.srcRank).state = 2) :
    execSack n f ecc resent s = .next ((s.readFrame n.val f 2 ecc).1.takeSack f.srcRank flow cum bitmap marks rtt resent) := by
  rcases hread : s.readFrame n.val f 2 ecc with ⟨u, ok⟩
  rw [hread] at hr hl
  obtain rfl : ok = true := hr
  simp only [execSack, hread, hb, if_pos hl]

/-- A TIME frame of a live peer: a request is answered, and the answer that the round trip waits for ends it. -/
theorem execTimeFrame_live {ns : Nat} {answer : Bool} {sent back gone : Word} (hb : f.body = .time answer sent back gone)
    (hr : ((s.runAligned (min ns (s.nextBoundary - s.now))).readFrame n.val f 9 ecc).2 = true)
    (hl : (((s.runAligned (min ns (s.nextBoundary - s.now))).readFrame n.val f 9 ecc).1.peerState f.srcRank).state = 2) :
    let u := ((s.runAligned (min ns (s.nextBoundary - s.now))).readFrame n.val f 9 ecc).1
    execTimeFrame n f ns ecc s =
      if answer = false then .next (u.emit n.val f.srcRank 0 0 false (.time true sent (word u.now) (word u.now)))
      else if f.srcRank = u.timeMaster ∧ u.measure.sent = some sent then
        .next (u.takeTrip (tripOffset sent.toNat back.toNat gone.toNat u.localNs))
      else .next u := by
  rcases hread : (s.runAligned (min ns (s.nextBoundary - s.now))).readFrame n.val f 9 ecc with ⟨u, ok⟩
  rw [hread] at hr hl
  obtain rfl : ok = true := hr
  simp only [execTimeFrame, hread, hb, if_neg (not_not.mpr hl)]

end

/-- Settles O43: the frames of the flows by what a frame that passed its checks or failed them does, the others each by its lemma above. -/
theorem framesComplete : Obligations.FramesComplete := by
  refine ⟨?flows, ?snapReq, ?read, ?hello, ?sack, ?request, ?answer, fun _ _ _ _ => rfl⟩
  case flows =>
    intro x hx s n f ecc u
    have taken := exec_flowFrame x hx s n f ecc
    refine ⟨fun failed => ?_, fun passed old => ?_, fun passed new lost => ?_, fun passed new kept => ?_⟩
    · rw [taken, takeFrame_failed failed]
    · rw [taken, takeFrame_passed passed, if_pos old]
    · rw [taken, takeFrame_passed passed, if_neg (ne_false_of_eq_true new), if_pos lost]
    · rw [taken, takeFrame_passed passed, if_neg (ne_false_of_eq_true new), if_neg kept, takeInOrder_eq]
  case snapReq =>
    intro s n f ecc step hb
    show execSnapReq n f ecc s = execSnapshotFrame n f ecc s
    simp only [execSnapReq, hb, execSnapshotFrame]
  case read =>
    intro s n f type ecc u passed
    exact ⟨fun lost => (readFrame_passed passed).trans (if_pos lost), fun kept => (readFrame_passed passed).trans (if_neg kept)⟩
  case hello => exact fun _ _ _ _ _ _ _ _ hb hr hv => execHello_accepts hb hr hv
  case sack => exact fun _ _ _ _ _ _ _ _ _ _ hb hr hl => execSack_live hb hr hl
  case request =>
    intro s n f ns ecc sent back gone hb r hr hl u
    exact (execTimeFrame_live hb hr hl).trans (if_pos rfl)
  case answer =>
    intro s n f ns ecc sent back gone hb r hr hl u hm hs
    exact (execTimeFrame_live hb hr hl).trans ((if_neg (by decide)).trans (if_pos ⟨hm, hs⟩))

end Sys2Proof.Laws
end

section
/-!
# What is written reads back

A step keeps the canonical form, since it keeps that of memory and that of the registers (`step_keeps`). A byte string written to mapped
memory is read back byte by byte: no later byte of it stands at the place of an earlier one, and a write moves no place.
-/
namespace Sys2Proof.Laws
open Sys2Proof.Machine

/-- Settles O4: the canonical form is that of memory and of the registers, and a step keeps both. -/
theorem stepKeepsCanonical : Obligations.StepKeepsCanonical := by
  intro s t canonical h
  have k := step_keeps h
  simp only [State.canonical, Bool.and_eq_true] at canonical ⊢
  exact ⟨k.mem canonical.1, k.regs canonical.2⟩

/-! ## Fields -/

theorem fld_setFld_of_disjoint (s : State) {f g : Fld} (v : Nat) (hg : g.lo + g.width ≤ 64)
    (h : g.reg ≠ f.reg ∨ g.lo + g.width ≤ f.lo ∨ f.lo + f.width ≤ g.lo) : (s.setFld f v).fld g = s.fld g :=
  fld_setFld_of_apart s v (by simpa [apart, hg] using h)

/-! ## Bytes of mapped memory -/

/-- A write of memory moves no place: the decode stays. -/
theorem physWrite_loc (s : State) (a : Nat) (bs : Bytes) (k : Nat) : (s.physWrite a bs).loc k = s.loc k := by
  rw [physWrite_frame]
  rfl

theorem physWrite_cons_of_open {s : State} {a : Nat} (b : Byte) (bs : Bytes) (h : padReserved a = false) :
    s.physWrite a (b :: bs) = ({ s with mem := memPut s.mem (s.loc a) b }).physWrite (a + 1) bs := by
  rw [State.physWrite, h]
  rfl

/-- A byte of mapped memory that a write does not reach. -/
theorem physByte_physWrite_ne {s : State} {a k : Nat} {bs : Bytes} (h : ∀ j, j < bs.length → s.loc k ≠ s.loc (a + j)) :
    (s.physWrite a bs).physByte k = s.physByte k := by
  rw [State.physByte, physWrite_loc, physWrite_memGet_ne bs s a _ h, State.physByte]

/-- A byte string reads back where its bytes have places of their own outside the reserved part of the scratchpad slots (R97). -/
theorem physRead_physWrite (bs : Bytes) : ∀ (s : State) (a : Nat), (∀ j, j < bs.length → padReserved (a + j) = false) →
    (∀ i j, i < bs.length → j < bs.length → s.loc (a + i) = s.loc (a + j) → i = j) →
    (s.physWrite a bs).physRead a bs.length = bs := by
  induction bs with
  | nil => exact fun _ _ _ _ => rfl
  | cons b bs ih =>
    intro s a free places
    let u : State := { s with mem := memPut s.mem (s.loc a) b }
    have first : padReserved a = false := free 0 (by simp)
    have next : ∀ j, a + 1 + j = a + (j + 1) := fun j => by omega
    have head : (u.physWrite (a + 1) bs).physByte a = b := by
      rw [physByte_physWrite_ne fun j hj e => ?_]
      · exact (if_neg (by simp [first])).trans (memGet_memPut_same s.mem (s.loc a) b)
      · rw [next] at e
        exact absurd (places 0 (j + 1) (by simp) (by simpa using hj) e) (by simp)
    have rest : (u.physWrite (a + 1) bs).physRead (a + 1) bs.length = bs := by
      refine ih u (a + 1) (fun j hj => ?_) fun i j hi hj e => ?_
      · rw [next]
        exact free (j + 1) (by simpa using hj)
      · rw [next, next] at e
        exact Nat.succ_injective (places (i + 1) (j + 1) (by simpa using hi) (by simpa using hj) e)
    rw [physWrite_cons_of_open b bs first, List.length_cons, State.physRead, head, rest]

/-- Settles O6: registers and fields by their laws, byte strings by `physRead_physWrite`. -/
theorem writtenStateReadsBack : Obligations.WrittenStateReadsBack := by
  refine ⟨⟨?register, ?field⟩, ?bytes, ?rest, ?reserved⟩
  case register => exact fun s a v => ⟨reg_setReg_same s a v, fun _ h => reg_setReg_ne s v h⟩
  case field =>
    exact fun s f v hf => ⟨fld_setFld_same s f v hf, fun _ hg h => fld_setFld_of_disjoint s v hg h,
      onlyRegs_setFld f v (List.mem_singleton_self _) (onlyRegs_refl s _)⟩
  case bytes => exact fun s a bs free places => physRead_physWrite bs s a free places
  case rest => exact fun s a bs => ⟨physWrite_memGet_ne bs s a, physWrite_frame bs s a⟩
  case reserved => exact fun s a h => ⟨if_pos h, fun b => if_pos h⟩

end Sys2Proof.Laws
end

section
/-!
# Host accesses, PCIe accesses and push windows

What an access of mapped memory and of memory that is not mapped leaves (R96 to R98), and what a push window does with a write (R101, R106).
A store writes its bytes by `devWrite`; a push besides makes unpredictable some of the bytes it has written, and none beside them.
-/
namespace Sys2Proof.Laws
open Sys2Proof.Machine

/-! ## Pushed bytes (R106) -/

/-- What two sets of spans share lies within the span of the first. -/
theorem meets_within {w : Span} {ys : List Span} {r : Nat × Nat} (h : r ∈ meets [w] ys) : w.lo ≤ r.1 ∧ r.1 + r.2 ≤ w.lo + w.len := by
  simp only [meets, List.flatMap_cons, List.flatMap_nil, List.append_nil, List.mem_filterMap, Option.ite_none_right_eq_some] at h
  obtain ⟨y, -, hc, he⟩ := h
  obtain ⟨-, hlt⟩ := Bool.and_eq_true_iff.mp hc
  have lt := of_decide_eq_true hlt
  cases he
  dsimp only
  omega

/-- The scratchpads lie above the storage of HBM, and are kept where they are addressed (Table HST-3). -/
theorem loc_of_pad (s : State) {a : Nat} (h : padBase ≤ a) : s.loc a = a :=
  if_neg fun hbm => by
    simp only [padBase, hbmBase, hbmSpan] at h hbm
    omega

theorem scrambleAll_cons_of_pad (s : State) {r : Nat × Nat} (rs : List (Nat × Nat)) (h : padBase ≤ r.1) :
    s.scrambleAll (r :: rs) = (s.scramble r.1 r.2).scrambleAll rs :=
  congrArg (State.scrambleAll · rs) (show s.openAt r.1 r.2 = s.scramble r.1 r.2 from if_pos h)

/-- Ranges of scratchpads made unpredictable use up free values, and leave all but memory and its poison. -/
theorem scrambleAll_frame (rs : List (Nat × Nat)) : ∀ s : State, (∀ r ∈ rs, padBase ≤ r.1) → s.scrambleAll rs =
    { s with mem := (s.scrambleAll rs).mem, fresh := (s.scrambleAll rs).fresh, poison := (s.scrambleAll rs).poison } := by
  induction rs with
  | nil => exact fun _ _ => rfl
  | cons r rs ih =>
    intro s pads
    rw [scrambleAll_cons_of_pad s rs (pads r (by simp)), ih _ fun q hq => pads q (by simp [hq])]
    rfl

theorem scrambleAll_memGet_ne (rs : List (Nat × Nat)) (k : Nat) : ∀ s : State, (∀ r ∈ rs, padBase ≤ r.1) →
    (∀ r ∈ rs, ¬ (r.1 ≤ k ∧ k < r.1 + r.2)) → memGet (s.scrambleAll rs).mem k = memGet s.mem k := by
  induction rs with
  | nil => exact fun _ _ _ => rfl
  | cons r rs ih =>
    intro s pads outside
    rw [scrambleAll_cons_of_pad s rs (pads r (by simp)), ih _ (fun q hq => pads q (by simp [hq])) fun q hq => outside q (by simp [hq])]
    exact memGet_memFill_ne s.mem r.1 r.2 _ k (outside r (by simp))

section
variable (s : State) {a : Nat} (data : Bytes)

theorem pushBytes_of_memory (h : a < padBase) : s.pushBytes a data = s.devWrite a data := if_neg (Nat.not_le.mpr h)

/-- A push into a scratchpad writes its bytes, marks the tile, and makes unpredictable some of what it wrote. -/
theorem pushBytes_of_pad (h : padBase ≤ a) : ∃ t x rs, s.pushBytes a data = ((s.devWrite a data).setTile t x).scrambleAll rs ∧
    ∀ r ∈ rs, a ≤ r.1 ∧ r.1 + r.2 ≤ a + data.length :=
  ⟨_, _, _, if_pos h, fun _ hr => meets_within hr⟩

/-- A push changes no register by itself, and ends no command. -/
theorem pushBytes_regs_cmds : (s.pushBytes a data).regs = s.regs ∧ (s.pushBytes a data).cmds = s.cmds := by
  rcases Nat.lt_or_ge a padBase with h | h
  · rw [pushBytes_of_memory s data h]
    exact ⟨devWrite_regs s a data, devWrite_cmds s a data⟩
  · obtain ⟨t, x, rs, e, within⟩ := pushBytes_of_pad s data h
    rw [e, scrambleAll_frame rs _ fun r hr => h.trans (within r hr).1]
    exact ⟨devWrite_regs s a data, devWrite_cmds s a data⟩

theorem pushBytes_sameMemoryBut : sameMemoryBut s (s.pushBytes a data) a data.length := by
  intro k outside
  rcases Nat.lt_or_ge a padBase with h | h
  · rw [pushBytes_of_memory s data h]
    exact devWrite_memGet_ne s a data k outside
  · obtain ⟨t, x, rs, e, within⟩ := pushBytes_of_pad s data h
    have apart : ∀ r ∈ rs, ¬ (r.1 ≤ k ∧ k < r.1 + r.2) := by
      intro r hr inside
      obtain ⟨lo, hi⟩ := within r hr
      have here := outside (k - a) (by omega)
      rw [loc_of_pad s (by omega)] at here
      omega
    rw [e, scrambleAll_memGet_ne rs k _ (fun r hr => h.trans (within r hr).1) apart]
    exact devWrite_memGet_ne s a data k outside

end

/-! ## Push windows (R101, R104) -/

section
variable {s : State} {n : Fin 64} {off : BitVec 24} {data : Bytes} {a : Nat}

theorem execPushWindowWrite_unmapped (hp : s.phase = .running) (ht : s.pushTarget n.val off.toNat = some a)
    (hm : s.mappedAll a data.length = false) : execPushWindowWrite n off data s =
      .next ((s.addFld (HST_PUSH_STATUS_DROPPED n.val) 1).report 0x7400 0 { code := ST_ADDRESS_UNMAPPED, addr := a, aux := n.val }) := by
  simp [execPushWindowWrite, hp, ht, hm]

/-- A write within the mapped range is forwarded, unless it is addressed to a tile that was reset (R106). -/
theorem execPushWindowWrite_mapped (hp : s.phase = .running) (ht : s.pushTarget n.val off.toNat = some a)
    (hm : s.mappedAll a data.length = true) (hl : off.toNat + data.length ≤ 2 ^ 24) : execPushWindowWrite n off data s =
      if s.pushStale a then .next (s.addFld (HST_PUSH_STATUS_DROPPED n.val) 1)
      else .next ((s.pushBytes a data).addFld (HST_PUSH_STATUS_COUNT n.val) data.length) := by
  have fits : ¬ off.toNat + data.length > 2 ^ 24 := Nat.not_lt.mpr hl
  simp only [execPushWindowWrite, hp, ht, hm, fits, ne_eq, not_true, if_false, decide_false, Bool.not_true, Bool.or_self, Bool.false_eq_true]

theorem execPushCfgWrite_idle (v : Word) (hp : s.phase = .running) (hc : s.fld (HST_PUSH_STATUS_COUNT n.val) = 0) :
    execPushCfgWrite n v s = .next
      ((((s.setFld (HST_PUSH_CFG_TYPE n.val) (bitsOf v.toNat 0 2)).setFld (HST_PUSH_CFG_NOTIFY n.val) (bitsOf v.toNat 2 1)).setFld
        (HST_PUSH_CFG_CHANNEL n.val) (bitsOf v.toNat 4 4)).setFld (HST_PUSH_CFG_TARGET n.val) (bitsOf v.toNat 16 16)) :=
  (if_neg (not_not.mpr hp)).trans (if_neg (not_not.mpr hc))

theorem execPushCfgWrite_busy (v : Word) (hp : s.phase = .running) (hc : s.fld (HST_PUSH_STATUS_COUNT n.val) ≠ 0) :
    execPushCfgWrite n v s = .next { s with outs := { s.outs with hostStatus := ST_PUSH_BUSY } } :=
  (if_neg (not_not.mpr hp)).trans (if_pos hc)

theorem execPushSeal_new (hp : s.phase = .running) (hn : n.val ∉ s.sealing) :
    execPushSeal n s = .next { s with sealing := s.sealing ++ [n.val] } :=
  if_neg (by simp [hp, hn])

theorem execPushSeal_again (hn : n.val ∈ s.sealing) : execPushSeal n s = .next s :=
  if_pos (Or.inr (by simp [hn]))

/-- The seal of a window that sends no NOTIFY sets SEALED and clears the count; neither lies in the register of the window's type. -/
theorem execPushSealApplied_plain (hn : n.val ∈ s.sealing) (ht : s.fld (HST_PUSH_CFG_TYPE n.val) ≠ 3) : execPushSealApplied n s = .next
    (({ s with sealing := s.sealing.filter (· != n.val) }.setFld (HST_PUSH_STATUS_SEALED n.val) 1).setFld
      (HST_PUSH_STATUS_COUNT n.val) 0) := by
  have type : ({ s with sealing := s.sealing.filter (· != n.val) }.setFld (HST_PUSH_STATUS_SEALED n.val) 1).fld
      (HST_PUSH_CFG_TYPE n.val) = s.fld (HST_PUSH_CFG_TYPE n.val) :=
    fld_setFld_reg _ 1 (by simp [HST_PUSH_CFG_TYPE, HST_PUSH_STATUS_SEALED, HST_PUSH_CFG, HST_PUSH_STATUS])
  simp [execPushSealApplied, hn, type, ht]

end

/-! ## Host cores (R97, R98, R321) -/

@[simp] theorem length_leBytes (n v : Nat) : (leBytes n v).length = n := by
  induction n generalizing v with
  | zero => rfl
  | succ n ih => simp [leBytes, ih]

/-- Below 0x4000_0000_0000 lie neither register blocks nor windows (Table HST-3). -/
theorem windowAt_of_low {a : Nat} (h : a < 0x4000_0000_0000) : windowAt a = none := by
  simp only [windowAt]
  rw [if_neg (by omega), if_neg (by omega), if_neg (by omega), if_neg (by omega)]

theorem not_inBlocks_of_low {a size : Nat} (h : a < 0x4000_0000_0000) : ¬ (blockBase ≤ a ∧ a + size ≤ blockBase + 0x20000000) := by
  simp only [blockBase]
  omega

section
variable {s : State} {addr : BitVec 48} {size : Nat} (v : Word)

theorem hostAccess_unmapped (dir : Dir) (hp : s.phase = .running) (ha : addr.toNat < 0x4000_0000_0000)
    (hm : s.mappedAll addr.toNat size = false) :
    s.hostAccess dir addr size v = .next (s.hostFaults (s.unmappedAt addr.toNat size) true) := by
  simp [State.hostAccess, hp, not_inBlocks_of_low ha, windowAt_of_low ha, hm]

theorem hostAccess_load (hp : s.phase = .running) (ha : addr.toNat < 0x4000_0000_0000)
    (hm : s.mappedAll addr.toNat size = true) (hc : s.poisonedIn addr.toNat size = none) :
    s.hostAccess .load addr size v = .next ((s.countHbm addr.toNat size).hostLoads (s.physRead addr.toNat size)) := by
  simp [State.hostAccess, hp, not_inBlocks_of_low ha, windowAt_of_low ha, hm, hc]

theorem hostAccess_store (hp : s.phase = .running) (ha : addr.toNat < 0x4000_0000_0000)
    (hm : s.mappedAll addr.toNat size = true) :
    s.hostAccess .store addr size v = .next ((s.devWrite addr.toNat (leBytes size v.toNat)).hostLoads []) := by
  simp [State.hostAccess, hp, not_inBlocks_of_low ha, windowAt_of_low ha, hm]

end

/-! ## PCIe devices (R96 to R98) -/

section
variable {s : State} {t : BitVec 48} (size : Nat) (data : Bytes)

theorem pcieAccess_unmappedLoad (hp : s.phase = .running) (hm : s.mappedAll t.toNat size = false) :
    s.pcieAccess .load (some t) size data = .next (s.pcieFaults (s.unmappedAt t.toNat size)) := by
  simp [State.pcieAccess, hp, hm]

theorem pcieAccess_load (hp : s.phase = .running) (hm : s.mappedAll t.toNat size = true)
    (hc : s.poisonedIn t.toNat size = none) : s.pcieAccess .load (some t) size data = .next { s.countHbm t.toNat size with
      fresh := s.fresh, outs := { s.outs with pcieUnsupported := false, pcieData := s.physRead t.toNat size } } := by
  simp [State.pcieAccess, hp, hm, hc]

theorem pcieAccess_store (hp : s.phase = .running) (hm : s.mappedAll t.toNat data.length = true) :
    s.pcieAccess .store (some t) size data = .next { s.devWrite t.toNat data with
      outs := { s.outs with pcieUnsupported := false, pcieData := [] } } := by
  simp [State.pcieAccess, hp, hm]

end

/-- Settles O15: one lemma above for each command and each branch that a clause names. -/
theorem hostAccessesComplete : Obligations.HostAccessesComplete := by
  refine ⟨⟨?forwards, ?stale, ?memory, ?outside, ?config, ?busy, ?seals, ?sealed, ?applied⟩,
    ?load, ?store, ?faults, ?reads, ?writes, ?unsupported, fun _ => rfl⟩
  case forwards =>
    exact fun _ _ _ _ _ hp ht hm hl hs => (execPushWindowWrite_mapped hp ht hm hl).trans (if_neg (by simp [hs]))
  case stale => exact fun _ _ _ _ _ hp ht hm hl hs => (execPushWindowWrite_mapped hp ht hm hl).trans (if_pos hs)
  case memory => exact fun s _ data h => pushBytes_of_memory s data h
  case outside => exact fun _ _ _ _ _ hp ht hm => execPushWindowWrite_unmapped hp ht hm
  case config => exact fun _ _ v hp hc => execPushCfgWrite_idle v hp hc
  case busy => exact fun _ _ v hp hc => execPushCfgWrite_busy v hp hc
  case seals => exact fun _ _ hp hn => execPushSeal_new hp hn
  case sealed => exact fun _ _ _ hn => execPushSeal_again hn
  case applied => exact fun _ _ hn ht => execPushSealApplied_plain hn ht
  case load => exact fun _ _ _ v _ hp ha hm hc => hostAccess_load v hp ha hm hc
  case store => exact fun _ _ _ v _ hp ha hm => hostAccess_store v hp ha hm
  case faults => exact fun _ dir _ _ v _ hp ha hm => hostAccess_unmapped v dir hp ha hm
  case reads => exact fun _ _ size data _ hp hm hc => pcieAccess_load size data hp hm hc
  case writes => exact fun _ _ size data _ hp hm => pcieAccess_store size data hp hm
  case unsupported => exact fun _ _ size data _ hp hm => pcieAccess_unmappedLoad size data hp hm

/-- Settles O16: a host or PCIe store is a device write, a push is `pushBytes`, and both change memory at the places of their bytes alone. -/
theorem storesChangeTheirBytesOnly : Obligations.StoresChangeTheirBytesOnly := by
  refine ⟨?host, ?pcie, ?push⟩
  case host =>
    intro s t addr size v fs u hp ha hm h
    obtain rfl := Host.Outcome.next.inj ((hostAccess_store v hp ha hm).symm.trans h)
    refine ⟨fun k hk => ?_, devWrite_reg u _ _, devWrite_pending u _ _, devWrite_cmds u _ _⟩
    exact devWrite_memGet_ne u _ _ k (by simpa using hk)
  case pcie =>
    intro s t a size data fs u hp hm h
    obtain rfl := Host.Outcome.next.inj ((pcieAccess_store size data hp hm).symm.trans h)
    exact ⟨devWrite_memGet_ne u _ data, devWrite_reg u _ data, devWrite_pending u _ data, devWrite_cmds u _ data⟩
  case push =>
    intro s t n off data a hp ht hm hl h
    replace h := (execPushWindowWrite_mapped hp ht hm hl).symm.trans h
    split at h <;> obtain rfl := Host.Outcome.next.inj h
    · exact ⟨fun _ _ => rfl, rfl, fun r hr => reg_addFld_ne s _ _ hr⟩
    · obtain ⟨regs, cmds⟩ := pushBytes_regs_cmds s (a := a) data
      exact ⟨pushBytes_sameMemoryBut s data, cmds, fun r hr => (reg_addFld_ne _ _ _ hr).trans (reg_of_regs regs r)⟩

end Sys2Proof.Laws
end

section
/-!
# What a queue command leaves alone

A doorbell, an ENABLE, a drain, a write of the completion head and a partial write of a submission window change the state of their own queue
and the registers of its block alone (`QueueOnly`, R132).
-/
namespace Sys2Proof.Laws
open Sys2Proof.Machine

/-- The offset `a` lies in the block of 0x80 bytes that holds the registers of queue `q` (R132). -/
def inQueueBlock (q a : Nat) : Prop := HST_Q_SQ_BASE q ≤ a ∧ a < HST_Q_SQ_BASE q + 0x80

/-- `t` differs from `s` in queue `q` and in the registers of its block alone. -/
structure QueueOnly (q : Nat) (s t : State) : Prop where
  frame : t = { s with regs := t.regs, queues := t.queues }
  queue : ∀ r, r ≠ q → t.queue r = s.queue r
  reg : ∀ a, ¬ inQueueBlock q a → t.reg a = s.reg a

section
variable {q : Nat} {z s t : State}

theorem inQueueBlock_ctrl (q : Nat) : inQueueBlock q (HST_Q_CTRL q) := by
  simp only [inQueueBlock, HST_Q_SQ_BASE, HST_Q_CTRL]
  omega

theorem inQueueBlock_sqHead (q : Nat) : inQueueBlock q (HST_Q_SQ_HEAD q) := by
  simp only [inQueueBlock, HST_Q_SQ_BASE, HST_Q_SQ_HEAD]
  omega

theorem inQueueBlock_cqHead (q : Nat) : inQueueBlock q (HST_Q_CQ_HEAD q) := by
  simp only [inQueueBlock, HST_Q_SQ_BASE, HST_Q_CQ_HEAD]
  omega

theorem inQueueBlock_status (q : Nat) : inQueueBlock q (HST_Q_STATUS q) := by
  simp only [inQueueBlock, HST_Q_SQ_BASE, HST_Q_STATUS]
  omega

/-- The blocks of two queues are apart. -/
theorem not_inQueueBlock_status {r : Nat} (h : r ≠ q) : ¬ inQueueBlock q (HST_Q_STATUS r) := by
  simp only [inQueueBlock, HST_Q_SQ_BASE, HST_Q_STATUS]
  omega

theorem queueOnly_refl (q : Nat) (s : State) : QueueOnly q s s := ⟨rfl, fun _ _ => rfl, fun _ _ => rfl⟩

theorem queueOnly_frame (h : QueueOnly q z s) (e : t = { s with regs := t.regs, queues := t.queues }) :
    t = { z with regs := t.regs, queues := t.queues } := by
  rw [h.frame] at e
  exact e

theorem queueOnly_setReg {a : Nat} (v : Word) (ha : inQueueBlock q a) (h : QueueOnly q z s) : QueueOnly q z (s.setReg a v) where
  frame := queueOnly_frame h rfl
  queue := h.queue
  reg b hb := (reg_setReg_ne s v fun e : b = a => hb (e ▸ ha)).trans (h.reg b hb)

theorem queueOnly_setFld {f : Fld} (v : Nat) (hf : inQueueBlock q f.reg) (h : QueueOnly q z s) : QueueOnly q z (s.setFld f v) :=
  queueOnly_setReg _ hf h

theorem queueOnly_setQueue (x : Queue) (h : QueueOnly q z s) : QueueOnly q z (s.setQueue q x) where
  frame := queueOnly_frame h rfl
  queue r hr := (queue_setQueue_ne s x hr).trans (h.queue r hr)
  reg := h.reg

theorem QueueOnly.state {r : Nat} (h : QueueOnly q s t) (hr : r ≠ q) :
    t.fld (HST_Q_STATUS_STATE r) = s.fld (HST_Q_STATUS_STATE r) := by
  rw [State.fld, show t.reg (HST_Q_STATUS_STATE r).reg = _ from h.reg _ (not_inQueueBlock_status hr), State.fld]

/-- The command answers a state that differs in queue `q` alone. -/
def AnswersQueueOnly (q : Nat) (s : State) (o : Out) : Prop := ∃ t, o = .next t ∧ QueueOnly q s t

theorem answersQueueOnly_next (h : QueueOnly q s t) : AnswersQueueOnly q s (.next t) := ⟨t, rfl, h⟩

theorem answersQueueOnly_same (q : Nat) (s : State) : AnswersQueueOnly q s (.next s) := answersQueueOnly_next (queueOnly_refl q s)

theorem answersQueueOnly_ite {c : Prop} [Decidable c] {a b : Out} (ha : AnswersQueueOnly q s a) (hb : AnswersQueueOnly q s b) :
    AnswersQueueOnly q s (if c then a else b) := by
  split <;> assumption

theorem AnswersQueueOnly.queueOnly {o : Out} (h : AnswersQueueOnly q s o) (e : o = .next t) : QueueOnly q s t := by
  obtain ⟨u, hu, k⟩ := h
  obtain rfl := Host.Outcome.next.inj (hu.symm.trans e)
  exact k

end

section
variable (q : Fin 256) (s : State)

theorem execDoorbell_queueOnly (tail : BitVec 32) : AnswersQueueOnly q.val s (execDoorbell q tail s) :=
  answersQueueOnly_ite (answersQueueOnly_same _ s) (answersQueueOnly_ite
    (answersQueueOnly_next (queueOnly_setFld _ (inQueueBlock_status _) (queueOnly_refl _ s)))
    (answersQueueOnly_ite (answersQueueOnly_same _ s) (answersQueueOnly_ite (answersQueueOnly_same _ s)
      (answersQueueOnly_next (queueOnly_setQueue _ (queueOnly_refl _ s))))))

theorem execQueueEnable_queueOnly : AnswersQueueOnly q.val s (execQueueEnable q s) :=
  answersQueueOnly_ite (answersQueueOnly_same _ s) (answersQueueOnly_ite
    (answersQueueOnly_next (queueOnly_setFld _ (inQueueBlock_status _) (queueOnly_refl _ s)))
    (answersQueueOnly_next (queueOnly_setReg _ (inQueueBlock_cqHead _) (queueOnly_setReg _ (inQueueBlock_sqHead _)
      (queueOnly_setFld _ (inQueueBlock_status _) (queueOnly_setFld _ (inQueueBlock_ctrl _)
        (queueOnly_setQueue _ (queueOnly_refl _ s))))))))

theorem execQueueDrain_queueOnly : AnswersQueueOnly q.val s (execQueueDrain q s) := by
  have cleared : QueueOnly q.val s (s.setFld (HST_Q_CTRL_ENABLE q.val) 0) :=
    queueOnly_setFld _ (inQueueBlock_ctrl _) (queueOnly_refl _ s)
  exact answersQueueOnly_ite (answersQueueOnly_same _ s) (answersQueueOnly_ite
    (answersQueueOnly_next (queueOnly_setFld _ (inQueueBlock_status _) (queueOnly_setQueue _ cleared)))
    (answersQueueOnly_next cleared))

theorem execCqHeadWrite_queueOnly (v : Word) : AnswersQueueOnly q.val s (execCqHeadWrite q v s) :=
  answersQueueOnly_ite (answersQueueOnly_same _ s)
    (answersQueueOnly_next (queueOnly_setQueue _ (queueOnly_setFld _ (inQueueBlock_cqHead _) (queueOnly_refl _ s))))

/-- A write that does not reach the last byte of the window takes no entry. -/
theorem execWindowSubmit_queueOnly {off : BitVec 6} {data : Bytes} (short : off.toNat + data.length < 64) :
    AnswersQueueOnly q.val s (execWindowSubmit q off data s) := by
  have untaken : ¬ (off.toNat ≤ 56 ∧ 64 ≤ off.toNat + data.length) := fun k => Nat.not_le.mpr short k.2
  unfold execWindowSubmit
  rw [if_neg untaken]
  exact answersQueueOnly_ite (answersQueueOnly_same _ s) (answersQueueOnly_next (queueOnly_setQueue _ (queueOnly_refl _ s)))

end

/-- Settles O19: each of the five commands answers a state that differs in its own queue alone. -/
theorem queueCommandsKeepOthers : Obligations.QueueCommandsKeepOthers := by
  intro s t q c hc h
  have own : AnswersQueueOnly q.val s (exec c s) := by
    rcases hc with ⟨v, rfl⟩ | rfl | rfl | ⟨v, rfl⟩ | ⟨off, data, rfl, short⟩
    · exact execDoorbell_queueOnly q s v
    · exact execQueueEnable_queueOnly q s
    · exact execQueueDrain_queueOnly q s
    · exact execCqHeadWrite_queueOnly q s v
    · exact execWindowSubmit_queueOnly q s short
  have k := own.queueOnly h
  have others (r : Fin 256) (hr : r ≠ q) : r.val ≠ q.val := fun e => hr (Fin.ext e)
  rw [k.frame]
  refine ⟨fun r hr => ?_, rfl, fun _ => rfl, rfl, rfl, rfl⟩
  rw [← k.frame]
  exact ⟨k.queue r (others r hr), k.state (others r hr)⟩

end Sys2Proof.Laws
end

section
/-!
# The records of ended commands

Which of a queue's ended commands are released (`releasable`, R121), and that a command whose record is written is no longer outstanding.
-/
namespace Sys2Proof.Laws
open Sys2Proof.Machine

/-! ## Release in the order of FENCE and ORDERED (R121) -/

/-- A command whose record waits for those of earlier ones of its kind: FENCE or ORDERED. -/
def keepsOrder (p : Pending) : Bool := p.fence || p.ordered

theorem keepsOrder_iff (p : Pending) : keepsOrder p = true ↔ p.fence = true ∨ p.ordered = true := Bool.or_eq_true_iff

theorem keepsOrder_eq_false_iff (p : Pending) : keepsOrder p = false ↔ p.fence = false ∧ p.ordered = false := Bool.or_eq_false_iff

section
variable {q : Nat} {p : Pending} {cs : List Pending} {held : Bool}

theorem releasable_cons_other (hq : p.queue ≠ q) : releasable q held (p :: cs) = releasable q held cs := if_pos hq

/-- A command of the queue at the head of the list is released, or holds the later ones that keep order if it keeps order itself. -/
theorem releasable_cons_own (hq : p.queue = q) : releasable q held (p :: cs) =
    if p.done.isSome = true ∧ ¬ (keepsOrder p = true ∧ held = true) then p :: releasable q held cs
    else releasable q (held || keepsOrder p) cs := by
  rw [releasable, if_neg (not_not.mpr hq)]
  exact if_congr (by simp only [keepsOrder, Bool.and_eq_true, Bool.not_eq_true', ← Bool.not_eq_true]) rfl rfl

theorem releasable_subset (q : Nat) (held : Bool) (cs : List Pending) : ∀ x ∈ releasable q held cs, x ∈ cs := by
  induction cs generalizing held with
  | nil => exact fun _ hx => hx
  | cons p cs ih =>
    intro x hx
    by_cases hq : p.queue = q
    · rw [releasable_cons_own hq] at hx
      split at hx
      · exact (List.mem_cons.mp hx).elim (fun e => e ▸ List.mem_cons_self) fun k => List.mem_cons_of_mem _ (ih _ x k)
      · exact List.mem_cons_of_mem _ (ih _ x hx)
    · rw [releasable_cons_other hq] at hx
      exact List.mem_cons_of_mem _ (ih _ x hx)

/-- An ended command that keeps no order is released whatever came before. -/
theorem mem_releasable_of_plain (hq : p.queue = q) (hd : p.done.isSome = true) (ho : keepsOrder p = false) (hp : p ∈ cs) :
    p ∈ releasable q held cs := by
  induction cs generalizing held with
  | nil => exact hp
  | cons x xs ih =>
    rcases List.mem_cons.mp hp with rfl | hp
    · rw [releasable_cons_own hq, if_pos ⟨hd, by simp [ho]⟩]
      exact List.mem_cons_self
    · by_cases hx : x.queue = q
      · rw [releasable_cons_own hx]
        split
        · exact List.mem_cons_of_mem _ (ih hp)
        · exact ih hp
      · rw [releasable_cons_other hx]
        exact ih hp

/-- Distinct handles keep the head of a list out of what is released of its tail. -/
theorem not_mem_releasable_tail {x : Pending} {xs : List Pending} (nodup : ((x :: xs).map (·.handle)).Nodup) (held : Bool) :
    x ∉ releasable q held xs := by
  obtain ⟨new, -⟩ := List.nodup_cons.mp nodup
  exact fun hx => new (List.mem_map_of_mem (releasable_subset q held xs x hx))

/-- An ended command is released when it keeps no order, or when nothing is held at the start and every earlier command of its queue that
keeps order is released. -/
theorem mem_releasable_iff (hq : p.queue = q) (hd : p.done.isSome = true) (before after : List Pending) (held : Bool)
    (nodup : ((before ++ p :: after).map (·.handle)).Nodup) :
    p ∈ releasable q held (before ++ p :: after) ↔ keepsOrder p = false ∨ held = false ∧
      ∀ x ∈ before, x.queue = q → keepsOrder x = true → x ∈ releasable q held (before ++ p :: after) := by
  induction before generalizing held with
  | nil =>
    have gone := not_mem_releasable_tail (q := q) nodup
    rw [List.nil_append, releasable_cons_own hq]
    split
    · next released => simpa [hd, or_iff_not_imp_left] using released
    · next waits =>
      have bound : keepsOrder p = true ∧ held = true := by simpa [hd] using waits
      simp [gone, bound]
  | cons x xs ih =>
    have gone := not_mem_releasable_tail (q := q) nodup
    obtain ⟨new, rest⟩ := List.nodup_cons.mp nodup
    have apart : ∀ y ∈ xs ++ p :: after, y ≠ x := fun y hy e => new (List.mem_map_of_mem (e ▸ hy))
    rw [List.cons_append, List.forall_mem_cons]
    by_cases hx : x.queue = q
    · rw [releasable_cons_own hx]
      split
      case isTrue released =>
        have same : ∀ y ∈ xs ++ p :: after,
            (y ∈ x :: releasable q held (xs ++ p :: after) ↔ y ∈ releasable q held (xs ++ p :: after)) :=
          fun y hy => by simp [apart y hy]
        rw [same p (by simp), ih held rest]
        refine or_congr_right (and_congr_right fun _ => ?_)
        have each : (∀ y ∈ xs, y.queue = q → keepsOrder y = true → y ∈ x :: releasable q held (xs ++ p :: after)) ↔
            ∀ y ∈ xs, y.queue = q → keepsOrder y = true → y ∈ releasable q held (xs ++ p :: after) :=
          forall₂_congr fun y hy => by rw [same y (by simp [hy])]
        simp only [each, List.mem_cons_self, implies_true, true_and]
      case isFalse waits =>
        rw [ih _ rest]
        rcases Bool.eq_false_or_eq_true (keepsOrder x) with ho | ho
        · have lost : x ∉ releasable q true (xs ++ p :: after) := gone true
          simp [ho, hx, lost]
        · simp [ho]
    · rw [releasable_cons_other hx, ih held rest]
      simp [hx]

end

/-! ## Records written -/

/-- `t` has the outstanding commands of `s`. -/
structure CmdsKept (s t : State) : Prop where
  eq : t.cmds = s.cmds

section
variable {z s : State}

theorem cmdsKept_refl (s : State) : CmdsKept s s := ⟨rfl⟩

theorem cmdsKept_of {t : State} (h : CmdsKept z s) (e : t.cmds = s.cmds) : CmdsKept z t := ⟨e.trans h.eq⟩

theorem cmdsKept_ite {c : Prop} [Decidable c] {a b : State} (ha : CmdsKept z a) (hb : CmdsKept z b) :
    CmdsKept z (if c then a else b) := by
  split <;> assumption

theorem cmdsKept_setFld (f : Fld) (v : Nat) (h : CmdsKept z s) : CmdsKept z (s.setFld f v) := cmdsKept_of h rfl

theorem cmdsKept_setQueue (q : Nat) (x : Queue) (h : CmdsKept z s) : CmdsKept z (s.setQueue q x) := cmdsKept_of h rfl

theorem cmdsKept_store (a : Nat) (bs : Bytes) (h : CmdsKept z s) : CmdsKept z (s.store a bs) :=
  cmdsKept_of h (by rw [store_frame])

theorem cmdsKept_trace (unit kind dom ticket : Nat) (args : Bytes) (h : CmdsKept z s) : CmdsKept z (s.trace unit kind dom ticket args) := by
  unfold State.trace
  have drawn : CmdsKept z { s with fresh := s.fresh + 1 } := cmdsKept_of h rfl
  have stored := fun (a : Nat) (bs : Bytes) => cmdsKept_store a bs drawn
  exact cmdsKept_ite (cmdsKept_ite (cmdsKept_setFld _ _ drawn) (cmdsKept_ite (cmdsKept_setFld _ _ (stored _ _))
    (cmdsKept_ite (cmdsKept_setFld _ _ (stored _ _)) (cmdsKept_setFld _ _ (cmdsKept_setFld _ _ (stored _ _)))))) h

theorem cmdsKept_interrupt (q : Nat) (h : CmdsKept z s) : CmdsKept z (s.interrupt q) := by
  unfold State.interrupt
  exact cmdsKept_ite (cmdsKept_of h rfl) (cmdsKept_setQueue _ _ h)

/-- A record written ends no command by itself. -/
theorem cmdsKept_writeRecord (p : Pending) (c : Completion) (h : CmdsKept z s) : CmdsKept z (s.writeRecord p c) := by
  have written (u : State) (q a : Nat) (bs : Bytes) (x : Queue) (k : CmdsKept z u) :
      CmdsKept z (((u.store a bs).setQueue q x).subFld (HST_Q_STATUS_OUTSTANDING q) 1) :=
    cmdsKept_setFld _ _ (cmdsKept_setQueue _ _ (cmdsKept_store _ _ k))
  have counted (b : Bool) (a : Nat) (bs : Bytes) : CmdsKept z (if b = true then s.store a bs else s) :=
    cmdsKept_ite (cmdsKept_store _ _ h) h
  have told (u : State) (n q : Nat) (k : CmdsKept z u) :
      CmdsKept z (if n ≥ max 1 (u.fld (HST_Q_IRQ_COALESCE_COUNT q)) then u.interrupt q else u) :=
    cmdsKept_ite (cmdsKept_interrupt _ k) k
  unfold State.writeRecord
  exact cmdsKept_ite (cmdsKept_setFld _ _ (told _ _ _ (written _ _ _ _ _ (counted _ _ _)))) (told _ _ _ (written _ _ _ _ _ (counted _ _ _)))

end

section
variable (s : State)

/-- An ended command leaves the outstanding ones and its record is written. -/
def release (s : State) (p : Pending) : State :=
  match p.done with
  | some c => ({ s with cmds := s.cmds.filter (fun x => x.handle != p.handle) }).writeRecord p c
  | none => s

theorem flush_eq (q : Nat) : s.flush q = (releasable q false s.cmds).foldl release s := rfl

theorem release_cmds_of_done {p : Pending} (hd : p.done.isSome = true) :
    (release s p).cmds = s.cmds.filter (fun x => x.handle != p.handle) := by
  obtain ⟨c, hc⟩ := Option.isSome_iff_exists.mp hd
  simp only [release, hc, (cmdsKept_writeRecord p c (cmdsKept_refl _)).eq]

theorem release_cmds_subset (p : Pending) : (release s p).cmds ⊆ s.cmds := by
  rcases hd : p.done with _ | c
  · simp only [release, hd, List.Subset.refl]
  · rw [release_cmds_of_done s (by simp [hd])]
    exact List.filter_subset_self _

theorem foldl_release_cmds_subset (ps : List Pending) : (ps.foldl release s).cmds ⊆ s.cmds := by
  induction ps generalizing s with
  | nil => exact List.Subset.refl _
  | cons p ps ih => exact List.Subset.trans (ih _) (release_cmds_subset s p)

/-- None of the ended commands released is outstanding afterwards. -/
theorem handle_ne_of_mem_foldl_release {p x : Pending} {ps : List Pending} (hp : p ∈ ps) (hd : p.done.isSome = true)
    (hx : x ∈ (ps.foldl release s).cmds) : x.handle ≠ p.handle := by
  induction ps generalizing s with
  | nil => exact absurd hp List.not_mem_nil
  | cons y ps ih =>
    rcases List.mem_cons.mp hp with rfl | hp
    · have left := foldl_release_cmds_subset (release s p) ps hx
      rw [release_cmds_of_done s hd] at left
      simpa using (List.mem_filter.mp left).2
    · exact ih (release s y) hp hx

end

/-- The end of a command that keeps no order: its record is written at once. -/
theorem cmd_finish_of_plain {s : State} {h : Word} {p : Pending} (c : Completion) (hc : s.cmd h = some p) (hd : p.done = none)
    (ho : keepsOrder p = false) : (s.finish h c).cmd h = none := by
  have hh : p.handle = h := by simpa using List.find?_some hc
  let ended : Pending := { p with done := some c }
  let u := (s.setCmd ended).trace 0x7400 4 p.domain 0 (leBytes 8 h.toNat ++ leBytes 2 c.status)
  have finished : s.finish h c = u.flush p.queue := by simp only [State.finish, hc, hd, u, ended]
  have listed : ended ∈ u.cmds := by
    rw [(cmdsKept_trace _ _ _ _ _ (cmdsKept_refl _)).eq]
    exact List.mem_map.mpr ⟨p, List.mem_of_find?_eq_some hc, if_pos (beq_self_eq_true p.handle)⟩
  have released : ended ∈ releasable p.queue false u.cmds := mem_releasable_of_plain rfl rfl ho listed
  rw [finished, flush_eq, State.cmd, List.find?_eq_none]
  intro x hx
  have other : x.handle ≠ ended.handle := handle_ne_of_mem_foldl_release u released rfl hx
  simpa using hh ▸ other

/-- Settles O20: `mem_releasable_iff` from a queue that holds nothing yet, and what `finish` does of an ended, an unknown and a plain command. -/
theorem completionsOnceAndInOrder : Obligations.CompletionsOnceAndInOrder := by
  refine ⟨?order, ?ended, ?unknown, ?plain⟩
  case order =>
    intro q cs p hq hd before after hcs nodup
    subst hcs
    rw [mem_releasable_iff hq hd before after false nodup, keepsOrder_eq_false_iff]
    simp only [keepsOrder_iff, true_and]
  case ended => exact fun _ _ c _ hc hd => finish_ended c hc hd
  case unknown => exact fun _ _ c hc => finish_unknown c hc
  case plain => exact fun _ _ c p hc hd hf ho => cmd_finish_of_plain c hc hd ((keepsOrder_eq_false_iff p).mpr ⟨hf, ho⟩)

end Sys2Proof.Laws
end

section
/-!
# The COMPUTE and STEP commands

What each command does once it may start, by the branch of its definition that the domain's state selects, and when a channel takes a host
message.
-/
namespace Sys2Proof.Laws
open Sys2Proof.Machine

/-! ## LAUNCH and STOP (R126, Table CMD-4) -/

section
variable {s : State} {d src n : Nat}

theorem copyArgs_none (s : State) (d n : Nat) : s.copyArgs d 0 n = .ok s := if_pos rfl

/-- An argument block that is there and intact is copied into the argument area. -/
theorem copyArgs_copies (h0 : src ≠ 0) (hm : s.mappedAll src n = true) (hp : s.poisonedIn src n = none) :
    s.copyArgs d src n = .ok (s.devWrite (s.argArea d) (s.physRead src n)) := by
  simp only [State.copyArgs, if_neg h0, hm, hp, Bool.true_eq_false, if_false]

/-- A started LAUNCH that is still outstanding keeps another of its domain waiting. -/
theorem launchBusy_of_started {h : Word} {q : Pending} (hq : q ∈ s.cmds) (hh : q.handle ≠ h) (hs : q.started = true)
    (hc : q.cls = 1) (ho : q.op = 1) (hd : q.domain = d) : s.launchBusy d h = true := by
  have found : s.cmds.any (fun q => q.handle != h && q.started && q.cls == 1 && q.op == 1 && q.domain == d) = true :=
    List.any_eq_true.mpr ⟨q, hq, by simp [hh, hs, hc, ho, hd]⟩
  rw [State.launchBusy, found, Bool.or_true]

end

section
variable {s u : State} {h : Word} {p : Pending}

theorem execLaunch_busy (hr : s.ready h 1 1 = some p) (hb : s.launchBusy p.domain h = true) : execLaunch h [] s = .next s := by
  simp only [execLaunch, State.findErrors, List.foldl_nil, hr, hb, if_true]

theorem execLaunch_flawed {st : Nat} (hr : s.ready h 1 1 = some p) (hb : s.launchBusy p.domain h = false)
    (hf : rangeFlaw p.entry = some st) : execLaunch h [] s = .next ((s.begin p).finishWith p.handle st) := by
  simp only [execLaunch, State.findErrors, List.foldl_nil, hr, hb, Bool.false_eq_true, if_false, beginWith_flawed _ hf]

/-- A LAUNCH whose arguments are in place runs from the next slot. -/
theorem execLaunch_runs (hr : s.ready h 1 1 = some p) (hb : s.launchBusy p.domain h = false) (hf : rangeFlaw p.entry = none)
    (hs : ((s.begin p).dom p.domain).noSpare = false)
    (ha : (s.begin p).copyArgs p.domain (fieldAt p.entry 16 8) (fieldAt p.entry 24 4) = .ok u) :
    execLaunch h [] s = .next (u.setDom p.domain { u.dom p.domain with
      launchNext := some { handle := h, limit := fieldAt p.entry 28 4, args := fieldAt p.entry 16 8 != 0 } }) := by
  simp only [execLaunch, State.findErrors, List.foldl_nil, hr, hb, hs, ha, Bool.false_eq_true, if_false, beginWith_sound _ hf]

theorem execStop_idle (hr : s.ready h 1 2 = some p) (hn : ((s.begin p).dom p.domain).launchNext = none)
    (hl : ((s.begin p).dom p.domain).launch = none) : execStop h s = .next ((s.begin p).finishWith h ST_OK) := by
  simp only [execStop, hr, hn, hl, Option.isSome_none, Bool.or_self, Bool.false_eq_true, if_false]

theorem execStop_waits (hr : s.ready h 1 2 = some p) (hn : ((s.begin p).dom p.domain).launchNext.isSome = true) :
    let x := (s.begin p).dom p.domain
    execStop h s = .next ((s.begin p).setDom p.domain { x with stops := x.stops ++ [h] }) := by
  simp only [execStop, hr, hn, Bool.true_or, if_true]

/-! ## SIGNAL and host messages (R149, R154) -/

theorem execSignal_flawed {st : Nat} (hr : s.ready h 1 3 = some p) (hf : rangeFlaw p.entry = some st) :
    execSignal h s = .next ((s.begin p).finishWith p.handle st) := by
  simp only [execSignal, hr, beginWith_flawed _ hf]

/-- A SIGNAL to a logical tile of its domain is offered to the tile that runs it; to another it is UNDELIVERABLE. -/
theorem execSignal_sound (hr : s.ready h 1 3 = some p) (hf : rangeFlaw p.entry = none) :
    execSignal h s = .next (if ((s.begin p).domTiles p.domain).contains (fieldAt p.entry 16 2) then
      (s.begin p).offerHost ⟨(s.begin p).phys p.domain (fieldAt p.entry 16 2), fieldAt p.entry 18 1,
        messageBytes 0xFFFF (fieldAt p.entry 16 2) (fieldAt p.entry 18 1) 3 (fieldAt p.entry 20 2) 0 0 0xFFFF 0xFFFF 0 (takeAt p.entry 24 32),
        h, some (p.domain, fieldAt p.entry 16 2)⟩
      else (s.begin p).finishWith h ST_UNDELIVERABLE) := by
  simp only [execSignal, hr, beginWith_sound _ hf]

theorem redirect_of_logical {m : HostMsg} {d l : Nat} (hm : m.logical = some (d, l)) : (s.redirect m).tile = s.phys d l := by
  simp only [State.redirect, hm]

theorem chan_setChan_same (s : State) (t c : Nat) (ms : List Bytes) : (s.setChan t c ms).chan t c = ms := by
  show (smapFind ((s.setTile t { s.tile t with chans := smapPut (fun _ => some []) (s.tile t).chans c ms }).tile t).chans c).getD [] = ms
  rw [tile_setTile_same]
  exact smapFind_put_same (fun _ => []) (s.tile t).chans c ms

theorem offerHost_undeliverable {m : HostMsg} (hp : s.fld (TIL_MSG_CHAN_PERSIST m.tile m.chan) = 0) :
    s.offerHost m = s.finishWith m.handle ST_UNDELIVERABLE := if_pos (.inr hp)

/-- A PERSIST channel of a usable tile takes a message while it holds fewer than 16. -/
theorem offerHost_of_persist {m : HostMsg} (hu : s.tileUsable m.tile = true) (hp : s.fld (TIL_MSG_CHAN_PERSIST m.tile m.chan) = 1) :
    s.offerHost m = if (s.chan m.tile m.chan).length < 16
      then (s.setChan m.tile m.chan (s.chan m.tile m.chan ++ [m.bytes])).finishOk m.handle 0
      else { s with hostMsgs := s.hostMsgs ++ [m] } := if_neg (by simp [hu, hp])

end

/-- Settles O21: one lemma above for each branch that a clause names. -/
theorem computeCommandsComplete : Obligations.ComputeCommandsComplete := by
  refine ⟨⟨?plain, ?args, fun _ _ _ => rfl, ?busy, ?started, ?flawed, ?idle, ?stops, ?signalFlawed, ?offered, ?foreign, ?retry, ?redirect⟩,
    ?taken, ?held, ?slotScoped⟩
  case plain =>
    intro s h p hr hb hf hs h0 u
    exact (execLaunch_runs hr hb hf hs (h0 ▸ copyArgs_none ..)).trans (by rw [h0]; rfl)
  case args => exact fun s h p hr hb hf hs h0 hm hp => execLaunch_runs hr hb hf hs (copyArgs_copies h0 hm hp)
  case busy => exact fun _ _ _ hr hb => execLaunch_busy hr hb
  case started => exact fun _ _ _ _ hq hh hs hc ho hd => launchBusy_of_started hq hh hs hc ho hd
  case flawed => exact fun _ _ _ _ hr hb hf => execLaunch_flawed hr hb hf
  case idle => exact fun _ _ _ hr hn hl => execStop_idle hr hn hl
  case stops => exact fun _ _ _ hr hn => execStop_waits hr hn
  case signalFlawed => exact fun _ _ _ _ hr hf => execSignal_flawed hr hf
  case offered => exact fun _ _ _ hr hf ht => (execSignal_sound hr hf).trans (congrArg _ (if_pos ht))
  case foreign => exact fun _ _ _ hr hf ht => (execSignal_sound hr hf).trans (congrArg _ (if_neg (ne_true_of_eq_false ht)))
  case retry => exact fun _ _ hp => if_pos hp
  case redirect => exact fun _ _ _ _ hm => redirect_of_logical hm
  case taken => exact fun s m hu hp room => ⟨(offerHost_of_persist hu hp).trans (if_pos room), chan_setChan_same ..⟩
  case held => exact fun s m hu hp full => (offerHost_of_persist hu hp).trans (if_neg (Nat.not_lt.mpr full))
  case slotScoped => exact fun _ _ hp => offerHost_undeliverable hp

/-! ## STEP BEGIN and STEP UPDATE (R377, R408) -/

section
variable {s : State} {h : Word} {p : Pending}

theorem execStepBegin_of_ready (hr : s.ready h 4 1 = some p) :
    let u := s.begin p
    execStepBegin h s = .next (u.setDom p.domain
      { u.dom p.domain with beginBy := (u.dom p.domain).beginBy ++ [(h, fieldAt p.entry 16 8)] }) := by
  simp only [execStepBegin, hr]

theorem execStepUpdate_restoreBad (hr : s.ready h 4 2 = some p) (hb : ((s.begin p).dom p.domain).restoreBad = true) :
    execStepUpdate h s = .next ((s.begin p).finishWith h ST_RESTORE_MISMATCH) := by
  simp only [execStepUpdate, hr, hb, if_true]

/-- Whether a domain has an update of step `n`, in force or waiting. -/
def hasUpdate (x : Dom) (n : Nat) : Prop := (∃ u, x.update = some u ∧ u.step = n) ∨ ∃ u ∈ x.updateBy, u.step = n

theorem hasUpdate_iff (x : Dom) (n : Nat) :
    ((x.update.any (fun u => u.step == n)) || x.updateBy.any (fun u => u.step == n)) = true ↔ hasUpdate x n := by
  simp [hasUpdate, Option.any_eq_true]

theorem execStepUpdate_duplicate (hr : s.ready h 4 2 = some p) (hb : ((s.begin p).dom p.domain).restoreBad = false)
    (hu : hasUpdate ((s.begin p).dom p.domain) (fieldAt p.entry 16 8)) :
    execStepUpdate h s = .next ((s.begin p).finishWith h ST_UPDATE_DUPLICATE) := by
  simp only [execStepUpdate, hr, hb, (hasUpdate_iff _ _).mpr hu, Bool.false_eq_true, if_false, if_true]

theorem execStepUpdate_waits (hr : s.ready h 4 2 = some p) (hb : ((s.begin p).dom p.domain).restoreBad = false)
    (hu : ¬ hasUpdate ((s.begin p).dom p.domain) (fieldAt p.entry 16 8)) :
    let u := s.begin p
    execStepUpdate h s = .next (u.setDom p.domain { u.dom p.domain with
      updateBy := (u.dom p.domain).updateBy ++ [{ handle := h, step := fieldAt p.entry 16 8, set := fieldAt p.entry 24 4 }] }) := by
  simp only [execStepUpdate, hr, hb, if_neg (mt (hasUpdate_iff _ _).mp hu), Bool.false_eq_true, if_false]

/-! ## STEP RESUME (R128, R426) -/

/-- A domain that is not STOPPED, or resumes already, is not resumed. -/
theorem execStepResume_refused (hr : s.ready h 4 3 = some p)
    (hx : (s.begin p).domState p.domain ≠ 3 ∨ ((s.begin p).dom p.domain).resumeBy.isSome = true) :
    execStepResume h s = .next ((s.begin p).finishWith h ST_NOT_STOPPED) := by
  simp only [execStepResume, hr, if_pos hx]

theorem execStepResume_stopped (hr : s.ready h 4 3 = some p) (h3 : (s.begin p).domState p.domain = 3)
    (hn : ((s.begin p).dom p.domain).resumeBy = none) (hs : ((s.begin p).dom p.domain).noSpare = false) :
    let u := s.begin p
    execStepResume h s = .next (u.setDom p.domain { u.dom p.domain with resumeBy := some h, recoverDue := u.tick + 2 }) := by
  have first : ¬ ((s.begin p).domState p.domain ≠ 3 ∨ ((s.begin p).dom p.domain).resumeBy.isSome = true) := by simp [h3, hn]
  simp only [execStepResume, hr, if_neg first, hs, Bool.false_eq_true, if_false]

/-! ## STEP SNAPSHOT and STEP RESTORE (R397, R405 to R408) -/

theorem execStepSnapshot_alone (hr : s.ready h 4 4 = some p) (hn : (s.begin p).survival.partner = none) :
    execStepSnapshot h s = .next ((s.begin p).finishWith h ST_PARTNER_NONE) := by
  simp only [execStepSnapshot, hr, hn, Option.isNone_none, if_true]

theorem execStepSnapshot_asks (hr : s.ready h 4 4 = some p) (hs : (s.begin p).survival.partner.isSome = true) :
    let u := s.begin p
    execStepSnapshot h s = .next
      (u.setDom p.domain { u.dom p.domain with snapBy := (u.dom p.domain).snapBy ++ [h] }).requestSnapshots := by
  have partnered : (s.begin p).survival.partner.isNone = false := by simpa using hs
  simp only [execStepSnapshot, hr, partnered, Bool.false_eq_true, if_false]

variable {whole : Bool}

theorem execStepRestore_begins {n : Nat} {rs : List Bytes} {e : Bytes} (hr : s.ready h 4 5 = some p)
    (hc : (s.begin p).checkRestore p.domain h (fieldAt p.entry 16 8) (fieldAt p.entry 24 8) whole = .ok (n, rs, e)) :
    let u := s.begin p
    execStepRestore h whole s = .next (u.setDom p.domain { u.dom p.domain with
      restoreBad := false, restore := some
        { handle := h, step := n, last := fieldAt e 8 8, spool := rs, start := u.now,
          opened := u.openedAt p.domain (fieldAt p.entry 24 8) (fieldAt (u.bytesAt (fieldAt p.entry 16 8) 128) 48 8) n } }) := by
  simp only [execStepRestore, hr, hc]

theorem execStepRestore_noStep (hr : s.ready h 4 5 = some p)
    (hc : (s.begin p).checkRestore p.domain h (fieldAt p.entry 16 8) (fieldAt p.entry 24 8) whole = .error 4) :
    execStepRestore h whole s = .next ((s.begin p).finishWith h ST_RESTORE_NO_STEP) := by
  simp only [execStepRestore, hr, hc]

end

section
variable {s : State} {d : Fin 64} {outcome : BitVec 16} {basis : Basis} {r : Restore}

/-- A basis that is in place is loaded into memory and into the domain, and the spool runs on from its last record. -/
theorem execRestoreBasisLoaded_ok (hr : (s.dom d.val).restore = some r) (hl : r.loaded = false) (ho : outcome.toNat = ST_OK) :
    let u := basis.banks.foldl (fun (w : State) b => w.devWrite b.1 b.2) s
    let w := (u.loadFront d.val basis.front).loadRecord d.val basis.record
    let v := { w with spoolRing := w.spoolRing.filter (fun e => !(e.dom == d.val && decide (r.last < e.step))) }
    execRestoreBasisLoaded d outcome basis s = .next (v.setDom d.val { v.dom d.val with
      spoolSeq := (r.spool.getLast?.map (fun e => fieldAt e 40 8 + 1)).getD 0, restore := some { r with loaded := true } }) := by
  simp only [execRestoreBasisLoaded, hr, hl, ho, ne_eq, not_true_eq_false, Bool.false_eq_true, if_false]

/-- A basis that an error struck ends its RESTORE. -/
theorem execRestoreBasisLoaded_failed (hr : (s.dom d.val).restore = some r) (hl : r.loaded = false) (ho : outcome.toNat ≠ ST_OK) :
    execRestoreBasisLoaded d outcome basis s = .next (s.endFill d.val r outcome.toNat) := by
  simp only [execRestoreBasisLoaded, hr, hl, if_pos ho, Bool.false_eq_true, if_false]

end

/-- Settles O23: one lemma above for each branch that a clause names; an UPDATE of a step that the domain has is a duplicate, whether it is in
force or waits. -/
theorem stepCommandsComplete : Obligations.StepCommandsComplete := by
  refine ⟨?begin, ?update, ?waiting, ?inForce, ?bad, ?resume, ?alone, ?asks, ?restore, ?noStep, ?loaded, ?failed⟩
  case begin => exact fun _ _ _ hr => execStepBegin_of_ready hr
  case update =>
    intro s h p hr hb noneInForce others
    refine execStepUpdate_waits hr hb ?_
    rintro (⟨u, hu, -⟩ | ⟨u, hu, same⟩)
    · exact absurd (noneInForce.symm.trans hu) (by simp)
    · exact others u hu same
  case waiting => exact fun _ _ _ hr hb same => execStepUpdate_duplicate hr hb (.inr same)
  case inForce => exact fun _ _ _ x hr hb hx same => execStepUpdate_duplicate hr hb (.inl ⟨x, hx, same⟩)
  case bad => exact fun _ _ _ hr hb => execStepUpdate_restoreBad hr hb
  case resume => exact fun _ _ _ hr h3 hn hs => execStepResume_stopped hr h3 hn hs
  case alone => exact fun _ _ _ hr hn => execStepSnapshot_alone hr hn
  case asks => exact fun _ _ _ hr hs => execStepSnapshot_asks hr hs
  case restore => exact fun _ _ _ _ _ _ _ hr hc => execStepRestore_begins hr hc
  case noStep => exact fun _ _ _ _ hr hc => execStepRestore_noStep hr hc
  case loaded => exact fun _ _ _ _ hr hl => execRestoreBasisLoaded_ok hr hl rfl
  case failed => exact fun _ _ _ _ _ hr hl ho => execRestoreBasisLoaded_failed hr hl ho

/-- Settles O24: neither a domain that is not STOPPED nor one that resumes already is resumed. -/
theorem resumeNeedsAStoppedDomain : Obligations.ResumeNeedsAStoppedDomain :=
  ⟨rfl, fun _ _ _ hr hx => execStepResume_refused hr (.inl hx), fun _ _ _ hr hx => execStepResume_refused hr (.inr hx)⟩

end Sys2Proof.Laws
end

section
/-!
# Tickets

A ticket holds a queue index and its generation. What the queue records at an issue and a completion survives the trace record of either
(`TilesKept`), so that an entry and its generation read back as they were set.
-/
namespace Sys2Proof.Laws
open Sys2Proof.Machine

/-! ## What a trace record leaves (R473) -/

/-- `t` has the tiles of `s`. -/
structure TilesKept (s t : State) : Prop where
  eq : t.tiles = s.tiles

section
variable {z s : State}

theorem tilesKept_of {t : State} (h : TilesKept z s) (e : t.tiles = s.tiles) : TilesKept z t := ⟨e.trans h.eq⟩

theorem tilesKept_ite {c : Prop} [Decidable c] {a b : State} (ha : TilesKept z a) (hb : TilesKept z b) :
    TilesKept z (if c then a else b) := by
  split <;> assumption

theorem tilesKept_setFld (f : Fld) (v : Nat) (h : TilesKept z s) : TilesKept z (s.setFld f v) := tilesKept_of h rfl

theorem tilesKept_store (a : Nat) (bs : Bytes) (h : TilesKept z s) : TilesKept z (s.store a bs) :=
  tilesKept_of h (by rw [store_frame])

theorem tilesKept_trace (unit kind dom ticket : Nat) (args : Bytes) (h : TilesKept z s) : TilesKept z (s.trace unit kind dom ticket args) := by
  have drawn : TilesKept z { s with fresh := s.fresh + 1 } := tilesKept_of h rfl
  have stored := fun (a : Nat) (bs : Bytes) => tilesKept_store a bs drawn
  unfold State.trace
  exact tilesKept_ite (tilesKept_ite (tilesKept_setFld _ _ drawn) (tilesKept_ite (tilesKept_setFld _ _ (stored _ _))
    (tilesKept_ite (tilesKept_setFld _ _ (stored _ _)) (tilesKept_setFld _ _ (tilesKept_setFld _ _ (stored _ _)))))) h

theorem tilesKept_traceOp (t kind ticket : Nat) (head : Bytes) (h : TilesKept z s) : TilesKept z (s.traceOp t kind ticket head) := by
  unfold State.traceOp
  split
  · exact h
  · exact tilesKept_ite (tilesKept_trace _ _ _ _ _ h) h

end

theorem traceOp_tile (s : State) (t kind ticket : Nat) (head : Bytes) (u : Nat) : (s.traceOp t kind ticket head).tile u = s.tile u := by
  rw [State.tile, (tilesKept_traceOp t kind ticket head ⟨rfl⟩ : TilesKept s _).eq, State.tile]

/-! ## Tickets (R138) -/

section
variable {i gen : Nat}

theorem mkTicket_mod (h : i < 64) : mkTicket i gen % 64 = i := by
  unfold mkTicket
  omega

theorem mkTicket_div (h : i < 64) : mkTicket i gen / 64 = gen := by
  unfold mkTicket
  omega

theorem mkTicket_fields (h : i < 64) (hg : gen ≤ 1023) : bitsOf (mkTicket i gen) 0 6 = i ∧ bitsOf (mkTicket i gen) 6 10 = gen := by
  unfold bitsOf
  rw [pow_zero, Nat.div_one, show 2 ^ 6 = 64 from rfl, mkTicket_mod h, mkTicket_div h]
  exact ⟨rfl, Nat.mod_eq_of_lt (by omega)⟩

end

theorem nextGen_range (x : Tile) (i : Nat) : 1 ≤ x.nextGen i ∧ x.nextGen i ≤ 1023 := by
  unfold Tile.nextGen
  omega

theorem nextGen_of_gen {x : Tile} {i g : Nat} (h : smapFind x.gens i = some g) : x.nextGen i = g % 1023 + 1 := by
  rw [Tile.nextGen, h, Option.getD_some]

theorem complete_of_free {x : Tile} {ticket : Nat} (h : smapFind x.ops (ticket % 64) = none) : x.complete ticket = true := by
  rw [Tile.complete, h]

theorem complete_of_op {x : Tile} {ticket : Nat} {o : Op} (h : smapFind x.ops (ticket % 64) = some o) :
    x.complete ticket = (o.gen != ticket / 64) := by
  rw [Tile.complete, h]

theorem complete_iff (x : Tile) (ticket : Nat) : x.complete ticket = true ↔
    (smapFind x.ops (ticket % 64) = none ∨ ∃ o, smapFind x.ops (ticket % 64) = some o ∧ o.gen ≠ ticket / 64) := by
  cases h : smapFind x.ops (ticket % 64) with
  | none => simp [complete_of_free h]
  | some o => simp [complete_of_op h]

/-! ## The queue's entries (R138, R141) -/

theorem enqueue_gens (s : State) (t i : Nat) (desc : Bytes) (pre aux : Nat) :
    ((s.enqueue t i desc pre aux).tile t).gens = smapIns (s.tile t).gens i ((s.tile t).nextGen i) := by
  simp only [State.enqueue, traceOp_tile, tile_setTile_same]

theorem dequeue_ops (s : State) (t i : Nat) (o : Op) : ((s.dequeue t i o).tile t).ops = smapDel (s.tile t).ops i := by
  rw [State.dequeue, traceOp_tile]
  exact congrArg Tile.ops (tile_setTile_same s t _)

/-- Settles O27: a ticket is an index below 64 beside a generation of ten bits, and a trace record leaves the queue as it was given. -/
theorem ticketsNameOperations : Obligations.TicketsNameOperations := by
  refine ⟨?layout, ?generations, ?allocated, complete_iff⟩
  case layout =>
    intro i gen hi h1 hg
    obtain ⟨index, generation⟩ := mkTicket_fields hi hg
    exact ⟨index, generation, by unfold mkTicket; omega, by unfold mkTicket; omega⟩
  case generations =>
    intro x i
    obtain ⟨lo, hi⟩ := nextGen_range x i
    refine ⟨lo, hi, fun g hg small => ?_, fun hg => nextGen_of_gen hg⟩
    rw [nextGen_of_gen hg, Nat.mod_eq_of_lt small]
  case allocated =>
    intro s t i pre aux desc
    rw [enqueue_gens, smapFind_ins_same]

end Sys2Proof.Laws
end

section
/-!
# The integer instructions of a core (R133)

The model divides two's-complement integers and takes the result modulo 2^64; the operations of bit vectors do the same, the two corner
cases included.
-/
namespace Sys2Proof.Laws
open Sys2Proof.Machine

/-! ## Division -/

theorem word_unsignedOf (v : Int) : word (unsignedOf 64 v) = BitVec.ofInt 64 v := by
  apply BitVec.eq_of_toNat_eq
  rw [word_toNat, BitVec.toNat_ofInt]
  unfold unsignedOf
  omega

theorem word_tdiv (a b : Word) : word (unsignedOf 64 (a.toInt.tdiv b.toInt)) = a.sdiv b := by
  apply BitVec.eq_of_toInt_eq
  rw [word_unsignedOf, BitVec.toInt_ofInt, BitVec.toInt_sdiv]

theorem word_tmod (a b : Word) : word (unsignedOf 64 (a.toInt.tmod b.toInt)) = a.srem b := by
  rw [word_unsignedOf, ← BitVec.toInt_srem, BitVec.ofInt_toInt]

/-- Division rounds toward zero; by zero it gives all ones, and the most negative number by −1 gives itself. -/
theorem alu64_div (a b : Word) : alu64 4 1 a b = some (if b = 0#64 then BitVec.allOnes 64 else a.sdiv b) := by
  have zero : b.toInt = 0 ↔ b = 0#64 := BitVec.toInt_inj (y := 0#64)
  simp only [alu64, word_tdiv, zero]
  rfl

theorem alu64_rem (a b : Word) : alu64 6 1 a b = some (a.srem b) := by
  simp only [alu64, word_tmod]
  split
  · next h =>
    have zero : b = 0#64 := BitVec.toInt_inj.mp h
    rw [zero, BitVec.srem_zero]
  · rfl

theorem alu64_remu (a b : Word) : alu64 7 1 a b = some (a.umod b) := by
  simp only [alu64]
  split
  · next h =>
    have zero : b = 0#64 := BitVec.eq_of_toNat_eq h
    rw [zero]
    exact congrArg some BitVec.umod_zero.symm
  · rw [← BitVec.toNat_umod, word_of_toNat]
    rfl

/-! ## Register instructions -/

/-- A register instruction of I or M writes what its function gives and goes on to the next word. -/
theorem runWord_alu {s : State} {t w len f k : Nat} {v : Word} (h : w % 128 = 0x33) (h3 : f3 w = f) (h7 : f7 w = k)
    (hv : alu64 f k ((s.tile t).x (fRs1 w)) ((s.tile t).x (fRs2 w)) = some v) :
    s.runWord t w len = .done s (fRd w) v ((s.tile t).pc + word len) := by
  simp only [State.runWord, h, h3, h7, hv, ranOf]

/-- A register reads back what was written, and x0 reads zero. -/
theorem x_putX (c : Tile) (r q : Nat) (v : Word) : (c.putX r v).x q = if q = 0 then 0#64 else if q = r then v else c.x q := by
  by_cases hq : q = 0
  · simp [Tile.x, hq]
  by_cases hr : r = 0
  · simp [Tile.putX, hq, hr]
  by_cases same : q = r
  · subst same
    simpa [Tile.x, Tile.putX, hq] using smapFind_put_same (fun _ => 0#64) c.xreg q v
  · simp only [Tile.x, Tile.putX, hq, hr, same, if_false]
    rw [smapFind_put_ne _ _ _ same]

/-- Settles O26: each instruction is its branch of `alu64`, and the branches of division agree with the operations of bit vectors. -/
theorem coreArithmetic : Obligations.CoreArithmetic := by
  refine ⟨fun s t w len h => ⟨?add, ?sub, ?mul, ?sra, ?sltu, ?div, ?rem, ?remu⟩, x_putX, fun _ _ => rfl⟩
  case add => exact fun h3 h7 => runWord_alu h h3 h7 rfl
  case sub => exact fun h3 h7 => runWord_alu h h3 h7 rfl
  case mul => exact fun h3 h7 => runWord_alu h h3 h7 rfl
  case sra => exact fun h3 h7 => runWord_alu h h3 h7 rfl
  case sltu => exact fun h3 h7 => runWord_alu h h3 h7 rfl
  case div => exact fun h3 h7 => runWord_alu h h3 h7 (alu64_div _ _)
  case rem => exact fun h3 h7 => runWord_alu h h3 h7 (alu64_rem _ _)
  case remu => exact fun h3 h7 => runWord_alu h h3 h7 (alu64_remu _ _)

end Sys2Proof.Laws
end

section
/-!
# The instructions of a tile core

Each lemma takes an instruction to the branch of its definition that the hypotheses select: the core runs, its PC holds the word, and the
operands name registers of the word.
-/
namespace Sys2Proof.Laws
open Sys2Proof.Machine

/-! ## Words of a tile found in error (R420) -/

section
variable {s : State} {t : Nat} {f : Found}

theorem tileRead_clean (s : State) (t : Nat) : s.tileRead t .clean = (s, true) := rfl

theorem tileRead_corrected (h : f.ecc = .corrected) : s.tileRead t f = (s.correctedWord t f, true) := by
  simp only [State.tileRead, h]

theorem tileRead_uncorrectable (h : f.ecc = .uncorrectable) :
    s.tileRead t f = (s.tileFault t (foundInfo f ST_ECC_UNCORRECTABLE), false) := by
  simp only [State.tileRead, h]

end

/-! ## CORE_INSTRUCTION and EBREAK (R133, R137, R475) -/

section
variable {s u : State} {t : Fin 384} {f : Found} {w len : Nat}

theorem execCoreInstruction_delivered (hr : s.coreRuns t.val = true) (hf : s.tileRead t.val f = (u, true)) :
    execCoreInstruction t f s = .next (u.coreStep t.val) := by
  simp only [execCoreInstruction, hr, if_true, hf]

theorem execCoreInstruction_lost (hr : s.coreRuns t.val = true) (hf : s.tileRead t.val f = (u, false)) :
    execCoreInstruction t f s = .next u := by
  simp only [execCoreInstruction, hr, if_true, hf]

/-- The core retires what its word leads to, unless the word is a command of its own. -/
theorem coreStep_retires {k : Nat} (hf : (s.tile k).fetch = .word w len) (hc : isCustom w = false) (hb : w ≠ 0x00100073) :
    s.coreStep k = s.retireCore k (s.runWord k w len) := by
  simp only [State.coreStep, hf, hc, hb, Bool.false_eq_true, or_self, if_false]

/-- With no word in error, a word that is no command of its own retires what it leads to. -/
theorem execCoreInstruction_clean (hr : s.coreRuns t.val = true) (hf : (s.tile t.val).fetch = .word w len) (hc : isCustom w = false)
    (hb : w ≠ 0x00100073) : execCoreInstruction t .clean s = .next (s.retireCore t.val (s.runWord t.val w len)) := by
  rw [execCoreInstruction_delivered hr (tileRead_clean s t.val), coreStep_retires hf hc hb]

theorem execEbreak_halts (hr : s.coreRuns t.val = true) (hf : (s.tile t.val).fetch = .word 0x00100073 len) (hg : bitOf s.scope 1 = true) :
    execEbreak t s = .next (s.setTile t.val { s.tile t.val with run := .halted }) := by
  simp only [execEbreak, hr, hf, hg, ne_eq, not_true, if_true, if_false]

theorem execEbreak_traps (hr : s.coreRuns t.val = true) (hf : (s.tile t.val).fetch = .word 0x00100073 len) (hg : bitOf s.scope 1 = false) :
    execEbreak t s = .next (s.coreTrap t.val CAUSE_BREAK) := by
  simp only [execEbreak, hr, hf, hg, ne_eq, not_true, if_true, if_false, Bool.false_eq_true]

end

/-- Settles O25: the read of the stored words is clean, corrected or lost, and a word that is read retires or traps. -/
theorem coreInstructionsComplete : Obligations.CoreInstructionsComplete := by
  refine ⟨?done, ?corrected, ?lost, ?trap, ?halts, ?traps⟩
  case done => exact fun _ _ _ _ _ _ _ _ hr hf hc hb hw => (execCoreInstruction_clean hr hf hc hb).trans (by rw [hw, State.retireCore])
  case corrected => exact fun _ _ _ hr he => execCoreInstruction_delivered hr (tileRead_corrected he)
  case lost => exact fun _ _ _ hr he => execCoreInstruction_lost hr (tileRead_uncorrectable he)
  case trap => exact fun _ _ _ _ _ hr hf hc hb hw => (execCoreInstruction_clean hr hf hc hb).trans (by rw [hw, State.retireCore])
  case halts => exact fun _ _ _ hr hf hg => execEbreak_halts hr hf hg
  case traps => exact fun _ _ _ hr hf hg => execEbreak_traps hr hf hg

/-! ## Queue, slot and summary instructions (R138, R139, R142, R143, R240) -/

section
variable {s : State} {t : Fin 384} {rd rs1 rs2 : Fin 32} {w : Nat}

section
variable (hd : fRd w = rd.val) (h1 : fRs1 w = rs1.val) (h2 : fRs2 w = rs2.val)
include hd h1 h2

theorem execOpIssue_room {i : Nat} (hc : s.customAt t.val 0 0 = some w)
    (ha : dramFault ((s.tile t.val).x rs1.val).toNat 0 = none) (hi : s.freeIndex t.val = some i) :
    execOpIssue t rd rs1 rs2 s = .next (s.issue t.val rd.val
      ((s.tile t.val).dramBytes (((s.tile t.val).x rs1.val).toNat - 0x100000) 64) ((s.tile t.val).x rs2.val).toNat i) := by
  simp only [execOpIssue, hc, hd, h1, h2, ha, hi, ne_eq, not_true, or_self, if_false]

theorem execOpTry_room {i : Nat} (hc : s.customAt t.val 0 1 = some w)
    (ha : dramFault ((s.tile t.val).x rs1.val).toNat 0 = none) (hi : s.freeIndex t.val = some i) :
    execOpTry t rd rs1 rs2 s = .next (s.issue t.val rd.val
      ((s.tile t.val).dramBytes (((s.tile t.val).x rs1.val).toNat - 0x100000) 64) ((s.tile t.val).x rs2.val).toNat i) := by
  simp only [execOpTry, hc, hd, h1, h2, ha, hi, ne_eq, not_true, or_self, if_false]

theorem execOpTry_full (hc : s.customAt t.val 0 1 = some w)
    (ha : dramFault ((s.tile t.val).x rs1.val).toNat 0 = none) (hi : s.freeIndex t.val = none) :
    execOpTry t rd rs1 rs2 s = .next (s.retire4 t.val rd.val 0) := by
  simp only [execOpTry, hc, hd, h1, h2, ha, hi, ne_eq, not_true, or_self, if_false]

end

section
variable (h1 : fRs1 w = rs1.val)
include h1

theorem execOpWait_complete (hc : s.customAt t.val 1 0 = some w)
    (hx : (s.tile t.val).complete (ticketIn ((s.tile t.val).x rs1.val)) = true) : execOpWait t rs1 s = .next (s.retire4 t.val 0 0) := by
  simp only [execOpWait, hc, h1, hx, and_self, if_true]

theorem execSlotEnd_issues (hc : s.customAt t.val 4 0 = some w) :
    execSlotEnd t rs1 s = .next (s.control t.val 1 (((s.tile t.val).x rs1.val).toNat % 2 ^ 32)) := by
  simp only [execSlotEnd, hc, h1, ne_eq, not_true, if_false]

variable (hd : fRd w = rd.val)
include hd

theorem execOpTest_gives (hc : s.customAt t.val 1 1 = some w) : execOpTest t rd rs1 s = .next
    (s.retire4 t.val rd.val (if (s.tile t.val).complete (ticketIn ((s.tile t.val).x rs1.val)) then 1 else 0)) := by
  simp only [execOpTest, hc, hd, h1, ne_eq, not_true, or_self, if_false]

theorem execOpStatus_gives (hc : s.customAt t.val 1 2 = some w) : execOpStatus t rd rs1 s = .next
    (s.retire4 t.val rd.val ((s.tile t.val).outcome (ticketIn ((s.tile t.val).x rs1.val)))) := by
  simp only [execOpStatus, hc, hd, h1, ne_eq, not_true, or_self, if_false]

theorem execSumRead_gives (hc : s.customAt t.val 5 0 = some w) (hv : ((s.tile t.val).x rs1.val).toNat < 16) :
    execSumRead t rd rs1 s = .next
      (s.retire4 t.val rd.val (s.reg (VEC_SUM t.val ((s.tile t.val).x rs1.val).toNat)).toNat) := by
  simp only [execSumRead, hc, hd, h1, hv, ne_eq, not_true, or_self, if_false, if_true]

end

theorem execOpWait_incomplete (hc : s.customAt t.val 1 0 = some w)
    (hx : (s.tile t.val).complete (ticketIn ((s.tile t.val).x rs1.val)) = false) : execOpWait t rs1 s = .next s := by
  simp only [execOpWait, hc, hx, Bool.false_eq_true, and_false, if_false]

theorem execProgEnd_issues (hc : s.customAt t.val 4 1 = some w) : execProgEnd t s = .next (s.control t.val 2 0) := by
  simp only [execProgEnd, hc]

end

/-- Settles O28: one lemma above for each instruction and each branch that a clause names. -/
theorem queueInstructionsComplete : Obligations.QueueInstructionsComplete := by
  refine ⟨?issue, ?tries, ?full, ?passes, ?waits, ?test, ?status, ?slot, ?prog, ?summary, fun _ _ _ _ => rfl⟩
  case issue => exact fun _ _ _ _ _ _ _ hc hd h1 h2 ha hi => execOpIssue_room hd h1 h2 hc ha hi
  case tries => exact fun _ _ _ _ _ _ _ hc hd h1 h2 ha hi => execOpTry_room hd h1 h2 hc ha hi
  case full => exact fun _ _ _ _ _ _ hc hd h1 h2 ha hi => execOpTry_full hd h1 h2 hc ha hi
  case passes => exact fun _ _ _ _ hc h1 hx => execOpWait_complete h1 hc hx
  case waits => exact fun _ _ _ _ hc _ hx => execOpWait_incomplete hc hx
  case test => exact fun _ _ _ _ _ hc hd h1 => execOpTest_gives h1 hd hc
  case status => exact fun _ _ _ _ _ hc hd h1 => execOpStatus_gives h1 hd hc
  case slot => exact fun _ _ _ _ hc h1 => execSlotEnd_issues h1 hc
  case prog => exact fun _ _ _ hc => execProgEnd_issues hc
  case summary => exact fun _ _ _ _ _ hc hd h1 hv => execSumRead_gives h1 hd hc hv

/-! ## Mailbox and barrier instructions (R148, R157) -/

theorem barrier_setBarrier_same (s : State) (d b : Nat) (x : Barrier) : ((s.setBarrier d b x).dom d).barrier b = x := by
  rw [State.setBarrier, dom_setDom_same]
  exact smapFind_put_same (fun _ => {}) _ b x

section
variable {s : State} {d b l : Nat}

theorem arrive_again (h : ((s.dom d).barrier b).holds l = true) : s.arrive d b l = none := if_pos h

/-- A tile without an unreleased arrival arrives: it then stands among the arrived, where a tile that was released already stood. -/
theorem arrive_records (h : ((s.dom d).barrier b).holds l = false) : ∃ u, s.arrive d b l = some u ∧
    ((u.dom d).barrier b).gen = ((s.dom d).barrier b).gen ∧ l ∈ ((u.dom d).barrier b).arrived := by
  simp only [State.arrive, h, Bool.false_eq_true, if_false]
  split
  · next here =>
    refine ⟨_, rfl, ?_⟩
    rw [barrier_setBarrier_same]
    exact ⟨rfl, by simpa using here⟩
  · refine ⟨_, rfl, ?_⟩
    rw [barrier_setBarrier_same]
    exact ⟨rfl, by simp⟩

end

theorem indexOf_of_lt {s : State} {v : Word} {n : Nat} (h : v.toNat < n) : s.indexOf v n = (v.toNat, s) := if_pos h

section
variable {s : State} {t : Fin 384} {rd rs1 rs2 : Fin 32} {w : Nat}

section
variable {m : Bytes} {ms : List Bytes}
variable (hd : fRd w = rd.val) (h1 : fRs1 w = rs1.val) (h2 : fRs2 w = rs2.val)
variable (ha : dramFault ((s.tile t.val).x rs2.val).toNat 2 = none) (hx : ((s.tile t.val).x rs1.val).toNat < 16)
include hd h1 h2 ha hx

theorem execMsgRecv_takes (hc : s.customAt t.val 2 0 = some w) (hm : s.chan t.val ((s.tile t.val).x rs1.val).toNat = m :: ms) :
    execMsgRecv t rd rs1 rs2 s = .next
      (s.takeMessage t.val ((s.tile t.val).x rs1.val).toNat ((s.tile t.val).x rs2.val).toNat rd.val m ms) := by
  simp only [execMsgRecv, hc, hd, h1, h2, ha, indexOf_of_lt hx, hm, ne_eq, not_true, or_self, if_false]

theorem execMsgPoll_takes (hc : s.customAt t.val 2 1 = some w) (hm : s.chan t.val ((s.tile t.val).x rs1.val).toNat = m :: ms) :
    execMsgPoll t rd rs1 rs2 s = .next
      (s.takeMessage t.val ((s.tile t.val).x rs1.val).toNat ((s.tile t.val).x rs2.val).toNat rd.val m ms) := by
  simp only [execMsgPoll, hc, hd, h1, h2, ha, indexOf_of_lt hx, hm, ne_eq, not_true, or_self, if_false]

theorem execMsgPoll_empty (hc : s.customAt t.val 2 1 = some w) (hm : s.chan t.val ((s.tile t.val).x rs1.val).toNat = []) :
    execMsgPoll t rd rs1 rs2 s = .next (s.retire4 t.val rd.val 0) := by
  simp only [execMsgPoll, hc, hd, h1, h2, ha, indexOf_of_lt hx, hm, ne_eq, not_true, or_self, if_false]

end

section
variable {d : Nat} (hd : s.domOf t.val = some d) (h1 : fRs1 w = rs1.val) (hx : ((s.tile t.val).x rs1.val).toNat < 8)
include hd h1 hx

theorem execBarArrive_arrives {u : State} (hc : s.customAt t.val 3 0 = some w)
    (ha : s.arrive d ((s.tile t.val).x rs1.val).toNat (s.logicalOf d t.val) = some u) :
    execBarArrive t rs1 s = .next (u.retire4 t.val 0 0) := by
  simp only [execBarArrive, hc, hd, h1, indexOf_of_lt hx, ha, ne_eq, not_true, if_false]

theorem execBarWait_eq (hc : s.customAt t.val 3 1 = some w) : execBarWait t rs1 s =
    if ((s.dom d).barrier ((s.tile t.val).x rs1.val).toNat).holds (s.logicalOf d t.val) then .next s else .next (s.retire4 t.val 0 0) := by
  simp only [execBarWait, hc, hd, h1, indexOf_of_lt hx, ne_eq, not_true, if_false]

end

end

/-- Settles O29: one lemma above for each instruction and each branch that a clause names; an arrival is `arrive_records`. -/
theorem mailboxAndBarrierInstructionsComplete : Obligations.MailboxAndBarrierInstructionsComplete := by
  refine ⟨?recv, ?poll, ?empty, ?arrives, ?released, ?waits, fun _ _ _ _ => arrive_records, fun _ _ _ _ => arrive_again⟩
  case recv => exact fun _ _ _ _ _ _ _ _ hc hd h1 h2 ha hx hm => execMsgRecv_takes hd h1 h2 ha hx hc hm
  case poll => exact fun _ _ _ _ _ _ _ _ hc hd h1 h2 ha hx hm => execMsgPoll_takes hd h1 h2 ha hx hc hm
  case empty => exact fun _ _ _ _ _ _ hc hd h1 h2 ha hx hm => execMsgPoll_empty hd h1 h2 ha hx hc hm
  case arrives => exact fun _ _ _ _ _ _ hc hd h1 hx ha => execBarArrive_arrives hd h1 hx hc ha
  case released => exact fun _ _ _ _ _ hc hd h1 hx hb => (execBarWait_eq hd h1 hx hc).trans (if_neg (by simp [hb]))
  case waits => exact fun _ _ _ _ _ hc hd h1 hx hb => (execBarWait_eq hd h1 hx hc).trans (if_pos hb)

end Sys2Proof.Laws
end

section
/-!
# The operations of a tile's queue

A DMA copy changes memory at the places of its rows alone (`copyRows_memGet_ne`), and nothing but what a device write may change
(`MemoryOnly`). An element-wise operation writes where its descriptor was checked to lie, in the tile's own scratchpad (`OutputFits`,
`PadOnly`).
-/
namespace Sys2Proof.Laws
open Sys2Proof.Machine

/-! ## Start and completion (R140, R141, R143) -/

section
variable {s u : State} {t : Fin 384} {engine : BitVec 4} {i e : Nat} {o : Op} {f : Found}
variable (hn : firstOp (fun o => o.engineCode == engine.toNat && !o.started) (s.tile t.val).ops = some (i, o))
  (he : s.engineFor t.val o = some e) (hm : s.mayStart t.val o = true)
include hn he hm

theorem execOperationStart_delivered (hf : s.tileRead t.val f = (u, true)) :
    execOperationStart t engine f s = .next (u.startOp t.val i { o with sends := u.sends t.val o } e) := by
  simp only [execOperationStart, hn, he, hm, hf, Bool.true_eq_false, if_false]

theorem execOperationStart_lost (hf : s.tileRead t.val f = (u, false)) : execOperationStart t engine f s = .next u := by
  simp only [execOperationStart, hn, he, hm, hf, Bool.true_eq_false, if_false]

end

section
variable {s : State} {t : Fin 384} {i : Fin 64} {o : Op}

theorem execOperationComplete_acted (ho : s.op t.val i.val = some o) (he : o.engineCode ≠ 15) (ha : o.acted = true) :
    execOperationComplete t i s = .next (((s.scrambleAll o.races).dequeue t.val i.val o).waited t.val o) := by
  simp only [execOperationComplete, ho, he, ha, false_and, if_false, if_true]

theorem execOperationComplete_control {d : Nat} (ho : s.op t.val i.val = some o) (he : o.engineCode = 15) (hs : o.started = true)
    (hd : (s.dequeue t.val i.val o).domOf t.val = some d) : execOperationComplete t i s =
      if o.code = 1 then .next ((s.dequeue t.val i.val o).slotEnded d t.val o.aux) else .next ((s.dequeue t.val i.val o).progEnded d t.val) := by
  simp only [execOperationComplete, ho, he, hs, and_self, if_true, hd]

theorem actedWith_of_op {t i : Nat} (status : Nat) (ho : s.op t i = some o) :
    s.actedWith t i status = s.setOp t i { o with acted := true, status := status } := by
  simp only [State.actedWith, ho]

/-- An operation that left the queue is complete (R138). -/
theorem complete_dequeue (s : State) (t : Nat) (i : Fin 64) (o : Op) : ((s.dequeue t i.val o).tile t).complete (mkTicket i.val o.gen) = true :=
  complete_of_free (by rw [mkTicket_mod i.isLt, dequeue_ops, smapFind_del_same])

/-! ## DMA (R107, R146) -/

theorem execDmaCopy_waits (hh : s.held t.val i.val [6] 1 = some o) (hw : s.dmaTurn t.val o = false) : execDmaCopy t i [] s = .next s := by
  show s.copyDma t i = _
  simp only [State.copyDma, hh, hw, if_true]

theorem execDmaCopy_copies (hh : s.held t.val i.val [6] 1 = some o) (hf : s.dmaFault t.val o = none)
    (ha : s.rowsMapped o.dma.bytes (s.tileAddr t.val o.dma.src) o.dma.ss o.dma.rows = true)
    (hb : s.rowsMapped o.dma.bytes (s.tileAddr t.val o.dma.dst) o.dma.ds o.dma.rows = true)
    (hp : s.rowsPoisoned o.dma.bytes (s.tileAddr t.val o.dma.src) o.dma.ss o.dma.rows = none) (hw : s.dmaTurn t.val o = true) :
    execDmaCopy t i [] s = .next (((s.copyRows o.dma.bytes (s.tileAddr t.val o.dma.src) o.dma.ss (s.tileAddr t.val o.dma.dst) o.dma.ds
      o.dma.rows).countDma t.val o.dma (s.tileAddr t.val o.dma.src) (s.tileAddr t.val o.dma.dst)).actedWith t.val i.val 0) := by
  show s.copyDma t i = _
  simp only [State.copyDma, hh, hw, hf, ha, hb, hp, Bool.true_eq_false, Bool.and_self, Bool.not_true, Bool.false_eq_true, if_false]

/-! ## SEND and COLL_POST (R151, R155, R357) -/

theorem execSend_local {d : Nat} (hh : s.held t.val i.val [7] 1 = some o) (hr : o.reservedOk [(8, 6), (24, 32)] = true)
    (hc : o.field 10 1 < 16) (hl : o.field 8 2 ≤ 383) (h1 : 1 ≤ o.field 11 1) (h32 : o.field 11 1 ≤ 32) (hm : o.field 12 2 = 0xFFFF)
    (hd : s.domOf t.val = some d) (ha : o.aux ≠ 1) (hb : s.sendsBefore t.val o = false)
    (hx : s.deliverable d (o.field 8 2) (o.field 10 1) = true) :
    execSend t i s = .next (s.sendLocal t.val i.val d (o.field 8 2) (o.field 10 1) o) := by
  simp only [execSend, hh, hr, Nat.not_le.mpr hc, Nat.not_lt.mpr hl, Nat.not_lt.mpr h1, Nat.not_lt.mpr h32, hm, hd, ha, hb, hx, ne_eq, not_true,
    false_and, Bool.true_eq_false, Bool.false_eq_true, or_self, if_false, if_true]

theorem execCollPost_accepts {d : Nat} (hh : s.held t.val i.val [7] 2 = some o) (hd : s.domOf t.val = some d)
    (hf : s.postFault o = none) (hl : (s.dom d).launchedColls.contains (postId o.desc) = false)
    (hp : (s.dom d).posts.any (fun q => postId q.desc == postId o.desc) = false) : execCollPost t i [] s = .next
      ((s.setDom d { s.dom d with posts := (s.dom d).posts ++ [⟨t.val, (s.dom d).step, o.desc⟩] }).actedWith t.val i.val 0) := by
  simp only [execCollPost, State.findErrors, List.foldl_nil, hh, hd, hf, hl, hp, Bool.or_self, Bool.false_eq_true, if_false]

end

/-- Settles O30: one lemma above for each command and each branch that a clause names. -/
theorem operationsComplete : Obligations.OperationsComplete := by
  refine ⟨?start, ?complete, ?slotEnd, ?progEnd, ?copies, ?waits, ?found, ?send, ?post, ?acted, complete_dequeue⟩
  case start =>
    intro s t engine i e o hn he hm
    exact ⟨execOperationStart_delivered hn he hm (tileRead_clean s t.val), fun f =>
      ⟨fun hf => execOperationStart_delivered hn he hm (tileRead_corrected hf),
       fun hf => execOperationStart_lost hn he hm (tileRead_uncorrectable hf)⟩⟩
  case complete => exact fun _ _ _ _ ho he ha => execOperationComplete_acted ho he ha
  case slotEnd => exact fun _ _ _ _ _ ho he hs hd hc => (execOperationComplete_control ho he hs hd).trans (if_pos hc)
  case progEnd => exact fun _ _ _ _ _ ho he hs hd hc => (execOperationComplete_control ho he hs hd).trans (if_neg (by simp [hc]))
  case copies => exact fun _ _ _ _ hh hf ha hb hp hw => execDmaCopy_copies hh hf ha hb hp hw
  case waits => exact fun _ _ _ _ hh hw => execDmaCopy_waits hh hw
  case found => exact fun _ _ _ _ => ⟨rfl, rfl⟩
  case send => exact fun _ _ _ _ _ hh hr hc hl h1 h32 hm hd ha hb hx => execSend_local hh hr hc hl h1 h32 hm hd ha hb hx
  case post => exact fun _ _ _ _ _ hh hd hf hl hp => execCollPost_accepts hh hd hf hl hp
  case acted => exact fun _ _ _ status _ ho => actedWith_of_op status ho

/-! ## What a DMA copy leaves (R146) -/

section
variable {z s : State}

theorem MemoryOnly.loc {t : State} (h : MemoryOnly s t) (a : Nat) : t.loc a = s.loc a := by
  rw [h.eq]
  rfl

theorem memoryOnly_copyRows {n a st b dt r : Nat} (h : MemoryOnly z s) : MemoryOnly z (s.copyRows n a st b dt r) := by
  induction r generalizing s a b with
  | zero => exact h
  | succ r ih => exact ih (memoryOnly_devWrite _ _ h)

theorem memoryOnly_tagHbm (d a n : Nat) (h : MemoryOnly z s) : MemoryOnly z (s.tagHbm d a n) :=
  memoryOnly_ite (memoryOnly_of h rfl) h

theorem memoryOnly_readRows {d n a st r : Nat} (h : MemoryOnly z s) : MemoryOnly z (s.readRows d n a st r) := by
  induction r generalizing s a with
  | zero => exact h
  | succ r ih => exact ih (memoryOnly_tagHbm _ _ _ (memoryOnly_countHbm _ _ h))

theorem memoryOnly_tagRows {d n b dt r : Nat} (h : MemoryOnly z s) : MemoryOnly z (s.tagRows d n b dt r) := by
  induction r generalizing s b with
  | zero => exact h
  | succ r ih => exact ih (memoryOnly_tagHbm _ _ _ h)

theorem memoryOnly_countDma (t : Nat) (x : Dma) (a b : Nat) (h : MemoryOnly z s) : MemoryOnly z (s.countDma t x a b) :=
  memoryOnly_of (memoryOnly_tagRows (memoryOnly_readRows h)) rfl

theorem memoryOnly_actedWith (t i status : Nat) (h : MemoryOnly z s) : MemoryOnly z (s.actedWith t i status) := by
  unfold State.actedWith
  split
  · exact memoryOnly_of h rfl
  · exact h

end

theorem tagHbm_mem (s : State) (d a n : Nat) : (s.tagHbm d a n).mem = s.mem := by
  unfold State.tagHbm
  split <;> rfl

theorem readHbm_mem (s : State) (d a n : Nat) : (s.readHbm d a n).mem = s.mem := by
  rw [State.readHbm, tagHbm_mem, countHbm_eq]

theorem readRows_mem (s : State) (d n a st r : Nat) : (s.readRows d n a st r).mem = s.mem := by
  induction r generalizing s a with
  | zero => rfl
  | succ r ih => rw [State.readRows, ih, readHbm_mem]

theorem tagRows_mem (s : State) (d n b dt r : Nat) : (s.tagRows d n b dt r).mem = s.mem := by
  induction r generalizing s b with
  | zero => rfl
  | succ r ih => rw [State.tagRows, ih, tagHbm_mem]

theorem countDma_mem (s : State) (t : Nat) (x : Dma) (a b : Nat) : (s.countDma t x a b).mem = s.mem :=
  (tagRows_mem _ _ _ _ _ _).trans (readRows_mem s _ _ _ _ _)

theorem actedWith_mem (s : State) (t i status : Nat) : (s.actedWith t i status).mem = s.mem := by
  unfold State.actedWith
  split <;> rfl

@[simp] theorem length_physRead (s : State) (a n : Nat) : (s.physRead a n).length = n := by
  induction n generalizing a with
  | zero => rfl
  | succ n ih => rw [State.physRead, List.length_cons, ih]

/-- The copied rows change memory at the places of their bytes alone: a row moves no place, so that the next ones lie where they lay. -/
theorem copyRows_memGet_ne (s : State) (n a st b dt r k : Nat) (apart : ∀ q, q < r → ∀ j, j < n → k ≠ s.loc (b + q * dt + j)) :
    memGet (s.copyRows n a st b dt r).mem k = memGet s.mem k := by
  induction r generalizing s a b with
  | zero => rfl
  | succ r ih =>
    have first : ∀ j, j < n → k ≠ s.loc (b + j) := fun j hj => by simpa using apart 0 r.succ_pos j hj
    rw [State.copyRows, ih, devWrite_memGet_ne s b _ k (by simpa using first)]
    intro q hq j hj
    rw [(memoryOnly_devWrite b _ (memoryOnly_refl s)).loc, show b + dt + q * dt = b + (q + 1) * dt by ring]
    exact apart (q + 1) (Nat.succ_lt_succ hq) j hj

/-! ## What an element-wise operation leaves (Table VEC-3) -/

/-- `t` differs from `s` in registers, in counts, in tile `k`, and in memory within the scratchpad of tile `k` alone. -/
structure PadOnly (k : Nat) (s t : State) : Prop where
  frame : t = { s with regs := t.regs, counts := t.counts, mem := t.mem, tiles := t.tiles }
  mem : ∀ a, (∀ j, j < padEnd → a ≠ padAddr k + j) → memGet t.mem a = memGet s.mem a
  tile : ∀ j, j ≠ k → t.tile j = s.tile j

/-- An engine's write within a scratchpad breaks the reservations of that tile alone (R133). -/
theorem breakReserve_tile_ne (s : State) {k off n j : Nat} (fits : off + n ≤ padEnd) (hj : j ≠ k) :
    (s.breakReserve (padAddr k + off) n).tile j = s.tile j := by
  unfold State.breakReserve
  split
  · rfl
  · simp only [padEnd] at fits
    have lo : (padAddr k + off - padBase) / 0x40_0000 = k := by
      simp only [padAddr]
      omega
    have hi : (padAddr k + off + n - 1 - padBase) / 0x40_0000 = k := by
      simp only [padAddr]
      omega
    simp only [lo, hi, Nat.sub_self, Nat.zero_add, List.range_one, List.foldl_cons, List.foldl_nil, Nat.add_zero]
    split
    · split
      · simp only [State.tile]
        rw [smapFind_put_ne _ _ _ hj]
      · rfl
    · rfl

section
variable {k : Nat} {z s t : State}

theorem padOnly_refl (k : Nat) (s : State) : PadOnly k s s := ⟨rfl, fun _ _ => rfl, fun _ _ => rfl⟩

theorem padOnly_trans {u : State} (h : PadOnly k s t) (g : PadOnly k t u) : PadOnly k s u where
  frame := by rw [g.frame, h.frame]
  mem a ha := (g.mem a ha).trans (h.mem a ha)
  tile j hj := (g.tile j hj).trans (h.tile j hj)

theorem padOnly_setReg (a : Nat) (v : Word) (h : PadOnly k z s) : PadOnly k z (s.setReg a v) :=
  padOnly_trans h ⟨rfl, fun _ _ => rfl, fun _ _ => rfl⟩

theorem padOnly_addFld (f : Fld) (n : Nat) (h : PadOnly k z s) : PadOnly k z (s.addFld f n) := padOnly_setReg _ _ h

theorem padOnly_count (d i n : Nat) (h : PadOnly k z s) : PadOnly k z (s.count d i n) :=
  padOnly_trans h ⟨rfl, fun _ _ => rfl, fun _ _ => rfl⟩

theorem padOnly_actedWith (i status : Nat) (h : PadOnly k z s) : PadOnly k z (s.actedWith k i status) := by
  unfold State.actedWith
  split
  · exact padOnly_trans h ⟨rfl, fun _ _ => rfl, fun _ hj => tile_setTile_ne s _ hj⟩
  · exact h

theorem padOnly_padPut {off : Nat} {bs : Bytes} (fits : off + bs.length ≤ padEnd) (h : PadOnly k z s) : PadOnly k z (s.padPut k off bs) := by
  refine padOnly_trans h ⟨?_, fun a ha => ?_, fun j hj => breakReserve_tile_ne _ fits hj⟩
  · rw [State.padPut, breakReserve_eq]
  · rw [State.padPut, breakReserve_eq]
    refine memGet_memWrite_ne bs s.mem _ a ?_
    by_contra inside
    exact ha (a - padAddr k) (by omega) (by omega)

theorem padOnly_foldl {α : Type} {f : State → α → State} {xs : List α} (h : PadOnly k z s)
    (hf : ∀ u, ∀ x ∈ xs, PadOnly k z u → PadOnly k z (f u x)) : PadOnly k z (xs.foldl f s) :=
  List.foldlRecOn xs f h fun u hu x hx => hf u x hx hu

theorem padOnly_vecCount (o : Op) (cs : List Nat) (h : PadOnly k z s) : PadOnly k z (s.vecCount k o cs) :=
  padOnly_addFld _ _ (padOnly_addFld _ _ (padOnly_addFld _ _ h))

theorem padOnly_vecBeats (o : Op) (passes : Nat) (h : PadOnly k z s) : PadOnly k z (s.vecBeats k o passes none) :=
  padOnly_count _ _ _ (padOnly_addFld _ _ h)

end

/-! ### The bytes of a row's reduction (R238, R239) -/

/-- A reduction that carries a number, not a record. -/
def IsNum (r : Red) : Prop := ∃ x, r = .num x

section
variable {kind : Nat} (hk : kind ≠ 4)

theorem isNum_combine {a b : Red} (ha : IsNum a) (hb : IsNum b) : IsNum (redCombine kind a b) := by
  obtain ⟨x, rfl⟩ := ha
  obtain ⟨y, rfl⟩ := hb
  exact ⟨_, rfl⟩

theorem isNum_level {xs : List Red} (h : ∀ r ∈ xs, IsNum r) : ∀ r ∈ redLevel kind xs, IsNum r := by
  fun_induction redLevel kind xs with
  | case1 a b rest ih =>
    obtain ⟨ha, hb, hrest⟩ : IsNum a ∧ IsNum b ∧ ∀ r ∈ rest, IsNum r := by simpa using h
    simpa using ⟨isNum_combine ha hb, ih hrest⟩
  | case2 xs => exact h

include hk

theorem isNum_identity : IsNum (redIdentity kind) := by
  unfold redIdentity
  split
  · exact ⟨_, rfl⟩
  · exact ⟨_, rfl⟩
  · exact absurd rfl hk
  · exact ⟨_, rfl⟩

theorem isNum_enter (x : Machine.Num) (i : Nat) : IsNum (redEnter kind x i) := by
  unfold redEnter
  split
  · exact absurd rfl hk
  · exact ⟨_, rfl⟩
  · exact ⟨_, rfl⟩
  · split
    · exact isNum_identity hk
    · exact ⟨_, rfl⟩

theorem isNum_tree (n : Nat) {xs : List Red} (h : ∀ r ∈ xs, IsNum r) : IsNum (redTree kind n xs) := by
  induction n generalizing xs with
  | zero =>
    cases xs with
    | nil => exact isNum_identity hk
    | cons x xs => exact h x (by simp)
  | succ n ih => exact ih (isNum_level h)

theorem isNum_row (levels n : Nat) {acc : Red} {xs : List Red} (ha : IsNum acc) (h : ∀ r ∈ xs, IsNum r) :
    IsNum (redRow kind levels n acc xs) := by
  induction n generalizing acc xs with
  | zero => exact ha
  | succ n ih =>
    refine ih (isNum_combine ha (isNum_tree hk levels fun r hr => ?_)) fun r hr => h r (List.mem_of_mem_drop hr)
    rcases List.mem_append.mp hr with beat | pad
    · exact h r (List.mem_of_mem_take beat)
    · rw [List.eq_of_mem_replicate pad]
      exact isNum_identity hk

end

theorem isNum_reduceRow {o : Op} {acc : Red} (base : Nat) (row : List Machine.Num) (hk : o.reduce ≠ 4) (ha : IsNum acc) :
    IsNum (o.reduceRow acc base row) := by
  refine isNum_row hk _ _ ha fun r hr => ?_
  obtain ⟨c, -, rfl⟩ := List.mem_map.mp hr
  exact isNum_enter hk _ _

theorem length_redWrite_le (sat : Bool) (r : Red) : (redWrite sat r).1.length ≤ 8 := by
  unfold redWrite
  split <;> simp

theorem length_redWrite_of_isNum (sat : Bool) {r : Red} (h : IsNum r) : (redWrite sat r).1.length = 4 := by
  obtain ⟨x, rfl⟩ := h
  simp [redWrite]

/-! ### Where the output of an operation lies (R233) -/

/-- The rows of D lie in the scratchpad where the operation writes them, and so do the results of its rows where it writes those, in the
type of the reduction. -/
structure OutputFits (o : Op) : Prop where
  rows : o.noOut = false → o.rowsScope = false →
    (o.stream 3).addr + (o.rows - 1) * (o.stream 3).stride + o.cols * tySize (o.stream 3).ty ≤ padEnd
  results : o.rowsScope = true → o.reduce ≠ 0 → (o.stream 3).addr + o.rows * tySize (o.stream 3).ty ≤ padEnd
  type : o.rowsScope = true → (o.stream 3).ty = if o.reduce = 4 then 4 else 0

section
variable {s : State} {o : Op} {f : Option Format}

theorem placeOk_dest {b st n r : Nat} (h : o.placeOk f = true) (hd : o.dest f = some (b, st, n, r)) : b + (r - 1) * st + n ≤ padEnd := by
  simp only [Op.placeOk, hd, Bool.and_eq_true, decide_eq_true_eq] at h
  obtain ⟨-, within, -⟩ := h
  exact within

theorem dest_of_rows (hc : o.code ≤ 0x1A) (hn : o.noOut = false) (hr : o.rowsScope = false) : o.dest f =
    some ((o.stream 3).addr, (o.stream 3).stride, o.cols * tySize (o.stream 3).ty, o.rows) := by
  have not20 : o.code ≠ 0x20 := by omega
  have not21 : o.code ≠ 0x21 := by omega
  simp only [Op.dest, not20, not21, hn, hr, Bool.false_eq_true, false_and, if_false]

theorem dest_of_results (hc : o.code ≤ 0x1A) (hr : o.rowsScope = true) (hk : o.reduce ≠ 0) : o.dest f =
    some ((o.stream 3).addr, 0, o.rows * tySize (o.stream 3).ty, 1) := by
  have not21 : o.code ≠ 0x21 := by omega
  simp only [Op.dest, not21, hr, hk, ne_eq, not_false_eq_true, and_self, if_true, if_false]

theorem of_check_passed {α : Type} {c : Prop} [Decidable c] {a : α} {b : Option α} (h : (if c then some a else b) = none) : ¬ c ∧ b = none := by
  split at h
  · cases h
  · next hc => exact ⟨hc, h⟩

/-- An element-wise operation without a fault passed the checks of its reduction and of its places. -/
theorem vecFault_none (hc : o.code ≤ 0x1A) (h : s.vecFault o = none) : o.reduceOk = true ∧ o.placeOk none = true := by
  have noBlock : o.hasBlock = false := decide_eq_false (by omega)
  simp only [State.vecFault, noBlock, Bool.false_and, Bool.false_eq_true, if_false] at h
  obtain ⟨-, h⟩ := of_check_passed h
  obtain ⟨-, h⟩ := of_check_passed h
  obtain ⟨sound, -⟩ := of_check_passed h
  simp only [Bool.or_eq_true, not_or, Bool.not_eq_true', Bool.not_eq_false] at sound
  obtain ⟨⟨⟨reduceOk, -⟩, placeOk⟩, -⟩ := sound
  exact ⟨reduceOk, placeOk⟩

theorem outputFits_of_vecFault (hc : o.code ≤ 0x1A) (h : s.vecFault o = none) : OutputFits o := by
  obtain ⟨reduceOk, placeOk⟩ := vecFault_none hc h
  refine ⟨fun hn hr => placeOk_dest placeOk (dest_of_rows hc hn hr), fun hr hk => ?_, fun hr => ?_⟩
  · simpa using placeOk_dest placeOk (dest_of_results hc hr hk)
  · simp only [Op.reduceOk, hr, Bool.and_eq_true] at reduceOk
    obtain ⟨⟨-, type⟩, -⟩ := reduceOk
    simpa using type

/-- The bytes of a row's result fill at most an element of D. -/
theorem length_result_le (fits : OutputFits o) (hr : o.rowsScope = true) (row : List Machine.Num) :
    (redWrite o.saturate (o.reduceRow (redIdentity o.reduce) 0 row)).1.length ≤ tySize (o.stream 3).ty := by
  rw [fits.type hr]
  split
  · exact length_redWrite_le _ _
  · next hk => exact (length_redWrite_of_isNum _ (isNum_reduceRow 0 row hk (isNum_identity hk))).le

end

theorem length_rowBytes (n : Nat) (row : List Cell) : (row.flatMap (fun c => leBytes n c.bits)).length = row.length * n := by
  simp [List.length_flatMap]

/-! ### The operation -/

section
variable {k : Nat} {z s : State} {o : Op} {rows : List (List Cell)}

theorem padOnly_vecReduce (fits : OutputFits o) (ht : o.tapKind = 0) (hl : rows.length = o.rows) (h : PadOnly k z s) :
    PadOnly k z (s.vecReduce k o rows) := by
  have counted : PadOnly k z (s.addFld (TIL_NUM_FAULTS_NONFINITE k o.vecCounters) (skipped o rows)) := padOnly_addFld _ _ h
  unfold State.vecReduce
  dsimp only
  split
  · exact counted
  next hk =>
  split
  · next hr =>
    refine padOnly_foldl counted fun u r hmem hu => padOnly_vecCount _ _ (padOnly_padPut ?_ hu)
    have size := length_result_le fits hr ((rows.getD r []).map (·.value))
    have last : (r + 1) * tySize (o.stream 3).ty ≤ o.rows * tySize (o.stream 3).ty :=
      Nat.mul_le_mul_right _ (hl ▸ List.mem_range.mp hmem)
    have place := fits.results hr hk
    rw [Nat.succ_mul] at last
    omega
  · rw [ht]
    exact padOnly_setReg _ _ counted

theorem padOnly_vecWrite (fits : OutputFits o) (ht : o.tapKind = 0) (hl : rows.length = o.rows) (hc : ∀ row ∈ rows, row.length = o.cols)
    (h : PadOnly k z s) : PadOnly k z (s.vecWrite k o rows) := by
  refine padOnly_vecReduce fits ht hl ?_
  split
  · exact h
  next writes =>
  obtain ⟨hn, hr⟩ : o.noOut = false ∧ o.rowsScope = false := by simpa using writes
  refine padOnly_foldl h fun u r hmem hu => padOnly_vecCount _ _ (padOnly_padPut ?_ hu)
  have within : r < rows.length := List.mem_range.mp hmem
  have width : (rows.getD r []).length = o.cols := by
    rw [List.getD_eq_getElem _ _ within]
    exact hc _ (List.getElem_mem within)
  have size := length_rowBytes (tySize (o.stream 3).ty) (rows.getD r [])
  rw [width] at size
  have above : r * (o.stream 3).stride ≤ (o.rows - 1) * (o.stream 3).stride := Nat.mul_le_mul_right _ (by omega)
  have place := fits.rows hn hr
  omega

theorem vecCells_shape (s : State) (t : Nat) (o : Op) : (s.vecCells t o).length = o.rows ∧ ∀ row ∈ s.vecCells t o, row.length = o.cols := by
  simp [State.vecCells]

theorem vecOp_ok {t i op : Nat} {u : State} {run : Op → Except Nat State} (hh : s.held t i [5] op = some o) (hf : s.vecFault o = none)
    (ht : s.tapTurn t o = true) (hr : run o = .ok u) : s.vecOp t i op run = u.actedWith t i 0 := by
  simp only [State.vecOp, hh, hf, ht, hr, Bool.true_eq_false, if_false]

theorem code_of_held {t i op : Nat} {es : List Nat} (hh : s.held t i es op = some o) : o.code = op := by
  unfold State.held at hh
  split at hh
  · split at hh
    · next held =>
      cases hh
      simp only [Bool.and_eq_true, beq_iff_eq] at held
      exact held.2
    · cases hh
  · cases hh

theorem padOnly_vecPlain {i op : Nat} (hop : op ≤ 0x1A) (hh : s.held k i [5] op = some o) (hf : s.vecFault o = none)
    (ht : o.tapKind = 0) (hw : s.tapTurn k o = true) : PadOnly k s (s.vecPlain k i op) := by
  obtain ⟨hl, hc⟩ := vecCells_shape s k o
  rw [State.vecPlain, vecOp_ok hh hf hw rfl]
  exact padOnly_actedWith _ _ (padOnly_vecBeats _ _
    (padOnly_vecWrite (outputFits_of_vecFault (code_of_held hh ▸ hop) hf) ht hl hc (padOnly_refl k s)))

end

/-- Settles O31: a copy is `MemoryOnly` and its rows change their own bytes; an element-wise operation is `PadOnly`. -/
theorem operationsKeepOthers : Obligations.OperationsKeepOthers := by
  refine ⟨?dma, ?vec⟩
  case dma =>
    intro s t k i o hh hf x ha hb hp e
    cases hw : s.dmaTurn k.val o with
    | false =>
      obtain rfl := Host.Outcome.next.inj ((execDmaCopy_waits hh hw).symm.trans e)
      exact ⟨fun _ _ => rfl, rfl, rfl, rfl⟩
    | true =>
      have copied := Host.Outcome.next.inj ((execDmaCopy_copies hh hf ha hb hp hw).symm.trans e)
      have only : MemoryOnly s t :=
        copied ▸ memoryOnly_actedWith _ _ _ (memoryOnly_countDma _ _ _ _ (memoryOnly_copyRows (memoryOnly_refl s)))
      refine ⟨fun c apart => ?_, ?_, ?_, ?_⟩
      · rw [← copied, actedWith_mem, countDma_mem]
        exact copyRows_memGet_ne s _ _ _ _ _ _ c apart
      all_goals rw [only.eq]
  case vec =>
    intro s t k i o op hop hh hf ht hw e
    have only := padOnly_vecPlain hop hh hf ht hw
    rw [e] at only
    refine ⟨fun a outside => only.mem a fun j hj => ?_, ?_, ?_, ?_, ?_, only.tile⟩
    · rw [← loc_of_pad s (a := padAddr k.val + j) (by simp only [padAddr]; omega)]
      exact outside j hj
    all_goals rw [only.frame]

end Sys2Proof.Laws
end

section
/-!
# Messages between tiles, and barriers

Each lemma takes a command to the branch of its definition that the hypotheses select: a flit that arrives, its answer, a resend, and the
release of a barrier's groups.
-/
namespace Sys2Proof.Laws
open Sys2Proof.Machine

/-! ## Messages (R151, R153) -/

section
variable {s : State} {k d : Nat} {f : Flit}

section
variable (hf : s.flitAt k (· == .data) = some f) (hd : (s.dropFlit k).domOf f.dst = some d)
include hf hd

theorem execMessageFlitArrival_stale (he : msgEpoch f.bytes < ((s.dropFlit k).dom d).epoch) :
    execMessageFlitArrival k s = .next ((s.dropFlit k).addFld (TIL_MSG_STATUS_STALE_EPOCH f.dst) 1) := by
  simp only [execMessageFlitArrival, hf, hd, he, if_true]

variable (he : ((s.dropFlit k).dom d).epoch ≤ msgEpoch f.bytes)
  (hc : (s.dropFlit k).fld (TIL_MSG_CHAN_PERSIST f.dst (msgChan f.bytes)) ≠ 1) (ht : (s.dropFlit k).tileState f.dst = 2)
include he hc ht

/-- A message of the epoch in force, to a SLOT channel of a working tile, is accepted in its turn with room, and refused otherwise. -/
theorem execMessageFlitArrival_live : execMessageFlitArrival k s =
    let u := s.dropFlit k
    let c := msgChan f.bytes
    let key := msgSrc f.bytes * 16 + c
    let want := (smapFind (u.tile f.dst).expect key).getD 0
    if msgSeq f.bytes = want ∧ (u.chan f.dst c).length < 16 then
      .next (((u.setTile f.dst { u.tile f.dst with
        expect := smapPut (fun _ => some 0) (u.tile f.dst).expect key ((want + 1) % 65536) }).setChan f.dst c
          (u.chan f.dst c ++ [f.bytes])).answerFlit f .ack)
    else .next ((u.addFld (TIL_MSG_STATUS_REFUSED f.dst) 1).answerFlit f .refusal) := by
  simp only [execMessageFlitArrival, hf, hd, Nat.not_lt.mpr he, hc, ht, ne_eq, not_true, or_self, if_false]

end

section
variable (hf : s.flitAt k FlitKind.answers = some f)
include hf

theorem execMessageAck_ends {j m : Nat} {w : Flow} (ha : s.answered f = some (j, w, m)) (hk : f.kind = .ack) :
    let u := (s.putFlow f.dst (some j) { w with unacked := w.unacked.eraseIdx m, backoff := 0 }).dropFlit k
    execMessageAck k s = .next ((u.count (u.setOf f.dst) 8 1).actedWith f.dst (w.unacked.getD m (0, [])).1 0) := by
  simp only [execMessageAck, hf, ha, hk, reduceCtorEq, if_false, if_true]

theorem execMessageAck_unknown (hk : f.kind ≠ .refusal) (ha : s.answered f = none) : execMessageAck k s = .next (s.dropFlit k) := by
  simp only [execMessageAck, hf, ha, hk, if_false]

theorem execMessageRefusal_resends {j : Nat} {w : Flow} (hk : f.kind = .refusal) (ha : s.answered f = some (j, w, 0))
    (hr : w.resend = false) : execMessageRefusal k s = .next ((s.putFlow f.dst (some j)
      { w with resend := true, backoff := if w.backoff = 0 then 1 else min 64 (2 * w.backoff) }).dropFlit k) := by
  simp only [execMessageRefusal, hf, ha, hk, hr, ne_eq, not_true, Bool.false_eq_true, if_false]

end

theorem execMessageResendTimer_local {t : Fin 384} {flow : Nat} {w : Flow} (hw : (s.tile t.val).flows[flow]? = some w)
    (hr : w.resend = true) (hd : s.domOf t.val = some d) (hm : w.module = 0xFFFF) :
    let u := (s.putFlow t.val (some flow) { w with resend := false }).addFld (TIL_MSG_STATUS_RETRIES t.val) w.unacked.length
    execMessageResendTimer t flow s = .next { u with
      net := u.net ++ w.unacked.map (fun m => { kind := .data, src := t.val, dst := u.phys d w.dst, bytes := m.2 }) } := by
  simp only [execMessageResendTimer, hw, hr, hd, hm, Bool.true_eq_false, if_false, if_true]

end

/-! ## Barriers (R158) -/

section
variable {s : State} {d : Fin 64} {b g : Fin 8}

theorem execBarrierRelease_releases (hg : ((s.dom d.val).barrier b.val).groups = 0) (hn : s.domTiles d.val ≠ [])
    (ha : ∀ l ∈ s.domTiles d.val, l ∈ ((s.dom d.val).barrier b.val).arrived) : execBarrierRelease d b s =
      .next (s.setBarrier d.val b.val { (s.dom d.val).barrier b.val with groups := 1 }) :=
  if_pos ⟨hg, hn, by simpa using ha⟩

theorem execBarrierRelease_waits {l : Nat} (hl : l ∈ s.domTiles d.val) (ha : l ∉ ((s.dom d.val).barrier b.val).arrived) :
    execBarrierRelease d b s = .next s :=
  if_neg fun ⟨_, _, all⟩ => ha (by simpa using List.all_eq_true.mp all l hl)

theorem execBarrierGroupRelease_next (h0 : 0 < g.val) (h7 : g.val < 7) (hg : ((s.dom d.val).barrier b.val).groups = g.val) :
    execBarrierGroupRelease d b g s = .next (s.setBarrier d.val b.val { (s.dom d.val).barrier b.val with
      groups := ((s.dom d.val).barrier b.val).groups + 1 }) :=
  (if_neg (by omega)).trans (if_neg (by omega))

theorem execBarrierGroupRelease_last (hg : ((s.dom d.val).barrier b.val).groups = 7) : execBarrierGroupRelease d b 7 s =
    .next (s.setBarrier d.val b.val { gen := ((s.dom d.val).barrier b.val).gen + 1, arrived := ((s.dom d.val).barrier b.val).next }) :=
  (if_neg (by simp [hg])).trans (if_pos rfl)

end

/-- Settles O38: one lemma above for each command and each branch that a clause names. -/
theorem messagesAndBarriersComplete : Obligations.MessagesAndBarriersComplete := by
  refine ⟨⟨?accepts, ?refuses, ?ack, ?unknown, ?refusal, ?resends, ?release, ?collects, ?group, ?last⟩, ?stale⟩
  case accepts =>
    exact fun _ _ _ _ hf hd he hc ht hq hl => (execMessageFlitArrival_live hf hd he hc ht).trans (if_pos ⟨hq, hl⟩)
  case refuses =>
    exact fun _ _ _ _ hf hd he hc ht hl => (execMessageFlitArrival_live hf hd he hc ht).trans (if_neg fun h => Nat.not_lt.mpr hl h.2)
  case ack => exact fun _ _ _ _ _ _ hf ha hk => execMessageAck_ends hf ha hk
  case unknown => exact fun _ _ _ hf hk ha => execMessageAck_unknown hf hk ha
  case refusal => exact fun _ _ _ _ _ hf hk ha hr => execMessageRefusal_resends hf hk ha hr
  case resends => exact fun _ _ _ _ _ hw hr hd hm => execMessageResendTimer_local hw hr hd hm
  case release => exact fun _ _ _ hg hn ha => execBarrierRelease_releases hg hn ha
  case collects => exact fun _ _ _ _ hl ha => execBarrierRelease_waits hl ha
  case group => exact fun _ _ _ _ h0 h7 hg => execBarrierGroupRelease_next h0 h7 hg
  case last => exact fun _ _ _ hg => execBarrierGroupRelease_last hg
  case stale =>
    exact fun _ _ _ _ hf hd he => ⟨_, execMessageFlitArrival_stale hf hd he, rfl, rfl, rfl, rfl, fun _ => rfl⟩

end Sys2Proof.Laws
end

section
/-!
# The quantiser's operations and the optimiser's passes

Each lemma takes a command to the branch of its definition that the hypotheses select.
-/
namespace Sys2Proof.Laws
open Sys2Proof.Machine

/-! ## Operations with a parameter block (R173 to R180, R242 to R244) -/

section
variable {s : State} {t : Fin 384} {o : Op} {run : Op → Format → State}

theorem blkOp_format {k op : Nat} {f : Format} (hop : op ≠ 0x23) (hh : s.held t.val k [5] op = some o) (hv : s.vecFault o = none)
    (ht : s.tapTurn t.val o = true) (hf : s.format o.format = some f) (hb : s.blkFault t.val o f = none) :
    s.blkOp t.val k op run = (run o f).actedWith t.val k 0 :=
  vecOp_ok hh hv ht (by simp only [if_neg hop, hf, hb])

/-- MASK names no format: its block is checked against one that stands in for none. -/
theorem blkOp_mask {k : Nat} (hh : s.held t.val k [5] 0x23 = some o) (hv : s.vecFault o = none) (ht : s.tapTurn t.val o = true)
    (hb : s.blkFault t.val o ⟨0, 0, 0, false, false, false⟩ = none) :
    s.blkOp t.val k 0x23 run = (run o ⟨0, 0, 0, false, false, false⟩).actedWith t.val k 0 :=
  vecOp_ok hh hv ht (by simp only [if_true, hb])

end

/-! ## The passes of the optimiser (R381 to R388) -/

section
variable {s : State} {t : Fin 384} {i : Fin 64} {o : Op} {d : Nat}

theorem execUpdPass1_runs (hh : s.held t.val i.val [5] 0x30 = some o) (hf : s.pass1Fault t.val o = none) :
    execUpdPass1 t i s = .next ((s.runPass1 t.val o).actedWith t.val i.val 0) := by
  simp only [execUpdPass1, hh, hf]

theorem findErrors_nil (s : State) : s.findErrors [] = s := rfl

/-- The errors that an UPD_PASS2 finds in what it reads come first; the pass then runs as one that finds none. -/
theorem execUpdPass2_finds (fs : List Found) : execUpdPass2 t i fs s = execUpdPass2 t i [] (s.findErrors fs) := rfl

variable (hh : s.held t.val i.val [5] 0x31 = some o) (hd : s.domOf t.val = some d) (hr : o.updReserved = true)
include hh hd hr

theorem execUpdPass2_null (hn : o.updNull = true) :
    execUpdPass2 t i [] s = .next ((s.noteFinal d t.val o).actedWith t.val i.val 0) := by
  simp only [execUpdPass2, findErrors_nil, hh, hd, hr, hn, Bool.true_eq_false, if_false, if_true]

theorem execUpdPass2_runs {f b : Format} (hn : o.updNull = false) (ha : o.updBlock % 64 = 0) (hp : o.updBlock + 128 ≤ padEnd)
    (hs : s.shardReserved t.val o = true) (hf : s.format (s.shard t.val o).fFormat = some f)
    (hb : s.format (s.shard t.val o).bFormat = some b) (ok : s.pass2Fault t.val o f b = none)
    (written : s.numAt ((s.shard t.val o).record + 2) 1 ≠ 0) (turn : (s.decided d t.val o).tapTurn t.val o = true) :
    execUpdPass2 t i [] s = .next (s.runPass2 d t.val i.val o f b) := by
  have due : (s.numAt ((s.shard t.val o).record + 2) 1 == 0) = false := by simpa using written
  simp only [execUpdPass2, findErrors_nil, hh, hd, hr, hn, ha, Nat.not_lt.mpr hp, hs, hf, hb, ok, due, turn, ne_eq, not_true,
    Bool.true_eq_false, Bool.false_eq_true, Bool.and_false, or_self, if_false]

end

/-- Settles O34: an operation with a block that passes its checks runs (`blkOp_format`, `blkOp_mask`), and one lemma above for each branch
of the optimiser's passes that a clause names. -/
theorem quantiserAndOptimiserComplete : Obligations.QuantiserAndOptimiserComplete := by
  refine ⟨⟨?quant, ?prepass, ?dequant, ?mask⟩, ?pass1, ?null, ?finds, ?pass2⟩
  case quant => exact fun _ _ _ _ _ hh hv ht hf hb => congrArg Host.Outcome.next (blkOp_format (by decide) hh hv ht hf hb)
  case prepass => exact fun _ _ _ _ _ hh hv ht hf hb => congrArg Host.Outcome.next (blkOp_format (by decide) hh hv ht hf hb)
  case dequant =>
    intro s t i o f hh hv ht hf hb hn
    refine (congrArg Host.Outcome.next (blkOp_format (by decide) hh hv ht hf hb)).trans ?_
    simp only [hn, Bool.false_eq_true, if_false]
  case mask => exact fun _ _ _ _ hh hv ht hb => congrArg Host.Outcome.next (blkOp_mask hh hv ht hb)
  case pass1 => exact fun _ _ _ _ hh hf => execUpdPass1_runs hh hf
  case null => exact fun _ _ _ _ _ hh hd hr hn => execUpdPass2_null hh hd hr hn
  case finds => exact fun _ _ _ fs => execUpdPass2_finds fs
  case pass2 =>
    exact fun _ _ _ _ _ _ _ hh hd hr hn ha hp hs hf hb ok written turn => execUpdPass2_runs hh hd hr hn ha hp hs hf hb ok written turn

end Sys2Proof.Laws
end

section
/-!
# Encodings of numbers, and rounding

What the pattern of a number holds (`decode_cases`), that packing it gives the pattern back, and that rounding a number which the encoding
holds changes nothing; each once for a subnormal and once for a normal number. Rounding to a multiple is to nearest, ties to even.
-/
namespace Sys2Proof.Laws
open Sys2Proof.Machine

/-! ## Rounding to a multiple -/

section
variable {m d : Nat} {e q : Int}

theorem pow2_of_nonpos (h : e ≤ 0) : pow2 e = 1 := by simp [pow2, Int.toNat_of_nonpos h]

theorem rneAt_self (m : Nat) (e : Int) : rneAt m e e = m := by simp [rneAt, pow2]

/-- The multiple of 2^q that m · 2^e rounds to is the one below it or the next, whichever is nearer, and the even one of two as near. -/
theorem rneAt_cases (h : e < q) (hd : pow2 (q - e) = d) :
    (rneAt m e q = m / d ∧ 2 * (m % d) ≤ d ∧ (2 * (m % d) = d → m / d % 2 = 0)) ∨
    (rneAt m e q = m / d + 1 ∧ d ≤ 2 * (m % d) ∧ (2 * (m % d) = d → m / d % 2 = 1)) := by
  simp only [rneAt, if_neg (Int.not_le.mpr h), hd]
  split
  · next up => exact .inr ⟨rfl, by omega, by omega⟩
  · next down => exact .inl ⟨rfl, by omega, by omega⟩

theorem rneAt_nearest (h : e < q) (hd : pow2 (q - e) = d) :
    2 * (rneAt m e q * d) ≤ 2 * m + d ∧ 2 * m ≤ 2 * (rneAt m e q * d) + d ∧ (2 * (m % d) = d → rneAt m e q % 2 = 0) := by
  have parts : m / d * d + m % d = m := Nat.div_add_mod' m d
  rcases rneAt_cases (m := m) h hd with ⟨hk, near, tie⟩ | ⟨hk, near, tie⟩
  · rw [hk]
    exact ⟨by omega, by omega, tie⟩
  · have below : m % d < d := Nat.mod_lt _ (hd ▸ Nat.two_pow_pos _)
    rw [hk, add_one_mul]
    exact ⟨by omega, by omega, by omega⟩

end

/-! ## The fields of a pattern -/

section
variable {f : FloatFmt} {raw : Nat}

theorem packed_fields (h : raw < 2 ^ (1 + f.ebits + f.mbits)) :
    f.signBit (bitOf raw (f.ebits + f.mbits)) + (bitsOf raw f.mbits f.ebits * 2 ^ f.mbits + bitsOf raw 0 f.mbits) = raw := by
  have top : raw / 2 ^ (f.ebits + f.mbits) < 2 := Nat.div_lt_of_lt_mul (by rwa [← pow_succ, Nat.add_comm, ← Nat.add_assoc])
  have sign : f.signBit (bitOf raw (f.ebits + f.mbits)) = 2 ^ (f.ebits + f.mbits) * (raw / 2 ^ (f.ebits + f.mbits)) := by
    rcases Nat.le_one_iff_eq_zero_or_eq_one.mp (Nat.le_of_lt_succ top) with h | h <;>
      simp [FloatFmt.signBit, bitOf, bitsOf, h]
  have exponent : raw / 2 ^ f.mbits = 2 ^ f.ebits * (raw / 2 ^ (f.ebits + f.mbits)) + bitsOf raw f.mbits f.ebits := by
    rw [Nat.add_comm f.ebits, pow_add, ← Nat.div_div_eq_div_mul, bitsOf, Nat.div_add_mod]
  have mantissa : raw = raw / 2 ^ f.mbits * 2 ^ f.mbits + bitsOf raw 0 f.mbits := by
    rw [bitsOf, pow_zero, Nat.div_one, Nat.div_add_mod']
  calc _ = (2 ^ f.ebits * (raw / 2 ^ (f.ebits + f.mbits)) + bitsOf raw f.mbits f.ebits) * 2 ^ f.mbits + bitsOf raw 0 f.mbits := by
        rw [sign]; ring
    _ = raw := by rw [← exponent, ← mantissa]

/-- The fields of a normal number: an exponent above 0 that is no infinity or NaN of the encoding. -/
structure NormalFields (f : FloatFmt) (e m : Nat) : Prop where
  pos : 0 < e
  lt : e < 2 ^ f.ebits
  mantissa : m < 2 ^ f.mbits
  ieee : f.sp = .ieee → e + 1 ≠ 2 ^ f.ebits
  nanOnly : f.sp = .nanOnly → e + 1 = 2 ^ f.ebits → m + 1 ≠ 2 ^ f.mbits

/-- Significand and exponent of the magnitude whose pattern, without its sign, is the last argument. -/
inductive Magnitude (f : FloatFmt) : Nat → Int → Nat → Prop
  | subnormal {m : Nat} (h : m < 2 ^ f.mbits) : Magnitude f m f.qmin m
  | normal {e m : Nat} (h : NormalFields f e m) : Magnitude f (2 ^ f.mbits + m) (f.qmin + (e - 1 : Nat)) (e * 2 ^ f.mbits + m)

/-- A pattern that is no NaN holds an infinity or a magnitude, with its sign. -/
theorem decode_cases (h : f.decode raw ≠ .nan) :
    let neg := bitOf raw (f.ebits + f.mbits)
    let p := bitsOf raw f.mbits f.ebits * 2 ^ f.mbits + bitsOf raw 0 f.mbits
    (f.decode raw = .inf neg ∧ p = f.infBits) ∨ ∃ k q, f.decode raw = .fin neg k q ∧ Magnitude f k q p := by
  intro neg p
  have he := bitsOf_lt raw f.mbits f.ebits
  have hm := bitsOf_lt raw 0 f.mbits
  unfold FloatFmt.decode at h ⊢
  simp only [Bool.and_eq_true, decide_eq_true_eq, beq_iff_eq] at h ⊢
  split_ifs at h ⊢ with ieee zero nanOnly zero
  · exact .inl ⟨rfl, by simp only [p, zero, ieee.2, FloatFmt.infBits, Nat.add_zero]⟩
  · exact absurd rfl h
  · exact absurd rfl h
  · exact .inr ⟨_, _, rfl, by simpa only [p, zero, Nat.zero_mul, Nat.zero_add] using Magnitude.subnormal hm⟩
  · refine .inr ⟨_, _, rfl, .normal ⟨Nat.pos_of_ne_zero zero, he, hm, fun sp top => ieee ⟨sp, by omega⟩, fun sp top full => ?_⟩⟩
    exact nanOnly ⟨⟨sp, by omega⟩, by omega⟩

end

/-! ## Packing and rounding a magnitude -/

section
variable {f : FloatFmt} {k p : Nat} {q : Int}

theorem log2_normal {e m : Nat} (h : NormalFields f e m) : Nat.log2 (2 ^ f.mbits + m) = f.mbits := by
  have hm := h.mantissa
  exact (Nat.log2_eq_iff (by omega)).mpr ⟨by omega, by rw [pow_succ]; omega⟩

theorem packMag_of_magnitude (h : Magnitude f k q p) : f.packMag k q = p := by
  cases h with
  | subnormal hm =>
    unfold FloatFmt.packMag
    split
    · next zero => exact zero.symm
    · next pos =>
      have below : (Nat.log2 k : Int) + f.qmin < f.qmin + f.mbits := by
        have := (Nat.log2_lt pos).mpr hm
        omega
      simp [below, pow2]
  | @normal e m hn =>
    have log2 := log2_normal hn
    obtain ⟨he, -, hm, -, -⟩ := hn
    have exponent : (f.mbits : Int) + (f.qmin + (e - 1 : Nat)) + f.bias = e := by
      unfold FloatFmt.qmin
      omega
    have normal : ¬ (f.mbits : Int) + (f.qmin + (e - 1 : Nat)) < f.qmin + f.mbits := by omega
    have pos : 2 ^ f.mbits + m ≠ 0 := by omega
    simp only [FloatFmt.packMag, log2, if_neg pos, if_neg normal, exponent, Int.toNat_natCast]
    simp [pow2, Nat.mod_eq_of_lt hm]

/-- The unit of a magnitude is the one that the encoding rounds it to. -/
theorem ulpOf_of_magnitude (h : Magnitude f k q p) (hk : k ≠ 0) : ulpOf f.mbits f.qmin k q = q := by
  cases h with
  | subnormal hm =>
    have := (Nat.log2_lt hk).mpr hm
    unfold ulpOf
    omega
  | normal hn =>
    rw [ulpOf, log2_normal hn]
    omega

/-- An encoding with at least one mantissa bit and two exponent bits, so that a pattern is left for a normal number. -/
structure Regular (f : FloatFmt) : Prop where
  mantissa : 1 ≤ f.mbits
  exponent : 2 ≤ f.ebits

theorem regular_of_table (h : f = fp64 ∨ ∃ ty, elemFmt ty = some f) : Regular f := by
  rcases h with rfl | ⟨ty, h⟩
  · exact ⟨by decide, by decide⟩
  · unfold elemFmt at h
    split at h <;> cases h <;> exact ⟨by decide, by decide⟩

theorem le_maxM (h : k < 2 ^ (f.mbits + 1)) (nanOnly : f.sp = .nanOnly → k + 1 ≠ 2 ^ (f.mbits + 1)) : k ≤ f.maxM := by
  unfold FloatFmt.maxM
  split
  · next sp =>
    have := nanOnly sp
    omega
  · omega

theorem maxE_eq (hf : Regular f) : f.maxE = f.qmin + (2 ^ f.ebits - (if f.sp = .ieee then 2 else 1) - 1 : Nat) := by
  have hb : 2 ^ 2 ≤ 2 ^ f.ebits := Nat.pow_le_pow_right (by omega) hf.exponent
  unfold FloatFmt.maxE FloatFmt.qmin
  split <;> omega

/-- No magnitude has a larger exponent than the largest finite number, nor a larger significand, but for the all-ones one of an
encoding whose NaN takes its place at the largest exponent: there the exponent is smaller. -/
theorem magnitude_below_max (hf : Regular f) (h : Magnitude f k q p) :
    q ≤ f.maxE ∧ (k ≤ f.maxM ∨ q < f.maxE ∧ k ≤ 2 * f.maxM) := by
  have hM : 2 ^ 1 ≤ 2 ^ f.mbits := Nat.pow_le_pow_right (by omega) hf.mantissa
  have double : 2 ^ (f.mbits + 1) = 2 * 2 ^ f.mbits := Nat.pow_succ'
  rw [maxE_eq hf]
  cases h with
  | subnormal hm => exact ⟨by omega, .inl (le_maxM (by omega) (by omega))⟩
  | @normal e m hn =>
    obtain ⟨pos, lt, hm, ieee, nanOnly⟩ := hn
    have within : e - 1 ≤ 2 ^ f.ebits - (if f.sp = .ieee then 2 else 1) - 1 := by
      split
      · next sp =>
        have := ieee sp
        omega
      · omega
    refine ⟨by omega, ?_⟩
    by_cases all : f.sp = .nanOnly ∧ m + 1 = 2 ^ f.mbits
    · obtain ⟨sp, full⟩ := all
      have notTop : e + 1 ≠ 2 ^ f.ebits := fun top => nanOnly sp top full
      have large : 2 * 2 ^ f.mbits - 2 ≤ f.maxM := le_maxM (by omega) (by omega)
      simp only [sp, reduceCtorEq, if_false] at within ⊢
      exact .inr ⟨by omega, by omega⟩
    · exact .inl (le_maxM (by omega) fun sp full => all ⟨sp, by omega⟩)

theorem magGt_max_of_magnitude (hf : Regular f) (h : Magnitude f k q p) : magGt k q f.maxM f.maxE = false := by
  obtain ⟨hq, hk⟩ := magnitude_below_max hf h
  simp only [magGt, pow2_of_nonpos (Int.sub_nonpos_of_le hq), Nat.mul_one, decide_eq_false_iff_not, Nat.not_lt]
  rcases hk with hk | ⟨less, hk⟩
  · exact hk.trans (Nat.le_mul_of_pos_right _ (Nat.two_pow_pos _))
  · have step : 2 ^ 1 ≤ pow2 (f.maxE - q) := Nat.pow_le_pow_right (by omega) (by omega)
    calc k ≤ f.maxM * 2 := by omega
      _ ≤ _ := Nat.mul_le_mul_left _ step

theorem round_of_magnitude (hf : Regular f) (neg : Bool) (h : Magnitude f k q p) (hk : k ≠ 0) : f.round neg k q = .fin neg k q := by
  simp only [FloatFmt.round, if_neg hk, ulpOf_of_magnitude h hk, rneAt_self, magGt_max_of_magnitude hf h, Bool.false_eq_true, if_false]

theorem encode_round_of_magnitude (hf : Regular f) (neg : Bool) (h : Magnitude f k q p) :
    f.encode (f.round neg k q) = f.signBit neg + p := by
  by_cases hk : k = 0
  · subst hk
    rw [← packMag_of_magnitude h]
    simp [FloatFmt.round, FloatFmt.encode, FloatFmt.packMag]
  · rw [round_of_magnitude hf neg h hk, FloatFmt.encode, packMag_of_magnitude h]

end

/-- Settles O56: a pattern is its sign and an infinity or a magnitude (`decode_cases`), which packing and rounding keep; and `rneAt_nearest`. -/
theorem numbersRoundTrip : Obligations.NumbersRoundTrip := by
  refine ⟨fun f table raw hraw number => ?_, fun _ _ _ h => rneAt_nearest h rfl⟩
  have packed := packed_fields hraw
  rcases decode_cases number with ⟨inf, bits⟩ | ⟨k, q, fin, magnitude⟩
  · rw [bits] at packed
    rw [inf]
    exact ⟨packed, packed⟩
  · rw [fin]
    constructor
    · rw [FloatFmt.encode, packMag_of_magnitude magnitude, packed]
    · rw [FloatFmt.fit, encode_round_of_magnitude (regular_of_table table) _ magnitude, packed]

end Sys2Proof.Laws
end

section
/-!
# The array operations and TURN

The four array instructions do one shared operation (`exec_arrayInstr`). Each lemma takes it, or TURN, to the branch of its definition that
the hypotheses select: the checks of a descriptor, FROZEN, and a tapped operation's turn.
-/
namespace Sys2Proof.Laws
open Sys2Proof.Machine

theorem op_of_held {s : State} {t i op : Nat} {es : List Nat} {o : Op} (hh : s.held t i es op = some o) : s.op t i = some o := by
  unfold State.held at hh
  split at hh
  · next found =>
    split at hh
    · rwa [found]
    · cases hh
  · cases hh

/-! ## The array operations (R197 to R203, R221) -/

/-- The array instructions, each with its OP (Table ARR-4). -/
def arrayInstrs : List ((Fin 384 → Fin 64 → Instr) × Nat) := [(Instr.mmaS, 1), (Instr.mmaT, 2), (Instr.mmaW, 3), (Instr.mmaD, 4)]

theorem exec_arrayInstr {x : (Fin 384 → Fin 64 → Instr) × Nat} (hx : x ∈ arrayInstrs) (t : Fin 384) (i : Fin 64) (s : State) :
    exec (x.1 t i) s = .next (s.arrayOp t.val i.val x.2) := by
  simp only [arrayInstrs, List.mem_cons, List.not_mem_nil, or_false] at hx
  obtain rfl | rfl | rfl | rfl := hx <;> rfl

section
variable {s : State} {t i op : Nat} {o : Op} (hh : s.held t i [0, 1, 2, 3] op = some o)
include hh

theorem arrayOp_faults {st : Nat} (hf : s.arrayFault t o = some st) : s.arrayOp t i op = s.opFault t i st := by
  simp only [State.arrayOp, hh, hf]

variable (hf : s.arrayFault t o = none)
include hf

theorem arrayOp_frozen (hz : o.frozen = true) : s.arrayOp t i op = s.actedWith t i 0 := by
  simp only [State.arrayOp, hh, hf, hz, if_true]

theorem arrayOp_waits (hz : o.frozen = false) (ht : s.tapTurn t o = false) : s.arrayOp t i op = s := by
  simp only [State.arrayOp, hh, hf, hz, ht, Bool.false_eq_true, if_false, if_true]

theorem arrayOp_runs {fm fs : Format} (hz : o.frozen = false) (ht : s.tapTurn t o = true) (hm : s.format o.format = some fm)
    (hs : s.format o.statFormat = some fs) : s.arrayOp t i op = s.runArray t i o fm fs := by
  simp only [State.arrayOp, hh, hf, hz, ht, hm, hs, Bool.false_eq_true, Bool.true_eq_false, if_false]

end

/-! ## TURN (R196) -/

theorem execTurn_turns {s : State} {t : Fin 384} {i : Fin 64} {o : Op} (hh : s.held t.val i.val [4] 1 = some o)
    (hf : o.turnFault = none) :
    execTurn t i s = .next (((List.range (o.field 18 2)).foldl (fun u c => u.padPut t.val (o.field 12 4 + c * o.field 28 4)
      (packRow (turnBits (o.field 20 1)) ((List.range (o.field 16 2)).map (fun r =>
        s.elemRaw t.val (turnBits (o.field 20 1)) (o.field 8 4 + r * o.field 24 4) c)))) s).actedWith t.val i.val 0) := by
  simp only [execTurn, hh, hf]

/-- Settles O32: the array instructions do `arrayOp`, with one lemma above for each branch of it, and TURN is `execTurn_turns`. -/
theorem arrayOperationsComplete : Obligations.ArrayOperationsComplete := by
  refine ⟨fun x hx s t i o hh => ?array, fun _ _ _ _ hh hf => execTurn_turns hh hf⟩
  rw [exec_arrayInstr hx]
  refine ⟨?runs, ?frozen, ?waits, ?faults⟩
  case runs => exact fun _ _ hf hz ht hm hs => congrArg Host.Outcome.next (arrayOp_runs hh hf hz ht hm hs)
  case frozen => exact fun hf hz => congrArg Host.Outcome.next (arrayOp_frozen hh hf hz)
  case waits => exact fun hf hz ht => congrArg Host.Outcome.next (arrayOp_waits hh hf hz ht)
  case faults => exact fun _ hf => congrArg Host.Outcome.next (arrayOp_faults hh hf)

/-- Settles O57: a FROZEN operation that passes its checks is marked as done, which changes its tile's queue alone; one that fails a check
is a descriptor fault all the same. -/
theorem frozenOperationsHaveNoEffect : Obligations.FrozenOperationsHaveNoEffect := by
  intro x hx s t i o hh hz
  rw [exec_arrayInstr hx]
  refine ⟨fun hf => ⟨?marked, rfl, rfl, fun _ => rfl⟩, fun _ hf => congrArg Host.Outcome.next (arrayOp_faults hh hf)⟩
  exact congrArg Host.Outcome.next ((arrayOp_frozen hh hf hz).trans (actedWith_of_op 0 (op_of_held hh)))

end Sys2Proof.Laws
end

section
/-!
# The vector operations

The element-wise instructions do one shared operation (`exec_plainVecInstr`), COPY and AMAX_MERGE the same with effects of their own. A held
descriptor faults, waits for its tap's turn or runs (`vecOp_ok`, of the operations' frames, beside the two lemmas below).
-/
namespace Sys2Proof.Laws
open Sys2Proof.Machine

/-! ## Table VEC-3 and the shared operation (R221, R232 to R241) -/

/-- The vector instructions without effects of their own, each with its OP (Table VEC-3). -/
def plainVecInstrs : List ((Fin 384 → Fin 64 → Instr) × Nat) :=
  [(Instr.vecAdd, 0x02), (Instr.vecSub, 0x03), (Instr.vecMul, 0x04), (Instr.vecFma, 0x05), (Instr.vecMul3, 0x06), (Instr.vecDiv, 0x07),
   (Instr.vecMax, 0x08), (Instr.vecMin, 0x09), (Instr.vecAbs, 0x0A), (Instr.vecCmp, 0x0B), (Instr.vecSelect, 0x0C), (Instr.vecSqrt, 0x10),
   (Instr.vecRsqrt, 0x11), (Instr.vecRecip, 0x12), (Instr.vecExp, 0x13), (Instr.vecLog, 0x14), (Instr.vecTanh, 0x15),
   (Instr.vecSigmoid, 0x16), (Instr.vecSilu, 0x17), (Instr.vecGelu, 0x18), (Instr.vecSin, 0x19), (Instr.vecCos, 0x1A)]

theorem exec_plainVecInstr {x : (Fin 384 → Fin 64 → Instr) × Nat} (hx : x ∈ plainVecInstrs) (t : Fin 384) (i : Fin 64) (s : State) :
    exec (x.1 t i) s = .next (s.vecPlain t.val i.val x.2) := by
  unfold plainVecInstrs at hx
  fin_cases hx <;> rfl

section
variable {s : State} {t i op : Nat} {o : Op} {run : Op → Except Nat State} (hh : s.held t i [5] op = some o)
include hh

theorem vecOp_faults {st : Nat} (hf : s.vecFault o = some st) : s.vecOp t i op run = s.opFault t i st := by
  simp only [State.vecOp, hh, hf]

theorem vecOp_waits (hf : s.vecFault o = none) (ht : s.tapTurn t o = false) : s.vecOp t i op run = s := by
  simp only [State.vecOp, hh, hf, ht, if_true]

end

/-! ## Records (R237, R251) -/

section
variable {s : State} {o : Op}

/-- An operation with an output writes its rows of records to D, counts what they raised, and counts its beats. -/
theorem recWrite_of_output (t : Nat) (rec : Nat → Nat → Nat) (hn : o.noOut = false) :
    s.recWrite t o rec = ((List.range o.rows).foldl (fun u r =>
      (u.padPut t ((o.stream 3).addr + r * (o.stream 3).stride)
        (((List.range o.cols).map fun c => writeRec (rec r c)).flatMap fun w => leBytes 8 w.1)).vecCount t o
        (((List.range o.cols).map fun c => writeRec (rec r c)).map (·.2))) s).vecBeats t o 1 none := by
  simp only [State.recWrite, hn, Bool.false_eq_true, if_false]

variable {t : Fin 384} {i : Fin 64} (hf : s.vecFault o = none) (ht : s.tapTurn t.val o = true)
include hf ht

theorem execVecCopy_numbers (hh : s.held t.val i.val [5] 1 = some o) (ha : (o.stream 0).ty ≠ 4) :
    execVecCopy t i s = .next (((s.vecWrite t.val o (s.vecCells t.val o)).vecBeats t.val o 1 none).actedWith t.val i.val 0) :=
  congrArg Host.Outcome.next (vecOp_ok hh hf ht (if_neg ha))

theorem execVecCopy_records (hh : s.held t.val i.val [5] 1 = some o) (ha : (o.stream 0).ty = 4) :
    execVecCopy t i s = .next ((s.recWrite t.val o fun r c => s.padNum t.val ((o.stream 0).at r c) 8).actedWith t.val i.val 0) :=
  congrArg Host.Outcome.next (vecOp_ok hh hf ht (if_pos ha))

theorem execAmaxMerge_merges (hh : s.held t.val i.val [5] 0x24 = some o) :
    execAmaxMerge t i s = .next ((s.recWrite t.val o fun r c =>
      mergeRec (s.padNum t.val ((o.stream 0).at r c) 8) (s.padNum t.val ((o.stream 1).at r c) 8)).actedWith t.val i.val 0) :=
  congrArg Host.Outcome.next (vecOp_ok hh hf ht rfl)

end

/-- Settles O33: the element-wise instructions do `vecPlain`, by one lemma for each branch of the shared operation; COPY and AMAX_MERGE by
theirs, with the rows of records of `recWrite_of_output`; a written record is `writeRec` itself. -/
theorem vectorOperationsComplete : Obligations.VectorOperationsComplete := by
  refine ⟨?plain, ?copyNumbers, ?copyRecords, ?merge, fun _ => rfl⟩
  case plain =>
    intro x hx s t i o hh
    rw [exec_plainVecInstr hx]
    refine ⟨fun hf ht => ?_, fun hf ht => ?_, fun st hf => ?_⟩
    · exact congrArg Host.Outcome.next (vecOp_ok hh hf ht rfl)
    · exact congrArg Host.Outcome.next (vecOp_waits hh hf ht)
    · exact congrArg Host.Outcome.next (vecOp_faults hh hf)
  case copyNumbers => exact fun _ _ _ _ hh hf ht ha => execVecCopy_numbers hf ht hh ha
  case copyRecords =>
    intro s t i o hh hf ht ha hn
    have copied := execVecCopy_records hf ht hh ha
    rwa [recWrite_of_output _ _ hn] at copied
  case merge =>
    intro s t i o hh hf ht hn
    have merged := execAmaxMerge_merges hf ht hh
    rwa [recWrite_of_output _ _ hn] at merged

end Sys2Proof.Laws
end

section
/-!
# The operations of the page walker

The six operations do one shared operation: a held descriptor that passes its checks ends as its run says (`walkOp_done`). Each lemma below
takes an operation to the branch of its run that the hypotheses select.
-/
namespace Sys2Proof.Laws
open Sys2Proof.Machine

/-! ## What the operations share (R264, R276) -/

section
variable {s u : State}

theorem walkOp_done {t i op d st : Nat} {o : Op} {named : List (Nat × Nat)} {extra : Op → Bool} {run : Op → Nat → Walk}
    (hh : s.held t i [8] op = some o) (hd : s.domOf t = some d) (on : s.fld KVP_STATUS_STATE ≠ 0) (hr : o.reservedOk named = true)
    (hx : extra o = true) (hu : run o d = .done u st) : s.walkOp t i op named extra run = u.actedWith t i st := by
  simp only [State.walkOp, hh, hd, on, hr, hx, hu, Bool.and_self, Bool.not_true, Bool.false_eq_true, if_false]

/-- No page is waited for when none of them is in transit. -/
theorem any_moving_eq_false {vs : List Nat} (still : ∀ v ∈ vs, (s.pte v).tier ≠ 3) :
    vs.any (fun v => (s.pte v).valid && (s.pte v).tier == 3) = false := by
  rw [List.any_eq_false]
  intro v hv
  simp [still v hv]

end

/-! ## An APPEND leaves its domain's slot

The slot that ADVANCE compares is read after the rows are written. Allocating a page changes registers of the page engine alone (R269). -/

section
variable {r : Nat} {z s : State}

theorem regKept_of_memoryOnly {t : State} (h : RegKept r z s) (m : MemoryOnly s t) : RegKept r z t := regKept_of h m.regs

theorem memoryOnly_copyPage {p src dst : Nat} (h : MemoryOnly z s) : MemoryOnly z (s.copyPage p src dst) :=
  memoryOnly_devWrite _ _ (memoryOnly_countHbm _ _ h)

theorem memoryOnly_appendToken {t p : Nat} {o : Op} {q : Machine.Seq} {stream pos k : Nat} (h : MemoryOnly z s) :
    MemoryOnly z (s.appendToken t p o q stream pos k) :=
  memoryOnly_foldl _ _ _ h fun _ _ k => memoryOnly_tagHbm _ _ _ (memoryOnly_devWrite _ _ k)

theorem memoryOnly_setOp {t i : Nat} {o : Op} (h : MemoryOnly z s) : MemoryOnly z (s.setOp t i o) := memoryOnly_of h rfl

theorem memoryOnly_appendRaces {t i d : Nat} {o : Op} (h : MemoryOnly z s) : MemoryOnly z (s.appendRaces t i d o) := by
  have noted (u : State) (t i : Nat) (rs : List (Nat × Nat)) (k : MemoryOnly z u) :
      MemoryOnly z (match u.op t i with | some p => u.setOp t i { p with races := p.races ++ rs } | none => u) := by
    split
    · exact memoryOnly_setOp k
    · exact k
  exact memoryOnly_foldl _ _ _ h fun u x k =>
    memoryOnly_foldl _ _ _ (noted _ _ _ _ (noted _ _ _ _ k)) fun _ _ l => memoryOnly_openAt _ _ l

theorem regKept_devWrite {a : Nat} {bs : Bytes} (h : RegKept r z s) : RegKept r z (s.devWrite a bs) := regKept_of h (devWrite_regs s a bs)

theorem regKept_changePte {v : Nat} {e : Pte} (h : RegKept r z s) : RegKept r z (s.changePte v e) := regKept_of h (devWrite_regs s _ _)

theorem regKept_used (h : RegKept r z s) : RegKept r z s.used := regKept_of h rfl

theorem regKept_kvp (k : Kvp) (h : RegKept r z s) : RegKept r z { s with kvp := k } := regKept_of h rfl

theorem regKept_touch {v : Nat} (h : RegKept r z s) : RegKept r z (s.touch v) := regKept_ite (regKept_changePte h) h

theorem regKept_putBlock {f : Nat} {b : Block} (h : RegKept r z s) : RegKept r z (s.putBlock f b) := regKept_of h rfl

theorem regKept_takeSlot {p f j : Nat} (h : RegKept r z s) : RegKept r z (s.takeSlot p f j) := regKept_putBlock h

theorem regKept_unreserve {f : Nat} (h : RegKept r z s) : RegKept r z (s.unreserve f) := by
  unfold State.unreserve
  dsimp only
  split
  · exact h
  · exact regKept_putBlock (regKept_changePte h)

theorem regKept_freePage {tier f : Nat} (h : RegKept r z s) : RegKept r z (s.freePage tier f) :=
  regKept_ite (regKept_of h rfl) (regKept_ite (regKept_of h rfl) (regKept_of h rfl))

variable {d : Nat}

theorem slot_ne_status (d : Nat) : CTL_DOM_SLOT d ≠ KVP_STATUS := by
  unfold CTL_DOM_SLOT KVP_STATUS
  omega

theorem slot_ne_poolState (d p : Nat) : CTL_DOM_SLOT d ≠ KVP_POOL_STATE p := by
  unfold CTL_DOM_SLOT KVP_POOL_STATE
  omega

theorem slotKept_allocate {p v : Nat} (h : RegKept (CTL_DOM_SLOT d) z s) :
    ∀ x ∈ s.allocate p v, RegKept (CTL_DOM_SLOT d) z x.2 := by
  unfold State.allocate
  extract_lets j u loose steal rest
  have hloose (t : State) (k : RegKept (CTL_DOM_SLOT d) z t) : ∀ x ∈ loose t, RegKept (CTL_DOM_SLOT d) z x.2 := by
    unfold loose
    split
    · rintro _ ⟨⟩
      exact regKept_takeSlot (regKept_used k)
    · rintro _ ⟨⟩
  have hsteal : ∀ x ∈ steal, RegKept (CTL_DOM_SLOT d) z x.2 := by
    unfold steal
    split
    · exact hloose _ (regKept_addFld _ _ (slot_ne_poolState d p) (regKept_unreserve h))
    · rintro _ ⟨⟩
  have hrest : ∀ x ∈ rest, RegKept (CTL_DOM_SLOT d) z x.2 := by
    unfold rest
    split
    · next e =>
      rintro _ ⟨⟩
      exact hloose s h _ e
    · split
      · rintro _ ⟨⟩
        exact regKept_takeSlot (regKept_used h)
      · exact hsteal
  split
  · split
    · exact hrest
    · rintro _ ⟨⟩
      exact regKept_takeSlot h
  · split
    · exact hrest
    · split
      · exact hrest
      · rintro _ ⟨⟩
        exact regKept_putBlock (regKept_kvp _ (regKept_changePte (regKept_used h)))

theorem slotKept_lowerRefs {v : Nat} (h : RegKept (CTL_DOM_SLOT d) z s) : RegKept (CTL_DOM_SLOT d) z (s.lowerRefs v) := by
  have unheld (t : State) (k : RegKept (CTL_DOM_SLOT d) z t) : RegKept (CTL_DOM_SLOT d) z (t.unheld v) := by
    unfold State.unheld
    split
    · exact k
    · exact regKept_ite (regKept_setFld _ _ (slot_ne_status d) (regKept_devWrite k)) (regKept_devWrite k)
  exact regKept_ite (unheld _ (regKept_freePage (regKept_changePte h))) (regKept_changePte h)

theorem slotKept_writable {p v : Nat} (h : RegKept (CTL_DOM_SLOT d) z s) : ∀ t ∈ s.writable p v, RegKept (CTL_DOM_SLOT d) z t := by
  unfold State.writable
  dsimp only
  split
  · rintro _ ⟨⟩
    exact h
  · split
    · rintro _ ⟨⟩
    · next f u e =>
      have found : RegKept (CTL_DOM_SLOT d) z u := slotKept_allocate h (f, u) e
      split <;> rintro _ ⟨⟩
      · exact slotKept_lowerRefs (regKept_changePte (regKept_of_memoryOnly found (memoryOnly_copyPage (memoryOnly_refl u))))
      · exact regKept_ite (regKept_devWrite (regKept_changePte found)) (regKept_changePte found)

theorem slotKept_writableAll {p : Nat} (vs : List Nat) (h : RegKept (CTL_DOM_SLOT d) z s) :
    RegKept (CTL_DOM_SLOT d) z (s.writableAll p vs).1 := by
  induction vs generalizing s with
  | nil => exact h
  | cons v vs ih =>
    unfold State.writableAll
    split
    · next e => exact ih (slotKept_writable h _ e)
    · exact h

end

section
variable {s : State} {t : Fin 384} {i : Fin 64} {o : Op} {d : Nat} (hd : s.domOf t.val = some d) (on : s.fld KVP_STATUS_STATE ≠ 0)
include hd on

/-! ## GATHER (R265, R266) -/

theorem execGather_reads (hh : s.held t.val i.val [8] 1 = some o) (hr : o.reservedOk [(8, 33)] = true) (hf : o.field 40 1 < 8)
    {g : Gather} {q : Machine.Seq} (hg : o.gather = g) (hq : s.seq g.seq = q) (own : s.owns d g.seq = true) (stream : g.stream < q.streams)
    (atLeast : 1 ≤ g.count) (atMost : g.count ≤ 8192) (fits : g.t0 + g.count ≤ q.maxRuns * 256)
    (place : g.placeOk (s.poolD q.pool * s.poolElem q.pool) (s.poolFp8 q.pool) = true) (still : ∀ v ∈ q.walkPages g, (s.pte v).tier ≠ 3) :
    execGather t i [] s = .next ((s.runGather t.val i.val q g).1.actedWith t.val i.val (s.runGather t.val i.val q g).2) := by
  subst hg hq
  refine congrArg Host.Outcome.next (walkOp_done hh hd on hr (decide_eq_true hf) ?_)
  dsimp only [findErrors_nil]
  refine (if_neg ?valid).trans ((if_neg ?sound).trans (if_neg ?moving))
  case valid => simp [own, stream]
  case sound =>
    simp only [place, Bool.true_eq_false, or_false]
    omega
  case moving => simp [any_moving_eq_false still]

/-! ## APPEND (R268 to R271) -/

theorem execAppend_writes (hh : s.held t.val i.val [8] 2 = some o) (hr : o.reservedOk [(8, 11), (20, 20)] = true) (hf : o.field 18 1 < 2)
    {q : Machine.Seq} {start pos : Nat} {vs : List Nat} (hq : s.seq (o.field 8 2) = q) (hs : s.appendStart d o = start)
    (hp : s.appendPos d o = pos) (hv : s.appendPages d o = vs) (own : s.owns d (o.field 8 2) = true) (stream : o.field 10 2 < q.streams)
    (place : s.appendPlaceOk o q.pool = true) (reached : pos ≤ start) (fits : pos + o.field 16 2 ≤ q.maxRuns * 256)
    (still : ∀ v ∈ vs, (s.pte v).tier ≠ 3) (unshared : ∀ v ∈ vs, (s.pte v).cow = false) (room : (s.writableAll q.pool vs).2 = true) :
    let u := (List.range (o.field 16 2)).foldl (fun w k => w.appendToken t.val q.pool o q (o.field 10 2) pos k)
      (s.writableAll q.pool vs).1
    let v := (vs.foldl (fun w p => w.touch p) u).appendRaces t.val i.val d o
    execAppend t i [] s = .next
      ((if bitOf (o.field 18 1) 0 then v.putSeq (o.field 8 2) (q.advance (s.slot d) (pos + o.field 16 2)) else v).actedWith t.val i.val 0) := by
  intro u v
  have sound : s.appendFault d o = none := by
    simp only [State.appendFault, hq, hs, hp, own, place, Nat.not_le.mpr stream, Nat.not_lt.mpr reached, Nat.not_lt.mpr fits, Bool.not_true,
      decide_false, Bool.or_self, Bool.false_eq_true, Bool.true_eq_false, or_self, if_false]
  have moving : s.appendMoving d o = false := any_moving_eq_false (hv.symm ▸ still)
  have shared : s.appendShared d o = false := by
    rw [State.appendShared, hv, List.any_eq_false]
    intro x hx
    simp [unshared x hx]
  have slot : v.slot d = s.slot d := by
    have written : RegKept (CTL_DOM_SLOT d) s u := regKept_foldl _ _ _ (slotKept_writableAll vs (regKept_refl s)) fun w k h =>
      regKept_of_memoryOnly h (memoryOnly_appendToken (memoryOnly_refl w))
    have touched := regKept_foldl (fun w p => w.touch p) vs _ written fun _ _ h => regKept_touch h
    exact congrArg BitVec.toNat (regKept_of_memoryOnly touched (memoryOnly_appendRaces (memoryOnly_refl _))).eq
  refine congrArg Host.Outcome.next (walkOp_done hh hd on hr (decide_eq_true hf) ?_)
  simp only [findErrors_nil, sound, moving, shared, hq, hp, hv, room, Bool.false_eq_true, Bool.true_eq_false, if_false]
  rw [← slot]

/-! ## Sequences (R258 to R261, R272 to R274) -/

/-- What SEQ_OPEN asks of its fields (R258, R260). -/
structure OpenFields (s : State) (base streams pool maxTok : Nat) : Prop where
  aligned : base % 16 = 0
  someStreams : 1 ≤ streams
  fewStreams : streams ≤ 4096
  poolNumber : pool < 8
  poolEntry : (s.poolEntry pool).isSome = true
  wholeRuns : maxTok % 256 = 0
  someTokens : 256 ≤ maxTok
  fewTokens : maxTok ≤ 1048576
  inTable : base + streams * (maxTok / 16) ≤ 4194304

theorem execSeqOpen_opens (hh : s.held t.val i.val [8] 3 = some o) (hr : o.reservedOk [(8, 2), (12, 7), (20, 4)] = true)
    {base streams pool maxTok : Nat} (hb : o.field 12 4 = base) (hs : o.field 16 2 = streams) (hp : o.field 18 1 = pool)
    (hm : o.field 20 4 = maxTok) (fields : OpenFields s base streams pool maxTok) (closed : (s.seq (o.field 8 2)).state = 0)
    (clear : ∀ j, j < 65536 → (s.seq j).state = 0 ∨ (s.seq j).base + (s.seq j).entries ≤ base ∨
      base + streams * (maxTok / 16) ≤ (s.seq j).base) :
    execSeqOpen t i [] s = .next (((s.putSeq (o.field 8 2)
      { base := base, streams := streams, pool := pool, state := 1, domain := d, maxRuns := maxTok / 256, slot := s.slot d }).addFld
        KVP_STATUS_OPEN_SEQS 1).actedWith t.val i.val 0) := by
  subst hb hs hp hm
  obtain ⟨aligned, someStreams, fewStreams, poolNumber, poolEntry, wholeRuns, someTokens, fewTokens, inTable⟩ := fields
  refine congrArg Host.Outcome.next (walkOp_done hh hd on hr rfl ?_)
  refine (if_neg ?fields).trans ((if_neg ?repeated).trans ((if_neg ?overlap).trans (if_neg (not_not.mpr closed))))
  case fields =>
    have pool : (s.poolEntry (o.field 18 1)).isNone = false := Option.isNone_eq_false_iff.mpr poolEntry
    simp only [findErrors_nil, pool, Bool.false_eq_true, false_or]
    omega
  case repeated => exact fun same => absurd (closed.symm.trans same.1) (by decide)
  case overlap =>
    rw [Bool.not_eq_true, List.any_eq_false]
    intro j hj
    have runs : o.field 20 4 / 256 * 16 = o.field 20 4 / 16 := by omega
    rcases clear j (List.mem_range.mp hj) with h | h | h
    · simp [findErrors_nil, h]
    all_goals
      simp only [findErrors_nil, Seq.entries, Seq.pMax, runs, Bool.and_eq_true, decide_eq_true_eq] at h ⊢
      omega

theorem execFork_shares (hh : s.held t.val i.val [8] 4 = some o) (hr : o.reservedOk [(8, 8)] = true) {q r : Machine.Seq} {pre : Nat}
    (hq : s.seq (o.field 8 2) = q) (hs : s.seq (o.field 10 2) = r) (hp : o.field 12 4 = pre)
    (ownSource : s.owns d (o.field 8 2) = true) (ownDest : s.owns d (o.field 10 2) = true) (two : o.field 8 2 ≠ o.field 10 2)
    (pool : q.pool = r.pool) (streams : q.streams = r.streams) (empty : r.length = 0) (pos : pre ≠ 0) (fits : pre ≤ r.maxRuns * 256)
    (filled : pre ≤ q.length) {pages : List (Nat × Nat × Bool)}
    (hpages : (List.range q.streams).flatMap (fun st => (List.range ((pre + 15) / 16)).map (fun n =>
      (q.vpn st n, r.vpn st n, decide (16 * n + 16 ≤ pre) && !(o.met.contains (q.vpn st n))))) = pages)
    (still : ∀ x ∈ pages, (s.pte x.1).tier ≠ 3 ∧ (s.pte x.2.1).tier ≠ 3) (room : (s.forkAll q.pool pages).2 = true) :
    execFork t i [] s = .next (((s.forkAll q.pool pages).1.putSeq (o.field 10 2)
      { r with length := pre, l0 := pre, bucket := bucketOf pre, slot := s.slot d }).actedWith t.val i.val 0) := by
  subst hq hs hp hpages
  refine congrArg Host.Outcome.next (walkOp_done hh hd on hr rfl ?_)
  refine (if_neg ?dest).trans ((if_neg ?repeated).trans ((if_neg ?source).trans ((if_neg ?position).trans ((if_neg ?moving).trans
    (if_neg ?full)))))
  case dest => simp [findErrors_nil, ownDest, two]
  case repeated => exact fun ⟨_, _, le⟩ => pos (Nat.le_zero.mp (le.trans_eq empty))
  case source => simp [findErrors_nil, ownSource, pool, streams]
  case position =>
    simp only [findErrors_nil]
    omega
  case moving =>
    rw [Bool.not_eq_true, List.any_eq_false]
    intro x hx
    obtain ⟨source, dest⟩ := still x hx
    simp [findErrors_nil, source, dest]
  case full => exact fun full => absurd (room.symm.trans full) (by decide)

theorem execSeqClose_closes (hh : s.held t.val i.val [8] 5 = some o) (hr : o.reservedOk [(8, 2)] = true) {q : Machine.Seq}
    (hq : s.seq (o.field 8 2) = q) (own : s.owns d (o.field 8 2) = true) (opened : q.state = 1)
    (still : ∀ v ∈ fromTo q.base q.entries, (s.pte v).tier ≠ 3) :
    let r := (fromTo q.base q.entries).foldl (fun (x : State × Nat) v =>
      ((x.1.release v).1, x.2 + if (x.1.release v).2 then 1 else 0)) (s, 0)
    let u := r.1.putSeq (o.field 8 2) { q with state := if r.2 = 0 then 0 else 2, held := r.2, slot := s.slot d }
    execSeqClose t i [] s = .next ((if r.2 = 0 then u.subFld KVP_STATUS_OPEN_SEQS 1 else u).actedWith t.val i.val 0) := by
  subst hq
  refine congrArg Host.Outcome.next (walkOp_done hh hd on hr rfl ?_)
  exact (if_neg fun again => again.1 opened).trans ((if_neg (by simp [findErrors_nil, own])).trans
    (if_neg (by simp [findErrors_nil, any_moving_eq_false still])))

theorem execKvpList_lists (hh : s.held t.val i.val [8] 6 = some o) (hr : o.reservedOk [(8, 1), (12, 6)] = true)
    (bucket : o.field 8 1 ≤ 12) (aligned : o.field 12 4 % 4 = 0) (fits : o.field 12 4 + 4 + 2 * o.field 16 2 ≤ padEnd) :
    let ids := (List.range 65536).filter (fun j => s.owns d j && (s.seq j).bucket == o.field 8 1)
    execKvpList t i [] s = .next ((s.padPut t.val (o.field 12 4)
      (leBytes 4 ids.length ++ (ids.take (o.field 16 2)).flatMap (leBytes 2))).actedWith t.val i.val 0) :=
  congrArg Host.Outcome.next (walkOp_done hh hd on hr rfl (if_neg (by omega)))

end

/-- Settles O35: one lemma above for each operation; the errors found in what an operation reads come first. -/
theorem walkerOperationsComplete : Obligations.WalkerOperationsComplete := by
  refine ⟨?gather, ?found, ?append, ?seqOpen, ?fork, ?seqClose, ?list⟩
  case gather =>
    exact fun _ _ _ _ _ hh hd on hr hf own stream atLeast atMost fits place still =>
      execGather_reads hd on hh hr hf rfl rfl own stream atLeast atMost fits place still
  case found =>
    intro c hc s t i fs
    simp only [List.mem_cons, List.not_mem_nil, or_false] at hc
    obtain rfl | rfl | rfl | rfl | rfl | rfl := hc <;> rfl
  case append =>
    exact fun _ _ _ _ _ hh hd on hr hf own stream place reached fits still unshared room =>
      execAppend_writes hd on hh hr hf rfl rfl rfl rfl own stream place reached fits still unshared room
  case seqOpen =>
    exact fun _ _ _ _ _ hh hd on hr aligned someStreams fewStreams pool entry wholeRuns someTokens fewTokens inTable closed clear =>
      execSeqOpen_opens hd on hh hr rfl rfl rfl rfl
        ⟨aligned, someStreams, fewStreams, pool, entry, wholeRuns, someTokens, fewTokens, inTable⟩ closed clear
  case fork =>
    exact fun _ _ _ _ _ hh hd on hr ownSource ownDest two pool streams empty pos fits filled still room =>
      execFork_shares hd on hh hr rfl rfl rfl ownSource ownDest two pool streams empty pos fits filled rfl still room
  case seqClose => exact fun _ _ _ _ _ hh hd on hr own opened still => execSeqClose_closes hd on hh hr rfl own opened still
  case list => exact fun _ _ _ _ _ hh hd on hr bucket aligned fits => execKvpList_lists hd on hh hr bucket aligned fits

end Sys2Proof.Laws
end

section
/-!
# The commands of the page engine

The end of a move changes no other move: entries, frames, host space and reservations change and the list of moves stays. ENABLE is its
checks and then what it enables (`execKvpEnable_of_off`).
-/
namespace Sys2Proof.Laws
open Sys2Proof.Machine

/-! ## What leaves the moves in progress -/

section
variable (s : State)

@[simp] theorem changePte_moves (v : Nat) (e : Pte) : (s.changePte v e).kvp.moves = s.kvp.moves :=
  by rw [State.changePte, State.dropLine, State.putPte, devWrite_kvp]

@[simp] theorem copyPage_moves (p src dst : Nat) : (s.copyPage p src dst).kvp.moves = s.kvp.moves := by
  rw [State.copyPage, devWrite_kvp, countHbm_eq]

theorem putBlock_moves (f : Nat) (b : Block) : (s.putBlock f b).kvp.moves = s.kvp.moves := rfl

@[simp] theorem freePage_moves (tier f : Nat) : (s.freePage tier f).kvp.moves = s.kvp.moves := by
  unfold State.freePage State.freeHost
  split
  · rfl
  · split <;> rfl

@[simp] theorem unreserve_moves (f : Nat) : (s.unreserve f).kvp.moves = s.kvp.moves := by
  unfold State.unreserve
  dsimp only
  split
  · rfl
  · rw [putBlock_moves, changePte_moves]

@[simp] theorem endPage_moves (m : PageMove) (x : Nat × Nat × Nat × Nat × Nat) : (s.endPage m x).kvp.moves = s.kvp.moves := by
  simp [State.endPage]

@[simp] theorem endPages_moves (m : PageMove) (xs : List (Nat × Nat × Nat × Nat × Nat)) :
    (xs.foldl (fun w x => w.endPage m x) s).kvp.moves = s.kvp.moves := by
  induction xs generalizing s with
  | nil => rfl
  | cons x xs ih => rw [List.foldl_cons, ih, endPage_moves]

end

/-! ## The ends of moves (R276, R278, R280, R327) -/

/-- The move forgotten, and its pages in their new places. -/
def pagesMoved (s : State) (m : PageMove) (id : Nat) : State :=
  m.pages.foldl (fun w x => w.endPage m x) { s with kvp := { s.kvp with moves := s.kvp.moves.filter (fun x => x.id != id) } }

/-- The reservation of a run given up: its block's, or the mark of a run that has lost its block. -/
def runGivenUp (s : State) (g : Nat) : State :=
  match s.reservedFor g with
  | some (f, _) => s.unreserve f
  | none => s.changePte g { s.pte g with runStart := false }

/-- The block that a run of pool `p` now lies in reserved for it. -/
def runReserved (s : State) (p g : Nat) : State :=
  let f := s.blockOf p (s.pte g).frame
  let r := s.changePte g { s.pte g with runStart := true }
  let a := { r with kvp := { r.kvp with age := r.kvp.age + 1 } }
  a.putBlock f { a.block f with resv := some g, age := a.kvp.age }

section
variable {s : State} {id : Nat} {m : PageMove}

theorem pagesMoved_moves (s : State) (m : PageMove) (id : Nat) :
    (pagesMoved s m id).kvp.moves = s.kvp.moves.filter (fun x => x.id != id) := endPages_moves _ _ _

theorem runGivenUp_moves (s : State) (g : Nat) : (runGivenUp s g).kvp.moves = s.kvp.moves := by
  unfold runGivenUp
  split
  · exact unreserve_moves s _
  · exact changePte_moves s _ _

theorem runReserved_moves (s : State) (p g : Nat) : (runReserved s p g).kvp.moves = s.kvp.moves := by
  simp only [runReserved, putBlock_moves, changePte_moves]

theorem endMove_spilled (hm : s.kvp.moves.find? (fun x => x.id == id && x.spill == true) = some m) (hr : s.revoked 0xD0FF = false) :
    s.endMove id true = (runGivenUp (pagesMoved s m id) m.group).addFld (KVP_POOL_STATS_SPILLED m.pool) m.pages.length := by
  simp only [State.endMove, hm, hr, Bool.false_eq_true, if_false, if_true]
  rfl

theorem endMove_returned (hm : s.kvp.moves.find? (fun x => x.id == id && x.spill == false) = some m) (hr : s.revoked 0xD0FF = false) :
    s.endMove id false = (if m.intact then runReserved (pagesMoved s m id) m.pool m.group else pagesMoved s m id).addFld
      (KVP_POOL_STATS_RETURNED m.pool) m.pages.length := by
  simp only [State.endMove, hm, hr, Bool.false_eq_true, if_false]
  rfl

theorem endMove_unknown (spill : Bool) (h : s.kvp.moves.all (fun x => x.id != id) = true) : s.endMove id spill = s := by
  have none : s.kvp.moves.find? (fun x => x.id == id && x.spill == spill) = none := by
    rw [List.find?_eq_none]
    intro x hx
    have other : x.id ≠ id := bne_iff_ne.mp (List.all_eq_true.mp h x hx)
    simp [other]
  simp only [State.endMove, none]

end

/-! ## Enable and drain (R285) -/

/-- A checked configuration enabled, with nothing of the tables taken over yet. -/
def pagesEnabled (s : State) : State :=
  let u := { s with kvp := { tables := true } }
  ((u.setFld KVP_CTRL_ENABLE 1).setFld KVP_STATUS_STATE 1).setReg KVP_TABLE_BASE (word u.tableBase)

/-- The tables cleared, so that no sequence is open. -/
def tablesCleared (s : State) : State :=
  (match s.hbmMap.regions.find? (fun (r : HbmRegion) => r.base == s.tableBase - hbmBase) with
    | some r => s.clearHead r kvpTables
    | none => s).setFld KVP_STATUS_OPEN_SEQS 0

/-- The entries found in the tables taken over. -/
def tablesAdopted (s : State) : State :=
  let w := (List.range 4194304).foldl State.adoptEntry s
  w.setFld KVP_STATUS_OPEN_SEQS ((List.range 65536).filter (fun i => (w.seq i).state != 0)).length

section
variable {s : State} {init : Bool} (hp : s.phase = .running)
include hp

theorem execKvpEnable_of_off (hs : s.fld KVP_STATUS_STATE = 0) :
    let u := s.setFld KVP_CTRL_INIT (if init then 1 else 0)
    execKvpEnable init [] s = if u.kvpOk = false then .next (u.setFld KVP_STATUS_LAST_ERROR 0x040A)
      else .next (if init then tablesCleared (pagesEnabled u) else tablesAdopted (pagesEnabled u)) := by
  have off : (s.setFld KVP_CTRL_INIT (if init then 1 else 0)).fld KVP_STATUS_STATE = 0 :=
    (fld_setFld_of_apart s _ (by decide)).trans hs
  exact (if_neg (not_not.mpr hp)).trans (if_neg (not_not.mpr off))

theorem execKvpDisable_of_on (hs : s.fld KVP_STATUS_STATE = 1) :
    execKvpDisable s = .next ((s.setFld KVP_STATUS_STATE 2).setFld KVP_CTRL_ENABLE 0) :=
  if_neg (by simp [hp, hs])

end

/-- Settles O36: the end of a move by what it does to the run and what leaves the moves alone; the others each by its lemma above. -/
theorem pageEngineCommandsComplete : Obligations.PageEngineCommandsComplete := by
  refine ⟨⟨?spill, ?returned, fun _ _ _ => ⟨rfl, rfl⟩, ?unknown⟩, ?init, ?adopt, fun _ _ _ => rfl, ?refused, ?disable, ?drained, ?draining⟩
  case spill =>
    exact fun s id m hm hr => ⟨congrArg Host.Outcome.next (endMove_spilled hm hr), (runGivenUp_moves _ _).trans (pagesMoved_moves s m id)⟩
  case returned =>
    intro s id m hm hr
    refine ⟨congrArg Host.Outcome.next (endMove_returned hm hr), ?_⟩
    rw [addFld_kvp]
    split
    · exact (runReserved_moves _ _ _).trans (pagesMoved_moves s m id)
    · exact pagesMoved_moves s m id
  case unknown =>
    exact fun _ _ h => ⟨congrArg Host.Outcome.next (endMove_unknown true h), congrArg Host.Outcome.next (endMove_unknown false h)⟩
  case init => exact fun s hp hs ok => (execKvpEnable_of_off (init := true) hp hs).trans (if_neg (by simp [ok]))
  case adopt => exact fun s hp hs ok => (execKvpEnable_of_off (init := false) hp hs).trans (if_neg (by simp [ok]))
  case refused => exact fun s init hp hs bad => (execKvpEnable_of_off hp hs).trans (if_pos bad)
  case disable => exact fun _ hp hs => execKvpDisable_of_on hp hs
  case drained => exact fun _ hs hw hm => if_pos ⟨hs, hw, hm⟩
  case draining =>
    intro s _ busy
    refine if_neg fun ⟨_, hw, hm⟩ => ?_
    rcases busy with busy | busy
    · exact busy hw
    · exact busy hm

end Sys2Proof.Laws
end

section
/-!
# The HBM decode (R312 to R315, R322)

Every index of the rotation of a stripe leads back to the granule's column; a place gives its channel, slot and byte; and the storage of
regions placed one after another keeps clear.
-/
namespace Sys2Proof.Laws
open Sys2Proof.Machine

/-! ## The decode and its inverse (R314, R322) -/

/-- A rotation of `n` columns by `rot` undone. -/
theorem rotate_undo {n c rot : Nat} (hc : c < n) (hr : rot < n) : ((c + rot) % n + n - rot) % n = c := by
  rcases Nat.lt_or_ge (c + rot) n with h | h
  · rw [Nat.mod_eq_of_lt h, show c + rot + n - rot = c + n by omega, Nat.add_mod_right, Nat.mod_eq_of_lt hc]
  · rw [Nat.mod_eq_sub_mod h, Nat.mod_eq_of_lt (by omega : c + rot - n < n), show c + rot - n + n - rot = c by omega,
      Nat.mod_eq_of_lt hc]

theorem stripeRot_lt {r : HbmRegion} {n : Nat} (key : Nat) (hn : 0 < r.pcs.length) : stripeRot key r n < r.pcs.length := Nat.mod_lt _ hn

/-- The stripes of a region with a granule `g` reach beyond the stripe of `g`. -/
theorem stripe_lt_depth {r : HbmRegion} {g : Nat} (hn : 0 < r.pcs.length) (hg : g < r.size / 256) : g / r.pcs.length < r.depth := by
  rw [HbmRegion.depth, Nat.lt_iff_add_one_le, Nat.le_div_iff_mul_le hn, Nat.add_mul, Nat.one_mul]
  have := Nat.div_mul_le_self g r.pcs.length
  omega

/-- The channel in which stripe `g / n` keeps granule `g` of a region. -/
def granuleColumn (m : HbmMap) (r : HbmRegion) (g : Nat) : Nat :=
  (g % r.pcs.length + stripeRot m.key r (g / r.pcs.length)) % r.pcs.length

/-- The slot, within its channel, of granule `g` of a region. -/
def granuleSlot (r : HbmRegion) (pc g : Nat) : Nat := r.bases.getD (pc / 256) 0 + g / r.pcs.length

/-- A place found: the region that holds the address, the granule within it and its channel. -/
theorem place_eq_some {m : HbmMap} {a k : Nat} (hs : m.sound) (h : m.place a = some k) : ∃ r ∈ m.regions, ∃ g pc b,
    b < 256 ∧ a = r.base + g * 256 + b ∧ g < r.size / 256 ∧ r.pcs[granuleColumn m r g]? = some pc ∧
    k = pc * pcBytes + granuleSlot r pc g * 256 + b := by
  unfold HbmMap.place at h
  split at h
  · cases h
  · next r hr =>
    have mem := List.mem_of_find?_eq_some hr
    have holds := List.find?_some hr
    simp only [HbmRegion.holds, decide_eq_true_eq] at holds
    obtain ⟨some_pc, _, whole, _⟩ := hs.1 r mem
    have hn := List.length_pos_of_ne_nil some_pc
    have hc : granuleColumn m r ((a - r.base) / 256) < r.pcs.length := Nat.mod_lt _ hn
    refine ⟨r, mem, (a - r.base) / 256, r.pcs[granuleColumn m r ((a - r.base) / 256)], (a - r.base) % 256,
      Nat.mod_lt _ (by decide), by omega, by omega, List.getElem?_eq_getElem hc, ?_⟩
    rw [← Option.some.inj h, ← List.getD_eq_getElem _ 0 hc]
    rfl

/-- The region that keeps a slot of a channel is the only one. -/
theorem region_of_slot {m : HbmMap} {r : HbmRegion} {pc slot : Nat} (hs : m.sound) (hr : r ∈ m.regions) (hpc : pc ∈ r.pcs)
    (lo : r.bases.getD (pc / 256) 0 ≤ slot) (hi : slot < r.bases.getD (pc / 256) 0 + r.depth) :
    m.regions.find? (fun r => r.pcs.contains pc &&
      decide (r.bases.getD (pc / 256) 0 ≤ slot ∧ slot < r.bases.getD (pc / 256) 0 + r.depth)) = some r := by
  rcases hf : m.regions.find? _ with _ | q
  · have := List.find?_eq_none.mp hf r hr
    simp only [List.contains_iff_mem.mpr hpc, Bool.true_and, decide_eq_true_eq] at this
    exact absurd ⟨lo, hi⟩ this
  · have hq := List.find?_some hf
    simp only [Bool.and_eq_true, List.contains_iff_mem, decide_eq_true_eq] at hq
    by_cases e : r = q
    · rw [e]
    · have := hs.2 r hr q (List.mem_of_find?_eq_some hf) e pc hpc hq.1
      omega

/-- The channel, slot and byte of a place, read back from it. -/
theorem place_parts {pc slot b : Nat} (hslot : slot < pcGranules) (hb : b < 256) :
    (pc * pcBytes + slot * 256 + b) / pcBytes = pc ∧ (pc * pcBytes + slot * 256 + b) % pcBytes / 256 = slot ∧
      (pc * pcBytes + slot * 256 + b) % 256 = b := by
  simp only [pcBytes, pcGranules] at *
  omega

/-- The inverse of R322 at the place of a granule. -/
theorem unplace_granule {m : HbmMap} {r : HbmRegion} {g pc b : Nat} (hs : m.sound) (hr : r ∈ m.regions) (hg : g < r.size / 256)
    (hpc : r.pcs[granuleColumn m r g]? = some pc) (hb : b < 256) :
    m.unplace (pc * pcBytes + granuleSlot r pc g * 256 + b) = some (r.base + g * 256 + b) ∧
      pc * pcBytes + granuleSlot r pc g * 256 + b < 1024 * pcBytes := by
  obtain ⟨some_pc, nodup, _, room⟩ := hs.1 r hr
  have hn := List.length_pos_of_ne_nil some_pc
  have mem := List.mem_of_getElem? hpc
  obtain ⟨pc_lt, fit⟩ := room pc mem
  have deep := stripe_lt_depth hn hg
  have hslot : granuleSlot r pc g < pcGranules := by unfold granuleSlot; omega
  obtain ⟨e1, e2, e3⟩ := place_parts (pc := pc) hslot hb
  have col : r.pcs.idxOf pc = granuleColumn m r g := by
    obtain ⟨hc, e⟩ := List.getElem?_eq_some_iff.mp hpc
    rw [← e, nodup.idxOf_getElem]
  constructor
  · unfold HbmMap.unplace
    simp only [e1, e2, e3]
    rw [region_of_slot (slot := granuleSlot r pc g) hs hr mem (Nat.le_add_right _ _) (Nat.add_lt_add_left deep _)]
    have back : granuleSlot r pc g - r.bases.getD (pc / 256) 0 = g / r.pcs.length := Nat.add_sub_cancel_left _ _
    simp only [back, col, granuleColumn]
    rw [rotate_undo (Nat.mod_lt _ hn) (stripeRot_lt m.key hn), Nat.div_add_mod', if_pos hg]
  · simp only [pcBytes, pcGranules] at *
    omega

theorem unplace_place {m : HbmMap} {a k : Nat} (hs : m.sound) (h : m.place a = some k) :
    m.unplace k = some a ∧ k < 1024 * pcBytes := by
  obtain ⟨r, hr, g, pc, b, hb, rfl, hg, hpc, rfl⟩ := place_eq_some hs h
  exact unplace_granule hs hr hg hpc hb

/-! ## Regions placed one after another (R313) -/

theorem getD_map_range {f : Nat → Nat} {n k : Nat} (hk : k < n) : ((List.range n).map f).getD k 0 = f k := by
  simp [hk]

/-- A region is placed above what its dies' channels hold so far. -/
theorem used_le_placed (rs : List HbmRegion) {used : List Nat} {r : HbmRegion} (hr : r ∈ placeRegions used rs) {k : Nat} (hk : k < 4) :
    used.getD k 0 ≤ r.bases.getD k 0 := by
  induction rs generalizing used with
  | nil => cases hr
  | cons x rs ih =>
    rcases List.mem_cons.mp hr with rfl | hr
    · exact le_refl _
    · have := ih hr
      rw [getD_map_range hk] at this
      omega

theorem placed_pairwise_clear (rs : List HbmRegion) {used : List Nat} (h : ∀ r ∈ placeRegions used rs, r.fits) :
    (placeRegions used rs).Pairwise HbmRegion.clearOf := by
  induction rs generalizing used with
  | nil => exact .nil
  | cons x rs ih =>
    refine List.pairwise_cons.mpr ⟨fun q hq pc hx _ => .inl ?_, ih fun r hr => h r (List.mem_cons_of_mem _ hr)⟩
    obtain ⟨_, _, _, room⟩ := h _ List.mem_cons_self
    have die : pc / 256 < 4 := by
      have := (room pc hx).1
      omega
    have uses : pc / 256 ∈ x.dies := by
      simp only [HbmRegion.dies, List.mem_filter, List.mem_range, List.any_eq_true, beq_iff_eq]
      exact ⟨die, pc, hx, rfl⟩
    have := used_le_placed rs hq die
    rw [getD_map_range die, if_pos (List.contains_iff_mem.mpr uses)] at this
    exact this

theorem clearOf_symm {r q : HbmRegion} (h : r.clearOf q) : q.clearOf r := fun pc hq hr => (h pc hr hq).symm

theorem mapOf_sound (mask key : Nat) (es : List Bytes) (h : ∀ r ∈ (mapOf mask key es).regions, r.fits) : (mapOf mask key es).sound := by
  have symm : Std.Symm HbmRegion.clearOf := ⟨fun _ _ => clearOf_symm⟩
  exact ⟨h, fun r hr q hq ne => (placed_pairwise_clear _ h).forall hr hq ne⟩

/-! ## The decode without a job image (R315) -/

theorem mem_channelsOf {mask pc : Nat} : pc ∈ channelsOf mask ↔ pc < 1024 ∧ pc / 64 ∈ bitsSet mask 16 := by
  simp only [channelsOf, fromTo, List.mem_flatMap, List.mem_map, List.mem_range, bitsSet, List.mem_filter]
  constructor
  · rintro ⟨x, ⟨hx, hb⟩, i, hi, rfl⟩
    have : (64 * x + i) / 64 = x := by omega
    rw [this]
    exact ⟨by omega, hx, hb⟩
  · rintro ⟨_, hx, hb⟩
    exact ⟨pc / 64, ⟨hx, hb⟩, pc % 64, by omega, by omega⟩

theorem channelsOf_nodup (mask : Nat) : (channelsOf mask).Nodup := by
  refine List.nodup_flatMap.mpr ⟨fun x _ => List.nodup_range.map (fun _ _ => Nat.add_left_cancel), ?_⟩
  refine (List.nodup_range.filter _).imp fun {x y} ne pc hx hy => ne ?_
  simp only [fromTo, List.mem_map, List.mem_range] at hx hy
  omega

theorem channelsOf_length (mask : Nat) : (channelsOf mask).length = popcount mask * 64 := by
  simp [channelsOf, fromTo, popcount, List.length_flatMap, List.map_const', List.sum_replicate]

/-- A mask of sixteen stacks that is not zero has a stack. -/
theorem popcount_pos {mask : Nat} (h : mask < 2 ^ 16) (ne : mask ≠ 0) : 0 < popcount mask := by
  obtain ⟨i, hi⟩ := Nat.exists_testBit_of_ne_zero ne
  have lt : i < 16 := by
    by_contra ge
    exact absurd (Nat.testBit_lt_two_pow (h.trans_le (Nat.pow_le_pow_right (by decide) (not_lt.mp ge)))) (by simp [hi])
  refine List.length_pos_of_mem (List.mem_filter.mpr ⟨List.mem_range.mpr lt, ?_⟩)
  rw [Nat.testBit_eq_decide_div_mod_eq, decide_eq_true_eq] at hi
  simp [bitOf, bitsOf, hi]

theorem plainMap_sound {mask : Nat} (h : mask < 2 ^ 16) (ne : mask ≠ 0) : (plainMap mask).sound := by
  have pos := popcount_pos h ne
  refine ⟨?_, fun r hr q hq ne => absurd ((List.mem_singleton.mp hr).trans (List.mem_singleton.mp hq).symm) ne⟩
  intro r hr
  obtain rfl := List.mem_singleton.mp hr
  refine ⟨?_, channelsOf_nodup mask, ?_, fun pc hpc => ⟨(mem_channelsOf.mp hpc).1, ?_⟩⟩
  · exact List.ne_nil_of_length_pos (by rw [channelsOf_length]; omega)
  · dsimp only
    omega
  · have die : pc / 256 < 4 := by
      have := (mem_channelsOf.mp hpc).1
      omega
    have zero : ([0, 0, 0, 0] : List Nat).getD (pc / 256) 0 = 0 := by
      interval_cases pc / 256 <;> rfl
    have full : (popcount mask * 48 * 2 ^ 30 / 256 + popcount mask * 64 - 1) / (popcount mask * 64) ≤ pcGranules := by
      have : popcount mask * 48 * 2 ^ 30 / 256 = popcount mask * 64 * pcGranules := by unfold pcGranules; omega
      rw [this, ← Nat.lt_add_one_iff, Nat.div_lt_iff_lt_mul (by omega), Nat.add_mul, Nat.one_mul, Nat.mul_comm pcGranules]
      omega
    dsimp only [HbmRegion.depth]
    rw [zero, channelsOf_length, Nat.zero_add]
    exact full

/-- Settles O7: a place determines its address by the inverse, regions placed in turn keep clear, and one region alone does. -/
theorem hbmDecodeIsOneToOne : Obligations.HbmDecodeIsOneToOne := by
  refine ⟨fun m hs a k h => ?_, mapOf_sound, fun mask lt ne => plainMap_sound lt ne⟩
  obtain ⟨back, bound⟩ := unplace_place hs h
  exact ⟨back, bound, fun b hb => Option.some.inj ((unplace_place hs hb).1.symm.trans back)⟩

end Sys2Proof.Laws
end

section
/-!
# Delivery in order (R351)

What draining a receiving flow delivers and leaves, by induction on its fuel.
-/
namespace Sys2Proof.Laws
open Sys2Proof.Machine

/-- What draining flow `w` delivers: the frames held from the awaited number on, none of which stays held, up to the first that is not. -/
structure Drained (w : InFlow) (r : InFlow × List Body) : Prop where
  delivered : ∀ i b, r.2[i]? = some b → ((w.next + i) % 2 ^ 32, b) ∈ w.held
  released : ∀ i, i < r.2.length → ∀ h ∈ r.1.held, h.1 ≠ (w.next + i) % 2 ^ 32
  kept : ∀ h ∈ r.1.held, h ∈ w.held
  awaited : r.1.next = (w.next + r.2.length) % 2 ^ 32
  stops : ∀ h ∈ r.1.held, h.1 ≠ r.1.next

/-- The flow once the frame it awaits is delivered. -/
def afterFrame (w : InFlow) : InFlow :=
  { w with next := (w.next + 1) % 2 ^ 32, held := w.held.filter (fun x => x.1 != w.next) }

theorem drain_none {n : Nat} {w : InFlow} (h : w.held.find? (fun h => h.1 == w.next) = none) : InFlow.drain n w = (w, []) := by
  cases n with
  | zero => rfl
  | succ n => simp [InFlow.drain, h]

theorem drain_some {n : Nat} {w : InFlow} {b : Body} (h : w.held.find? (fun h => h.1 == w.next) = some (w.next, b)) :
    InFlow.drain (n + 1) w = ((InFlow.drain n (afterFrame w)).1, b :: (InFlow.drain n (afterFrame w)).2) := by
  simp [InFlow.drain, h, afterFrame]

theorem afterFrame_held_lt {w : InFlow} {b : Body} (h : (w.next, b) ∈ w.held) : (afterFrame w).held.length < w.held.length :=
  List.length_filter_lt_length_iff_exists.mpr ⟨_, h, by simp⟩

theorem drained_nil {w : InFlow} (lt : w.next < 2 ^ 32) (h : w.held.find? (fun h => h.1 == w.next) = none) : Drained w (w, []) where
  delivered := by simp
  released := by simp
  kept _ h := h
  awaited := (Nat.mod_eq_of_lt lt).symm
  stops x hx e := by simpa [e] using List.find?_eq_none.mp h x hx

theorem drained_cons {w : InFlow} {b : Body} {r : InFlow × List Body} (lt : w.next < 2 ^ 32) (h : (w.next, b) ∈ w.held)
    (d : Drained (afterFrame w) r) : Drained w (r.1, b :: r.2) := by
  have shift (i : Nat) : ((afterFrame w).next + i) % 2 ^ 32 = (w.next + (i + 1)) % 2 ^ 32 := by
    simp only [afterFrame]
    omega
  refine ⟨fun i c hc => ?_, fun i hi x hx => ?_, fun x hx => (List.mem_filter.mp (d.kept x hx)).1, ?_, d.stops⟩
  · cases i with
    | zero =>
      obtain rfl : b = c := by simpa using hc
      rwa [Nat.add_zero, Nat.mod_eq_of_lt lt]
    | succ i =>
      have := d.delivered i c (by simpa using hc)
      rw [shift] at this
      exact (List.mem_filter.mp this).1
  · cases i with
    | zero =>
      rw [Nat.add_zero, Nat.mod_eq_of_lt lt]
      simpa using (List.mem_filter.mp (d.kept x hx)).2
    | succ i =>
      have := d.released i (by simpa using hi) x hx
      rwa [shift] at this
  · rw [d.awaited, shift, List.length_cons]

theorem drain_drained (n : Nat) : ∀ w : InFlow, w.next < 2 ^ 32 → w.held.length ≤ n → Drained w (InFlow.drain n w) := by
  induction n with
  | zero =>
    intro w lt len
    exact drained_nil lt (by rw [List.eq_nil_of_length_eq_zero (Nat.le_zero.mp len)]; rfl)
  | succ n ih =>
    intro w lt len
    rcases hf : w.held.find? (fun h => h.1 == w.next) with _ | ⟨k, b⟩
    · rw [drain_none hf]
      exact drained_nil lt hf
    · obtain rfl : k = w.next := by simpa using List.find?_some hf
      have mem := List.mem_of_find?_eq_some hf
      have fewer := afterFrame_held_lt mem
      rw [drain_some hf]
      exact drained_cons lt mem (ih _ (Nat.mod_lt _ (by decide)) (by omega))

/-- Settles O44: the held frames are fuel enough. -/
theorem flowsDeliverInOrder : Obligations.FlowsDeliverInOrder := by
  intro w lt
  have d := drain_drained w.held.length w lt (le_refl _)
  exact ⟨d.delivered, d.released, d.awaited, d.stops⟩

end Sys2Proof.Laws
end

section
/-!
# Scrubbing and arbitration (R320 to R327)
-/
namespace Sys2Proof.Laws
open Sys2Proof.Machine

/-! ## Scrubbing (R320 to R322) -/

/-- Stack `x` once word `w` is read and the position has moved on, inside a pass. -/
def scrubbed (s : State) (x w : Nat) : State := { s with
  scrubAt := smapPut (fun _ => some 0) s.scrubAt x (w + 1)
  hbmSeen := tally s.hbmSeen (64 * x + w / pcWords) 1
  hbmTick := tally s.hbmTick (64 * x + w / pcWords) 1 }

/-- Inside a pass, the read found what it found, and the position has moved on. -/
theorem execHbmScrubRead_inside {s : State} {x : Fin 16} (ecc : Ecc) (syndrome : BitVec 15) (active : s.fld (HBM_STATUS_STATE x.val) = 1)
    (enabled : s.fld (HBM_SCRUB_ENABLE x.val) = 1) (inside : (smapFind s.scrubAt x.val).getD 0 + 1 ≠ 64 * pcWords) :
    let w := (smapFind s.scrubAt x.val).getD 0
    let k := hbmBase + (64 * x.val + w / pcWords) * pcBytes + w % pcWords * 8
    execHbmScrubRead x ecc syndrome s = match ecc with
      | .clean => .next (scrubbed s x.val w)
      | .corrected => .next ((scrubbed s x.val w).scrubFixed x.val k syndrome.toNat)
      | .uncorrectable => .next ((scrubbed s x.val w).wordPoisoned x.val k syndrome.toNat) := by
  have on : ¬ (s.fld (HBM_STATUS_STATE x.val) ≠ 1 ∨ s.fld (HBM_SCRUB_ENABLE x.val) ≠ 1) := by simp [active, enabled]
  have same : decide ((smapFind s.scrubAt x.val).getD 0 + 1 = 64 * pcWords) = false := decide_eq_false inside
  simp only [execHbmScrubRead, if_neg on, same, Bool.false_eq_true, if_false]
  cases ecc <;> rfl

/-! ## Arbitration (R323 to R325) -/

theorem mem_insertAsc {u k : Nat} {l : List Nat} (h : u ∈ insertAsc k l) : u = k ∨ u ∈ l := by
  induction l with
  | nil => exact .inl (List.mem_singleton.mp h)
  | cons j js ih =>
    unfold insertAsc at h
    split at h
    · exact List.mem_cons.mp h
    · split at h
      · exact .inr h
      · rcases List.mem_cons.mp h with rfl | h
        · exact .inr List.mem_cons_self
        · exact (ih h).imp_right (List.mem_cons_of_mem _)

/-- A member of a tier asks. -/
theorem asks_of_mem_tierOf {p : Req → Bool} {asks : List Req} {u : Nat} (h : u ∈ tierOf p asks) : ∃ k ∈ asks, k.unit = u := by
  have fold : ∀ (rs : List Req) (l : List Nat), u ∈ rs.foldl (fun l a => insertAsc a.unit l) l → (∃ k ∈ rs, k.unit = u) ∨ u ∈ l := by
    intro rs
    induction rs with
    | nil => exact fun _ h => .inr h
    | cons r rs ih =>
      intro l h
      rcases ih _ h with ⟨k, hk, e⟩ | h
      · exact .inl ⟨k, List.mem_cons_of_mem _ hk, e⟩
      · rcases mem_insertAsc h with rfl | h
        · exact .inl ⟨r, List.mem_cons_self, rfl⟩
        · exact .inr h
  obtain ⟨k, hk, e⟩ := (fold _ _ h).resolve_right (by simp)
  exact ⟨k, (List.mem_filter.mp hk).1, e⟩

/-- A tier's turn falls to one of its members. -/
theorem mem_of_rrNext {last : Option Nat} {tier : List Nat} {g : Nat} (h : rrNext last tier = some g) : g ∈ tier := by
  cases last with
  | none => exact List.mem_of_head? h
  | some r =>
    rcases hf : tier.find? (fun u => decide (r < u)) with _ | v
    · simp only [rrNext, hf, Option.orElse_none] at h
      exact List.mem_of_head? h
    · simp only [rrNext, hf, Option.orElse_some, Option.some.injEq] at h
      exact h ▸ List.mem_of_find?_eq_some hf

/-- An arbiter grants one of the units that ask: the owner it is parked at, or a member of a tier. -/
theorem decide_grants_asker {x y : Arb} {quota window g : Nat} {asks : List Req} (h : x.decide quota window asks = (some g, y)) :
    ∃ k ∈ asks, k.unit = g := by
  have granted {last : Option Nat} {c : Nat} {z : Arb} {p : Req → Bool} (hr : rrNext last (tierOf p asks) = some c)
      (e : (some c, z) = (some g, y)) : ∃ k ∈ asks, k.unit = g := by
    cases e
    exact asks_of_mem_tierOf (mem_of_rrNext hr)
  rcases ho : x.owner with _ | o <;> simp only [Arb.decide, ho, Bool.false_eq_true, if_false] at h
  case' some =>
    split at h
    · next parked =>
      simp only [Bool.and_eq_true, List.any_eq_true, beq_iff_eq] at parked
      exact Option.some.inj (Prod.mk.inj h).1 ▸ parked.1
  all_goals
    split at h
    · next hr => exact granted hr h
    · split at h
      · next hr => exact granted hr h
      · split at h
        · next hr => exact granted hr h
        · cases h

/-- Settles O40: a scrub read inside a pass, and a decision, each by what it does; the rest by the arm's own equation. -/
theorem scrubAndArbitrationComplete : Obligations.ScrubAndArbitrationComplete := by
  refine ⟨fun s x syn active on inside => execHbmScrubRead_inside .clean syn active on inside, fun s x syn active on inside =>
    ⟨execHbmScrubRead_inside .corrected syn active on inside, execHbmScrubRead_inside .uncorrectable syn active on inside⟩,
    ?decision, ?waits, fun _ _ _ _ _ _ h => decide_grants_asker h, fun _ _ _ => ⟨rfl, rfl⟩, fun _ _ => rfl, fun _ _ _ => rfl, ?watchdog⟩
  case decision =>
    intro s a asks g y live h
    change execArbiterDecision a asks s = _
    unfold execArbiterDecision
    dsimp only
    rw [h]
  case waits => exact fun s a w => ⟨fun hc hb => if_pos ⟨hc, hb⟩, fun hc => if_neg fun h => hc h.1⟩
  case watchdog =>
    intro s a u owned granted outside
    change execArbiterWatchdogExpiry a s = _
    simp only [execArbiterWatchdogExpiry, owned, granted, outside]
    rfl

end Sys2Proof.Laws
end

section
/-!
# Heartbeats, migration, ports and the error ring (R418, R421 to R427)
-/
namespace Sys2Proof.Laws
open Sys2Proof.Machine

/-! ## The spare that takes over (R423, R427) -/

/-- The spare chosen is free, and on the tile's own die whenever that die has one. -/
theorem chooseSpare_free {s : State} {d t x : Nat} (h : s.chooseSpare d t = some x) :
    x ∈ s.freeSpares d ∧ ((∃ y ∈ s.freeSpares d, dieOf y = dieOf t) → dieOf x = dieOf t) := by
  unfold State.chooseSpare at h
  rcases hf : (s.freeSpares d).find? (fun x => dieOf x == dieOf t) with _ | z
  · simp only [hf] at h
    exact ⟨List.mem_of_head? h, fun ⟨y, hy, e⟩ => absurd (List.find?_eq_none.mp hf y hy) (by simp [e])⟩
  · simp only [hf, Option.some.injEq] at h
    subst h
    exact ⟨List.mem_of_find?_eq_some hf, fun _ => by simpa using List.find?_some hf⟩

section
variable {s : State} {d : Fin 64} {old : Nat} {rest : List Nat} (faulted : (s.dom d.val).recovering = old :: rest)
include faulted

theorem execTileRecoveryEnd_filling (h : s.filling = true) :
    execTileRecoveryEnd d s = .next (s.setDom d.val { s.dom d.val with recoverLong := 0x8005 }) := by
  unfold execTileRecoveryEnd
  rw [faulted]
  exact if_pos h

theorem execTileRecoveryEnd_spareless (h : s.filling = false) (none : s.chooseSpare d.val old = none) :
    execTileRecoveryEnd d s = .next (s.stopForSpare d.val) := by
  unfold execTileRecoveryEnd
  rw [faulted]
  dsimp only
  rw [none]
  exact if_neg (by simp [h])

end

/-- The last fault that waited: the spare takes over, and the slot is to be replayed. -/
theorem execTileRecoveryEnd_last {s : State} {d : Fin 64} {old t : Nat} (faulted : (s.dom d.val).recovering = [old])
    (h : s.filling = false) (spare : s.chooseSpare d.val old = some t) :
    let u := (s.setDom d.val { s.dom d.val with recovering := [] }).migrate d.val old t
    execTileRecoveryEnd d s = .next
      ((u.setDom d.val { u.dom d.val with replayDue := decide (u.domState d.val ≠ 3) }).showRecovery d.val) := by
  unfold execTileRecoveryEnd
  rw [faulted]
  dsimp only
  rw [spare]
  exact if_neg (by simp [h])

/-! ## Ports (R421) -/

theorem execD2dPortRetrain_up {s : State} {p : Fin 8} {unit : Nat} (replays : Nat) (retrain : Bool) (h : s.d2dPort p.val = (unit, true)) :
    execD2dPortRetrain p replays retrain s = .next (s.portReplay unit replays retrain) := by
  simp [execD2dPortRetrain, h]

theorem d2dPort_compute {s : State} {p : Nat} (h : p < 4) (up : bitOf s.d2dUp p = true) : s.d2dPort p = (0x8030 + p, true) := by
  rw [State.d2dPort, if_pos h, up]

theorem d2dPort_link {s : State} {p : Nat} (h : 4 ≤ p) (up : bitOf s.links (p - 4) = true) : s.d2dPort p = (0x8020 + (p - 4), true) := by
  rw [State.d2dPort, if_neg (not_lt.mpr h), up]

/-- The state once link die `n` is left out. -/
def linkDieOut (s : State) (n : Nat) : State :=
  { s.endHome n with links := withoutBit (s.endHome n).links n }.resetRegRange (LNK_STATUS n) 0x10_0000

theorem execLinkDiePortLoss_up {s : State} {n : Fin 4} (ecc : Found) (up : bitOf s.links n.val = true) :
    execLinkDiePortLoss n ecc s = .next ((((linkDieOut s n.val).carrier n.val).elim (linkDieOut s n.val)
      (fun k => (linkDieOut s n.val).sramRead k ecc)).resendVia (fun v => v.1 == n.val)) :=
  if_pos up

/-- Settles O39: each command by its branch; the spare by how it is chosen. -/
theorem recoveryCommandsComplete : Obligations.RecoveryCommandsComplete := by
  refine ⟨⟨fun _ _ h => if_pos h, fun _ _ h => if_pos h, fun _ _ _ _ faulted idle spare => execTileRecoveryEnd_last faulted idle spare,
    fun _ _ _ _ faulted idle spare => execTileRecoveryEnd_spareless faulted idle spare, ?loading, ?retrain, fun _ _ h => if_pos h, ?lost, ?head⟩,
    fun _ _ _ _ h => chooseSpare_free h⟩
  case loading =>
    intro s d faulted loading
    obtain ⟨old, rest, e⟩ := List.exists_cons_of_ne_nil faulted
    exact execTileRecoveryEnd_filling e loading
  case retrain =>
    intro s p replays retrain
    refine ⟨fun h up => ?_, fun h up => ?_, fun down => ?_⟩
    · exact execD2dPortRetrain_up replays retrain (d2dPort_compute h up)
    · exact execD2dPortRetrain_up replays retrain (d2dPort_link h up)
    · exact congrArg Host.Outcome.next (if_neg (by simp [down]))
  case lost =>
    intro s n ecc up
    refine ⟨fun k carried => ?_, fun alone => ?_⟩ <;> refine (execLinkDiePortLoss_up ecc up).trans ?_
    · rw [show (linkDieOut s n.val).carrier n.val = some k from carried]
      rfl
    · rw [show (linkDieOut s n.val).carrier n.val = none from alone]
      rfl
  case head =>
    intro s value running cap v inside moved
    exact if_neg (not_or.mpr ⟨not_not.mpr running, not_or.mpr ⟨not_le.mpr inside, moved⟩⟩)

end Sys2Proof.Laws
end

section
/-!
# Error records (R414, R415, R418, R419)

A record is entered in three parts: the eight words of its log entry, the copy kept of the first FATAL record, and what follows, which
writes neither.
-/
namespace Sys2Proof.Laws
open Sys2Proof.Machine

/-! ## Words written one after another -/

section
variable {base : Nat → Nat} {f : Nat → Word}

theorem reg_foldl_setReg_ne {r : Nat} (ws : List Nat) (s : State) (h : ∀ w ∈ ws, r ≠ base w) :
    (ws.foldl (fun s w => s.setReg (base w) (f w)) s).reg r = s.reg r := by
  induction ws generalizing s with
  | nil => rfl
  | cons w ws ih =>
    rw [List.foldl_cons, ih _ fun x hx => h x (List.mem_cons_of_mem _ hx), reg_setReg_ne _ _ (h w List.mem_cons_self)]

theorem reg_foldl_setReg_same {w : Nat} (ws : List Nat) (s : State) (hw : w ∈ ws) (inj : ∀ x ∈ ws, base w = base x → w = x) :
    (ws.foldl (fun s w => s.setReg (base w) (f w)) s).reg (base w) = f w := by
  induction ws generalizing s with
  | nil => cases hw
  | cons x ws ih =>
    have inj' : ∀ y ∈ ws, base w = base y → w = y := fun y hy => inj y (List.mem_cons_of_mem _ hy)
    by_cases later : w ∈ ws
    · exact ih _ later inj'
    · obtain rfl := (List.mem_cons.mp hw).resolve_right later
      rw [List.foldl_cons, reg_foldl_setReg_ne ws _ fun y hy e => later (inj' y hy e ▸ hy), reg_setReg_same]

end

/-! ## The parts of a record's entry (R415, R418) -/

/-- The eight words of entry `e` in the registers from `base 0` to `base 7`. -/
def putWords (s : State) (base : Nat → Nat) (e : Bytes) : State :=
  (List.range 8).foldl (fun s w => s.setReg (base w) (word (fieldAt e (8 * w) 8))) s

/-- The record in the internal log. -/
def inLog (s : State) (e : Bytes) : State :=
  putWords (if (List.range 8).any (fun w => s.reg (CTL_ERR_LOG (s.recSeq % 1024) w) != 0#64) then s.setFld CTL_ERR_STATUS_LOG_WRAPPED 1
    else s) (CTL_ERR_LOG (s.recSeq % 1024)) e

/-- The first FATAL record kept. -/
def keepFatal (s : State) (cls : Nat) (e : Bytes) : State :=
  if cls = 3 ∧ s.fld CTL_ERR_STATUS_FATAL_VALID = 0 then (putWords s CTL_ERR_FATAL e).setFld CTL_ERR_STATUS_FATAL_VALID 1 else s

/-- What follows: the mirror, the counts, the trace and the host ring. -/
def afterEntry (s : State) (a unit cls flags : Nat) (i : ErrInfo) (e : Bytes) : State :=
  let s := s.store a e
  let s := if cls = 0 then s.addFld CTL_ERR_COUNTS_CORRECTED 1
    else if cls = 1 then s.addFld CTL_ERR_COUNTS_DEFERRED 1
    else if cls = 2 then s.addFld CTL_ERR_COUNTS_CONTAINED 1 else s
  let s := s.trace unit 8 i.dom 0 (leBytes 2 i.code ++ zeros 6 ++ leBytes 8 s.recSeq)
  (if bitOf flags 0 then s.addFld CTL_ERR_COUNTS_ESCALATED 1 else s).nextSeq.ringEntry e

/-- The 64 bytes of a record. -/
def recordOf (s : State) (unit cls flags : Nat) (i : ErrInfo) : Bytes :=
  recordBytes s.now unit cls flags i.code i.dom (leBytes 8 i.handle ++ leBytes 8 i.addr ++ padTo 16 i.syndrome) s.recSeq i.aux

theorem logRecord_eq (s : State) (unit cls flags : Nat) (i : ErrInfo) :
    let e := recordOf s unit cls flags i
    let u := keepFatal (inLog s e) cls e
    s.logRecord unit cls flags i = afterEntry u (u.errAreaBase + 64 * (s.recSeq % 1024)) unit cls flags i e := rfl

theorem putWords_reg_ne (s : State) {base : Nat → Nat} (e : Bytes) {r : Nat} (h : ∀ w, w < 8 → r ≠ base w) :
    (putWords s base e).reg r = s.reg r := reg_foldl_setReg_ne _ s fun w hw => h w (List.mem_range.mp hw)

theorem putWords_reg_same (s : State) {base : Nat → Nat} (e : Bytes) {w : Nat} (hw : w < 8)
    (inj : ∀ x, x < 8 → base w = base x → w = x) : (putWords s base e).reg (base w) = word (fieldAt e (8 * w) 8) :=
  reg_foldl_setReg_same _ s (List.mem_range.mpr hw) fun x hx => inj x (List.mem_range.mp hx)

/-- A register apart from the log, its state and the ring. -/
structure OffLog (r : Nat) : Prop where
  status : r ≠ CTL_ERR_STATUS
  counts : r ≠ CTL_ERR_COUNTS
  ring : r ≠ CTL_ERR_RING_PTR
  trace : r ≠ DBG_TRACE_PTR

theorem offLog_log {j w : Nat} (hj : j < 1024) (hw : w < 8) : OffLog (CTL_ERR_LOG j w) := by
  constructor <;> simp only [CTL_ERR_LOG, CTL_ERR_STATUS, CTL_ERR_COUNTS, CTL_ERR_RING_PTR, DBG_TRACE_PTR] <;> omega

theorem offLog_fatal {w : Nat} (hw : w < 8) : OffLog (CTL_ERR_FATAL w) := by
  constructor <;> simp only [CTL_ERR_FATAL, CTL_ERR_STATUS, CTL_ERR_COUNTS, CTL_ERR_RING_PTR, DBG_TRACE_PTR] <;> omega

theorem log_ne_fatal {j w x : Nat} (hx : x < 8) : CTL_ERR_LOG j w ≠ CTL_ERR_FATAL x := by
  simp only [CTL_ERR_LOG, CTL_ERR_FATAL]
  omega

theorem log_inj {j k w x : Nat} (hw : w < 8) (hx : x < 8) (h : CTL_ERR_LOG j w = CTL_ERR_LOG k x) : j = k ∧ w = x := by
  simp only [CTL_ERR_LOG] at h
  omega

section
variable {r : Nat} {z s : State}

theorem regKept_ringPut (e : Bytes) (o : OffLog r) (h : RegKept r z s) : RegKept r z (s.ringPut e) :=
  ⟨(ringPut_reg_ne s e o.status o.ring).trans h.eq⟩

theorem regKept_nextSeq (o : OffLog r) (h : RegKept r z s) : RegKept r z s.nextSeq := ⟨(nextSeq_reg_ne s o.status).trans h.eq⟩

theorem regKept_ringEntry (e : Bytes) (o : OffLog r) (h : RegKept r z s) : RegKept r z (s.ringEntry e) := by
  unfold State.ringEntry
  exact regKept_ite (regKept_ringPut _ o (regKept_nextSeq o (regKept_ringPut e o h))) (regKept_ringPut e o h)

theorem regKept_afterEntry (a unit cls flags : Nat) (i : ErrInfo) (e : Bytes) (o : OffLog r) (h : RegKept r z s) :
    RegKept r z (afterEntry s a unit cls flags i e) := by
  have stored := regKept_store a e h
  have counted := fun (f : Fld) (hf : f.reg = CTL_ERR_COUNTS) {t : State} (k : RegKept r z t) => regKept_addFld f 1 (hf ▸ o.counts) k
  unfold afterEntry
  dsimp only
  refine regKept_ringEntry e o (regKept_nextSeq o ?_)
  refine have traced := regKept_trace unit 8 i.dom 0 _ o.trace ?_; regKept_ite (counted CTL_ERR_COUNTS_ESCALATED rfl traced) traced
  exact regKept_ite (counted CTL_ERR_COUNTS_CORRECTED rfl stored) (regKept_ite (counted CTL_ERR_COUNTS_DEFERRED rfl stored)
    (regKept_ite (counted CTL_ERR_COUNTS_CONTAINED rfl stored) stored))

theorem regKept_keepFatal (cls : Nat) (e : Bytes) (hs : r ≠ CTL_ERR_STATUS) (hf : ∀ w, w < 8 → r ≠ CTL_ERR_FATAL w)
    (h : RegKept r z s) : RegKept r z (keepFatal s cls e) :=
  regKept_ite (regKept_setFld _ _ hs ⟨(putWords_reg_ne s e hf).trans h.eq⟩) h

end

theorem inLog_reg_ne (s : State) (e : Bytes) {r : Nat} (hs : r ≠ CTL_ERR_STATUS) (hl : ∀ w, w < 8 → r ≠ CTL_ERR_LOG (s.recSeq % 1024) w) :
    (inLog s e).reg r = s.reg r :=
  (putWords_reg_ne _ e hl).trans (regKept_ite (regKept_setFld _ 1 hs (regKept_refl s)) (regKept_refl s)).eq

theorem inLog_reg_same (s : State) (e : Bytes) {w : Nat} (hw : w < 8) :
    (inLog s e).reg (CTL_ERR_LOG (s.recSeq % 1024) w) = word (fieldAt e (8 * w) 8) :=
  putWords_reg_same _ e hw fun _ hx h => (log_inj hw hx h).2

theorem inLog_fatalValid (s : State) (e : Bytes) : (inLog s e).fld CTL_ERR_STATUS_FATAL_VALID = s.fld CTL_ERR_STATUS_FATAL_VALID := by
  have words : ∀ u : State, (putWords u (CTL_ERR_LOG (s.recSeq % 1024)) e).fld CTL_ERR_STATUS_FATAL_VALID =
      u.fld CTL_ERR_STATUS_FATAL_VALID := by
    intro u
    rw [State.fld, putWords_reg_ne u e, State.fld]
    intro w hw
    simp only [CTL_ERR_STATUS_FATAL_VALID, CTL_ERR_STATUS, CTL_ERR_LOG]
    omega
  refine (words _).trans ?_
  split
  · exact fld_setFld_of_apart s 1 (by decide)
  · rfl

theorem logRecord_reg (s : State) (unit cls flags : Nat) (i : ErrInfo) {r : Nat} (o : OffLog r) :
    let e := recordOf s unit cls flags i
    (s.logRecord unit cls flags i).reg r = (keepFatal (inLog s e) cls e).reg r :=
  (congrArg (·.reg r) (logRecord_eq s unit cls flags i)).trans (regKept_afterEntry _ unit cls flags i _ o (regKept_refl _)).eq

/-- A record changes no register apart from the log, the FATAL record and their state. -/
theorem logRecord_reg_ne (s : State) (unit cls flags : Nat) (i : ErrInfo) {r : Nat} (o : OffLog r)
    (hl : ∀ w, w < 8 → r ≠ CTL_ERR_LOG (s.recSeq % 1024) w) (hf : ∀ w, w < 8 → r ≠ CTL_ERR_FATAL w) :
    (s.logRecord unit cls flags i).reg r = s.reg r :=
  (logRecord_reg s unit cls flags i o).trans (regKept_keepFatal cls _ o.status hf ⟨inLog_reg_ne s _ o.status hl⟩).eq

theorem logRecord_log_same (s : State) (unit cls flags : Nat) (i : ErrInfo) {w : Nat} (hw : w < 8) :
    (s.logRecord unit cls flags i).reg (CTL_ERR_LOG (s.recSeq % 1024) w) = word (fieldAt (recordOf s unit cls flags i) (8 * w) 8) := by
  have o := offLog_log (Nat.mod_lt s.recSeq (by decide : 0 < 1024)) hw
  rw [logRecord_reg s unit cls flags i o, (regKept_keepFatal cls _ o.status (fun _ hx => log_ne_fatal hx) (regKept_refl _)).eq,
    inLog_reg_same s _ hw]

theorem logRecord_log_ne (s : State) (unit cls flags : Nat) (i : ErrInfo) {j w : Nat} (hj : j < 1024) (hw : w < 8)
    (ne : j ≠ s.recSeq % 1024) : (s.logRecord unit cls flags i).reg (CTL_ERR_LOG j w) = s.reg (CTL_ERR_LOG j w) :=
  logRecord_reg_ne s unit cls flags i (offLog_log hj hw) (fun _ hx h => ne (log_inj hw hx h).1) fun _ hx => log_ne_fatal hx

theorem logRecord_fatal_first (s : State) (unit flags : Nat) (i : ErrInfo) {w : Nat} (hw : w < 8)
    (first : s.fld CTL_ERR_STATUS_FATAL_VALID = 0) :
    (s.logRecord unit 3 flags i).reg (CTL_ERR_FATAL w) = word (fieldAt (recordOf s unit 3 flags i) (8 * w) 8) := by
  rw [logRecord_reg s unit 3 flags i (offLog_fatal hw), keepFatal, if_pos ⟨rfl, (inLog_fatalValid s _).trans first⟩,
    reg_setFld_ne _ _ _ (offLog_fatal hw).status]
  exact putWords_reg_same _ _ hw fun x _ h => by simpa [CTL_ERR_FATAL] using h

theorem logRecord_fatal_kept (s : State) (unit cls flags : Nat) (i : ErrInfo) {w : Nat} (hw : w < 8)
    (kept : s.fld CTL_ERR_STATUS_FATAL_VALID = 1) : (s.logRecord unit cls flags i).reg (CTL_ERR_FATAL w) = s.reg (CTL_ERR_FATAL w) := by
  rw [logRecord_reg s unit cls flags i (offLog_fatal hw), keepFatal, inLog_fatalValid, if_neg (by simp [kept]),
    inLog_reg_ne s _ (offLog_fatal hw).status fun _ _ h => log_ne_fatal hw h.symm]

/-! ## Escalation (R414, R419) -/

theorem escalated_open {s : State} {unit cls : Nat} (h : s.windowOpen unit = true) (lo : 1 ≤ cls) (hi : cls ≤ 2) :
    s.escalated unit cls = cls + 1 := by
  have inside : s.excluded unit = false := by simp [State.excluded, h]
  rw [State.escalated, if_neg (by simp [inside]), if_pos ⟨by omega, h⟩]

theorem escalated_closed {s : State} {unit : Nat} (cls : Nat) (h : s.windowOpen unit = false) : s.escalated unit cls = cls := by
  simp [State.escalated, h]

theorem escalated_corrected (s : State) (unit : Nat) : s.escalated unit 0 = 0 := by simp [State.escalated]

/-! ## A FATAL error (R33, R414) -/

theorem mode_of_regKept {z s : State} (h : RegKept CTL_MODE z s) : s.mode = z.mode :=
  congrArg (fun v : Word => bitsOf v.toNat CTL_MODE_MODE.lo CTL_MODE_MODE.width) h.eq

theorem report_mode (s : State) (unit cls : Nat) (i : ErrInfo) : (s.report unit cls i).mode = s.mode := by
  have off : OffLog CTL_MODE := ⟨by decide, by decide, by decide, by decide⟩
  have logged (c flags : Nat) : RegKept CTL_MODE s (s.logRecord unit c flags i) :=
    ⟨logRecord_reg_ne s unit c flags i off (fun w _ => by simp only [CTL_MODE, CTL_ERR_LOG]; omega)
      fun w _ => by simp only [CTL_MODE, CTL_ERR_FATAL]; omega⟩
  have told {flags : Nat} (args : Bytes) : RegKept CTL_MODE s (if s.escalated unit cls = cls then
      s.logRecord unit (s.escalated unit cls) flags i else (s.logRecord unit (s.escalated unit cls) flags i).event unit 0x807C i.dom args) :=
    regKept_ite (logged _ _) (regKept_event _ _ _ _ off.status off.ring (logged _ _))
  exact mode_of_regKept (regKept_ite (regKept_of (told _) rfl) (told _))

theorem showStacks_mode (s : State) (mask st : Nat) : (s.showStacks mask st).mode = s.mode :=
  mode_of_regKept (regKept_foldl _ _ _ (regKept_refl s) fun _ x h =>
    regKept_setFld _ _ (by simp only [CTL_MODE, HBM_STATUS_STATE, HBM_STATUS]; omega) h)

theorem refreshed_mode (s : State) (n : Nat) (c : Bool) : { s with selfRefresh := n, haltCold := c }.mode = s.mode := rfl

theorem enterHalted_mode (s : State) (cold : Bool) : (s.enterHalted cold).mode = 0xF := by
  unfold State.enterHalted
  split
  · next halted => exact halted
  · dsimp only
    rw [showStacks_mode, refreshed_mode, setMode_mode]
    rfl

/-- Settles O60: a record by its parts, the classes by whether a window is open. -/
theorem errorRecordsAreLogged : Obligations.ErrorRecordsAreLogged := by
  refine ⟨fun s unit cls flags i => ⟨fun w hw => logRecord_log_same s unit cls flags i hw,
    fun j w hj hw ne => logRecord_log_ne s unit cls flags i hj hw ne, ?first, fun w hw kept => logRecord_fatal_kept s unit cls flags i hw kept⟩,
    fun _ _ _ h lo hi => escalated_open h lo hi, fun _ _ cls h => escalated_closed cls h, escalated_corrected, ?fatal⟩
  case first =>
    rintro w hw valid rfl
    exact logRecord_fatal_first s unit flags i hw valid
  case fatal =>
    intro s unit cls i up aloft
    rw [State.fault, if_pos ⟨up, by rw [report_mode, aloft]; decide⟩, enterHalted_mode]

end Sys2Proof.Laws
end

section
/-!
# Watch points (R478)

A commit empties the watch points first; what it does after that, as what any of its operations does, changes nothing of the debug state
(`DbgKept`). There is one lemma for each operation that a commit runs, in the order of the model's files.
-/
namespace Sys2Proof.Laws
open Sys2Proof.Machine

/-- `t` has the debug state of `s`. -/
structure DbgKept (s t : State) : Prop where
  eq : t.dbg = s.dbg

section
variable {z s : State}

theorem dbgKept_refl (s : State) : DbgKept s s := ⟨rfl⟩

/-- An update of fields that a commit writes, the debug state not among them. -/
theorem dbgKept_with {mem : Mem} {poison : List Nat} {fresh : Nat} {hbmMap hbmPrev : HbmMap} {image : Option Image} {commit : Option Commit}
    {stagedLen : Nat} {shadows : List Shadow} {regShadows : SMap Word} {queues : SMap Queue} {cmds : List Pending} {outs : Outputs}
    {counts rests : SMap Nat} {stash : Stash} {outFlows : List OutFlow} {spoolRing : List SpoolRec} {survival : Survival}
    (h : DbgKept z s) : DbgKept z { s with
      mem := mem, poison := poison, fresh := fresh, hbmMap := hbmMap, hbmPrev := hbmPrev, image := image, commit := commit,
      stagedLen := stagedLen, shadows := shadows, regShadows := regShadows, queues := queues, cmds := cmds, outs := outs,
      counts := counts, rests := rests, stash := stash, outFlows := outFlows, spoolRing := spoolRing, survival := survival } := ⟨h.eq⟩

theorem dbgKept_ite {c : Prop} [Decidable c] {a b : State} (ha : DbgKept z a) (hb : DbgKept z b) : DbgKept z (if c then a else b) := by
  split <;> assumption

theorem dbgKept_ite_fst {α : Type} {c : Prop} [Decidable c] {a b : State × α} (ha : DbgKept z a.1) (hb : DbgKept z b.1) :
    DbgKept z (if c then a else b).1 := by
  split <;> assumption

theorem dbgKept_foldl {α : Type} (f : State → α → State) (xs : List α) (h : DbgKept z s) (hf : ∀ u x, DbgKept z u → DbgKept z (f u x)) :
    DbgKept z (xs.foldl f s) := by
  induction xs generalizing s with
  | nil => exact h
  | cons x xs ih => exact ih (hf s x h)

/-! ## Registers, memory and records -/

theorem dbgKept_setReg (a : Nat) (v : Word) (h : DbgKept z s) : DbgKept z (s.setReg a v) := ⟨h.eq⟩

theorem dbgKept_setFld (f : Fld) (v : Nat) (h : DbgKept z s) : DbgKept z (s.setFld f v) := ⟨h.eq⟩

theorem dbgKept_resetRegs (as : List Nat) (h : DbgKept z s) : DbgKept z (s.resetRegs as) := by
  induction as generalizing s with
  | nil => exact h
  | cons a as ih => exact ih (dbgKept_setReg a _ h)

theorem dbgKept_addScaled (f : Fld) (unit n : Nat) (h : DbgKept z s) : DbgKept z (s.addScaled f unit n) :=
  dbgKept_setFld _ _ (dbgKept_with h)

theorem dbgKept_setDom (d : Nat) (x : Dom) (h : DbgKept z s) : DbgKept z (s.setDom d x) := ⟨h.eq⟩

theorem dbgKept_store (a : Nat) (bs : Bytes) (h : DbgKept z s) : DbgKept z (s.store a bs) := by
  rw [store_frame]
  exact dbgKept_with h

theorem dbgKept_event (unit code dom : Nat) (args : Bytes) (h : DbgKept z s) : DbgKept z (s.event unit code dom args) :=
  ⟨(by rw [(logOnly_event unit code dom args (logOnly_refl s)).eq] : (s.event unit code dom args).dbg = s.dbg).trans h.eq⟩

theorem dbgKept_trace (unit kind dom ticket : Nat) (args : Bytes) (h : DbgKept z s) : DbgKept z (s.trace unit kind dom ticket args) := by
  unfold State.trace
  have drawn : DbgKept z { s with fresh := s.fresh + 1 } := dbgKept_with h
  have stored := fun (a : Nat) (bs : Bytes) => dbgKept_store a bs drawn
  exact dbgKept_ite (dbgKept_ite (dbgKept_setFld _ _ drawn) (dbgKept_ite (dbgKept_setFld _ _ (stored _ _))
    (dbgKept_ite (dbgKept_setFld _ _ (stored _ _)) (dbgKept_setFld _ _ (dbgKept_setFld _ _ (stored _ _)))))) h

theorem dbgKept_interrupt (q : Nat) (h : DbgKept z s) : DbgKept z (s.interrupt q) := by
  unfold State.interrupt
  exact dbgKept_ite (dbgKept_with (dbgKept_with h)) (dbgKept_with h)

theorem dbgKept_writeRecord (p : Pending) (c : Completion) (h : DbgKept z s) : DbgKept z (s.writeRecord p c) := by
  have counted (b : Bool) (a : Nat) (bs : Bytes) : DbgKept z (if b = true then s.store a bs else s) := dbgKept_ite (dbgKept_store _ _ h) h
  have written (u : State) (q a : Nat) (bs : Bytes) (x : Queue) (k : DbgKept z u) :
      DbgKept z (((u.store a bs).setQueue q x).subFld (HST_Q_STATUS_OUTSTANDING q) 1) :=
    dbgKept_setFld _ _ (dbgKept_with (dbgKept_store a bs k))
  have told (u : State) (n q : Nat) (k : DbgKept z u) :
      DbgKept z (if n ≥ max 1 (u.fld (HST_Q_IRQ_COALESCE_COUNT q)) then u.interrupt q else u) := dbgKept_ite (dbgKept_interrupt _ k) k
  unfold State.writeRecord
  exact dbgKept_ite (dbgKept_setFld _ _ (told _ _ _ (written _ _ _ _ _ (counted _ _ _)))) (told _ _ _ (written _ _ _ _ _ (counted _ _ _)))

theorem dbgKept_release (p : Pending) (h : DbgKept z s) : DbgKept z (release s p) := by
  unfold release
  split
  · exact dbgKept_writeRecord _ _ (dbgKept_with h)
  · exact h

theorem dbgKept_flush (q : Nat) (h : DbgKept z s) : DbgKept z (s.flush q) :=
  dbgKept_foldl release _ h fun _ p k => dbgKept_release p k

theorem dbgKept_finish (w : Word) (c : Completion) (h : DbgKept z s) : DbgKept z (s.finish w c) := by
  unfold State.finish
  split
  · exact h
  · split
    · exact h
    · exact dbgKept_flush _ (dbgKept_trace _ _ _ _ _ (dbgKept_with h))

/-! ## The decode (R316) -/

theorem dbgKept_overRegion (r : HbmRegion) {f : State → Nat → Nat → State} (hf : ∀ u a n, DbgKept z u → DbgKept z (f u a n))
    (h : DbgKept z s) : DbgKept z (s.overRegion r f) := dbgKept_foldl _ _ h fun u _ k => hf u _ _ k

theorem dbgKept_newLayout (m : HbmMap) (zeroed : List HbmRegion) (h : DbgKept z s) : DbgKept z (s.newLayout m zeroed) :=
  dbgKept_foldl _ _ (dbgKept_with h) fun _ r k => dbgKept_ite k (dbgKept_overRegion r (fun _ _ _ k => dbgKept_with k) k)

theorem dbgKept_clearHead (r : HbmRegion) (n : Nat) (h : DbgKept z s) : DbgKept z (s.clearHead r n) :=
  dbgKept_store _ _ (dbgKept_foldl _ _ h fun _ _ k => dbgKept_with k)

/-! ## Frames sent (R351) -/

theorem dbgKept_emit (n rank flow seq : Nat) (retx : Bool) (b : Body) (h : DbgKept z s) : DbgKept z (s.emit n rank flow seq retx b) := by
  unfold State.emit
  split
  · exact dbgKept_ite (dbgKept_with (dbgKept_with h)) h
  · exact h

theorem dbgKept_pump (n : Nat) (w : OutFlow) (h : DbgKept z s) : DbgKept z (s.pump w n).1 := by
  induction n generalizing s w with
  | zero => exact h
  | succ n ih =>
    unfold State.pump
    split
    · exact h
    · exact dbgKept_ite_fst h (ih _ (dbgKept_emit _ _ _ _ _ _ h))

theorem dbgKept_countLink (n : Nat) (b : Body) (h : DbgKept z s) : DbgKept z (s.countLink n b) := by
  unfold State.countLink
  split
  · exact dbgKept_addScaled _ _ _ (dbgKept_addScaled _ _ _ h)
  · exact h

theorem dbgKept_sendFrame (n rank type : Nat) (b : Body) (h : DbgKept z s) : DbgKept z (s.sendFrame n rank type b) :=
  dbgKept_ite h (dbgKept_with (dbgKept_pump _ _ (dbgKept_countLink _ b h)))

theorem dbgKept_sendTo (rank type : Nat) (b : Body) (h : DbgKept z s) : DbgKept z (s.sendTo rank type b) := dbgKept_sendFrame _ _ _ _ h

theorem dbgKept_toPartner (type : Nat) (b : Body) (h : DbgKept z s) : DbgKept z (s.toPartner type b) := by
  unfold State.toPartner
  split
  · exact dbgKept_sendTo _ _ _ h
  · exact h

/-! ## The spool (R401, R402) -/

theorem dbgKept_ringBytes (base size off : Nat) (bs : Bytes) (h : DbgKept z s) : DbgKept z (s.ringBytes base size off bs) := by
  induction bs generalizing s off with
  | nil => exact h
  | cons b bs ih => exact ih _ (dbgKept_store _ _ h)

theorem dbgKept_requestSnapshots (h : DbgKept z s) : DbgKept z s.requestSnapshots :=
  dbgKept_foldl _ _ (dbgKept_foldl _ _ h fun _ _ k => dbgKept_setDom _ _ k) fun _ r k => dbgKept_sendTo r 7 _ k

theorem dbgKept_spoolWrite (d step : Nat) (bs : Bytes) (h : DbgKept z s) : DbgKept z (s.spoolWrite d step bs) :=
  dbgKept_ite h (dbgKept_ite (dbgKept_event _ _ _ _ (dbgKept_requestSnapshots (dbgKept_setFld _ _ h)))
    (dbgKept_setFld _ _ (dbgKept_setFld _ _ (dbgKept_with (dbgKept_ringBytes _ _ _ _ h)))))

theorem dbgKept_spoolFor (d n kind flags : Nat) (aux : Bytes) (vals : List Nat) (h : DbgKept z s) :
    DbgKept z (s.spoolFor d n kind flags aux vals) :=
  have sent := dbgKept_toPartner 8 (.spool _) (dbgKept_spoolWrite d n (s.spoolRecord d n kind flags aux vals) h)
  dbgKept_ite h (dbgKept_setDom _ _ (dbgKept_ite (dbgKept_with sent) sent))

/-! ## The image (R64, R69) -/

theorem dbgKept_placeTile (t state : Nat) (h : DbgKept z s) : DbgKept z (s.placeTile t state) := dbgKept_ite h (dbgKept_setFld _ _ (dbgKept_setFld _ _ h))

theorem dbgKept_openDomain (e : Bytes) (h : DbgKept z s) : DbgKept z (s.openDomain e) :=
  dbgKept_spoolFor _ _ _ _ _ _ (dbgKept_foldl _ _ (dbgKept_foldl _ _ (dbgKept_setReg _ _ (dbgKept_setReg _ _ (dbgKept_setFld _ _
    (dbgKept_setFld _ _ (dbgKept_setFld _ _ (dbgKept_setReg _ _ (dbgKept_setReg _ _ (dbgKept_setFld _ _ (dbgKept_setFld _ _
      (dbgKept_setDom _ _ h)))))))))) fun _ t k => dbgKept_placeTile t 1 k)
    fun _ t k => dbgKept_placeTile t 5 k)

theorem dbgKept_commitEffect (n : Nat) (h : DbgKept z s) : DbgKept z (s.commitEffect n) := by
  unfold State.commitEffect
  split
  · exact h
  · exact dbgKept_ite h (dbgKept_finish _ _ (dbgKept_setFld _ _ (dbgKept_foldl _ _ (dbgKept_setFld _ _ (dbgKept_setFld _ _
      (dbgKept_setFld _ _ (dbgKept_setFld _ _ (dbgKept_setReg _ _ (dbgKept_setReg _ _ (dbgKept_setFld _ _ (dbgKept_setFld _ _
        (dbgKept_setFld _ _ (dbgKept_setFld _ _ (dbgKept_with (dbgKept_newLayout _ _ h)))))))))))) fun _ e k => dbgKept_openDomain e k)))

/-! ## The stash (R300) and survival (R393, R405) -/

theorem dbgKept_stashOpen (h : DbgKept z s) : DbgKept z s.stashOpen := by
  have cleared {xs : List Nat} {u : State} (k : DbgKept z u) : DbgKept z (xs.foldl (fun s k => s.resetRegs
      [STH_DIE_MOVES k, STH_DIE_EVENTS k, CDC_DIE_BYTES k, CDC_DIE_SUBS k, CDC_LINK_BYTES k]) u) :=
    dbgKept_foldl _ _ k fun _ _ k => dbgKept_resetRegs _ k
  unfold State.stashOpen
  dsimp only
  split
  · exact cleared (dbgKept_with h)
  · split
    · exact dbgKept_clearHead _ _ (cleared (dbgKept_with h))
    · exact cleared (dbgKept_with h)

theorem dbgKept_freshSurvival (h : DbgKept z s) : DbgKept z s.freshSurvival :=
  dbgKept_setFld _ _ (dbgKept_setFld _ _ (dbgKept_setFld _ _ (dbgKept_ite (dbgKept_setReg _ _ (dbgKept_with h)) (dbgKept_with h))))

theorem dbgKept_offer (i : Nat) (h : DbgKept z s) : DbgKept z (s.offer i) := by
  unfold State.offer
  split
  · exact dbgKept_with h
  · exact dbgKept_event _ _ _ _ (dbgKept_setFld _ _ (dbgKept_with h))

theorem dbgKept_seekPartner (h : DbgKept z s) : DbgKept z s.seekPartner := dbgKept_offer 0 (dbgKept_setReg _ _ (dbgKept_with h))

theorem dbgKept_setUpMirror (h : DbgKept z s) : DbgKept z s.setUpMirror :=
  dbgKept_foldl _ _ (dbgKept_with (dbgKept_ite h (dbgKept_event _ _ _ _ (dbgKept_with h))))
    fun _ _ k => dbgKept_setReg _ _ (dbgKept_setDom _ _ k)

theorem dbgKept_sendPlan (h : DbgKept z s) : DbgKept z s.sendPlan := by
  unfold State.sendPlan
  split
  · exact dbgKept_sendTo _ _ _ (dbgKept_setUpMirror h)
  · exact h

theorem dbgKept_recommitPartner (h : DbgKept z s) : DbgKept z s.recommitPartner := by
  unfold State.recommitPartner
  split
  · exact dbgKept_seekPartner h
  · split
    · exact dbgKept_sendPlan (dbgKept_setFld _ _ h)
    · exact dbgKept_seekPartner h

theorem dbgKept_scaleEnvelopes (h : DbgKept z s) : DbgKept z s.scaleEnvelopes :=
  have shown : DbgKept z s.showEnvelopes := dbgKept_foldl _ _ h fun _ _ k => dbgKept_setFld _ _ k
  dbgKept_ite (dbgKept_event _ _ _ _ shown) shown

end

/-! ## Watch points -/

theorem watched_eq {s t : State} (h : DbgKept s t) (point : Nat) : t.watched point = s.watched point := by
  rw [State.watched, h.eq, State.watched]

theorem watched_clearCounts (s : State) (point : Nat) : s.clearCounts.watched point = [] := rfl

theorem keepWatch_same (s : State) (point : Nat) (b : Bytes) :
    (s.keepWatch point b).watched point = (s.watched point ++ [b]).drop ((s.watched point ++ [b]).length - 8) := by
  simp only [State.keepWatch, State.watched, smapFind_ins_same, Option.getD_some]

theorem keepWatch_ne (s : State) {point j : Nat} (b : Bytes) (h : j ≠ point) : (s.keepWatch point b).watched j = s.watched j := by
  simp only [State.keepWatch, State.watched, smapFind_ins_ne _ _ h]

/-- A commit that takes effect empties every watch point. -/
theorem commitTurn_watched {s : State} {c : Commit} (n point : Nat) (hc : s.commit = some c) (prepared : c.phase = 2) :
    (s.commitTurn n).watched point = [] := by
  have kept : DbgKept s.clearCounts (s.commitTurn n) := by
    simp only [State.commitTurn, hc, prepared, if_true]
    exact dbgKept_scaleEnvelopes (dbgKept_foldl _ _ (dbgKept_recommitPartner (dbgKept_with (dbgKept_stashOpen (dbgKept_commitEffect n
      (dbgKept_freshSurvival (dbgKept_refl _)))))) fun _ _ k => dbgKept_setFld _ _ k)
  rw [watched_eq kept, watched_clearCounts]

/-- The state once WATCH CLEAR has emptied point `j`. -/
def pointCleared (s : State) (p : Pending) (j : Nat) : State :=
  { s.begin p with dbg := { (s.begin p).dbg with points := smapDel (s.begin p).dbg.points j } }

theorem pointCleared_same (s : State) (p : Pending) (j : Nat) : (pointCleared s p j).watched j = [] := by
  simp only [pointCleared, State.watched, smapFind_del_same, Option.getD_none]

theorem pointCleared_ne (s : State) (p : Pending) {i j : Nat} (h : i ≠ j) : (pointCleared s p j).watched i = s.watched i := by
  simp only [pointCleared, State.watched, smapFind_del_ne _ h]
  rfl

/-- Settles O55: WATCH READ and WATCH CLEAR by their lemmas, a commit by what it keeps. -/
theorem watchPointsKeepEight : Obligations.WatchPointsKeepEight := by
  refine ⟨fun s point b few => ⟨?_, ?_, fun j hj => keepWatch_ne s b hj⟩, fun _ _ _ hr hm => execWatchRead_writes hr hm, ?clear,
    fun _ _ n point hc prepared => commitTurn_watched n point hc prepared⟩
  · rw [keepWatch_same, List.length_append, List.length_singleton]
    rfl
  · rw [keepWatch_same, List.length_drop, List.length_append, List.length_singleton]
    omega
  case clear =>
    intro s h p hr
    have ended : DbgKept (pointCleared s p (fieldAt p.entry 16 1)) ((pointCleared s p (fieldAt p.entry 16 1)).finishWith h ST_OK) :=
      dbgKept_finish _ _ (dbgKept_refl _)
    exact ⟨_, execWatchClear_of_ready hr, (watched_eq ended _).trans (pointCleared_same s p _),
      fun j hj => (watched_eq ended j).trans (pointCleared_ne s p hj)⟩

end Sys2Proof.Laws
end

section
/-!
# Stash commands (R289 to R298)
-/
namespace Sys2Proof.Laws
open Sys2Proof.Machine

/-! ## REGISTER (R292, R296) -/

section
variable {s : State} {t : Fin 384} {i : Fin 64} {o : Op} {d : Nat} (hh : s.held t.val i.val [9] 1 = some o)
  (hd : s.domOf t.val = some d) (sound : s.registerFault t.val d o = none)
include hh hd sound

theorem execStashRegister_recomputed (policy : s.classPolicy o.reg.cls = 3) : execStashRegister t i [] s =
    .next ((s.setHandle o.reg.handle { s.newHandle t.val d o with state := 6 }).actedWith t.val i.val 0) := by
  simp only [execStashRegister, State.findErrors, List.foldl_nil, hh, hd, sound, policy, if_true]

theorem execStashRegister_placed {v : State} (policy : s.classPolicy o.reg.cls ≠ 3) (single : (s.newHandle t.val d o).dual = false)
    (ha : s.mappedAll (s.tileAddr t.val o.reg.src) o.reg.len = true) (hb : s.mappedAll (s.tileAddr t.val o.reg.dualSrc) 0 = true)
    (clean : s.poisonedIn (s.tileAddr t.val o.reg.src) o.reg.len = none)
    (placed : ((s.readHbm d (s.tileAddr t.val o.reg.src) o.reg.len).readHbm d (s.tileAddr t.val o.reg.dualSrc) 0).placeCapture o.reg.handle d
      (s.newHandle t.val d o) (s.physRead (s.tileAddr t.val o.reg.src) o.reg.len) (s.physRead (s.tileAddr t.val o.reg.dualSrc) 0) = some v) :
    execStashRegister t i [] s = .next (v.actedWith t.val i.val 0) := by
  simp only [execStashRegister, State.findErrors, List.foldl_nil, hh, hd, sound, if_neg policy, single, Bool.false_eq_true, if_false, ha, hb,
    Bool.and_self, Bool.not_true, clean, Option.orElse_none, if_true, placed]

end

/-! ## FETCH and RELEASE (R293, R294) -/

theorem execStashFetch_gives {s : State} {t : Fin 384} {i : Fin 64} {o : Op} {d : Nat} (hh : s.held t.val i.val [9] 2 = some o)
    (hd : s.domOf t.val = some d) (sound : s.fetchFault t.val d o = none) :
    let f := o.fetch
    let u := s.noteFetch f.handle f.part
    let x := u.handle f.handle
    x.state ≠ 1 → x.state ≠ 4 → x.state ≠ 5 →
    let dst := u.tileAddr t.val f.dst
    let r := if u.mappedAll dst (4096 * f.count) then u.runFetch t.val i.val f x
      else (u.engineFault dst (4096 * f.count), ST_ADDRESS_UNMAPPED)
    execStashFetch t i [] s = .next ((if f.release then r.1.markRelease f.handle else r.1).actedWith t.val i.val r.2) := by
  intro f u x captured moving returning
  have settled : ¬ (x.state = 1 ∨ x.state = 4 ∨ x.state = 5) := by simp [captured, moving, returning]
  simp only [execStashFetch, State.findErrors, List.foldl_nil, hh, hd, sound]
  exact if_neg settled

theorem execStashRelease_marks {s : State} {t : Fin 384} {i : Fin 64} {o : Op} {d : Nat} (hh : s.held t.val i.val [9] 3 = some o)
    (hd : s.domOf t.val = some d) (reserved : o.reservedOk [(8, 4)] = true) (lt : o.field 8 4 < 2 ^ 18) (base : s.stashBase.isSome = true)
    (used : (s.handle (o.field 8 4)).state ≠ 0) (own : (s.handle (o.field 8 4)).dom = d) :
    execStashRelease t i s = .next ((s.markRelease (o.field 8 4)).actedWith t.val i.val 0) := by
  have known : s.stashBase.isNone = false := by simpa using base
  simp only [execStashRelease, hh, hd, reserved, Bool.not_true, Bool.false_or, decide_eq_true_eq, if_neg (not_le.mpr lt), known,
    Bool.false_eq_true, if_false, used, own, ne_eq, not_true, or_self]

/-! ## Moves (R294, R297) -/

section
variable {s : State} {id : Nat}

theorem execStashMoveEnd_orphan {e : Nat × List Nat} (h : s.stash.orphans.find? (fun e => e.1 == id) = some e) :
    execStashMoveEnd id [] s = .next (({ s with stash := { s.stash with orphans := s.stash.orphans.erase e } }).freeSpace e.2) := by
  simp only [execStashMoveEnd, State.findErrors, List.foldl_nil, h]

theorem execStashMoveEnd_idle (own : s.stash.orphans.find? (fun e => e.1 == id) = none) (h : (s.handle id).move = none) :
    execStashMoveEnd id [] s = .next s := by
  simp only [execStashMoveEnd, State.findErrors, List.foldl_nil, own, h]

theorem execStashMoveEnd_host {m : HandleMove} (own : s.stash.orphans.find? (fun e => e.1 == id) = none)
    (h : (s.handle id).move = some m) (granted : s.revoked (stashUnit (s.handle id).die) = false) (single : (s.handle id).dual = false)
    (away : (s.handle id).state ≠ 5) : execStashMoveEnd id [] s = .next
      (((s.endPart (s.handle id) 0 m.pAddr m.pCoded).freeSpace (s.handle id).places).setHandle id { s.handle id with
        state := 3, move := none, pAddr := m.pAddr, pStored := m.pStored, pCoded := m.pCoded, dAddr := m.dAddr, dStored := m.dStored,
        dCoded := m.dCoded }) := by
  simp only [execStashMoveEnd, State.findErrors, List.foldl_nil, own, h, granted, single, beq_eq_false_iff_ne.mpr away, Bool.false_eq_true,
    if_false]

end

/-- Settles O37: each command by the lemma of its case above. -/
theorem stashCommandsComplete : Obligations.StashCommandsComplete :=
  ⟨fun _ _ _ _ _ hh hd sound policy => execStashRegister_recomputed hh hd sound policy,
    fun _ _ _ _ _ _ hh hd sound policy single ha hb clean placed =>
      execStashRegister_placed hh hd sound policy single ha hb clean placed,
    fun _ _ _ _ => ⟨rfl, rfl⟩, fun _ _ captured granted => if_pos ⟨captured, granted⟩,
    fun _ _ _ _ _ hh hd sound => execStashFetch_gives hh hd sound,
    fun _ _ _ _ _ hh hd reserved lt base used own => execStashRelease_marks hh hd reserved lt base used own,
    fun _ _ _ h => execStashMoveEnd_orphan h, fun _ _ _ => rfl, fun _ _ own h => execStashMoveEnd_idle own h,
    fun _ _ _ own h granted single away => execStashMoveEnd_host own h granted single away⟩

end Sys2Proof.Laws
end

section
/-!
# Intake commands (R331 to R342)
-/
namespace Sys2Proof.Laws
open Sys2Proof.Machine

/-! ## Enabling and disabling (R333, R342) -/

section
variable {s : State} {workers : Bool} (running : s.phase = .running)
include running

theorem execIntakeEnable_ok (h : s.intakeOk workers = true) : execIntakeEnable workers s = .next
    (((s.setFld INT_CTRL_WORKERS (if workers then 1 else 0)).setFld INT_CTRL_ENABLE 1).setFld INT_STATUS_STATE 1) :=
  (if_neg (not_not.mpr running)).trans (if_pos h)

theorem execIntakeEnable_bad (h : s.intakeOk workers = false) : execIntakeEnable workers s = .next
    ((if s.intakeOn then s else s.setFld INT_CTRL_WORKERS (if workers then 1 else 0)).setFld INT_STATUS_LAST_ERROR ST_INTAKE_CONFIG) :=
  (if_neg (not_not.mpr running)).trans (if_neg (by simp [h]))

end

/-! ## Batch records (R333, R334) -/

/-- The batch record `r` held, with its sample list taken. -/
def acceptBatch (s : State) (r : Bytes) : Out :=
  let b : Batch := { dom := fieldAt r 8 1, step := fieldAt r 0 8, outType := fieldAt r 9 1, count := fieldAt r 10 2, mask := fieldAt r 24 8 }
  let v := { s with intake := { s.intake with batches := s.intake.batches ++ [b] } }
  let w := v.takeSamples b (fieldAt r 16 8) 0 (b.count + fieldAt r 12 4)
  .next (w.setFld INT_STATUS_PENDING (satTo 0xFFFF w.intake.batches.length))

/-- What becomes of the batch record `r`, fetched from place `head` of the ring. -/
def judgeBatch (s : State) (r : Bytes) (head : Nat) : Out :=
  if s.batchOk r = false then .next (s.batchEvent EV_BATCH_INVALID (bitsOf (fieldAt r 8 1) 0 6) (fieldAt r 0 8) 0 head)
  else if s.intake.batches.any (fun b => b.dom == fieldAt r 8 1 && b.step == fieldAt r 0 8) then
    .next (s.batchEvent EV_BATCH_DUPLICATE (fieldAt r 8 1) (fieldAt r 0 8) 0 head)
  else if s.intake.seals.contains (fieldAt r 8 1, fieldAt r 0 8) then
    .next (s.batchEvent EV_BATCH_LATE (fieldAt r 8 1) (fieldAt r 0 8) 0 head)
  else acceptBatch s r

theorem execBatchRecordFetch_eq (s : State) : execBatchRecordFetch s =
    if s.intakeOn = false ∨ s.aloft = false ∨ s.fld INT_RING_PTR_HEAD = s.fld INT_RING_PTR_TAIL % 2 ^ s.fld INT_CONFIG_RING_LOG2 then .next s
    else judgeBatch (s.setFld INT_RING_PTR_HEAD ((s.fld INT_RING_PTR_HEAD + 1) % 2 ^ s.fld INT_CONFIG_RING_LOG2))
      (s.bytesAt (s.fld INT_RING_BASE_BASE * 4096 + 64 * s.fld INT_RING_PTR_HEAD) 64) (s.fld INT_RING_PTR_HEAD) := by
  delta execBatchRecordFetch judgeBatch acceptBatch
  rfl

/-! ## Samples (R335 to R337) -/

/-- The pool, the engine and the sample found stand as variables, so that the branches are taken without evaluating any of them. -/
theorem execSampleDispatch_engine {s : State} {i a : Nat} {free : List Nat} {x : Sample} (on : s.intakeOn = true) (aloft : s.aloft = true)
    (first : firstSample (s.intake.samples.filter (fun e => e.2.state == .waiting)) = some (i, x)) (room : s.freePool = a :: free)
    (f8 : x.format ≠ 8) (f9 : x.format ≠ 9) (own : x.hostOnly = false) (unlimited : s.preField secIntake 4 2 0 = 0) :
    execSampleDispatch s = .next (({ s with fresh := s.fresh + 1 }.setSample i
      { x with state := .engine, slot := s.freePool.getD (Config.choice s.fresh % s.freePool.length) a }).setEngine s.leastEngine
        (s.engine s.leastEngine ++ [i])) := by
  have ready : ¬ (s.intakeOn = false ∨ s.aloft = false) := by simp [on, aloft]
  have engines : ¬ ((x.format == 8 || x.format == 9 || x.hostOnly || (s.preField secIntake 4 2 0 != 0 &&
      decide (s.preField secIntake 4 2 0 ≤ (s.engine s.leastEngine).length))) = true) := by
    simp [f8, f9, own, unlimited]
  unfold execSampleDispatch
  rw [if_neg ready]
  generalize s.freePool = pool at room ⊢
  subst room
  generalize s.leastEngine = e at engines ⊢
  generalize firstSample _ = f at first ⊢
  subst first
  exact if_neg engines

section
variable {s : State} {e : Fin 16} {i : Nat} {rest : List Nat} (decoding : s.engine e.val = i :: rest)
include decoding

theorem execSampleDecodeEnd_crc (bad : (s.setEngine e.val rest).crcBad ((s.setEngine e.val rest).sample i) = true) :
    execSampleDecodeEnd e s = .next ((s.setEngine e.val rest).dropSample i (0x5000 + e.val) ST_SAMPLE_CRC 0) := by
  simp only [execSampleDecodeEnd, decoding, bad, if_true]

theorem execSampleDecodeEnd_error {r : Nat} (crc : (s.setEngine e.val rest).crcBad ((s.setEngine e.val rest).sample i) = false)
    (bad : (s.setEngine e.val rest).decodeSample ((s.setEngine e.val rest).sample i) = .error r) :
    execSampleDecodeEnd e s = .next ((s.setEngine e.val rest).dropSample i (0x5000 + e.val) r 0) := by
  simp only [execSampleDecodeEnd, decoding, crc, bad, Bool.false_eq_true, if_false]

theorem execSampleDecodeEnd_ok {sh : Shape} {elems : List Nat}
    (crc : (s.setEngine e.val rest).crcBad ((s.setEngine e.val rest).sample i) = false)
    (ok : (s.setEngine e.val rest).decodeSample ((s.setEngine e.val rest).sample i) = .ok (sh, elems)) :
    execSampleDecodeEnd e s = .next
      (((s.setEngine e.val rest).addFld (INT_ENGINE_SAMPLES e.val) 1).augmentSample i (0x5000 + e.val) 0 sh elems) := by
  simp only [execSampleDecodeEnd, decoding, crc, ok, Bool.false_eq_true, if_false]

end

/-- The item that a worker's answer names, if it is outstanding. -/
def itemOf (s : State) (value : Word) : Option (Nat × Sample) :=
  s.intake.samples.find? (fun e => (e.2.state == .worker || e.2.state == .orphan) && e.2.token == bitsOf value.toNat 0 32)

section
variable {s : State} {value : Word} {i : Nat} {x : Sample} (running : s.phase = .running)
include running

theorem execWorkerDone_stale (h : itemOf s value = none) : execWorkerDone value s = .next (s.addFld INT_STATUS_STALE_DONE 1) := by
  unfold itemOf at h
  simp only [execWorkerDone, running, ne_eq, not_true, if_false, h]

variable (item : itemOf s value = some (i, x))
include item

theorem execWorkerDone_orphan (h : x.state = .orphan) : execWorkerDone value s =
    .next { s with intake := { s.intake with samples := s.intake.samples.filter (fun e => e.1 != i) } } := by
  unfold itemOf at item
  simp only [execWorkerDone, running, ne_eq, not_true, if_false, item, h, if_true]

theorem execWorkerDone_failed (h : x.state ≠ .orphan) (bad : bitsOf value.toNat 32 16 ≠ 0) :
    execWorkerDone value s = .next (s.dropSample i 0x5101 (bitsOf value.toNat 32 16) (bitsOf value.toNat 32 16)) := by
  unfold itemOf at item
  simp only [execWorkerDone, running, ne_eq, not_true, if_false, item, if_neg h, if_pos bad]

variable (kept : x.state ≠ .orphan) (ok : bitsOf value.toNat 32 16 = 0)
include kept ok

theorem execWorkerDone_error {r : Nat} (bad : s.decodeSample x = .error r) : execWorkerDone value s = .next (s.dropSample i 0x5101 r 0) := by
  unfold itemOf at item
  simp only [execWorkerDone, running, ne_eq, not_true, if_false, item, if_neg kept, ok, bad]

theorem execWorkerDone_ok {sh : Shape} {elems : List Nat} (decoded : s.decodeSample x = .ok (sh, elems)) :
    execWorkerDone value s = .next (s.augmentSample i 0x5101 0 sh (s.workerElems x sh elems)) := by
  unfold itemOf at item
  simp only [execWorkerDone, running, ne_eq, not_true, if_false, item, if_neg kept, ok, decoded]

end

/-! ## Seals (R340) -/

theorem execIntakeSeal_due {s : State} {d : Fin 64} {n : Nat} (on : s.intakeOn = true) (due : s.sealDue d.val (s.tick + 1) = some n) :
    execIntakeSeal d s = .next ((s.runAligned (s.nextBoundary - s.now)).makeSeal d.val n (s.tick + 1)) := by
  simp only [execIntakeSeal, on, due, Bool.true_eq_false, if_false]

theorem execIntakeSeal_none {s : State} {d : Fin 64} (none : s.sealDue d.val (s.tick + 1) = none) : execIntakeSeal d s = .next s := by
  simp only [execIntakeSeal, none, ite_self]

theorem makeSeal_first {s : State} {d step : Nat} (n : Nat) (first : s.replaying d step = none) : s.makeSeal d step n = s.seal d step n := by
  simp only [State.makeSeal, first]

/-- Settles O41: each command by the lemma of its case, a batch record by how it is judged. -/
theorem intakeCommandsComplete : Obligations.IntakeCommandsComplete := by
  refine ⟨⟨fun _ _ running ok => execIntakeEnable_ok running ok, ?refused, ?kept, fun _ _ running => if_neg (not_not.mpr running),
    fun _ _ running => if_neg (not_not.mpr running)⟩, ⟨?record,
    fun _ _ _ _ _ on aloft first room f8 f9 own unlimited => execSampleDispatch_engine on aloft first room f8 f9 own unlimited⟩,
    ?decoded, ?answered, fun _ _ running none => execWorkerDone_stale running none, fun _ _ _ on due => execIntakeSeal_due on due,
    fun _ _ none => execIntakeSeal_none none, fun _ _ _ n first => makeSeal_first n first⟩
  case refused => exact fun s w running off bad => (execIntakeEnable_bad running bad).trans (by rw [off]; rfl)
  case kept => exact fun s w running on bad => (execIntakeEnable_bad running bad).trans (by rw [on]; rfl)
  case record =>
    intro s on aloft cap head waits r u held
    have judged : execBatchRecordFetch s = judgeBatch u r head :=
      (execBatchRecordFetch_eq s).trans (if_neg (not_or.mpr ⟨ne_false_of_eq_true on, not_or.mpr ⟨ne_false_of_eq_true aloft, waits⟩⟩))
    have valid (ok : u.batchOk r = true) : ¬ u.batchOk r = false := ne_false_of_eq_true ok
    have new (h : held = false) : ¬ held = true := ne_true_of_eq_false h
    refine ⟨fun bad => judged.trans (if_pos bad), fun ok dup => judged.trans ((if_neg (valid ok)).trans (if_pos dup)),
      fun ok fresh late => judged.trans ((if_neg (valid ok)).trans ((if_neg (new fresh)).trans (if_pos late))), fun ok fresh early =>
      judged.trans ((if_neg (valid ok)).trans ((if_neg (new fresh)).trans (if_neg (ne_true_of_eq_false early))))⟩
  case decoded =>
    exact fun s e i rest decoding => ⟨fun bad => execSampleDecodeEnd_crc decoding bad, fun r crc bad =>
      execSampleDecodeEnd_error decoding crc bad, fun sh elems crc ok => execSampleDecodeEnd_ok decoding crc ok⟩
  case answered =>
    exact fun s value i x running item => ⟨fun h => execWorkerDone_orphan running item h, fun h bad =>
      execWorkerDone_failed running item h bad, fun r h ok bad => execWorkerDone_error running item h ok bad,
      fun sh elems h ok decoded => execWorkerDone_ok running item h ok decoded⟩

end Sys2Proof.Laws
end

section
/-!
# Line ports and link timers (R346, R347, R351 to R353, R356)
-/
namespace Sys2Proof.Laws
open Sys2Proof.Machine

/-! ## Ports (R346, R347) -/

section
variable {s : State} {n : Fin 4} {p : Fin 12}

theorem execPortLinkUp_up (there : s.portThere n.val p.val = true) (sound : s.fld (LNK_PORT_STATUS_FAILED_LANES n.val p.val) = 0) :
    let u := { s with retrains := smapDel s.retrains (16 * n.val + p.val) }.showPort n.val p.val true
    execPortLinkUp n p s = .next (if u.inLine n.val then u.greetPeers n.val else u) := if_pos ⟨there, sound⟩

theorem execPortLinkDown_down (failed : BitVec 8) (ecc : Found) (there : s.portThere n.val p.val = true)
    (up : s.fld (LNK_PORT_STATUS_UP n.val p.val) ≠ 0) :
    let u := { s with retrains := tally s.retrains (16 * n.val + p.val) 1 }.showPort n.val p.val false
    let x := u.setFld (LNK_PORT_STATUS_FAILED_LANES n.val p.val) (u.laneMask n.val p.val failed.toNat)
    let v := (x.addFld (LNK_PORT_STATUS_RETRAINS n.val p.val) 1).addRisk riskRetrain
    execPortLinkDown n p failed ecc s = .next ((v.sramRead n.val ecc).resendVia (fun q => q == (n.val, p.val))) :=
  if_neg (not_or.mpr ⟨ne_false_of_eq_true there, up⟩)

/-- A port that is not configured takes no part. -/
theorem unconfigured_port_idle (failed : BitVec 8) (ecc : Found) (absent : s.portThere n.val p.val = false) :
    execPortLinkUp n p s = .next s ∧ execPortLinkDown n p failed ecc s = .next s ∧ execPortDownTimeout n p s = .next s :=
  have gone : ¬ s.portThere n.val p.val = true := ne_true_of_eq_false absent
  ⟨if_neg fun h => gone h.1, if_pos (.inl absent), if_neg fun h => gone h.1⟩

end

/-! ## Frames sent again (R351, R356) -/

section
variable {s : State} {n : Fin 4} {k seq : Nat} {w : OutFlow} (ecc : Found) (flow : s.outFlows[k]? = some w)
include flow

theorem execRetransmitTimer_resends (own : w.die = n.val) (live : (s.peerState w.rank).state = 2)
    (sent : ∃ f ∈ w.unacked, f.seq = seq) :
    let r := (s.sramRead n.val ecc).resendFrames w (fun f => f.seq == seq)
    execRetransmitTimer n k seq ecc s = .next (r.1.putOut (some k) (r.2.doubleTimer seq)) := by
  have due : ¬ (w.die ≠ n.val ∨ (s.peerState w.rank).state ≠ 2 ∨ w.unacked.any (fun f => f.seq == seq) = false) := by
    simpa [own, live] using sent
  simp only [execRetransmitTimer, flow, if_neg due]

theorem execRetransmitTimer_unsent (none : ∀ f ∈ w.unacked, f.seq ≠ seq) : execRetransmitTimer n k seq ecc s = .next s := by
  simp only [execRetransmitTimer, flow]
  exact if_pos (.inr (.inr (by simpa using none)))

end

theorem doubleTimer_getElem? (w : OutFlow) (seq : Nat) {i : Nat} {f : Sent} (h : w.unacked[i]? = some f) :
    (w.doubleTimer seq).unacked[i]? =
      some (if f.seq = seq then { f with timer := max f.timer (min 2000000 (2 * f.timer)) } else f) := by
  simp only [OutFlow.doubleTimer, List.getElem?_map, h, Option.map_some]

theorem resendFrames_unacked {s : State} {w : OutFlow} {v : Nat × Nat} (p : Sent → Bool) (way : s.wayOut w.die w.flow = some v) :
    (s.resendFrames w p).2.unacked = w.unacked.map (fun f => if p f then { f with via := some v } else f) := by
  simp only [State.resendFrames, way]

theorem execSackTimer_sends {s : State} {n : Fin 4} {k : Nat} {w : InFlow} (flow : s.inFlows[k]? = some w) (own : w.die = n.val)
    (owes : w.since ≠ 0) (live : (s.peerState w.rank).state = 2) : execSackTimer n k s = .next (s.sendSack k) := by
  simp only [execSackTimer, flow]
  exact if_pos ⟨own, owes, live⟩

/-! ## Peers lost (R353) -/

/-- A peer is not heard; with it the flows and sends to it go. -/
def peerGone (s : State) (n rank : Nat) : State :=
  let u := (s.setPeer rank { s.peerState rank with state := 3 }).missPeer rank
  ((u.event (0x4200 + n) EV_PEER_LOST noDomain (leBytes 2 rank ++ zeros 6 ++ leBytes 8 (u.moduleId rank))).dropFlows rank).dropSends rank

/-- The undecided collectives weighed anew. -/
def weighedAnew (s : State) : State :=
  s.colls.foldl (fun s c => if c.launched.isSome && c.verdict.isNone && !c.ended then s.weigh (s.coll c.dom c.id c.step) else s) s

theorem execPeerTimeout_eq (n : Fin 4) (rank : Nat) (s : State) : execPeerTimeout n rank s =
    if (bitOf s.links n.val = false ∧ s.links ≠ 0) ∨ (s.peerState rank).state ≠ 2 then .next s
    else .next ((weighedAnew (if (peerGone s n.val rank).timeMaster = rank then (peerGone s n.val rank).changeMaster
      else peerGone s n.val rank).reNotice).losePartner rank) := by
  delta execPeerTimeout weighedAnew peerGone
  rfl

/-- The loss of a peer that is not the time master. -/
theorem execPeerTimeout_loses {s : State} {n : Fin 4} {rank : Nat} (declares : bitOf s.links n.val = true ∨ s.links = 0)
    (live : (s.peerState rank).state = 2) (other : (peerGone s n.val rank).timeMaster ≠ rank) :
    execPeerTimeout n rank s = .next ((weighedAnew (peerGone s n.val rank).reNotice).losePartner rank) := by
  have lost : ¬ ((bitOf s.links n.val = false ∧ s.links ≠ 0) ∨ (s.peerState rank).state ≠ 2) := by
    rcases declares with h | h <;> simp [h, live]
  rw [execPeerTimeout_eq, if_neg lost, if_neg other]

/-- Settles O42: each command by the lemma of its case. -/
theorem linePortsComplete : Obligations.LinePortsComplete :=
  ⟨⟨fun _ _ _ there sound => execPortLinkUp_up there sound, fun _ _ _ failed => if_neg fun h => failed h.2,
      fun _ _ _ failed ecc there up => execPortLinkDown_down failed ecc there up,
      fun _ _ _ failed ecc absent => unconfigured_port_idle failed ecc absent, fun _ _ _ there down => if_pos ⟨there, down⟩⟩,
    fun _ _ _ _ ecc _ flow own live sent => execRetransmitTimer_resends ecc flow own live sent,
    fun w seq => ⟨List.length_map _, fun _ _ h => doubleTimer_getElem? w seq h⟩,
    fun _ _ _ _ ecc _ flow none => execRetransmitTimer_unsent ecc flow none, fun _ _ _ p way => resendFrames_unacked p way,
    fun _ _ _ _ flow own owes live => execSackTimer_sends flow own owes live,
    fun _ _ _ declares live other => execPeerTimeout_loses declares live other⟩

end Sys2Proof.Laws
end

section
/-!
# The ends of collectives (R361 to R364)
-/
namespace Sys2Proof.Laws
open Sys2Proof.Machine

theorem findColl_none {s : State} {d id : Nat} {p : Coll → Bool} (h : s.findColl d id p = none) {c : Coll} (hc : c ∈ s.colls)
    (hd : c.dom = d) (hi : c.id = id) : p c = false := by
  simpa [hd, hi] using List.find?_eq_none.mp h c hc

section
variable {s : State} {d : Fin 64} {c : Nat} {x : Coll}

theorem execCollGraceExpiry_settles (h : s.findColl d.val c (fun x => s.coordinates x && s.rootHeld x &&
      (match x.quorum with | some q => decide (q + postGrace x.post ≤ s.tick) | none => false)) = some x) :
    execCollGraceExpiry d c s = .next (s.settle x ST_OK) := by
  unfold execCollGraceExpiry
  split
  · next y hy => rw [Option.some.inj (hy.symm.trans h)]
  · next hn => exact absurd (hn.symm.trans h) nofun

theorem execCollHardTimeout_settles (h : s.findColl d.val c (fun x => s.coordinates x && (x.quorum.isNone || !s.rootHeld x) &&
      (match x.launched with | some q => decide (q + postHard x.post ≤ s.tick) | none => false)) = some x) :
    execCollHardTimeout d c s = .next (s.settle x ST_COLL_TIMEOUT) := by
  unfold execCollHardTimeout
  split
  · next y hy => rw [Option.some.inj (hy.symm.trans h)]
  · next hn => exact absurd (hn.symm.trans h) nofun

theorem execCollComplete_completes {v : Verdict} {bs : List (Nat × Bytes)} (h : s.findColl d.val c (fun x => x.launched.isSome && !x.ended &&
      !(s.revoked x.unit) && (match x.verdict with | some v => (x.outcome v).isSome | none => false)) = some x)
    (decided : x.verdict = some v) (known : x.outcome v = some bs) : execCollComplete d c s = .next (s.completeColl x v bs) := by
  unfold execCollComplete
  split
  · next hn => exact absurd (hn.symm.trans h) nofun
  · next y hy => simp only [Option.some.inj (hy.symm.trans h), decided, known]

end

/-- Settles O45: an end that is found by its branch, none found by what the search skips. -/
theorem collectiveEndsComplete : Obligations.CollectiveEndsComplete :=
  ⟨fun _ _ _ _ h => execCollGraceExpiry_settles h, fun _ _ _ _ h => execCollHardTimeout_settles h,
    fun _ _ _ _ _ _ h decided known => execCollComplete_completes h decided known, fun _ _ _ _ h _ hc hd hi => findColl_none h hc hd hi⟩

end Sys2Proof.Laws
end

section
/-!
# Frames that fail their CRC (R348)
-/
namespace Sys2Proof.Laws
open Sys2Proof.Machine

/-- A flow with one frame of the survival engine to resend, whose grants the arbiter of a link die has revoked. -/
def revokedSender : State :=
  { Tests.lineUp.setFld (LNK_STATUS_PORTS_UP 0) 1 with outFlows := [Tests.unsacked], arbs := [(0, { faulted := [0x8005] })] }

/-- `State.barred` keeps the frame from `State.emit`. -/
theorem revokedSender_resends_nothing :
    (revokedSender.resendFrames Tests.unsacked (fun x => x.seq == 0)).1.outs.line = revokedSender.outs.line := by
  have nothing : (revokedSender.resendFrames Tests.unsacked (fun x => x.seq == 0)).1.outs.line.length = 0 := by decide +kernel
  exact List.eq_nil_of_length_eq_zero nothing

/-- Refutes O58: the clause on the retransmission timer leaves out R327. The frame is a SNAP_REQ of the survival engine (unit 0x8005), a grant
of which an arbiter has revoked; the engine gets no further grant, and RETRANSMIT_TIMER puts nothing on the line. -/
theorem not_corruptFramesAreDiscarded : ¬ Obligations.CorruptFramesAreDiscarded := by
  rintro ⟨-, -, resent⟩
  have way : revokedSender.wayOut Tests.unsacked.die Tests.unsacked.flow = some (0, 0) := by decide +kernel
  obtain ⟨-, sent⟩ := resent revokedSender 0 0 Tests.unsacked { body := .snapReq 0 } rfl rfl List.mem_cons_self (by decide)
    (by decide +kernel)
  obtain ⟨o, line, -⟩ := sent (0, 0) way
  rw [revokedSender_resends_nothing] at line
  exact absurd (List.self_eq_append_right.mp line) (List.cons_ne_nil o [])

end Sys2Proof.Laws
end

section
/-!
# The step and its commands
-/
namespace Sys2Proof.Laws
open Sys2Proof.Machine

/-- Settles O1: a case split on the queue. -/
theorem stepRunsFront : Obligations.StepRunsFront := by
  constructor
  · intro s c cs front
    simp only [step, front]
  · intro s empty
    simp only [step, empty]

/-- Settles O2 from what every command answers. -/
theorem everyCommandAnswers : Obligations.EveryCommandAnswers := fun c s =>
  let ⟨t, answer, _⟩ := answers_exec c (keeps_refl s)
  ⟨t, answer⟩

end Sys2Proof.Laws
end

section
/-!
# The management controller: debug grants (R467) and the SPDM responder (R466)
-/
namespace Sys2Proof.Laws
open Sys2Proof.Machine

/-! ## Debug grants -/

section
variable {s : State} {g : Bytes}

theorem execDebugNonce_running (running : s.phase = .running) : execDebugNonce false s = .next
    ({ s with security := { s.security with
        nonce := some (padTo 32 (Config.nonce s.security.nonces))
        nonces := s.security.nonces + 1 } }.answer 0x20 ST_OK (padTo 32 (Config.nonce s.security.nonces))) :=
  if_neg (not_not.mpr running)

theorem execDebugGrant_refused (running : s.phase = .running) (flaw : s.grantStatus g ≠ ST_OK) :
    execDebugGrant g false s = .next (s.answer 0x21 (s.grantStatus g) []) :=
  (if_neg (not_not.mpr running)).trans (if_pos flaw)

theorem execDebugGrant_accepted (running : s.phase = .running) (sound : s.grantStatus g = ST_OK) :
    let u := (s.answer 0x21 ST_OK []).endGrant 2
    let life := fieldAt g 16 4
    let n : Grant := { scope := fieldAt g 4 1, keyId := fieldAt g 20 8, lifetime := life, ends := u.localNs + life * 1000000000 }
    execDebugGrant g false s = .next ({ u with security := { u.security with grant := some n, nonce := none } }.event 0xA000 EV_DEBUG_GRANTED
      noDomain (leBytes 1 n.scope ++ zeros 3 ++ leBytes 4 life ++ leBytes 8 n.keyId)) := by
  refine (if_neg (not_not.mpr running)).trans ?_
  rw [sound]
  exact if_neg (not_not.mpr rfl)

theorem execDebugRevoke_running (running : s.phase = .running) :
    execDebugRevoke false s = .next ((s.answer 0x22 ST_OK []).endGrant 1) :=
  if_neg (not_not.mpr running)

/-- A grant passes no condition but with what the condition asks. -/
theorem of_grantStatus_ok (sound : s.grantStatus g = ST_OK) : s.security.nonce = some (takeAt g 64 32) ∧ fieldAt g 8 8 = ownModuleId ∧
    1 ≤ fieldAt g 16 4 ∧ fieldAt g 16 4 ≤ 86400 ∧
    ∃ k, s.keyNamed (fieldAt g 20 8) = some k ∧ Config.ed25519Verify k (sha512 (takeAt g 0 128)) (takeAt g 128 64) = true := by
  unfold State.grantStatus at sound
  split at sound
  · exact absurd sound (by decide)
  split at sound
  · exact absurd sound (by decide)
  split at sound
  · exact absurd sound (by decide)
  split at sound
  · exact absurd sound (by decide)
  split at sound
  · exact absurd sound (by decide)
  next module nonce lifetime =>
  have named : ∃ k, s.keyNamed (fieldAt g 20 8) = some k ∧
      Config.ed25519Verify k (sha512 (takeAt g 0 128)) (takeAt g 128 64) = true := by
    split at sound
    · next k key =>
      refine ⟨k, key, ?_⟩
      by_contra unsigned
      rw [if_neg unsigned] at sound
      exact absurd sound (by decide)
    · exact absurd sound (by decide)
  exact ⟨not_not.mp nonce, not_not.mp module, by omega, by omega, named⟩

end

/-- Settles O50: each request by the lemma of its case; a grant that is sound by the conditions it passed. -/
theorem debugGrantComplete : Obligations.DebugGrantComplete :=
  ⟨fun _ running => execDebugNonce_running running, fun _ _ running flaw => execDebugGrant_refused running flaw,
    fun _ _ running sound => execDebugGrant_accepted running sound, fun _ running => execDebugRevoke_running running,
    fun _ => rfl, fun _ => rfl, fun _ _ sound => of_grantStatus_ok sound⟩

/-! ## The SPDM responder -/

theorem spdm_running {s : State} (data : Bytes) (running : s.phase = .running) :
    s.spdm data = .next ((s.addFld MGT_COUNTS_SPDM 1).reply ST_OK data) :=
  if_neg (not_not.mpr running)

/-- The measurements are numbered from 1. -/
theorem execGetMeasurements_one {s : State} {index : Nat} {m : Bytes} (numbered : 1 ≤ index) (measured : s.measurements[index - 1]? = some m)
    (nonce : Option Bytes) : execGetMeasurements index nonce s = s.spdm (nonce.elim m (s.signed · m)) := by
  have six : index - 1 < 6 := (List.getElem?_eq_some_iff.mp measured).1
  have data : s.measurements.getD (index - 1) [] = m := by rw [List.getD_eq_getElem?_getD, measured, Option.getD_some]
  unfold execGetMeasurements
  dsimp only
  rw [if_neg (by omega), if_neg (by omega), data]
  cases nonce <;> rfl

/-- Settles O52: each request is answered and counted by `spdm_running`, with its own data. -/
theorem spdmResponderCompletes : Obligations.SpdmResponderCompletes := by
  intro s running
  refine ⟨spdm_running _ running, spdm_running (s := { s with fresh := s.fresh + 1 }) _ running, spdm_running _ running,
    spdm_running _ running, fun _ _ => spdm_running _ running, fun _ => spdm_running _ running, ?_, fun _ => spdm_running _ running⟩
  intro index least most
  have six : index - 1 < s.measurements.length := by
    show index - 1 < 6
    omega
  have measured := List.getElem?_eq_getElem six
  exact ⟨_, measured, (execGetMeasurements_one least measured none).trans (spdm_running _ running),
    fun nonce => (execGetMeasurements_one least measured (some nonce)).trans (spdm_running _ running)⟩

end Sys2Proof.Laws
end

section
/-!
# The Debug Port, halt, trace and the watch readings (R468 to R480)
-/
namespace Sys2Proof.Laws
open Sys2Proof.Machine

/-! ## The Debug Port -/

theorem shifted_append (cells tdi : List Bool) : (shifted cells tdi).1 ++ (shifted cells tdi).2 = cells ++ tdi := List.take_append_drop _ _

theorem length_shifted_fst (cells tdi : List Bool) : (shifted cells tdi).1.length = tdi.length := by
  simp [shifted]

theorem length_shifted_snd (cells tdi : List Bool) : (shifted cells tdi).2.length = cells.length := by
  simp [shifted]

theorem idcode_bit {i : Nat} (h : i < 32) : idcode[i]? = some (bitOf 0x1D8A04B7 i) := by
  simp [idcode, h]

section
variable {s : State}

theorem jtagOn_of_supplies (on : s.phase ≠ .off) : s.jtagOn = true := bne_iff_ne.mpr on

theorem execJtagBypass_on (on : s.phase ≠ .off) (tdi : List Bool) :
    execJtagBypass tdi s = .next (s.jtagOut .bypass (shifted [false] tdi).1) := if_pos (jtagOn_of_supplies on)

theorem execJtagIdcode_on (on : s.phase ≠ .off) (tdi : List Bool) :
    execJtagIdcode tdi s = .next (s.jtagOut .idcode (shifted idcode tdi).1) := if_pos (jtagOn_of_supplies on)

theorem execJtagSamplePreload_on (on : s.phase ≠ .off) (tdi pins : List Bool) : execJtagSamplePreload tdi pins s =
    .next ({ s with dbg := { s.dbg with cells := (shifted pins tdi).2 } }.jtagOut .samplePreload (shifted pins tdi).1) :=
  if_pos (jtagOn_of_supplies on)

theorem execJtagExtest_reset (on : s.phase ≠ .off) (reset : s.rstN = false) (tdi pins : List Bool) : execJtagExtest tdi pins s =
    .next { s with dbg := { s.dbg with ir := .extest, cells := (shifted pins tdi).2, driven := (shifted pins tdi).2 },
                   outs := { s.outs with jtag := (shifted pins tdi).1 } } := by
  simp [execJtagExtest, jtagOn_of_supplies on, reset]

theorem execJtagExtest_idle (on : s.phase ≠ .off) (idle : s.rstN = true) (tdi pins : List Bool) : execJtagExtest tdi pins s =
    .next (s.jtagPass .extest tdi) := by
  simp [execJtagExtest, jtagOn_of_supplies on, idle]

theorem execJtagClamp_reset (on : s.phase ≠ .off) (reset : s.rstN = false) (tdi : List Bool) : execJtagClamp tdi s =
    .next { s with dbg := { s.dbg with ir := .clamp, driven := s.dbg.cells }, outs := { s.outs with jtag := (shifted [false] tdi).1 } } := by
  simp [execJtagClamp, jtagOn_of_supplies on, reset]

theorem execInstrumentAccess_granted (on : s.phase ≠ .off) (scope : bitOf s.scope 0 = true) (tdi capture : List Bool) :
    execInstrumentAccess tdi capture s =
      .next ({ s with dbg := { s.dbg with segments := tdi } }.jtagOut .instrument (shifted (s.dbg.segments ++ capture) tdi).1) := by
  simp [execInstrumentAccess, jtagOn_of_supplies on, scope]

/-! ## Halt, trace and the counters -/

theorem execHaltResume_resumes {value : Word} (running : s.phase = .running) (scope : bitOf s.scope 1 = true)
    (halted : (s.tile (bitsOf value.toNat 0 9)).run = .halted) :
    execHaltResume value s = .next (s.setTile (bitsOf value.toNat 0 9) (s.tile (bitsOf value.toNat 0 9)).resumed) := by
  simp [execHaltResume, running, scope, halted]

theorem execHaltResume_denied (running : s.phase = .running) (scope : bitOf s.scope 1 = false) (value : Word) :
    execHaltResume value s = .next (s.addFld DBG_STATUS_DENIED 1) := by
  simp [execHaltResume, running, scope, State.deny]

theorem execTraceEnable_granted (running : s.phase = .running) (scope : bitOf s.scope 2 = true) (value : Word) :
    execTraceEnable value s = .next (s.setReg DBG_TRACE_CTRL (word (value.toNat &&& 0x7FFFFF03))) := by
  simp [execTraceEnable, running, scope]

theorem execTraceEnable_denied (running : s.phase = .running) (scope : bitOf s.scope 2 = false) (value : Word) :
    execTraceEnable value s = .next (s.addFld DBG_STATUS_DENIED 1) := by
  simp [execTraceEnable, running, scope, State.deny]

theorem execDebugCounterUpdate_running (running : s.phase = .running) : execDebugCounterUpdate s =
    .next ((List.range 64).foldl (fun (w : State) d => if (w.domEntry d).isSome then w.showCounts d (DBG_GCNT d) else w)
      (s.showCounts 64 DBG_PCNT)) :=
  if_neg (not_not.mpr running)

/-! ## Watch readings -/

theorem execWatchReadingEnd_finds (point : Fin 256) (fs : List Found) :
    execWatchReadingEnd point fs s = execWatchReadingEnd point [] (s.findErrors fs) := rfl

theorem execWatchReadingEnd_keeps {point : Fin 256} {r : Reading} {rs : List Reading} (reading : s.readingsOf point.val = r :: rs) :
    let acc := s.watchWords r.base (r.len / 4) {}
    let u := { s with fresh := s.fresh + 1,
                      dbg := { s.dbg with readings := smapPut (fun _ => some []) s.dbg.readings point.val rs } }
    let v := u.countHbm r.base r.len
    execWatchReadingEnd point [] s = .next (v.keepWatch point.val (v.watchRecord point.val r false (acc.bytes r.stats s.fresh))) := by
  simp only [execWatchReadingEnd, findErrors_nil, reading]

end

/-- Settles O53: each command by the lemma of its case. -/
theorem debugCommandsComplete : Obligations.DebugCommandsComplete :=
  ⟨⟨fun _ tdi on => ⟨execJtagBypass_on on tdi, execJtagIdcode_on on tdi⟩, fun _ tdi pins on => execJtagSamplePreload_on on tdi pins,
      fun _ tdi pins on reset => ⟨execJtagExtest_reset on reset tdi pins, execJtagClamp_reset on reset tdi⟩,
      fun _ tdi capture on scope => execInstrumentAccess_granted on scope tdi capture,
      fun cells tdi => ⟨shifted_append cells tdi, length_shifted_fst cells tdi, length_shifted_snd cells tdi⟩, fun _ h => idcode_bit h⟩,
    ⟨fun _ _ running scope halted => execHaltResume_resumes running scope halted,
      fun _ value running scope => execHaltResume_denied running scope value,
      fun _ value running scope => execTraceEnable_granted running scope value,
      fun _ value running scope => execTraceEnable_denied running scope value, fun _ running => execDebugCounterUpdate_running running⟩,
    fun _ point fs => execWatchReadingEnd_finds point fs, fun _ _ _ _ reading => execWatchReadingEnd_keeps reading⟩

/-- Refutes O54: EXTEST that acts as BYPASS shifts the same bits out, but its own instruction stays in the instruction register, so
that the state of the port differs from the one that BYPASS leaves. -/
theorem not_debugPortWithoutGrant : ¬ Obligations.DebugPortWithoutGrant := by
  rintro ⟨-, asBypass, -⟩
  have on : State.reset.phase ≠ .off := by decide
  have same : execJtagExtest [] [] State.reset = execJtagBypass [] State.reset := (asBypass State.reset [] [] on rfl).1
  rw [execJtagExtest_idle on rfl, execJtagBypass_on on] at same
  have ir : JtagInstr.extest = JtagInstr.bypass := congrArg (fun s : State => s.dbg.ir) (Host.Outcome.next.inj same)
  exact absurd ir (by decide)

end Sys2Proof.Laws
end

section
/-!
# Firmware updates (R460)
-/
namespace Sys2Proof.Laws
open Sys2Proof.Machine

/-- The first data of a component, none of its KIND being received. -/
theorem execFirmwareUpdateTransfer_begins {s : State} {component : BitVec 16} (running : s.phase = .running)
    (kinds : component.toNat = 1 ∨ component.toNat = 2) (idle : s.transfer component.toNat = none) (data : Bytes)
    (floor : Option (Nat × Bytes)) :
    let kind := component.toNat
    let b := s.updateSlotB kind
    let c := s.security.setSlot kind b {}
    let e := { c with updates := c.updates.filter (· != kind), pendingFloor := c.pendingFloor.filter (fun f => f.1 != kind),
                      untried := c.untried.filter (· != (kind, b)) }
    execFirmwareUpdateTransfer component true data floor s =
      .next (({ s with security := e }.setTransfer kind (some { kind := kind, bytes := data, floor := floor })).reply ST_OK []) := by
  have known : ¬ (component.toNat ≠ 1 ∧ component.toNat ≠ 2) := by omega
  unfold execFirmwareUpdateTransfer
  simp only [running, ne_eq, not_true_eq_false, false_and, if_false, if_neg known, idle]

/-- An update of the vendor image that was applied to slot B and not booted yet: `State.applied` has marked the slot as untried. -/
def appliedUpdate : State :=
  { State.reset with phase := .running, security := { State.reset.security with updates := [1], untried := [(1, true)] } }

/-- Refutes O51: the clause on a transfer that begins leaves the mark of an untried image as it is. Where an applied update is replaced
before it was booted, the slot it marked is erased, and the model takes the mark away with the image. -/
theorem not_managementRequestsComplete : ¬ Obligations.ManagementRequestsComplete := by
  rintro ⟨-, -, begins, -⟩
  have stated := begins appliedUpdate 1#16 [] none rfl (Or.inl rfl) rfl
  have answer := execFirmwareUpdateTransfer_begins (s := appliedUpdate) (component := 1#16) rfl (Or.inl rfl) rfl [] none
  have marks : [] = [(1, true)] := congrArg (fun t : State => t.security.untried) (Host.Outcome.next.inj (answer.symm.trans stated))
  exact absurd marks (by decide)

end Sys2Proof.Laws
end

section
/-!
# The facility port: frames into the module and its field side (R445 to R450)
-/
namespace Sys2Proof.Laws
open Sys2Proof.Machine

/-! ## Frames from the field side -/

section
variable {s : State} {f : FieldFrame} {type : Nat}

theorem takeField_taken (running : s.phase = .running) (ok : f.ok = true) (kind : f.kind.toNat = type) (least : 1 ≤ type) (most : type ≤ 16) :
    s.takeField type f = ((s.addFld FAC_COUNTS_FRAMES 1).setFld FAC_STATUS_LINK_UP 1, true) := by
  have listed : ¬ (f.kind.toNat < 1 ∨ 16 < f.kind.toNat) := by omega
  unfold State.takeField
  rw [if_neg (not_not.mpr running), if_neg (by simp [ok]), if_neg listed, if_neg (not_not.mpr kind)]

theorem takeField_corrupt (running : s.phase = .running) (bad : f.ok = false) (type : Nat) :
    s.takeField type f = ((s.addFld FAC_COUNTS_CHECK_ERR 1).addFld FAC_COUNTS_REFUSED 1, false) :=
  (if_neg (not_not.mpr running)).trans (if_pos bad)

theorem takeValue_corrupt (running : s.phase = .running) (bad : f.ok = false) (type : Nat) :
    s.takeValue type f = ((s.addFld FAC_COUNTS_CHECK_ERR 1).addFld FAC_COUNTS_REFUSED 1, false) := by
  unfold State.takeValue
  rw [takeField_corrupt running bad]
  rfl

theorem takeField_foundation : (s.takeField type f).1.foundation = s.foundation := by
  unfold State.takeField
  split
  · rfl
  split
  · exact (addFld_foundation _ _ _).trans (addFld_foundation _ _ _)
  split
  · exact addFld_foundation _ _ _
  split
  · rfl
  · exact (setFld_foundation _ _ _).trans (addFld_foundation _ _ _)

/-- A pair by its parts. -/
theorem takeField_of_taken (taken : (s.takeField type f).2 = true) : s.takeField type f = ((s.takeField type f).1, true) :=
  Prod.ext rfl taken

theorem takeValue_of_taken (taken : (s.takeValue type f).2 = true) : s.takeValue type f = ((s.takeValue type f).1, true) :=
  Prod.ext rfl taken

/-! ## What a frame that is taken does -/

theorem execInletTemp_taken (taken : (s.takeValue 1 f).2 = true) :
    execInletTemp f s = .next (((s.takeValue 1 f).1.setFld FAC_COOLANT_INLET f.value.toNat).judgeCoolant) :=
  congrArg Host.Outcome.next (if_pos taken)

theorem execFlow_taken (taken : (s.takeValue 2 f).2 = true) :
    execFlow f s = .next (((s.takeValue 2 f).1.setFld FAC_COOLANT_FLOW f.value.toNat).judgeCoolant) :=
  congrArg Host.Outcome.next (if_pos taken)

theorem execPressure_taken (taken : (s.takeValue 3 f).2 = true) :
    execPressure f s = .next ((s.takeValue 3 f).1.setFld FAC_COOLANT_PRESSURE f.value.toNat) :=
  congrArg Host.Outcome.next (if_pos taken)

theorem execFeedId_taken (taken : (s.takeValue 5 f).2 = true) :
    execFeedId f s = .next ((s.takeValue 5 f).1.setFld FAC_FEED_FEED_ID f.value.toNat) :=
  congrArg Host.Outcome.next (if_pos taken)

theorem execLoopId_taken (taken : (s.takeValue 7 f).2 = true) :
    execLoopId f s = .next ((s.takeValue 7 f).1.setFld FAC_FEED_LOOP_ID f.value.toNat) :=
  congrArg Host.Outcome.next (if_pos taken)

theorem execLeak_raised (taken : (s.takeField 4 f).2 = true) (served : (s.takeField 4 f).1.fld FAC_STATUS_MINOR ≠ 0xFF)
    (alarm : f.value.toNat % 4 = 1) (rise : bitOf ((s.takeField 4 f).1.fld FAC_COOLANT_LEAK) 0 = false)
    (hold : s.foundation.leakAction = 1) :
    let u := ((s.takeField 4 f).1.setFld FAC_COOLANT_LEAK 1).event 0xB000 EV_LEAK noDomain (leBytes 1 1 ++ leBytes 1 1)
    execLeak f s = .next { u with facility := { u.facility with leakHold := true } } := by
  have action : ((s.takeField 4 f).1.setFld FAC_COOLANT_LEAK 1).foundation.leakAction = 1 := by
    rw [setFld_foundation, takeField_foundation, hold]
  have alarmed : (bitOf 1 0 && !false) = true := by decide
  unfold execLeak
  rw [takeField_of_taken taken]
  simp only [if_neg served, alarm, rise, if_neg one_ne_zero, if_pos alarmed, action, if_true]

theorem execLeak_ended (taken : (s.takeField 4 f).2 = true) (served : (s.takeField 4 f).1.fld FAC_STATUS_MINOR ≠ 0xFF)
    (none : f.value.toNat % 4 = 0) :
    let u := (s.takeField 4 f).1.setFld FAC_COOLANT_LEAK 0
    execLeak f s = .next { u with facility := { u.facility with leakHold := false } } := by
  have calm : bitOf 0 0 = false := by decide
  unfold execLeak
  rw [takeField_of_taken taken]
  simp only [if_neg served, none, calm, Bool.false_and, Bool.false_eq_true, if_false, if_true]

theorem execFeedState_taken (taken : (s.takeValue 6 f).2 = true) :
    let u := (s.takeValue 6 f).1
    let v := u.setFld FAC_STATE_FEED_STATE f.value.toNat
    execFeedState f s = .next (if f.value.toNat ≠ u.fld FAC_STATE_FEED_STATE ∧ (f.value.toNat = 1 ∨ f.value.toNat = 2)
      then (v.event 0xB000 EV_FEED_ON_BATTERY noDomain (leBytes 1 f.value.toNat)).addRisk riskBattery else v) := by
  unfold execFeedState
  rw [takeValue_of_taken taken]

theorem execShed_ended (taken : (s.takeField 8 f).2 = true) (served : (s.takeField 8 f).1.fld FAC_STATUS_MINOR ≠ 0xFF)
    (none : f.value.toNat % 65536 = 0) (new : (s.takeField 8 f).1.facility.shedSeen ≠ 0) :
    let u := (s.takeField 8 f).1
    execShed f s = .next ((({ u with facility := { u.facility with shedSeen := 0 } }).setFld FAC_STATE_SHED_W 0).scaleEnvelopes) := by
  unfold execShed
  rw [takeField_of_taken taken]
  simp only [none, if_neg (not_or.mpr ⟨served, new.symm⟩), if_true]

theorem execShed_begins (taken : (s.takeField 8 f).2 = true) (served : (s.takeField 8 f).1.fld FAC_STATUS_MINOR ≠ 0xFF)
    (some : f.value.toNat % 65536 ≠ 0) (new : (s.takeField 8 f).1.facility.shedSeen ≠ f.value.toNat % 65536) :
    let u := (s.takeField 8 f).1
    let w := max 1000 (f.value.toNat % 65536)
    let v := ({ u with facility := { u.facility with shedSeen := f.value.toNat % 65536 } }).setFld FAC_STATE_SHED_W w
    execShed f s = .next (v.event 0xB000 EV_SHED noDomain (leBytes 2 w ++ leBytes 2 v.effectiveCap)).scaleEnvelopes := by
  have floor : max 1000 (f.value.toNat % 65536) ≠ 0 := by omega
  unfold execShed
  rw [takeField_of_taken taken]
  simp only [if_neg (not_or.mpr ⟨served, new.symm⟩), if_neg some, if_neg floor]

theorem execFacilityHeartbeat_beats (taken : (s.takeField 9 f).2 = true) (new : f.value.toNat ≠ (s.takeField 9 f).1.facility.beat) :
    let u := (s.takeField 9 f).1
    execFacilityHeartbeat f s = .next (({ u with facility := { u.facility with beat := f.value.toNat } }).setFld FAC_STATUS_STALE 0) := by
  unfold execFacilityHeartbeat
  rw [takeField_of_taken taken]
  exact if_neg new

theorem execFieldStatus_taken (taken : (s.takeField 10 f).2 = true) (errors : BitVec 16) (major minor : BitVec 8) :
    let u := (s.takeField 10 f).1
    let v := { u with facility := { u.facility with supply := f.value.toNat % 65536, errors := errors.toNat, major := major.toNat, minor := minor.toNat } }
    execFieldStatus f errors major minor s = .next ((v.setFld FAC_STATUS_FIELD_SUPPLY f.value.toNat).setFld FAC_STATUS_MINOR
      (if major.toNat = 1 then min 2 minor.toNat else 0xFF)) := by
  unfold execFieldStatus
  rw [takeField_of_taken taken]

/-! ## Frames that fail their check -/

theorem frames_corrupt (running : s.phase = .running) (bad : f.ok = false) :
    let u := (s.addFld FAC_COUNTS_CHECK_ERR 1).addFld FAC_COUNTS_REFUSED 1
    execInletTemp f s = .next u ∧ execFlow f s = .next u ∧ execPressure f s = .next u ∧ execLeak f s = .next u ∧
      execFeedId f s = .next u ∧ execFeedState f s = .next u ∧ execLoopId f s = .next u ∧ execShed f s = .next u ∧
      execFacilityHeartbeat f s = .next u := by
  have field := takeField_corrupt running bad
  have value := takeValue_corrupt running bad
  simp only [execInletTemp, execFlow, execPressure, execLeak, execFeedId, execFeedState, execLoopId, execShed, execFacilityHeartbeat,
    field, value, Bool.false_eq_true, if_false, and_self]

end

/-- Settles O49: each frame by the lemma of its type, and the check of `State.takeField`. -/
theorem facilityFramesComplete : Obligations.FacilityFramesComplete :=
  ⟨fun _ _ taken => execInletTemp_taken taken, fun _ _ taken => execFlow_taken taken, fun _ _ taken => execPressure_taken taken,
    fun _ _ taken => execFeedId_taken taken, fun _ _ taken => execLoopId_taken taken,
    fun _ _ taken served alarm rise hold => execLeak_raised taken served alarm rise hold,
    fun _ _ taken served none => execLeak_ended taken served none, fun _ _ taken => execFeedState_taken taken,
    fun _ _ taken served none new => execShed_ended taken served none new,
    fun _ _ taken served some new => execShed_begins taken served some new,
    fun _ _ taken new => execFacilityHeartbeat_beats taken new,
    fun _ _ errors major minor taken => execFieldStatus_taken taken errors major minor,
    fun _ _ running bad => frames_corrupt running bad,
    fun _ _ _ running ok kind least most => takeField_taken running ok kind least most⟩

end Sys2Proof.Laws
end

section
/-!
# The Modbus server and the periods of the facility port (R447 to R450)
-/
namespace Sys2Proof.Laws
open Sys2Proof.Machine

section
variable {s : State} {unit : BitVec 8} {pins : BitVec 3}

/-! ## Modbus -/

theorem modbusOther_refuses {fn : Nat} (mine : unit.toNat = serverAddress pins) (foreign : fn ∉ [3, 4, 6, 16]) :
    s.modbusOther unit pins fn = s.modbusRefuse pins fn 1 := by
  have unknown : ¬ ([3, 4, 6, 16].contains fn || unit.toNat != serverAddress pins) = true := by
    simpa [mine] using foreign
  exact if_neg unknown

theorem modbusOther_elsewhere (other : unit.toNat ≠ serverAddress pins) (fn : Nat) : s.modbusOther unit pins fn = s := by
  have notMine : ([3, 4, 6, 16].contains fn || unit.toNat != serverAddress pins) = true := by simp [other]
  exact if_pos notMine

/-- A single register within the map takes a value of its range, and the reply repeats the request. -/
theorem modbusWrite_one (mine : unit.toNat = serverAddress pins) {addr value : Nat} (within : addr < 11)
    (takes : holdingTakes addr value = true) (fn : Nat) (reply : Bytes) :
    s.modbusWrite unit pins fn addr [value] reply = ({ s with facility := { s.facility with
        holding := s.facility.holding.set addr value
        inward := [holdingMessage (s.facility.holding.set addr value) addr] } } : State).modbusReply pins fn reply := by
  have inside : ¬ 11 < addr + 1 := by omega
  simp [State.modbusWrite, mine, inside, takes]

theorem modbusWrite_outside (mine : unit.toNat = serverAddress pins) {addr : Nat} (outside : 11 ≤ addr) (fn value : Nat) (reply : Bytes) :
    s.modbusWrite unit pins fn addr [value] reply = s.modbusRefuse pins fn 2 := by
  have beyond : 11 < addr + 1 := by omega
  simp [State.modbusWrite, mine, beyond]

theorem modbusWrite_elsewhere (other : unit.toNat ≠ serverAddress pins) (single : unit ≠ 0#8) (fn addr : Nat) (vals : List Nat)
    (reply : Bytes) : s.modbusWrite unit pins fn addr vals reply = s := by
  have notMine : (!(unit.toNat == serverAddress pins) && unit != 0#8) = true := by simp [other, single]
  exact if_pos notMine

theorem execModbusWriteMultipleRegisters_writes {values : List (BitVec 16)} (some : values ≠ []) (most : values.length ≤ 123)
    (addr : BitVec 16) : execModbusWriteMultipleRegisters unit pins addr values s =
      .next (s.modbusWrite unit pins 16 addr.toNat (values.map (·.toNat)) (hiLo addr.toNat ++ hiLo values.length)) :=
  if_neg (not_or.mpr ⟨some, not_lt.mpr most⟩)

theorem execModbusWriteSingleRegister_writes {addr value : BitVec 16} (mine : unit.toNat = serverAddress pins) (within : addr.toNat < 11)
    (takes : holdingTakes addr.toNat value.toNat = true) : ∃ t, execModbusWriteSingleRegister unit pins addr value s = .next t ∧
      t.facility.holding = s.facility.holding.set addr.toNat value.toNat ∧
      t.outs.modbus = [byte (serverAddress pins), byte 6] ++ hiLo addr.toNat ++ hiLo value.toNat ∧ sameRegs s t ∧ t.mem = s.mem :=
  ⟨_, congrArg Host.Outcome.next (modbusWrite_one mine within takes 6 _), rfl, (List.append_assoc _ _ _).symm, fun _ => rfl, rfl⟩

/-! ## Periods -/

theorem execFacilityStaleTimeout_stales (running : s.phase = .running) (fresh : s.fld FAC_STATUS_STALE ≠ 1) :
    let u := ((((s.setFld FAC_STATUS_STALE 1).setFld FAC_COOLANT_INLET 0x8000).setFld FAC_COOLANT_FLOW 0xFFFF).setFld FAC_COOLANT_PRESSURE
      0xFFFF)
    execFacilityStaleTimeout s = .next
      (((u.setReg FAC_FEED 0#64).setFld FAC_STATE_FEED_STATE 0).judgeCoolant.event 0xB000 EV_FACILITY_STALE noDomain []) :=
  if_neg (not_or.mpr ⟨not_not.mpr running, fresh⟩)

theorem execFacilityStaleTimeout_stale (stale : s.fld FAC_STATUS_STALE = 1) : execFacilityStaleTimeout s = .next s :=
  if_pos (.inr stale)

/-- The six outbound messages and the eleven registers that relay them. -/
theorem execFacilityOutboundPeriod_served (running : s.phase = .running) (served : s.fld FAC_STATUS_MINOR ≠ 0xFF) :
    ∃ t, execFacilityOutboundPeriod s = .next t ∧ t.facility.relayed.length = 11 ∧ t.facility.relayed[2]? = some (s.fld PWR_POWER_P_1S) ∧
      t.facility.relayed[4]? = some s.effectiveCap ∧ t.facility.outward.map (·.1) = [0x0B, 0x0C, 0x0D, 0x0E, 0x0F, 0x10] ∧
      t = { s with facility := { s.facility with relayed := t.facility.relayed, outward := t.facility.outward } } := by
  have major : (s.fld FAC_STATUS_MINOR != 0xFF) = true := bne_iff_ne.mpr served
  refine ⟨_, if_neg (not_not.mpr running), ?_⟩
  simp only [major, if_true]
  exact ⟨rfl, rfl, rfl, rfl, trivial⟩

theorem execFacilityOutboundPeriod_unserved (running : s.phase = .running) (other : s.fld FAC_STATUS_MINOR = 0xFF) :
    execFacilityOutboundPeriod s = .next { s with facility := { s.facility with relayed := List.replicate 11 0, outward := [] } } := by
  have major : (s.fld FAC_STATUS_MINOR != 0xFF) = false := by simp [other]
  refine (if_neg (not_not.mpr running)).trans ?_
  simp only [major, Bool.false_eq_true, if_false]

end

/-- Settles O48: Modbus by what a read, a write and another function do, and the periods one by one. -/
theorem fieldSideComplete : Obligations.FieldSideComplete :=
  ⟨⟨fun _ _ _ _ _ => ⟨rfl, rfl⟩, fun _ _ _ _ _ _ mine foreign => congrArg Host.Outcome.next (modbusOther_refuses mine foreign),
      fun _ _ fn _ _ _ other => congrArg Host.Outcome.next (modbusOther_elsewhere other fn.toNat),
      fun _ _ _ _ _ mine within takes => execModbusWriteSingleRegister_writes mine within takes,
      fun _ _ _ addr _ some most => execModbusWriteMultipleRegisters_writes some most addr,
      fun _ _ _ _ _ mine outside => congrArg Host.Outcome.next (modbusWrite_outside mine outside 6 _ _),
      fun _ _ _ _ _ other single => congrArg Host.Outcome.next (modbusWrite_elsewhere other single 6 _ _ _)⟩,
    fun _ running fresh => execFacilityStaleTimeout_stales running fresh, fun _ _ stale => execFacilityStaleTimeout_stale stale,
    fun _ running served => execFacilityOutboundPeriod_served running served,
    fun _ running other => execFacilityOutboundPeriod_unserved running other, fun _ => rfl, fun _ => rfl⟩

end Sys2Proof.Laws
end

section
/-!
# Power samples (R435, R471)
-/
namespace Sys2Proof.Laws
open Sys2Proof.Machine

/-- A module at work, before its first power sample. -/
def unsampled : State := { State.reset with phase := .running }

/-- The energy counter of the package (R471, counter 13), in µJ, in the state that a command answers. -/
def energyCounted : Out → Option Nat
  | .next t => smapFind t.counts (64 * 16 + 13)
  | _ => none

/-- A sample of VDDC_HBM alone, at 1 V and 1 A. -/
theorem unsampled_energyCounted : energyCounted (execPowerSample [] (1000#16, 1#16) unsampled) = some 1000 := by decide +kernel

/-- Refutes O47: its clause on a power sample says that only registers and the samples change. The sample also raises the energy counter by
what its millisecond took (R471): 1000 µJ at 1 W. -/
theorem not_powerCommandsComplete : ¬ Obligations.PowerCommandsComplete := by
  rintro ⟨sample, -⟩
  obtain ⟨t, answer, -, -, -, same⟩ := sample unsampled [] (1000#16, 1#16) rfl
  have energy : energyCounted (.next t) = some 1000 := (congrArg energyCounted answer).symm.trans unsampled_energyCounted
  have counts : t.counts = unsampled.counts := congrArg (·.counts) same
  have unchanged : smapFind unsampled.counts (64 * 16 + 13) = some 1000 := (congrArg (smapFind · (64 * 16 + 13)) counts).symm.trans energy
  exact absurd unchanged (by decide)

end Sys2Proof.Laws
end

section
/-!
# The survival commands (R394 to R405, R445)
-/
namespace Sys2Proof.Laws
open Sys2Proof.Machine

section
variable {s : State} {d : Fin 64}

/-! ## The mirror and the snapshots -/

theorem execMirrorCommit_commits {r : Nat} {m : MirrorDue} {ms : List MirrorDue} (partner : s.survival.partner = some r)
    (due : (s.dom d.val).mirrorDue = m :: ms)
    (acknowledged : s.unackedAt r (fun b => match b with | .mirrorBlock e n _ _ _ _ => e == d.val && n == m.step | _ => false) = false) :
    let u := s.toPartner 6 (.mirrorCommit d.val m.step s.imageId m.record)
    let n := (s.dom d.val).mirrorCount + 1
    let v := u.setDom d.val { s.dom d.val with mirrorDue := ms, mirrorCount := n, mirroredStep := if 3 ≤ n then some m.step else none }
    execMirrorCommit d s = .next (if 3 ≤ n then v.setReg (CTL_SRV_DOM_MIRROR d.val) (word m.step) else v) := by
  simp only [execMirrorCommit, partner, due]
  exact if_neg (ne_true_of_eq_false acknowledged)

theorem execSnapshotFrontCopyEnd_streams {p : Snap} (snap : (s.dom d.val).snap = some p) (holding : p.holding = true) :
    execSnapshotFrontCopyEnd d [] s = .next
      ((s.setDom d.val { s.dom d.val with snap := some { p with holding := false } }).stageFront p |>.streamSnapshot d.val p) := by
  simp only [execSnapshotFrontCopyEnd, findErrors_nil, snap, holding, if_true]

theorem execSnapshotWhole_shows {p : Snap} {b : Bytes} (snap : (s.dom d.val).snap = some p) (descriptor : p.descriptor = some b) :
    let u := { s with survival := { s.survival with area := smapIns s.survival.area d.val b, lastStart := p.start } }
    let v := (u.setDom d.val { u.dom d.val with snap := none, wholeStep := some p.step, wholeSlot := p.slot }).showWhole d.val
    let w := (v.addFld (CTL_SRV_DOM_COUNTS_WHOLE d.val) 1).setFld CTL_SRV_SPOOL_GAP 0
    execSnapshotWhole d s = .next (p.handles.foldl (fun (x : State) h => x.finishWith h ST_OK)
      (w.event 0x8005 EV_SNAPSHOT_WHOLE d.val (leBytes 8 p.step ++ leBytes 1 p.slot ++ zeros 7 ++ leBytes 8 (fieldAt b 40 8)))) := by
  simp only [execSnapshotWhole, snap, descriptor]

/-! ## Offers -/

/-- An answer whose feed and loop are known and are not this module's. -/
theorem execPartnerOfferAnswer_takes {i : Fin 4} {feed loop : BitVec 32} {r : Nat} (asking : s.survival.asking = some i.val)
    (image : s.image.isSome = true) (ownFeed : s.fld FAC_FEED_FEED_ID ≠ 0) (ownLoop : s.fld FAC_FEED_LOOP_ID ≠ 0) (hfeed : feed ≠ 0#32)
    (hloop : loop ≠ 0#32) (otherFeed : s.fld FAC_FEED_FEED_ID ≠ feed.toNat) (otherLoop : s.fld FAC_FEED_LOOP_ID ≠ loop.toNat)
    (rank : s.rankOf (s.partnerAt i.val) = some r) (room : Nat) :
    execPartnerOfferAnswer i (BitVec.ofNat 16 ST_OK) feed loop room s = .next (s.takePartner i.val r room false) := by
  have asked : ¬ (s.survival.asking ≠ some i.val ∨ s.image.isNone = true) := by simp [asking, Option.isSome_iff_ne_none.mp image]
  have known : ¬ (s.fld FAC_FEED_FEED_ID = 0 ∨ s.fld FAC_FEED_LOOP_ID = 0 ∨ feed = 0#32 ∨ loop = 0#32) := by
    simp only [ownFeed, ownLoop, hfeed, hloop, or_self, not_false_eq_true]
  have feeds : (s.fld FAC_FEED_FEED_ID == feed.toNat) = false := beq_eq_false_iff_ne.mpr otherFeed
  have loops : (s.fld FAC_FEED_LOOP_ID == loop.toNat) = false := beq_eq_false_iff_ne.mpr otherLoop
  have free : (BitVec.ofNat 16 ST_OK).toNat ≠ ST_PARTNER_BUSY := by decide
  have ok : ¬ (BitVec.ofNat 16 ST_OK).toNat ≠ ST_OK := by decide
  simp only [execPartnerOfferAnswer, if_neg asked, if_neg known, feeds, loops, Bool.false_and, Bool.or_self, Bool.false_eq_true, if_false,
    if_neg free, if_neg ok, rank]

section
variable {rank : Nat} {feed loop : BitVec 32} {plan : List (Nat × List (Nat × Nat))} {strict : Bool}

/-- A module that serves another source is busy. -/
theorem execPartnerOfferReceived_busy {r : Nat} (aloft : s.aloft = true) (source : s.survival.source = some r) (other : r ≠ rank) :
    execPartnerOfferReceived rank feed loop plan strict s = .next { s with survival := { s.survival with
      offers := s.survival.offers ++ [(rank, ST_PARTNER_BUSY, s.fld FAC_FEED_FEED_ID, s.fld FAC_FEED_LOOP_ID)] } } := by
  have busy : (r != rank) = true := bne_iff_ne.mpr other
  simp only [execPartnerOfferReceived, aloft, source, busy, Bool.true_eq_false, if_false, if_true]

/-- A source on this module's feed that is strict is answered and not served. -/
theorem execPartnerOfferReceived_sameFeed (aloft : s.aloft = true) (own : s.survival.source = none ∨ s.survival.source = some rank)
    (known : feed ≠ 0#32) (same : feed.toNat = s.fld FAC_FEED_FEED_ID) :
    execPartnerOfferReceived rank feed loop plan true s = .next { s with survival := { s.survival with
      offers := s.survival.offers ++ [(rank, ST_OK, s.fld FAC_FEED_FEED_ID, s.fld FAC_FEED_LOOP_ID)] } } := by
  have feeds : (feed != 0#32) = true := bne_iff_ne.mpr known
  rcases own with source | source <;>
    simp only [execPartnerOfferReceived, aloft, source, feeds, same, beq_self_eq_true, bne_self_eq_false, Bool.and_self, Bool.true_or,
      Bool.true_eq_false, Bool.false_eq_true, if_false, if_true]

/-- A first source starts with empty slots. -/
theorem execPartnerOfferReceived_new (aloft : s.aloft = true) (source : s.survival.source = none) :
    execPartnerOfferReceived rank feed loop plan false s = .next { s with survival := { s.survival with
      source := some rank, served := { s.survival with served := [] }.planned plan,
      offers := s.survival.offers ++ [(rank, ST_OK, s.fld FAC_FEED_FEED_ID, s.fld FAC_FEED_LOOP_ID)] } } := by
  simp only [execPartnerOfferReceived, aloft, source, Bool.and_false, Bool.true_eq_false, Bool.false_eq_true, reduceCtorEq, if_false]

/-- A source served before finds what is kept for it. -/
theorem execPartnerOfferReceived_again (aloft : s.aloft = true) (source : s.survival.source = some rank) :
    execPartnerOfferReceived rank feed loop plan false s = .next { s with survival := { s.survival with
      source := some rank, served := s.survival.planned plan,
      offers := s.survival.offers ++ [(rank, ST_OK, s.fld FAC_FEED_FEED_ID, s.fld FAC_FEED_LOOP_ID)] } } := by
  simp only [execPartnerOfferReceived, aloft, source, bne_self_eq_false, Bool.and_false, Bool.true_eq_false, Bool.false_eq_true, if_false,
    if_true]

end

end

/-- Settles O46: each command by the lemma of its case. -/
theorem survivalCommandsComplete : Obligations.SurvivalCommandsComplete :=
  ⟨fun _ _ _ _ _ partner due acknowledged => execMirrorCommit_commits partner due acknowledged,
    fun _ image master idle due => if_pos ⟨image, master, idle, due⟩, fun _ _ _ => rfl,
    fun _ _ _ snap holding => execSnapshotFrontCopyEnd_streams snap holding,
    fun _ _ _ _ snap descriptor => execSnapshotWhole_shows snap descriptor,
    fun _ _ _ _ room _ asking image ownFeed ownLoop hfeed hloop otherFeed otherLoop rank =>
      execPartnerOfferAnswer_takes asking image ownFeed ownLoop hfeed hloop otherFeed otherLoop rank room,
    fun _ _ _ _ _ _ unasked => if_pos (.inl unasked), fun _ => rfl,
    fun _ _ _ _ _ _ aloft => ⟨fun _ source other => execPartnerOfferReceived_busy aloft source other,
      fun own strict known same => strict ▸ execPartnerOfferReceived_sameFeed aloft own known same,
      fun source strict => strict ▸ execPartnerOfferReceived_new aloft source,
      fun source strict => strict ▸ execPartnerOfferReceived_again aloft source⟩⟩

end Sys2Proof.Laws
end
